-- ==== Sys2Proof/Word.lean ====
section
/-!
DEFINITION. Words of the X12: the widths the manual gives, and nothing else.
-/

namespace Sys2Proof

/-- A byte of any memory. -/
abbrev Byte := BitVec 8
/-- A halfword, the unit of code addresses (R199). -/
abbrev Half := BitVec 16
/-- A 32-bit instruction, trailing or data word. -/
abbrev W32 := BitVec 32
/-- A 64-bit word. -/
abbrev W64 := BitVec 64

/-- A finite table keyed by a number: pairs with strictly rising keys; a key that is not listed has a default. -/
abbrev SMap (β : Type) := List (Nat × β)

end Sys2Proof
end

