-- ==== Sys2Proof/Syntax.lean ====
section
/-!
DEFINITION. The abstract syntax: one constructor of `Instr` per row of the spec's table of operations and events.

Encodable rows carry the fields of their instruction words (R199 to R209): `o` is the ring slot offset, `a b c d e`
are handle fields, `n` is the sense bit `sn`, `g` the guard slot, `f` an offset field, `i` an immediate. Rows without an
encoding are the device's events; their arguments are what the outside world or the order of agents chooses (which
packet of the network is delivered, which core's dispatch hardware acts, the bytes of a host write).
-/

namespace Sys2Proof

/-- What a register write without a row of its own names: a special register of R198, or a register of the core's
management window (R360). -/
inductive RegTarget where
  | special (num : BitVec 12)
  | wdog
  | port (entry : Nat)
  deriving DecidableEq, Repr

/-- An item of a slot that the debugger reads or writes (R402). -/
inductive DbgItem where
  | window (off len : Nat)
  | desc (h : Nat)
  | guard (g : Nat)
  | special (num : BitVec 12)
  deriving DecidableEq, Repr

/-- The device (R383) and the engine of it that a packet of the fabric comes from. -/
structure Sender where
  dev : Nat
  engine : Nat
  deriving DecidableEq, Repr

/-- What a host read addresses: context 0's far space (R357) or the function's BAR0 (R345). -/
inductive HostAddr where
  | far (va : Nat)
  | bar0 (off : Nat)
  deriving DecidableEq, Repr

/-- The address a host read names, within its space. -/
def HostAddr.offset : HostAddr → Nat
  | .far va => va
  | .bar0 off => off

/-- The instructions and events of the X12. -/
inductive Instr where
  /-- `MOV` (R200): Short-form move d = s, optionally advancing the source ring. -/
  | movShort (a : Bool) (s d : BitVec 5)
  /-- `ADD` (R200): Short-form d = d + s. -/
  | addShort (a : Bool) (s d : BitVec 5)
  /-- `SUB` (R200): Short-form d = d - s. -/
  | subShort (a : Bool) (s d : BitVec 5)
  /-- `RSUB` (R200): Short-form d = s - d. -/
  | rsubShort (a : Bool) (s d : BitVec 5)
  /-- `MUL` (R200): Short-form d = d x s. -/
  | mulShort (a : Bool) (s d : BitVec 5)
  /-- `MIN` (R200): Short-form d = min(d, s). -/
  | minShort (a : Bool) (s d : BitVec 5)
  /-- `MAX` (R200): Short-form d = max(d, s). -/
  | maxShort (a : Bool) (s d : BitVec 5)
  /-- `AND` (R200): Short-form d = d AND s. -/
  | andShort (a : Bool) (s d : BitVec 5)
  /-- `OR` (R200): Short-form d = d OR s. -/
  | orShort (a : Bool) (s d : BitVec 5)
  /-- `XOR` (R200): Short-form d = d XOR s. -/
  | xorShort (a : Bool) (s d : BitVec 5)
  /-- `ANDN` (R200): Short-form d = d AND NOT s. -/
  | andnShort (a : Bool) (s d : BitVec 5)
  /-- `SHL` (R200): Short-form shift left. -/
  | shlShort (a : Bool) (s d : BitVec 5)
  /-- `SHR` (R200): Short-form logical shift right. -/
  | shrShort (a : Bool) (s d : BitVec 5)
  /-- `SAR` (R200): Short-form arithmetic shift right. -/
  | sarShort (a : Bool) (s d : BitVec 5)
  /-- `NEG` (R200): Short-form d = -s. -/
  | negShort (a : Bool) (s d : BitVec 5)
  /-- `ABS` (R200): Short-form d = |s|. -/
  | absShort (a : Bool) (s d : BitVec 5)
  /-- `MOV` (R228): Form T move with value fitting or raw bits. -/
  | mov (o : BitVec 2) (a d : BitVec 6)
  /-- `ADD` (R226): d = a + b. -/
  | add (o : BitVec 2) (b a d : BitVec 6)
  /-- `SUB` (R226): d = a - b. -/
  | sub (o : BitVec 2) (b a d : BitVec 6)
  /-- `RSUB` (R226): d = b - a. -/
  | rsub (o : BitVec 2) (b a d : BitVec 6)
  /-- `MUL` (R226): d = a x b. -/
  | mul (o : BitVec 2) (b a d : BitVec 6)
  /-- `MULH` (R229): High half of the exact integer product. -/
  | mulh (o : BitVec 2) (b a d : BitVec 6)
  /-- `DIV` (R96): Division with defined results for zero divisors. -/
  | div (o : BitVec 2) (b a d : BitVec 6)
  /-- `REM` (R229): Remainder of a / b. -/
  | rem (o : BitVec 2) (b a d : BitVec 6)
  /-- `MIN` (R101): Smaller of a and b. -/
  | min (o : BitVec 2) (b a d : BitVec 6)
  /-- `MAX` (R101): Larger of a and b. -/
  | max (o : BitVec 2) (b a d : BitVec 6)
  /-- `ABS` (R226): d = |a|. -/
  | abs (o : BitVec 2) (a d : BitVec 6)
  /-- `NEG` (R226): d = -a. -/
  | neg (o : BitVec 2) (a d : BitVec 6)
  /-- `CLAMP` (R229): a limited to the two bounds held in b. -/
  | clamp (o : BitVec 2) (b a d : BitVec 6)
  /-- `ABD` (R229): Absolute difference, fitted once. -/
  | abd (o : BitVec 2) (b a d : BitVec 6)
  /-- `AVG` (R229): Mean of a and b. -/
  | avg (o : BitVec 2) (b a d : BitVec 6)
  /-- `ADDS` (R229): Always-saturating addition. -/
  | adds (o : BitVec 2) (b a d : BitVec 6)
  /-- `SUBS` (R229): Always-saturating subtraction. -/
  | subs (o : BitVec 2) (b a d : BitVec 6)
  /-- `AND` (R226): Bitwise AND. -/
  | and (o : BitVec 2) (b a d : BitVec 6)
  /-- `OR` (R226): Bitwise OR. -/
  | or (o : BitVec 2) (b a d : BitVec 6)
  /-- `XOR` (R226): Bitwise XOR. -/
  | xor (o : BitVec 2) (b a d : BitVec 6)
  /-- `ANDN` (R226): a AND NOT b. -/
  | andn (o : BitVec 2) (b a d : BitVec 6)
  /-- `NOT` (R226): Bitwise NOT a. -/
  | not (o : BitVec 2) (a d : BitVec 6)
  /-- `SHL` (R229): Shift left by b modulo w. -/
  | shl (o : BitVec 2) (b a d : BitVec 6)
  /-- `SHR` (R229): Logical shift right by b modulo w. -/
  | shr (o : BitVec 2) (b a d : BitVec 6)
  /-- `SAR` (R229): Arithmetic shift right by b modulo w. -/
  | sar (o : BitVec 2) (b a d : BitVec 6)
  /-- `ROL` (R229): Rotate left. -/
  | rol (o : BitVec 2) (b a d : BitVec 6)
  /-- `ROR` (R229): Rotate right. -/
  | ror (o : BitVec 2) (b a d : BitVec 6)
  /-- `CLZ` (R229): Count leading zero bits. -/
  | clz (o : BitVec 2) (a d : BitVec 6)
  /-- `CTZ` (R229): Count trailing zero bits. -/
  | ctz (o : BitVec 2) (a d : BitVec 6)
  /-- `POPC` (R226): Count one bits. -/
  | popc (o : BitVec 2) (a d : BitVec 6)
  /-- `BREV` (R226): Reverse bit order. -/
  | brev (o : BitVec 2) (a d : BitVec 6)
  /-- `BFX` (R229): Bit-field extract. -/
  | bfx (o : BitVec 2) (b a d : BitVec 6)
  /-- `BFI` (R229): Bit-field insert into d. -/
  | bfi (o : BitVec 2) (b a d : BitVec 6)
  /-- `SXT` (R229): Sign-extend the low b bits of a. -/
  | sxt (o : BitVec 2) (b a d : BitVec 6)
  /-- `ZXT` (R229): Zero-extend the low b bits of a. -/
  | zxt (o : BitVec 2) (b a d : BitVec 6)
  /-- `CVT` (R109): Conversion between types and classes. -/
  | cvt (o : BitVec 2) (a d : BitVec 6)
  /-- `CVTS` (R230): Scaled conversion a x 2^e. -/
  | cvts (o : BitVec 2) (b a d : BitVec 6)
  /-- `RCP` (R102): Reciprocal, correctly rounded. -/
  | rcp (o : BitVec 2) (a d : BitVec 6)
  /-- `RSQ` (R102): Reciprocal square root, faithfully rounded. -/
  | rsq (o : BitVec 2) (a d : BitVec 6)
  /-- `SQRT` (R102): Square root, correctly rounded. -/
  | sqrt (o : BitVec 2) (a d : BitVec 6)
  /-- `EXP2` (R102): 2^a, faithfully rounded. -/
  | exp2 (o : BitVec 2) (a d : BitVec 6)
  /-- `LOG2` (R102): log2 a, faithfully rounded. -/
  | log2 (o : BitVec 2) (a d : BitVec 6)
  /-- `FLOOR` (R227): Largest integral value not above a. -/
  | floor (o : BitVec 2) (a d : BitVec 6)
  /-- `CEIL` (R227): Smallest integral value not below a. -/
  | ceil (o : BitVec 2) (a d : BitVec 6)
  /-- `RNDN` (R227): Nearest integral value, ties to even. -/
  | rndn (o : BitVec 2) (a d : BitVec 6)
  /-- `FMA` (R231): a x b + c, rounded once. -/
  | fma (c b a d : BitVec 6)
  /-- `FNMA` (R231): -(a x b) + c, rounded once. -/
  | fnma (c b a d : BitVec 6)
  /-- `FMS` (R231): a x b - c, rounded once. -/
  | fms (c b a d : BitVec 6)
  /-- `FNMS` (R231): -(a x b) - c, rounded once. -/
  | fnms (c b a d : BitVec 6)
  /-- `ADDI` (R204): Add a signed 13-bit immediate. -/
  | addi (i : BitVec 13) (a d : BitVec 6)
  /-- `ANDI` (R204): AND with a sign-extended immediate. -/
  | andi (i : BitVec 13) (a d : BitVec 6)
  /-- `ORI` (R204): OR with a sign-extended immediate. -/
  | ori (i : BitVec 13) (a d : BitVec 6)
  /-- `XORI` (R204): XOR with a sign-extended immediate. -/
  | xori (i : BitVec 13) (a d : BitVec 6)
  /-- `SHLI` (R204): Shift left by an immediate modulo w. -/
  | shli (i : BitVec 13) (a d : BitVec 6)
  /-- `SHRI` (R204): Logical shift right by an immediate. -/
  | shri (i : BitVec 13) (a d : BitVec 6)
  /-- `SARI` (R204): Arithmetic shift right by an immediate. -/
  | sari (i : BitVec 13) (a d : BitVec 6)
  /-- `MOVI` (R232): Write an immediate fitted to the destination. -/
  | movi (i : BitVec 13) (d : BitVec 6)
  /-- `LI` (R233): Write a 32-bit literal as bits. -/
  | li (d : BitVec 6) (lit : BitVec 32)
  /-- `NEAR` (R234): Write the near address of the own slice plus a literal. -/
  | near (d : BitVec 6) (lit : BitVec 32)
  /-- `SPWN` (R30): Create a child firing on a target core with copied window bytes, held until commit. -/
  | spwn (b a d : BitVec 6) (lit : BitVec 32)
  /-- `LEA` (R235): Add to the offset of a near address, keeping the core field. -/
  | lea (o : BitVec 2) (b a d : BitVec 6)
  /-- `ADDA` (R235): Step a near address across slices in logical-core order. -/
  | adda (o : BitVec 2) (b a d : BitVec 6)
  /-- `LCORE` (R235): Logical core number from x and y. -/
  | lcore (o : BitVec 2) (a d : BitVec 6)
  /-- `CMP.cond` (R237): Compare element 0 and set a guard slot. -/
  | cmp (c : BitVec 3) (o : BitVec 2) (b a d : BitVec 6)
  /-- `CMPM.cond` (R237): Compare lanes and set a guard lane mask. -/
  | cmpm (c : BitVec 3) (o : BitVec 2) (b a d : BitVec 6)
  /-- `GAND` (R238): AND of two guard masks. -/
  | gand (b a d : BitVec 6)
  /-- `GOR` (R238): OR of two guard masks. -/
  | gor (b a d : BitVec 6)
  /-- `GXOR` (R238): XOR of two guard masks. -/
  | gxor (b a d : BitVec 6)
  /-- `GNOT` (R238): NOT of a guard mask. -/
  | gnot (a d : BitVec 6)
  /-- `GMOV` (R238): Guard mask from bits 15:0 of a handle. -/
  | gmov (o : BitVec 2) (a d : BitVec 6)
  /-- `ST.x` (R285): Store 1 to 8 bytes to a near address, guarded. -/
  | st (s : BitVec 2) (b a f : BitVec 6) (n : Bool) (g : BitVec 3)
  /-- `STS` (R286): Store 16 elements to a skewed tile by row or column. -/
  | sts (m : Bool) (b a f : BitVec 6) (n : Bool) (g : BitVec 3)
  /-- `SEL` (R239): Choose a or b by a guard value. -/
  | sel (b a d : BitVec 6) (n : Bool) (g : BitVec 3)
  /-- `SELM` (R239): Choose lanes of a or b by a guard mask. -/
  | selm (b a d : BitVec 6) (n : Bool) (g : BitVec 3)
  /-- `AADD` (R289): Atomic add at the target slice. -/
  | aadd (b a d : BitVec 6) (n : Bool) (g : BitVec 3)
  /-- `AMIN` (R289): Atomic minimum. -/
  | amin (b a d : BitVec 6) (n : Bool) (g : BitVec 3)
  /-- `AMAX` (R289): Atomic maximum. -/
  | amax (b a d : BitVec 6) (n : Bool) (g : BitVec 3)
  /-- `AAND` (R289): Atomic AND. -/
  | aand (b a d : BitVec 6) (n : Bool) (g : BitVec 3)
  /-- `AOR` (R289): Atomic OR. -/
  | aor (b a d : BitVec 6) (n : Bool) (g : BitVec 3)
  /-- `AXOR` (R289): Atomic XOR. -/
  | axor (b a d : BitVec 6) (n : Bool) (g : BitVec 3)
  /-- `ASWP` (R289): Atomic swap. -/
  | aswp (b a d : BitVec 6) (n : Bool) (g : BitVec 3)
  /-- `ACAS` (R289): Atomic compare and swap. -/
  | acas (b a d : BitVec 6) (n : Bool) (g : BitVec 3)
  /-- `AINC` (R289): Atomic wrapping increment. -/
  | ainc (b a d : BitVec 6) (n : Bool) (g : BitVec 3)
  /-- `CPY` (R307): Copy-engine command copying bytes between near and far space. -/
  | cpy (c b a d : BitVec 6) (n : Bool) (g : BitVec 3) (op : BitVec 8)
  /-- `CPYS` (R307): Strided copy-engine copy of rows. -/
  | cpys (c b a d : BitVec 6) (n : Bool) (g : BitVec 3) (op : BitVec 8)
  /-- `GATH` (R307): Gather far elements by index list into near space. -/
  | gath (e c b a d : BitVec 6) (n : Bool) (g : BitVec 3)
  /-- `SCAT` (R307): Scatter near elements to far space by index list. -/
  | scat (e c b a d : BitVec 6) (n : Bool) (g : BitVec 3)
  /-- `FILL` (R307): Fill a range with a 64-bit pattern. -/
  | fill (c b a d : BitVec 6) (n : Bool) (g : BitVec 3) (op : BitVec 8)
  /-- `RED` (R307): Add near elements into memory in arrival order, held until commit. -/
  | red (c b a d : BitVec 6) (n : Bool) (g : BitVec 3) (op : BitVec 8)
  /-- `RATM` (R307): Atomic on a far word, held until commit. -/
  | ratm (e c b a d : BitVec 6) (n : Bool) (g : BitVec 3) (op : BitVec 8)
  /-- `BSIG` (R307): Barrier arrival by the engine after older commands complete. -/
  | bsig (a d : BitVec 6) (n : Bool) (g : BitVec 3)
  /-- `RINV` (R392): Send the closed message across the fabric as an invocation. -/
  | rinv (b a d : BitVec 6) (n : Bool) (g : BitVec 3)
  /-- `WQRY` (R311): Draw the next index of a pitch counter. -/
  | wqryQuery (b a d : BitVec 6) (n : Bool) (g : BitVec 3)
  /-- `WQRY` (R311): Add rows to a pitch counter's Y and bind as feeder. -/
  | wqryExtend (b a d : BitVec 6) (n : Bool) (g : BitVec 3)
  /-- `BR` (R240): Guarded relative branch with likely bit. -/
  | br (f : BitVec 20) (k n : Bool) (g : BitVec 3)
  /-- `BRL` (R240): Guarded branch writing the link. -/
  | brl (f : BitVec 20) (k n : Bool) (g : BitVec 3)
  /-- `LOOP` (R243): Decrement a counter and branch while nonzero. -/
  | loop (i : BitVec 13) (d : BitVec 6)
  /-- `NOP` (R251): No effect. -/
  | nop
  /-- `END` (R248): End the firing: wait, check rates, commit, drain, settle ports and go idle. -/
  | endFiring
  /-- `TRIG` (R249): Release the launch's trigger object at commit. -/
  | trig
  /-- `HALT` (R250): Retire and halt the firing with cause 0x1. -/
  | halt
  /-- `YLD` (R251): Move the slot last in its round-robin level. -/
  | yld
  /-- `WFE` (R253): Wait for the slot's event register, then clear it. -/
  | wfe
  /-- `SEV` (R253): Set the event registers of the context's slots in the cluster. -/
  | sev
  /-- `EVCLR` (R253): Clear the slot's event register. -/
  | evclr
  /-- `ALGN` (R247): Hold until the cluster's align set catches up or 256 cycles pass. -/
  | algn
  /-- `JR` (R241): Jump to a halfword offset held in a handle. -/
  | jr (o : BitVec 2) (a : BitVec 6)
  /-- `JRL` (R241): Jump and write the link. -/
  | jrl (o : BitVec 2) (a : BitVec 6)
  /-- `RET` (R241): Branch to sys.lnk. -/
  | ret
  /-- `BCST` (R262): Broadcast element 0 to every lane. -/
  | bcst (o : BitVec 2) (a d : BitVec 6)
  /-- `PERM` (R262): Permute lanes by an index vector. -/
  | perm (o : BitVec 2) (b a d : BitVec 6)
  /-- `SHFL` (R262): XOR-shuffle lanes. -/
  | shfl (o : BitVec 2) (b a d : BitVec 6)
  /-- `SLIDE` (R262): Slide lanes by an offset. -/
  | slide (o : BitVec 2) (b a d : BitVec 6)
  /-- `ZIP` (R262): Interleave two vectors. -/
  | zip (o : BitVec 2) (b a d : BitVec 6)
  /-- `UNZP` (R262): De-interleave even or odd lanes. -/
  | unzp (o : BitVec 2) (b a d : BitVec 6)
  /-- `CMPR` (R262): Compress nonzero lanes. -/
  | cmpr (o : BitVec 2) (a d : BitVec 6)
  /-- `EXPD` (R262): Expand lanes under a mask held in d. -/
  | expd (o : BitVec 2) (a d : BitVec 6)
  /-- `REDADD` (R263): Tree sum of lanes into element 0. -/
  | redadd (o : BitVec 2) (a d : BitVec 6)
  /-- `REDMAX` (R263): Greatest lane into element 0. -/
  | redmax (o : BitVec 2) (a d : BitVec 6)
  /-- `REDMIN` (R263): Least lane into element 0. -/
  | redmin (o : BitVec 2) (a d : BitVec 6)
  /-- `SCAN` (R263): Inclusive prefix sum in lane order. -/
  | scan (o : BitVec 2) (a d : BitVec 6)
  /-- `DOT4` (R263): Four-term dot product accumulated per lane. -/
  | dot4 (o : BitVec 2) (b a d : BitVec 6)
  /-- `DOT2` (R263): Two-term dot product accumulated per lane. -/
  | dot2 (o : BitVec 2) (b a d : BitVec 6)
  /-- `VIEW` (R266): Copy a descriptor with a moved base. -/
  | view (o : BitVec 2) (b a d : BitVec 6)
  /-- `VGET` (R266): Read a descriptor as 16 bytes. -/
  | vget (o : BitVec 2) (a d : BitVec 6)
  /-- `VSET` (R266): Write a descriptor from 16 bytes. -/
  | vset (o : BitVec 2) (a d : BitVec 6)
  /-- `RFIL` (R267): Read a ring's or fixed port's fill. -/
  | rfil (o : BitVec 2) (a d : BitVec 6)
  /-- `REPX` (R274): Issue the captured repetition body again. -/
  | repx
  /-- `ADVR` (R269): Advance a ring's read pointer by n. -/
  | advr (n : BitVec 13) (d : BitVec 6)
  /-- `ADVW` (R269): Advance a ring's write pointer by n. -/
  | advw (n : BitVec 13) (d : BitVec 6)
  /-- `REPB` (R272): Capture a body and issue it count times over staggered handles. -/
  | repb (s : BitVec 13) (c n : BitVec 6)
  /-- `LD.x` (R284): Load 1 to 8 bytes from a near address as raw bits. -/
  | ld (s o : BitVec 2) (f a d : BitVec 6)
  /-- `LDS` (R286): Load 16 elements from a skewed tile by row or column. -/
  | lds (m : Bool) (o : BitVec 2) (f a d : BitVec 6)
  /-- `FENCE.c` (R166): Wait for older near accesses to the cluster's slices. -/
  | fenceC
  /-- `FENCE.d` (R166): Wait for older near accesses to the die's slices. -/
  | fenceD
  /-- `FENCE.p` (R166): Wait for every older near access. -/
  | fenceP
  /-- `FENCE.f` (R166): Wait for near accesses and tokens of older engine commands. -/
  | fenceF
  /-- `BIND` (R160): Bind a region to a lock; blocking until applied everywhere. -/
  | bind (o : BitVec 2) (b a : BitVec 6)
  /-- `UNBD` (R160): Remove a binding, releasing the lock if held. -/
  | unbd (o : BitVec 2) (b a : BitVec 6)
  /-- `ACQ` (R294): Acquire a region lock, waiting for the grant. -/
  | acq (o : BitVec 2) (a : BitVec 6)
  /-- `REL` (R294): Release a held region lock. -/
  | rel (o : BitVec 2) (a : BitVec 6)
  /-- `TRYA` (R294): Try to acquire a lock and report the outcome. -/
  | trya (o : BitVec 2) (a d : BitVec 6)
  /-- `BAR` (R294): Arrive at a barrier and wait for its phase to change. -/
  | bar (o : BitVec 2) (a : BitVec 6)
  /-- `BARA` (R294): Arrive at a barrier. -/
  | bara (o : BitVec 2) (a : BitVec 6)
  /-- `BARW` (R294): Wait for a barrier phase change. -/
  | barw (o : BitVec 2) (a : BitVec 6)
  /-- `SEMP` (R294): Post to a semaphore. -/
  | semp (o : BitVec 2) (b a : BitVec 6)
  /-- `SEMW` (R294): Wait on a semaphore count and deduct it. -/
  | semw (o : BitVec 2) (b a : BitVec 6)
  /-- `OBJQ` (R294): Query an object's state. -/
  | objq (o : BitVec 2) (a d : BitVec 6)
  /-- `SEND` (R300): Close out.msg and send it as a message or reply. -/
  | send (o : BitVec 2) (b a d : BitVec 6)
  /-- `SENDI` (R300): Close out.msg and send it as an invocation. -/
  | sendi (o : BitVec 2) (b a d : BitVec 6)
  /-- `MSGQ` (R304): Read a queue or reply-entry count. -/
  | msgq (o : BitVec 2) (a d : BitVec 6)
  /-- `CEQ` (R304): Read an engine queue or pending-view count. -/
  | ceq (o : BitVec 2) (a d : BitVec 6)
  /-- `FLD.x` (R313): Engine load from far space. -/
  | fld (s o : BitVec 2) (f a d : BitVec 6)
  /-- `FST.x` (R313): Engine store to far space. -/
  | fst (s o : BitVec 2) (b a f : BitVec 6)
  /-- `FATM.add` (R313): Engine far atomic add. -/
  | fatmAdd (o : BitVec 2) (b a d : BitVec 6)
  /-- `FATM.min` (R313): Engine far atomic minimum. -/
  | fatmMin (o : BitVec 2) (b a d : BitVec 6)
  /-- `FATM.max` (R313): Engine far atomic maximum. -/
  | fatmMax (o : BitVec 2) (b a d : BitVec 6)
  /-- `FATM.and` (R313): Engine far atomic AND. -/
  | fatmAnd (o : BitVec 2) (b a d : BitVec 6)
  /-- `FATM.or` (R313): Engine far atomic OR. -/
  | fatmOr (o : BitVec 2) (b a d : BitVec 6)
  /-- `FATM.xor` (R313): Engine far atomic XOR. -/
  | fatmXor (o : BitVec 2) (b a d : BitVec 6)
  /-- `FATM.swp` (R313): Engine far atomic swap. -/
  | fatmSwp (o : BitVec 2) (b a d : BitVec 6)
  /-- `FATM.cas` (R313): Engine far atomic compare and swap. -/
  | fatmCas (o : BitVec 2) (b a d : BitVec 6)
  /-- `FATM.inc` (R313): Engine far atomic increment. -/
  | fatmInc (o : BitVec 2) (b a d : BitVec 6)
  /-- `FXM` (R314): Engine sends one message or object operation to a peer. -/
  | fxm (o : BitVec 2) (b a d : BitVec 6)
  /-- `FMRK` (R314): Engine sends flush markers to a peer and clears its mask. -/
  | fmrk (o : BitVec 2) (a : BitVec 6)
  /-- `CEND` (R315): Engine store-releases the command's token and ends it. -/
  | cend (o : BitVec 2) (a : BitVec 6)
  /-- `MLW` (R118): Latch a weight tile into the shadow tile. -/
  | mlw (o : BitVec 2) (b a : BitVec 6)
  /-- `MLW.c` (R118): Latch a weight tile from cl.op rows. -/
  | mlwC (o : BitVec 2) (b a : BitVec 6)
  /-- `MFMT` (R120): Set the activation format word. -/
  | mfmt (o : BitVec 2) (a : BitVec 6)
  /-- `MMA` (R121): Stream activation rows through the array into an accumulator. -/
  | mma (o : BitVec 2) (a d : BitVec 6)
  /-- `MSC` (R123): Multicast rows on the cluster operand network. -/
  | msc (o : BitVec 2) (b a : BitVec 6)
  /-- `MDR` (R130): Drain accumulator rows into mx.res. -/
  | mdr (o : BitVec 2) (a : BitVec 6)
  /-- `MDR.z` (R130): Drain accumulator rows and zero them. -/
  | mdrZ (o : BitVec 2) (a : BitVec 6)
  /-- `MDRP` (R131): Add accumulator rows into another core's register space at commit. -/
  | mdrp (o : BitVec 2) (b a d : BitVec 6)
  /-- `MCLR` (R129): Clear an accumulator to +0. -/
  | mclr (o : BitVec 2) (d : BitVec 6)
  /-- `MSTA` (R132): Read mx.stat and clear ovf. -/
  | msta (o : BitVec 2) (d : BitVec 6)
  /-- `CMPS` (R137): Bind an aligned group of cluster cores into a scrum. -/
  | cmps (k : BitVec 2)
  /-- `DCMP` (R148): Hand back a scrum's granules and continue as one core. -/
  | dcmp
  /-- `CMPQ` (R139): Read the scrum composition word. -/
  | cmpq (o : BitVec 2) (d : BitVec 6)
  /-- `TRAP` (R319): Take the software trap with an operand. -/
  | trap (o : BitVec 2) (a : BitVec 6)
  /-- `SYS` (R320): Send a request to the management core and wait for its answer. -/
  | sys (o : BitVec 2) (a : BitVec 6)
  /-- `ERET` (R319): Clear trap-active and continue at resume. -/
  | eret
  /-- `SVS` (R321): Save a stopped slot to a save area. -/
  | svs (o : BitVec 2) (a : BitVec 6)
  /-- `RSS` (R321): Restore a stopped slot from a save area. -/
  | rss (o : BitVec 2) (a : BitVec 6)
  /-- `TS` (R322): Read the package clock after older instructions retire. -/
  | ts (o : BitVec 2) (d : BitVec 6)
  /-- `PMC` (R323): Read and optionally reset a performance counter. -/
  | pmc (o : BitVec 2) (a d : BitVec 6)
  /-- `BIST` (R426): Start a self-test under a token; commits the firing. -/
  | bist (o : BitVec 2) (a d : BitVec 6)
  /-- `SIGQ` (R324): Read the umpire's signature entry for a block. -/
  | sigq (o : BitVec 2) (a d : BitVec 6)
  /-- `CKPT` (R325): Commit the firing. -/
  | ckpt
  /-- `IDLE` (R325): Wait for an event, letting the core stop engine clocks. -/
  | idle
  /-- `RDS` (R322): Read a special register. -/
  | rds (r : BitVec 12) (d : BitVec 6)
  /-- `WRS` (R322): Write a special register. -/
  | wrs (r : BitVec 12) (a : BitVec 6)
  /-- `NOP.h` (R219): Hint space, executes as NOP. -/
  | nopH (h : BitVec 3) (x : BitVec 20)
  /-- `RS_PWR_WRITE` (R52): Write of bank power states, field by field. -/
  | rsPwrWrite (core : Nat) (v : BitVec 32)
  /-- `MX_TEAM_WRITE` (R125): Write of the team word, waiting for the array and resetting the epoch. -/
  | mxTeamWrite (core slot : Nat) (v : BitVec 32)
  /-- `MG_V_WRITE` (R428): Write of a rail margin, clamping and starting the rail's move. -/
  | mgVWrite (core rail : Nat) (v : BitVec 32)
  /-- `REGISTER_WRITE` (R198): Write to a register that has no row of its own. -/
  | registerWrite (core slot : Nat) (t : RegTarget) (v : BitVec 128)
  /-- `DISPATCH` (R14): Dispatch hardware fires a ready slot and claims its slots and message. -/
  | dispatch (core pick : Nat)
  /-- `MESSAGE_ARRIVAL` (R34): A message, invocation, reply or spawn arrives at a network interface and is filed, spilled or rejected. -/
  | messageArrival (k : Nat)
  /-- `TOKEN_LANDING` (R69): A token value lands, clearing its pending mark. -/
  | tokenLanding (k : Nat)
  /-- `REMOTE_LOAD_REPLY` (R66): The reply of a remote load lands its bytes. -/
  | remoteLoadReply (k : Nat)
  /-- `NEAR_REQUEST` (R66): A remote near load or store is served at the target slice. -/
  | nearRequest (k : Nat)
  /-- `REMOTE_ATOMIC` (R289): An atomic performs indivisibly at its target slice. -/
  | remoteAtomic (k : Nat)
  /-- `OBJECT_OPERATION` (R294): An object operation is applied at its home network interface. -/
  | objectOperation (k : Nat)
  /-- `WITHHOLD_NOTICE` (R78): A withhold notice reaches an object and raises its count. -/
  | withholdNotice (k : Nat)
  /-- `KEEPER_POST` (R127): A member's scale post with its epoch reaches the keeper. -/
  | keeperPost (k : Nat)
  /-- `KEEPER_SUM_ROW` (R127): The keeper forms and broadcasts a sum row for an activation row. -/
  | keeperSumRow (core : Nat)
  /-- `CL_OP_ROW` (R124): A multicast row arrives in a member's cl.op. -/
  | clOpRow (k : Nat)
  /-- `MDRP_ADD` (R131): Arriving accumulator rows are added at the target core. -/
  | mdrpAdd (k : Nat)
  /-- `ENGINE_COMMAND_START` (R306): A queued command reaches the engine head and its record is handed to microcode. -/
  | engineCommandStart (cluster : Nat)
  /-- `TRANSLATION_WALK` (R374): A page-table walk completes or faults. -/
  | translationWalk (cluster ctx va : Nat) (write : Bool)
  /-- `FLUSH_MARKER` (R173): A flush marker arrives and may let a held far release apply. -/
  | flushMarker (cluster : Nat) (src : Sender) (plane cls seq : Nat)
  /-- `FABRIC_REQUEST` (R382): A fabric request packet arrives at the destination device. -/
  | fabricRequest (cluster plane : Nat) (hdr : BitVec 128) (payload : List (BitVec 8))
  /-- `FABRIC_REPLY` (R386): A fabric reply arrives and is accepted or discarded as stale. -/
  | fabricReply (cluster : Nat) (hdr : BitVec 128) (payload : List (BitVec 8))
  /-- `LOSS_NOTICE` (R174): An MGMT notice of a lost plane arrives and releases held releases. -/
  | lossNotice (cluster sdev plane : Nat)
  /-- `REQUESTER_TIME_OUT` (R386): A fabric request times out, advancing its tag generation. -/
  | requesterTimeOut (cluster tag : Nat)
  /-- `TAG_HOLD_EXPIRY` (R387): A tag held for 65,536 cycles becomes usable again. -/
  | tagHoldExpiry (cluster tag : Nat)
  /-- `FLIT_DISCARD` (R387): A link interface discards a flit held 65,536 cycles. -/
  | flitDiscard (n : Nat)
  /-- `LINK_ERROR_RATE_CHANGE` (R389): A link's retry need changes, shedding or restoring classes or leaving the plane set. -/
  | linkErrorRateChange (plane peer q : Nat)
  /-- `TRAP_MESSAGE` (R372): A trap message reaches the backstop and becomes a fault record. -/
  | trapMessage (k : Nat)
  /-- `DEPENDENT_LAUNCH_START` (R41): A launch waiting on a trigger begins once the trigger is released. -/
  | dependentLaunchStart (l : Nat)
  /-- `COMPOSE_GRANT` (R138): The compose arbiter claims all members' slot 0 and starts the scrum. -/
  | composeGrant (core : Nat)
  /-- `PREEMPTION` (R366): A running firing is stopped, saved and its claimed items spilled. -/
  | preemption (core slot : Nat)
  /-- `RESUME` (R368): A pre-empted firing is restored and resumes on its slot. -/
  | resume (core slot : Nat)
  /-- `ROLLBACK` (R281): A restartable firing that consumed an uncorrectable error is undone and redelivered. -/
  | rollback (core slot : Nat)
  /-- `TIME_SLICE_EXPIRY` (R365): A firing's slice expires and a waiting claimant pre-empts it. -/
  | timeSliceExpiry (core slot : Nat)
  /-- `WAIT_TIME_OUT` (R295): An object wait's time-out expires and traps. -/
  | waitTimeOut (core slot : Nat)
  /-- `COMPOSE_WAIT_BOUND` (R137): A CMPS wait exceeds its compose bound and traps. -/
  | composeWaitBound (core : Nat)
  /-- `ALGN_HOLD_EXPIRY` (R247): ALGN stops holding after 256 cycles. -/
  | algnHoldExpiry (core slot : Nat)
  /-- `DEADLINE_MISS` (R82): The clock passes a deadline and a deadline record is sent. -/
  | deadlineMiss (core slot : Nat)
  /-- `WATCHDOG_TRIP` (R378): The watchdog count reaches its threshold and the core is fenced. -/
  | watchdogTrip (core : Nat)
  /-- `BENCH_REMAP` (R378): The copy to the spare completes and the die table names the spare. -/
  | benchRemap (core : Nat)
  /-- `WINDOW_ZEROED` (R50): Zeroing of a newly bound window ends and the slot becomes dispatchable. -/
  | windowZeroed (core slot : Nat)
  /-- `BANK_READY` (R52): A bank switched on becomes ready 200 cycles after the write. -/
  | bankReady (core bank : Nat)
  /-- `RETENTION_WAKE` (R53): A bank in retention wakes after 40 cycles and reads on. -/
  | retentionWake (core bank : Nat)
  /-- `BIND_COMPLETE` (R160): Every interface and engine of the context applies a binding and BIND retires. -/
  | bindComplete (core slot : Nat)
  /-- `UMPIRE_CHECK` (R420): The umpire's check of a completed block arrives. -/
  | umpireCheck (core slot : Nat) (dsig ssig : BitVec 16)
  /-- `BIST_COMPLETE` (R427): A self-test ends, landing its token and writing bi.res. -/
  | bistComplete (core : Nat) (fail : Bool) (first : BitVec 24)
  /-- `RAIL_SETTLED` (R428): A margined rail reaches its target. -/
  | railSettled (die rail : Nat)
  /-- `SET_ROTATION` (R408): The counter rotation period expires and the next event set activates. -/
  | setRotation (core : Nat)
  /-- `PC_SAMPLE` (R404): A sample tick writes program-counter samples to the trace buffer. -/
  | pcSample (ctx : Nat) (cores : List Nat)
  /-- `TEMPERATURE_UPDATE` (R425): mg.temp is updated every 65,536 cycles. -/
  | temperatureUpdate (die : Nat) (temp : BitVec 16)
  /-- `SNAPSHOT_TRIGGER` (R410): At clock T every block latches its snapshot bytes. -/
  | snapshotTrigger
  /-- `LOOPBACK_START` (R394): A write of lbk starts a loopback run on a plane. -/
  | loopbackStart (plane : Nat) (len : BitVec 16)
  /-- `PLANE_OUT` (R394): A write of out removes or returns a plane at the next far release. -/
  | planeOut (plane : Nat) (out : Bool)
  /-- `LOOPBACK_DONE` (R394): A loopback run ends and pl.lb reports errors. -/
  | loopbackDone (plane : Nat) (errs : Nat)
  /-- `BIND_RECORD_WRITE` (R362): Ouva writes a slot's bind record, refused if the slot is busy. -/
  | bindRecordWrite (core slot : Nat) (rec : BitVec 256)
  /-- `PREEMPTION_REQUEST` (R366): A write to preq requests pre-emption of a slot. -/
  | preemptionRequest (core slot : Nat)
  /-- `FENCE_WRITE` (R378): A write of 1 to fence fences the core. -/
  | fenceWrite (core : Nat)
  /-- `INBOX_WRITE` (R348): A 64-byte host write to the inbox page submits one message or launch. -/
  | inboxWrite (fn off : Nat) (bytes : List (BitVec 8))
  /-- `STATUS_FREE` (R351): The host writes 0x0 to a status entry's st to free it. -/
  | statusFree (fn slot : Nat)
  /-- `CREATE` (R346): Mailbox command 0x01 creates a context. -/
  | create (fn ctx : Nat) (debuggable poisonFwd : Bool) (sup mbase msize root obase osize tbase tsize : Nat)
  /-- `LOAD_IMAGE` (R330): Mailbox command 0x02 loads and checks an object image. -/
  | loadImage (fn ctx va len : Nat) (cores : List Nat)
  /-- `REPORT` (R356): Mailbox command 0x03 writes a signed attestation report. -/
  | report (fn ctx : Nat) (nonce : BitVec 256) (va : Nat)
  /-- `DESTROY` (R346): Mailbox command 0x04 destroys a context and erases its key. -/
  | destroy (fn ctx : Nat)
  /-- `INVALIDATE` (R377): Mailbox command 0x05 drops translations of a range. -/
  | invalidate (fn ctx va len : Nat)
  /-- `FABRIC_REGISTER_READ` (R393): Mailbox command 0x06 reads a fabric register. -/
  | fabricRegisterRead (fn off : Nat)
  /-- `FABRIC_REGISTER_WRITE` (R393): Mailbox command 0x07 writes a fabric register. -/
  | fabricRegisterWrite (fn off : Nat) (v : BitVec 32)
  /-- `PEER_TABLE_WRITE` (R393): Mailbox command 0x08 writes a peer-table entry. -/
  | peerTableWrite (fn ctx i : Nat) (v : Bool) (pctx : BitVec 8)
  /-- `DEBUG_HALT` (R74): Debug command 0x09 halts a firing at its next boundary. -/
  | debugHalt (fn ctx core slot : Nat)
  /-- `DEBUG_RELEASE` (R84): Debug command 0x0A resumes or abandons a root halt. -/
  | debugRelease (fn ctx : Nat) (hid : BitVec 16) (act : Nat)
  /-- `READ_STATE` (R402): Debug command 0x0B reads an item of a slot. -/
  | readState (fn ctx core slot : Nat) (item : DbgItem)
  /-- `WRITE_STATE` (R403): Debug command 0x0C writes an item of a halted slot, queuing behind pending marks. -/
  | writeState (fn ctx core slot : Nat) (item : DbgItem) (bytes : List (BitVec 8))
  /-- `TRACE_CONTROL` (R404): Debug command 0x0D sets the trace control word. -/
  | traceControl (fn ctx : Nat) (word : BitVec 32)
  /-- `WATCHPOINT` (R411): Debug command 0x0E sets a watchpoint. -/
  | watchpoint (fn ctx idx : Nat) (far : Bool) (addr : Nat) (mask : BitVec 64) (action : Nat)
  /-- `SNAPSHOT_ARM` (R410): Command 0x0F with argument 0 arms a snapshot trigger. -/
  | snapshotArm (fn : Nat) (t : BitVec 64)
  /-- `SNAPSHOT_READ` (R410): Command 0x0F with argument 1 reads 64 snapshot bytes. -/
  | snapshotRead (fn block off : Nat)
  /-- `ERROR_LOG_READ` (R424): Mailbox command 0x10 reads an error record. -/
  | errorLogRead (fn i : Nat)
  /-- `DEFECT_MAP_READ` (R429): Mailbox command 0x11 reads the fused defect map. -/
  | defectMapRead (fn : Nat)
  /-- `RELIABILITY_REGISTER_READ` (R425): Mailbox command 0x12 reads a reliability register of a core. -/
  | reliabilityRegisterRead (fn core num : Nat)
  /-- `RELIABILITY_REGISTER_WRITE` (R425): Mailbox command 0x13 writes a reliability register of a core. -/
  | reliabilityRegisterWrite (fn core num : Nat) (v : BitVec 32)
  /-- `SYS_RELEASE` (R320): The management core serves a SYS release request and answers. -/
  | sysRelease (k : Nat)
  /-- `SYS_POST` (R320): The management core posts three words to the supervisor mailbox and answers. -/
  | sysPost (k : Nat)
  /-- `HOST_MEMORY_READ` (R357): A host read of device memory, poisoned data handled by the forwarding flag. -/
  | hostMemoryRead (fn : Nat) (src : HostAddr) (n : Nat)
  /-- `HOST_MEMORY_WRITE` (R357): A host write into device memory, stored poisoned when marked EP. -/
  | hostMemoryWrite (fn va : Nat) (bytes : List (BitVec 8)) (poisoned : Bool)
  /-- `CXL_VIRAL` (R357): CXL viral received fences every context. -/
  | cxlViral
  /-- `POWER_CAP` (R358): A power cap or coolant limit limits the matrix issue rate. -/
  | powerCap (on : Bool)
  /-- `RESET` (R359): Reset zeroes state, loads the defect map and verifies Ouva. -/
  | reset
  /-- `MESSAGE_INJECTION` (R300): A closed message's tail flit is injected onto the mesh and its send-queue entry frees, releasing a SEND, SENDI or SPWN that waits for an entry. -/
  | messageInjection (core : Nat)
  /-- `CLEARING_NOTICE` (R87): A notice that clears a withhold mark reaches an object, lowers its count and lets consumer halts waiting on it resume. -/
  | clearingNotice (k : Nat)
  /-- `PEER_TABLE_HANDSHAKE` (R391): An MGMT peer-table handshake or its absence changes whether a position answers in fab.pod and what pf a peer entry holds. -/
  | peerTableHandshake (pos : Nat) (answers : Bool) (ctx : Nat) (pf : Bool)
  deriving DecidableEq, Repr

end Sys2Proof
end

