-- ==== Sys2Proof/WellFormed.lean ====
section
/-!
DEFINITION. Which instructions are well-formed: the reserved encodings that a field value can make (R196, R197, R198,
R200, R209, R220, R270, R305, R307), each refused by name, and the ranges of an event's arguments.
-/

namespace Sys2Proof

/-- Why an encoding is reserved (R209), or an event's argument is out of range. -/
inductive Reject where
  | truncated        -- fewer halfwords than the instruction has
  | zeroHalfword     -- the halfword 0x0000 (R200)
  | reservedMajor    -- a major the opcode map reserves (R218)
  | reservedWord     -- a reserved minor, or a nonzero field that must be 0 (R209, R218)
  | reservedHandle   -- a handle field naming h56 to h63 (R196)
  | reservedGuard    -- a guard number from 8, or a destination g7 (R197)
  | reservedCount    -- an ADVR or ADVW immediate outside 1 to 256 (R220)
  | reservedRepeat   -- a REPB length above 8 or a stagger outside -47 to 47 (R270)
  | reservedNumber   -- a special register number that is not assigned (R198)
  | reservedLiteral  -- a SPWN literal with a bit of [31:24] set (R220)
  | reservedOption   -- an engine option not listed for the command (R305)
  | eventRange       -- an event argument outside the device
  deriving DecidableEq, Repr

namespace Reject

/-- The first refusal of two checks. -/
def orElse (x y : Option Reject) : Option Reject :=
  match x with
  | some r => some r
  | none => y

/-- R196: handle fields name h0 to h55. -/
def handle (h : BitVec 6) : Option Reject := if h.toNat < 56 then none else some .reservedHandle

/-- R196 for every handle field of a word. -/
def handles (hs : List (BitVec 6)) : Option Reject :=
  if hs.all (fun h => h.toNat < 56) then none else some .reservedHandle

/-- R197: a guard source names g0 to g7. -/
def guardSrc (g : BitVec 6) : Option Reject := if g.toNat < 8 then none else some .reservedGuard

/-- R197: a guard destination names g0 to g6. -/
def guardDst (g : BitVec 6) : Option Reject := if g.toNat < 7 then none else some .reservedGuard

/-- R220: the count of ADVR and ADVW is 1 to 256. -/
def advCount (n : BitVec 13) : Option Reject :=
  if 1 ≤ n.toNat ∧ n.toNat ≤ 256 then none else some .reservedCount

/-- R270: a body is 1 to 8 instructions, so the field is at most 7. -/
def repLen (n : BitVec 6) : Option Reject := if n.toNat < 8 then none else some .reservedRepeat

/-- R270: the stagger is -47 to 47. -/
def stagger (s : BitVec 13) : Option Reject :=
  if -47 ≤ s.toInt ∧ s.toInt ≤ 47 then none else some .reservedRepeat

/-- R198, R407, R425: the assigned special register numbers. -/
def specialAssigned (r : Nat) : Bool :=
  decide (r ≤ 0x00B) || r == 0x010 || (decide (0x020 ≤ r) && decide (r ≤ 0x023)) ||
  (decide (0x040 ≤ r) && decide (r ≤ 0x042)) || r == 0x080 || r == 0x0C0 ||
  (decide (0x100 ≤ r) && decide (r ≤ 0x108)) || (decide (0x110 ≤ r) && decide (r ≤ 0x115)) ||
  (decide (0x200 ≤ r) && decide (r ≤ 0x204)) || (decide (0x208 ≤ r) && decide (r ≤ 0x20A)) ||
  (decide (0x210 ≤ r) && decide (r ≤ 0x215)) || r == 0x220

/-- R198: an unassigned special register number is a reserved encoding. -/
def specialNum (r : BitVec 12) : Option Reject :=
  if specialAssigned r.toNat then none else some .reservedNumber

/-- R220: bits [31:24] of the SPWN literal are 0. -/
def codeLit (l : BitVec 32) : Option Reject := if l.toNat < 2 ^ 24 then none else some .reservedLiteral

/-- R307: CPY and CPYS take options 0 to 3. -/
def copyOp (op : BitVec 8) : Option Reject := if op.toNat ≤ 3 then none else some .reservedOption

/-- R307: FILL takes options 0 and 1. -/
def fillOp (op : BitVec 8) : Option Reject := if op.toNat ≤ 1 then none else some .reservedOption

/-- R307: the element types of RED, with bit 4 the space and bits [7:5] zero. -/
def redOp (op : BitVec 8) : Option Reject :=
  if op.toNat < 32 ∧ op.toNat % 16 ∈ [0x2, 0x3, 0x6, 0x7, 0x8, 0x9, 0xA] then none else some .reservedOption

/-- R307: the operations and types of RATM; the compare operand is a field of cas only. -/
def ratmOp (op : BitVec 8) (e : BitVec 6) : Option Reject :=
  let v := op.toNat / 16
  let t := op.toNat % 16
  if v ≤ 8 ∧ (t ∈ [0x2, 0x3, 0x6, 0x7] ∨ (t = 8 ∧ v ∈ [0, 1, 2, 6, 7])) then
    (if v = 7 ∨ e = 0 then none else some .reservedWord)
  else some .reservedOption

/-- The arguments of an event lie inside the device. -/
def inRange (l : List (Nat × Nat)) : Option Reject :=
  if l.all (fun p => decide (p.1 < p.2)) then none else some .eventRange

end Reject

open Reject in
/-- The first check that refuses an instruction or event, if any. -/
def Instr.wfError : Instr → Option Reject
  | .movShort a s d => if a = false ∧ s = 0 ∧ d = 0 then some .zeroHalfword else none
  | .addShort _ _ _
  | .subShort _ _ _
  | .rsubShort _ _ _
  | .mulShort _ _ _
  | .minShort _ _ _
  | .maxShort _ _ _
  | .andShort _ _ _
  | .orShort _ _ _
  | .xorShort _ _ _
  | .andnShort _ _ _
  | .shlShort _ _ _
  | .shrShort _ _ _
  | .sarShort _ _ _
  | .negShort _ _ _
  | .absShort _ _ _ => none
  | .mov _ a d
  | .abs _ a d
  | .neg _ a d
  | .not _ a d
  | .clz _ a d
  | .ctz _ a d
  | .popc _ a d
  | .brev _ a d
  | .cvt _ a d
  | .rcp _ a d
  | .rsq _ a d
  | .sqrt _ a d
  | .exp2 _ a d
  | .log2 _ a d
  | .floor _ a d
  | .ceil _ a d
  | .rndn _ a d
  | .addi _ a d
  | .andi _ a d
  | .ori _ a d
  | .xori _ a d
  | .shli _ a d
  | .shri _ a d
  | .sari _ a d
  | .lcore _ a d
  | .bsig a d _ _
  | .bcst _ a d
  | .cmpr _ a d
  | .expd _ a d
  | .redadd _ a d
  | .redmax _ a d
  | .redmin _ a d
  | .scan _ a d
  | .vget _ a d
  | .vset _ a d
  | .rfil _ a d
  | .ld _ _ _ a d
  | .lds _ _ _ a d
  | .trya _ a d
  | .objq _ a d
  | .msgq _ a d
  | .ceq _ a d
  | .fld _ _ _ a d
  | .mma _ a d
  | .pmc _ a d
  | .bist _ a d
  | .sigq _ a d => handles [a, d]
  | .add _ b a d
  | .sub _ b a d
  | .rsub _ b a d
  | .mul _ b a d
  | .mulh _ b a d
  | .div _ b a d
  | .rem _ b a d
  | .min _ b a d
  | .max _ b a d
  | .clamp _ b a d
  | .abd _ b a d
  | .avg _ b a d
  | .adds _ b a d
  | .subs _ b a d
  | .and _ b a d
  | .or _ b a d
  | .xor _ b a d
  | .andn _ b a d
  | .shl _ b a d
  | .shr _ b a d
  | .sar _ b a d
  | .rol _ b a d
  | .ror _ b a d
  | .bfx _ b a d
  | .bfi _ b a d
  | .sxt _ b a d
  | .zxt _ b a d
  | .cvts _ b a d
  | .lea _ b a d
  | .adda _ b a d
  | .sel b a d _ _
  | .selm b a d _ _
  | .aadd b a d _ _
  | .amin b a d _ _
  | .amax b a d _ _
  | .aand b a d _ _
  | .aor b a d _ _
  | .axor b a d _ _
  | .aswp b a d _ _
  | .acas b a d _ _
  | .ainc b a d _ _
  | .rinv b a d _ _
  | .wqryQuery b a d _ _
  | .wqryExtend b a d _ _
  | .perm _ b a d
  | .shfl _ b a d
  | .slide _ b a d
  | .zip _ b a d
  | .unzp _ b a d
  | .dot4 _ b a d
  | .dot2 _ b a d
  | .view _ b a d
  | .send _ b a d
  | .sendi _ b a d
  | .fatmAdd _ b a d
  | .fatmMin _ b a d
  | .fatmMax _ b a d
  | .fatmAnd _ b a d
  | .fatmOr _ b a d
  | .fatmXor _ b a d
  | .fatmSwp _ b a d
  | .fatmCas _ b a d
  | .fatmInc _ b a d
  | .fxm _ b a d
  | .mdrp _ b a d => handles [b, a, d]
  | .fma c b a d
  | .fnma c b a d
  | .fms c b a d
  | .fnms c b a d => handles [c, b, a, d]
  | .movi _ d
  | .li d _
  | .near d _
  | .loop _ d
  | .mclr _ d
  | .msta _ d
  | .cmpq _ d
  | .ts _ d => handles [d]
  | .spwn b a d lit => orElse (handle d) (orElse (handle a) (orElse (handle b) (codeLit lit)))
  | .cmp _ _ b a d
  | .cmpm _ _ b a d => orElse (handle a) (orElse (handle b) (guardDst d))
  | .gand b a d
  | .gor b a d
  | .gxor b a d => orElse (guardSrc a) (orElse (guardSrc b) (guardDst d))
  | .gnot a d => orElse (guardSrc a) (guardDst d)
  | .gmov _ a d => orElse (handle a) (guardDst d)
  | .st _ b a _ _ _
  | .sts _ b a _ _ _
  | .bind _ b a
  | .unbd _ b a
  | .semp _ b a
  | .semw _ b a
  | .fst _ _ b a _
  | .mlw _ b a
  | .mlwC _ b a
  | .msc _ b a => handles [b, a]
  | .cpy c b a d _ _ op
  | .cpys c b a d _ _ op => orElse (handles [d, a, b, c]) (copyOp op)
  | .gath e c b a d _ _
  | .scat e c b a d _ _ => handles [e, c, b, a, d]
  | .fill c b a d _ _ op => orElse (handles [d, a, b, c]) (fillOp op)
  | .red c b a d _ _ op => orElse (handles [d, a, b, c]) (redOp op)
  | .ratm e c b a d _ _ op => orElse (handles [d, a, b, c, e]) (ratmOp op e)
  | .br _ _ _ _
  | .brl _ _ _ _
  | .nop
  | .endFiring
  | .trig
  | .halt
  | .yld
  | .wfe
  | .sev
  | .evclr
  | .algn
  | .ret
  | .repx
  | .fenceC
  | .fenceD
  | .fenceP
  | .fenceF
  | .cmps _
  | .dcmp
  | .eret
  | .ckpt
  | .idle
  | .nopH _ _ => none
  | .jr _ a
  | .jrl _ a
  | .acq _ a
  | .rel _ a
  | .bar _ a
  | .bara _ a
  | .barw _ a
  | .fmrk _ a
  | .cend _ a
  | .mfmt _ a
  | .mdr _ a
  | .mdrZ _ a
  | .trap _ a
  | .sys _ a
  | .svs _ a
  | .rss _ a => handles [a]
  | .advr n d
  | .advw n d => orElse (handle d) (advCount n)
  | .repb s _ n => orElse (repLen n) (stagger s)
  | .rds r d => orElse (handle d) (specialNum r)
  | .wrs r a => orElse (handle a) (specialNum r)
  | .rsPwrWrite core _
  | .dispatch core _
  | .keeperSumRow core
  | .composeGrant core
  | .composeWaitBound core
  | .watchdogTrip core
  | .benchRemap core
  | .bistComplete core _ _
  | .setRotation core
  | .fenceWrite core
  | .messageInjection core => inRange [(core, 12288)]
  | .mxTeamWrite core slot _
  | .registerWrite core slot _ _
  | .preemption core slot
  | .resume core slot
  | .rollback core slot
  | .timeSliceExpiry core slot
  | .waitTimeOut core slot
  | .algnHoldExpiry core slot
  | .deadlineMiss core slot
  | .windowZeroed core slot
  | .bindComplete core slot
  | .umpireCheck core slot _ _
  | .bindRecordWrite core slot _
  | .preemptionRequest core slot => inRange [(core, 12288), (slot, 4)]
  | .mgVWrite core rail _ => inRange [(core, 12288), (rail, 4)]
  | .messageArrival _
  | .tokenLanding _
  | .remoteLoadReply _
  | .nearRequest _
  | .remoteAtomic _
  | .objectOperation _
  | .withholdNotice _
  | .keeperPost _
  | .clOpRow _
  | .mdrpAdd _
  | .flitDiscard _
  | .trapMessage _
  | .dependentLaunchStart _
  | .snapshotTrigger
  | .sysRelease _
  | .sysPost _
  | .cxlViral
  | .powerCap _
  | .reset
  | .clearingNotice _ => none
  | .engineCommandStart cluster
  | .fabricReply cluster _ _ => inRange [(cluster, 768)]
  | .translationWalk cluster ctx _ _ => inRange [(cluster, 768), (ctx, 256)]
  | .flushMarker cluster src plane _ _ => inRange [(cluster, 768), (src.engine, 768), (src.dev, 32), (plane, 96)]
  | .lossNotice cluster sdev plane => inRange [(cluster, 768), (sdev, 32), (plane, 96)]
  | .fabricRequest cluster plane _ _ => inRange [(cluster, 768), (plane, 96)]
  | .requesterTimeOut cluster tag
  | .tagHoldExpiry cluster tag => inRange [(cluster, 768), (tag, 1024)]
  | .linkErrorRateChange plane peer _ => inRange [(plane, 96), (peer, 32)]
  | .bankReady core bank
  | .retentionWake core bank => inRange [(core, 12288), (bank, 4)]
  | .railSettled die rail => inRange [(die, 4), (rail, 4)]
  | .pcSample ctx _ => inRange [(ctx, 256)]
  | .temperatureUpdate die _ => inRange [(die, 4)]
  | .loopbackStart plane _
  | .planeOut plane _
  | .loopbackDone plane _ => inRange [(plane, 96)]
  | .inboxWrite fn _ _
  | .statusFree fn _
  | .fabricRegisterRead fn _
  | .fabricRegisterWrite fn _ _
  | .snapshotArm fn _
  | .snapshotRead fn _ _
  | .errorLogRead fn _
  | .defectMapRead fn
  | .hostMemoryRead fn _ _
  | .hostMemoryWrite fn _ _ _ => inRange [(fn, 256)]
  | .create fn ctx _ _ _ _ _ _ _ _ _ _
  | .loadImage fn ctx _ _ _
  | .report fn ctx _ _
  | .destroy fn ctx
  | .invalidate fn ctx _ _
  | .peerTableWrite fn ctx _ _ _
  | .debugRelease fn ctx _ _
  | .traceControl fn ctx _ => inRange [(fn, 256), (ctx, 256)]
  | .debugHalt fn ctx core slot
  | .readState fn ctx core slot _
  | .writeState fn ctx core slot _ _ => inRange [(fn, 256), (ctx, 256), (core, 12288), (slot, 4)]
  | .watchpoint fn ctx idx _ _ _ _ => inRange [(fn, 256), (ctx, 256), (idx, 4)]
  | .reliabilityRegisterRead fn core _
  | .reliabilityRegisterWrite fn core _ _ => inRange [(fn, 256), (core, 12288)]
  | .peerTableHandshake pos _ ctx _ => inRange [(pos, 32), (ctx, 256)]

/-- An instruction or event is well-formed when no check refuses it. -/
abbrev Instr.WellFormed (i : Instr) : Prop := i.wfError = none

end Sys2Proof
end

