-- ==== Sys2Proof/Decode.lean ====
section
/-!
DEFINITION. The decoder, total on any bytes, and the encoder, both written from R199 to R209, R218 and R220.
A word the opcode map reserves is refused by name; nothing reserved falls through to a neighbour.
-/

namespace Sys2Proof

/-- Minors of major 0x01, form T (R218, R220): a field the row does not use must be 0 (R209). -/
def parse01 (minor : Nat) (o : BitVec 2) (b a d : BitVec 6) : Option Instr :=
  match minor with
  | 0 => if b = 0 then some (.mov o a d) else none
  | 1 => some (.add o b a d)
  | 2 => some (.sub o b a d)
  | 3 => some (.rsub o b a d)
  | 4 => some (.mul o b a d)
  | 5 => some (.mulh o b a d)
  | 6 => some (.div o b a d)
  | 7 => some (.rem o b a d)
  | 8 => some (.min o b a d)
  | 9 => some (.max o b a d)
  | 10 => if b = 0 then some (.abs o a d) else none
  | 11 => if b = 0 then some (.neg o a d) else none
  | 12 => some (.clamp o b a d)
  | 13 => some (.abd o b a d)
  | 14 => some (.avg o b a d)
  | 15 => some (.adds o b a d)
  | 16 => some (.subs o b a d)
  | 17 => some (.and o b a d)
  | 18 => some (.or o b a d)
  | 19 => some (.xor o b a d)
  | 20 => some (.andn o b a d)
  | 21 => if b = 0 then some (.not o a d) else none
  | 22 => some (.shl o b a d)
  | 23 => some (.shr o b a d)
  | 24 => some (.sar o b a d)
  | 25 => some (.rol o b a d)
  | 26 => some (.ror o b a d)
  | 27 => if b = 0 then some (.clz o a d) else none
  | 28 => if b = 0 then some (.ctz o a d) else none
  | 29 => if b = 0 then some (.popc o a d) else none
  | 30 => if b = 0 then some (.brev o a d) else none
  | _ => none

/-- Minors of major 0x02, form T (R218, R220): a field the row does not use must be 0 (R209). -/
def parse02 (minor : Nat) (o : BitVec 2) (b a d : BitVec 6) : Option Instr :=
  match minor with
  | 0 => some (.bfx o b a d)
  | 1 => some (.bfi o b a d)
  | 2 => some (.sxt o b a d)
  | 3 => some (.zxt o b a d)
  | 4 => if b = 0 then some (.cvt o a d) else none
  | 5 => some (.cvts o b a d)
  | 6 => if b = 0 then some (.rcp o a d) else none
  | 7 => if b = 0 then some (.rsq o a d) else none
  | 8 => if b = 0 then some (.sqrt o a d) else none
  | 9 => if b = 0 then some (.exp2 o a d) else none
  | 10 => if b = 0 then some (.log2 o a d) else none
  | 11 => if b = 0 then some (.floor o a d) else none
  | 12 => if b = 0 then some (.ceil o a d) else none
  | 13 => if b = 0 then some (.rndn o a d) else none
  | _ => none

/-- Minors of major 0x0E, form T (R218, R220): a field the row does not use must be 0 (R209). -/
def parse0E (minor : Nat) (o : BitVec 2) (b a d : BitVec 6) : Option Instr :=
  match minor with
  | 0 => some (.lea o b a d)
  | 1 => some (.adda o b a d)
  | 2 => if b = 0 then some (.lcore o a d) else none
  | _ => none

/-- Minors of major 0x19, form T (R218, R220): a field the row does not use must be 0 (R209). -/
def parse19 (minor : Nat) (o : BitVec 2) (b a d : BitVec 6) : Option Instr :=
  match minor with
  | 0 => if o = 0 ∧ b = 0 ∧ a = 0 ∧ d = 0 then some .nop else none
  | 1 => if o = 0 ∧ b = 0 ∧ a = 0 ∧ d = 0 then some .endFiring else none
  | 2 => if o = 0 ∧ b = 0 ∧ a = 0 ∧ d = 0 then some .trig else none
  | 3 => if o = 0 ∧ b = 0 ∧ a = 0 ∧ d = 0 then some .halt else none
  | 4 => if o = 0 ∧ b = 0 ∧ a = 0 ∧ d = 0 then some .yld else none
  | 5 => if o = 0 ∧ b = 0 ∧ a = 0 ∧ d = 0 then some .wfe else none
  | 6 => if o = 0 ∧ b = 0 ∧ a = 0 ∧ d = 0 then some .sev else none
  | 7 => if o = 0 ∧ b = 0 ∧ a = 0 ∧ d = 0 then some .evclr else none
  | 8 => if o = 0 ∧ b = 0 ∧ a = 0 ∧ d = 0 then some .algn else none
  | 9 => if b = 0 ∧ d = 0 then some (.jr o a) else none
  | 10 => if b = 0 ∧ d = 0 then some (.jrl o a) else none
  | 11 => if o = 0 ∧ b = 0 ∧ a = 0 ∧ d = 0 then some .ret else none
  | _ => none

/-- Minors of major 0x1A, form T (R218, R220): a field the row does not use must be 0 (R209). -/
def parse1A (minor : Nat) (o : BitVec 2) (b a d : BitVec 6) : Option Instr :=
  match minor with
  | 0 => if b = 0 then some (.bcst o a d) else none
  | 1 => some (.perm o b a d)
  | 2 => some (.shfl o b a d)
  | 3 => some (.slide o b a d)
  | 4 => some (.zip o b a d)
  | 5 => some (.unzp o b a d)
  | 6 => if b = 0 then some (.cmpr o a d) else none
  | 7 => if b = 0 then some (.expd o a d) else none
  | 8 => if b = 0 then some (.redadd o a d) else none
  | 9 => if b = 0 then some (.redmax o a d) else none
  | 10 => if b = 0 then some (.redmin o a d) else none
  | 11 => if b = 0 then some (.scan o a d) else none
  | 12 => some (.dot4 o b a d)
  | 13 => some (.dot2 o b a d)
  | _ => none

/-- Minors of major 0x1B, form T (R218, R220): a field the row does not use must be 0 (R209). -/
def parse1B (minor : Nat) (o : BitVec 2) (b a d : BitVec 6) : Option Instr :=
  match minor with
  | 0 => some (.view o b a d)
  | 1 => if b = 0 then some (.vget o a d) else none
  | 2 => if b = 0 then some (.vset o a d) else none
  | 3 => if b = 0 then some (.rfil o a d) else none
  | 4 => if o = 0 ∧ b = 0 ∧ a = 0 ∧ d = 0 then some .repx else none
  | _ => none

/-- Minors of major 0x20, form T (R218, R220): a field the row does not use must be 0 (R209). -/
def parse20 (minor : Nat) (o : BitVec 2) (b a d : BitVec 6) : Option Instr :=
  match minor with
  | 0 => if d = 0 then some (.bind o b a) else none
  | 1 => if d = 0 then some (.unbd o b a) else none
  | 2 => if b = 0 ∧ d = 0 then some (.acq o a) else none
  | 3 => if b = 0 ∧ d = 0 then some (.rel o a) else none
  | 4 => if b = 0 then some (.trya o a d) else none
  | 5 => if b = 0 ∧ d = 0 then some (.bar o a) else none
  | 6 => if b = 0 ∧ d = 0 then some (.bara o a) else none
  | 7 => if b = 0 ∧ d = 0 then some (.barw o a) else none
  | 8 => if d = 0 then some (.semp o b a) else none
  | 9 => if d = 0 then some (.semw o b a) else none
  | 10 => if b = 0 then some (.objq o a d) else none
  | _ => none

/-- Minors of major 0x21, form T (R218, R220): a field the row does not use must be 0 (R209). -/
def parse21 (minor : Nat) (o : BitVec 2) (b a d : BitVec 6) : Option Instr :=
  match minor with
  | 0 => some (.send o b a d)
  | 1 => some (.sendi o b a d)
  | 2 => if b = 0 then some (.msgq o a d) else none
  | 3 => if b = 0 then some (.ceq o a d) else none
  | _ => none

/-- Minors of major 0x23, form T (R218, R220): a field the row does not use must be 0 (R209). -/
def parse23 (minor : Nat) (o : BitVec 2) (b a d : BitVec 6) : Option Instr :=
  match minor with
  | 0 => if d = 0 then some (.mlw o b a) else none
  | 1 => if d = 0 then some (.mlwC o b a) else none
  | 2 => if b = 0 ∧ d = 0 then some (.mfmt o a) else none
  | 3 => if b = 0 then some (.mma o a d) else none
  | 4 => if d = 0 then some (.msc o b a) else none
  | 5 => if b = 0 ∧ d = 0 then some (.mdr o a) else none
  | 6 => if b = 0 ∧ d = 0 then some (.mdrZ o a) else none
  | 7 => some (.mdrp o b a d)
  | 8 => if b = 0 ∧ a = 0 then some (.mclr o d) else none
  | 9 => if b = 0 ∧ a = 0 then some (.msta o d) else none
  | _ => none

/-- Minors of major 0x24, form T (R218, R220): a field the row does not use must be 0 (R209). -/
def parse24 (minor : Nat) (o : BitVec 2) (b a d : BitVec 6) : Option Instr :=
  match minor with
  | 0 => if b = 0 ∧ a = 0 ∧ d = 0 then some (.cmps o) else none
  | 1 => if o = 0 ∧ b = 0 ∧ a = 0 ∧ d = 0 then some .dcmp else none
  | 2 => if b = 0 ∧ a = 0 then some (.cmpq o d) else none
  | _ => none

/-- Minors of major 0x25, form T (R218, R220): a field the row does not use must be 0 (R209). -/
def parse25 (minor : Nat) (o : BitVec 2) (b a d : BitVec 6) : Option Instr :=
  match minor with
  | 0 => if b = 0 ∧ d = 0 then some (.trap o a) else none
  | 1 => if b = 0 ∧ d = 0 then some (.sys o a) else none
  | 2 => if o = 0 ∧ b = 0 ∧ a = 0 ∧ d = 0 then some .eret else none
  | 3 => if b = 0 ∧ d = 0 then some (.svs o a) else none
  | 4 => if b = 0 ∧ d = 0 then some (.rss o a) else none
  | 5 => if b = 0 ∧ a = 0 then some (.ts o d) else none
  | 6 => if b = 0 then some (.pmc o a d) else none
  | 7 => if b = 0 then some (.bist o a d) else none
  | 8 => if b = 0 then some (.sigq o a d) else none
  | 9 => if o = 0 ∧ b = 0 ∧ a = 0 ∧ d = 0 then some .ckpt else none
  | 10 => if o = 0 ∧ b = 0 ∧ a = 0 ∧ d = 0 then some .idle else none
  | _ => none

/-- Major 0x0F: compares and guard operations (R218, R237, R238). -/
def parse0F (minor : Nat) (o : BitVec 2) (b a d : BitVec 6) : Option Instr :=
  if minor < 8 then some (.cmp (BitVec.ofNat 3 minor) o b a d)
  else if minor < 16 then some (.cmpm (BitVec.ofNat 3 minor) o b a d)
  else match minor with
    | 16 => if o = 0 then some (.gand b a d) else none
    | 17 => if o = 0 then some (.gor b a d) else none
    | 18 => if o = 0 then some (.gxor b a d) else none
    | 19 => if o = 0 ∧ b = 0 then some (.gnot a d) else none
    | 20 => if b = 0 then some (.gmov o a d) else none
    | _ => none

/-- Major 0x1F: near loads and fences (R218, R283). -/
def parse1F (minor : Nat) (o : BitVec 2) (b a d : BitVec 6) : Option Instr :=
  if minor < 4 then some (.ld (BitVec.ofNat 2 minor) o b a d)
  else match minor with
    | 4 => some (.lds false o b a d)
    | 5 => some (.lds true o b a d)
    | 6 => if o = 0 ∧ b = 0 ∧ a = 0 ∧ d = 0 then some .fenceC else none
    | 7 => if o = 0 ∧ b = 0 ∧ a = 0 ∧ d = 0 then some .fenceD else none
    | 8 => if o = 0 ∧ b = 0 ∧ a = 0 ∧ d = 0 then some .fenceP else none
    | 9 => if o = 0 ∧ b = 0 ∧ a = 0 ∧ d = 0 then some .fenceF else none
    | _ => none

/-- Major 0x22: the engine profile (R218, R312). -/
def parse22 (minor : Nat) (o : BitVec 2) (b a d : BitVec 6) : Option Instr :=
  if minor < 4 then some (.fld (BitVec.ofNat 2 minor) o b a d)
  else if minor < 8 then some (.fst (BitVec.ofNat 2 minor) o b a d)
  else match minor with
    | 8 => some (.fatmAdd o b a d)
    | 9 => some (.fatmMin o b a d)
    | 10 => some (.fatmMax o b a d)
    | 11 => some (.fatmAnd o b a d)
    | 12 => some (.fatmOr o b a d)
    | 13 => some (.fatmXor o b a d)
    | 14 => some (.fatmSwp o b a d)
    | 15 => some (.fatmCas o b a d)
    | 16 => some (.fatmInc o b a d)
    | 17 => some (.fxm o b a d)
    | 18 => if b = 0 ∧ d = 0 then some (.fmrk o a) else none
    | 19 => if b = 0 ∧ d = 0 then some (.cend o a) else none
    | _ => none

/-- Form G without an engine word: majors 0x10 to 0x13 (R206, R218). -/
def parseG (major minor : Nat) (b a d : BitVec 6) (n : Bool) (g : BitVec 3) : Option Instr :=
  match major, minor with
  | 0x10, 0 => some (.st 0 b a d n g)
  | 0x10, 1 => some (.st 1 b a d n g)
  | 0x10, 2 => some (.st 2 b a d n g)
  | 0x10, 3 => some (.st 3 b a d n g)
  | 0x10, 4 => some (.sts false b a d n g)
  | 0x10, 5 => some (.sts true b a d n g)
  | 0x11, 0 => some (.sel b a d n g)
  | 0x11, 1 => some (.selm b a d n g)
  | 0x12, 0 => some (.aadd b a d n g)
  | 0x12, 1 => some (.amin b a d n g)
  | 0x12, 2 => some (.amax b a d n g)
  | 0x12, 3 => some (.aand b a d n g)
  | 0x12, 4 => some (.aor b a d n g)
  | 0x12, 5 => some (.axor b a d n g)
  | 0x12, 6 => some (.aswp b a d n g)
  | 0x12, 7 => some (.acas b a d n g)
  | 0x13, 0 => some (.ainc b a d n g)
  | _, _ => none

/-- Engine commands: majors 0x14 and 0x15 with their engine word (R207, R218, R307). -/
def parseE (major minor : Nat) (b a d : BitVec 6) (n : Bool) (g : BitVec 3) (op : BitVec 8) (z : BitVec 12)
    (e c : BitVec 6) : Option Instr :=
  if z ≠ 0 then none else
  match major, minor with
  | 0x14, 0 => if e = 0 then some (.cpy c b a d n g op) else none
  | 0x14, 1 => if e = 0 then some (.cpys c b a d n g op) else none
  | 0x14, 2 => if op = 0 then some (.gath e c b a d n g) else none
  | 0x14, 3 => if op = 0 then some (.scat e c b a d n g) else none
  | 0x14, 4 => if e = 0 then some (.fill c b a d n g op) else none
  | 0x14, 5 => if e = 0 then some (.red c b a d n g op) else none
  | 0x14, 6 => some (.ratm e c b a d n g op)
  | 0x14, 7 => if op = 0 ∧ e = 0 ∧ c = 0 ∧ b = 0 then some (.bsig a d n g) else none
  | 0x15, 0 => if op = 0 ∧ e = 0 ∧ c = 0 then some (.rinv b a d n g) else none
  | 0x15, 1 => if e = 0 ∧ c = 0 then
      (if op = 0 then some (.wqryQuery b a d n g) else if op = 1 then some (.wqryExtend b a d n g) else none) else none
  | _, _ => none

/-- Form Q (R203), form I (R204), form B (R208) and the hint space (R219), by major. -/
def parseRest (major : Nat) (w : W32) : Option Instr :=
  let d := w.extractLsb' 7 6
  let a := w.extractLsb' 13 6
  let b := w.extractLsb' 19 6
  let i := w.extractLsb' 19 13
  match major with
  | 0x03 => if w.getLsbD 31 then some (.fnma (w.extractLsb' 25 6) b a d) else some (.fma (w.extractLsb' 25 6) b a d)
  | 0x04 => if w.getLsbD 31 then some (.fnms (w.extractLsb' 25 6) b a d) else some (.fms (w.extractLsb' 25 6) b a d)
  | 0x05 => some (.addi i a d)
  | 0x06 => some (.andi i a d)
  | 0x07 => some (.ori i a d)
  | 0x08 => some (.xori i a d)
  | 0x09 => some (.shli i a d)
  | 0x0A => some (.shri i a d)
  | 0x0B => some (.sari i a d)
  | 0x0C => if a = 0 then some (.movi i d) else none
  | 0x16 => some (.br (w.extractLsb' 12 20) (w.getLsbD 11) (w.getLsbD 10) (w.extractLsb' 7 3))
  | 0x17 => some (.brl (w.extractLsb' 12 20) (w.getLsbD 11) (w.getLsbD 10) (w.extractLsb' 7 3))
  | 0x18 => if a = 0 then some (.loop i d) else none
  | 0x1C => if a = 0 then some (.advr i d) else none
  | 0x1D => if a = 0 then some (.advw i d) else none
  | 0x1E => some (.repb i a d)
  | 0x26 => if a = 0 ∧ w.getLsbD 31 = false then some (.rds (w.extractLsb' 19 12) d) else none
  | 0x27 => if d = 0 ∧ w.getLsbD 31 = false then some (.wrs (w.extractLsb' 19 12) a) else none
  | 0x3F => if w.extractLsb' 30 2 = 3 then some (.nopH (w.extractLsb' 27 3) (w.extractLsb' 7 20)) else none
  | _ => none

/-- A 32-bit instruction without a trailing word (R218). -/
def parseWord (w : W32) : Option Instr :=
  let major := (w.extractLsb' 1 6).toNat
  let minor := (w.extractLsb' 27 5).toNat
  let o := w.extractLsb' 25 2
  let b := w.extractLsb' 19 6
  let a := w.extractLsb' 13 6
  let d := w.extractLsb' 7 6
  match major with
  | 0x01 => parse01 minor o b a d
  | 0x02 => parse02 minor o b a d
  | 0x0E => parse0E minor o b a d
  | 0x0F => parse0F minor o b a d
  | 0x10 | 0x11 | 0x12 | 0x13 =>
    parseG major (w.extractLsb' 29 3).toNat (w.extractLsb' 23 6) (w.extractLsb' 17 6) (w.extractLsb' 11 6)
      (w.getLsbD 10) (w.extractLsb' 7 3)
  | 0x19 => parse19 minor o b a d
  | 0x1A => parse1A minor o b a d
  | 0x1B => parse1B minor o b a d
  | 0x1F => parse1F minor o b a d
  | 0x20 => parse20 minor o b a d
  | 0x21 => parse21 minor o b a d
  | 0x22 => parse22 minor o b a d
  | 0x23 => parse23 minor o b a d
  | 0x24 => parse24 minor o b a d
  | 0x25 => parse25 minor o b a d
  | m => parseRest m w

/-- A 32-bit instruction with its trailing word `x` (R205, R207, R212). -/
def parseLong (w x : W32) : Option Instr :=
  let d := w.extractLsb' 7 6
  let a := w.extractLsb' 13 6
  match (w.extractLsb' 1 6).toNat with
  | 0x0D =>
    let minor := (w.extractLsb' 19 13).toNat
    if minor = 0 then (if a = 0 then some (.li d x) else none)
    else if minor = 1 then (if a = 0 then some (.near d x) else none)
    else if 0x40 ≤ minor ∧ minor ≤ 0x7F then some (.spwn (w.extractLsb' 19 6) a d x)
    else none
  | m => parseE m (w.extractLsb' 29 3).toNat (w.extractLsb' 23 6) (w.extractLsb' 17 6) (w.extractLsb' 11 6)
      (w.getLsbD 10) (w.extractLsb' 7 3) (x.extractLsb' 24 8) (x.extractLsb' 12 12) (x.extractLsb' 6 6) (x.extractLsb' 0 6)

/-- A short instruction (R200). -/
def parseShort (h : Half) : Option Instr :=
  let a := h.getLsbD 15
  let s := h.extractLsb' 10 5
  let d := h.extractLsb' 5 5
  match (h.extractLsb' 1 4).toNat with
  | 0x0 => some (.movShort a s d)
  | 0x1 => some (.addShort a s d)
  | 0x2 => some (.subShort a s d)
  | 0x3 => some (.rsubShort a s d)
  | 0x4 => some (.mulShort a s d)
  | 0x5 => some (.minShort a s d)
  | 0x6 => some (.maxShort a s d)
  | 0x7 => some (.andShort a s d)
  | 0x8 => some (.orShort a s d)
  | 0x9 => some (.xorShort a s d)
  | 0xA => some (.andnShort a s d)
  | 0xB => some (.shlShort a s d)
  | 0xC => some (.shrShort a s d)
  | 0xD => some (.sarShort a s d)
  | 0xE => some (.negShort a s d)
  | 0xF => some (.absShort a s d)
  | _ => none

/-- R205, R207: the majors followed by a trailing word. -/
def hasTrailing (major : Nat) : Bool := major == 0x0D || major == 0x14 || major == 0x15

/-- R218: the majors the opcode map assigns. -/
def majorAssigned (major : Nat) : Bool :=
  (decide (1 ≤ major) && decide (major ≤ 0x27)) || major == 0x3F

/-- A parsed instruction of `n` halfwords, once its field values are checked (R209). -/
def finish (p : Option Instr) (n : Nat) : Except Reject (Instr × Nat) :=
  match p with
  | none => .error .reservedWord
  | some i =>
    match i.wfError with
    | some r => .error r
    | none => .ok (i, n)

/-- R199: the instruction that starts a list of halfwords, with its length in halfwords. -/
def decode : List Half → Except Reject (Instr × Nat)
  | [] => .error .truncated
  | h0 :: rest =>
    if h0.getLsbD 0 = false then finish (parseShort h0) 1
    else match rest with
      | [] => .error .truncated
      | h1 :: more =>
        let w : W32 := h1 ++ h0
        let major := (w.extractLsb' 1 6).toNat
        if majorAssigned major = false then .error .reservedMajor
        else if hasTrailing major then
          match more with
          | h2 :: h3 :: _ => finish (parseLong w (h3 ++ h2)) 4
          | _ => .error .truncated
        else finish (parseWord w) 2

/-- Little-endian halfwords of a byte list (R199); an odd last byte is dropped. -/
def halves : List Byte → List Half
  | b0 :: b1 :: rest => (b1 ++ b0) :: halves rest
  | _ => []

/-- The instruction that starts a list of bytes. -/
def decodeBytes (bs : List Byte) : Except Reject (Instr × Nat) := decode (halves bs)

/-- The low `n` bytes of a number, lowest address first. -/
def leBytes : Nat → Nat → List Byte
  | 0, _ => []
  | n + 1, w => BitVec.ofNat 8 w :: leBytes n (w / 256)

/-- The eight bytes that a table word stands for: its bits up to `nbits`, zeros above. -/
def tableBytes (nbits w : Nat) : List Byte := leBytes 8 (w % 2 ^ nbits)

/-- The instruction the decoder reads from a word of the opcode table. -/
def decodeTableWord (nbits w : Nat) : Option Instr :=
  match decodeBytes (tableBytes nbits w) with
  | .ok (i, _) => some i
  | .error _ => none

/-! ## The encoder -/

/-- A sense or advance bit as a one-bit vector. -/
def bit (b : Bool) : BitVec 1 := if b then 1 else 0

/-- R200: a short instruction. -/
def packShort (op : BitVec 4) (a : Bool) (s d : BitVec 5) : Half := bit a ++ s ++ d ++ op ++ (0 : BitVec 1)

/-- R201: form T. -/
def packT (minor : BitVec 5) (o : BitVec 2) (b a d major : BitVec 6) : W32 :=
  minor ++ o ++ b ++ a ++ d ++ major ++ (1 : BitVec 1)

/-- R203: form Q. -/
def packQ (n : Bool) (c b a d major : BitVec 6) : W32 := bit n ++ c ++ b ++ a ++ d ++ major ++ (1 : BitVec 1)

/-- R204: form I; R205: form L, whose minor stands where the immediate does. -/
def packI (i : BitVec 13) (a d major : BitVec 6) : W32 := i ++ a ++ d ++ major ++ (1 : BitVec 1)

/-- R206: form G. -/
def packG (minor : BitVec 3) (b a d : BitVec 6) (n : Bool) (g : BitVec 3) (major : BitVec 6) : W32 :=
  minor ++ b ++ a ++ d ++ bit n ++ g ++ major ++ (1 : BitVec 1)

/-- R207: the engine word. -/
def packE (op : BitVec 8) (e c : BitVec 6) : W32 := op ++ (0 : BitVec 12) ++ e ++ c

/-- R208: form B. -/
def packB (f : BitVec 20) (k n : Bool) (g : BitVec 3) (major : BitVec 6) : W32 :=
  f ++ bit k ++ bit n ++ g ++ major ++ (1 : BitVec 1)

/-- R199: the halfwords of a 32-bit word, the low one first. -/
def word32 (w : W32) : List Half := [w.extractLsb' 0 16, w.extractLsb' 16 16]

/-- The halfwords of an instruction, from the encoding tables (R199 to R208, R218, R220); an event has none. DEDUCED: log entry 9. -/
def encode : Instr → List Half
  | .movShort a s d => [packShort 0 a s d]
  | .addShort a s d => [packShort 1 a s d]
  | .subShort a s d => [packShort 2 a s d]
  | .rsubShort a s d => [packShort 3 a s d]
  | .mulShort a s d => [packShort 4 a s d]
  | .minShort a s d => [packShort 5 a s d]
  | .maxShort a s d => [packShort 6 a s d]
  | .andShort a s d => [packShort 7 a s d]
  | .orShort a s d => [packShort 8 a s d]
  | .xorShort a s d => [packShort 9 a s d]
  | .andnShort a s d => [packShort 10 a s d]
  | .shlShort a s d => [packShort 11 a s d]
  | .shrShort a s d => [packShort 12 a s d]
  | .sarShort a s d => [packShort 13 a s d]
  | .negShort a s d => [packShort 14 a s d]
  | .absShort a s d => [packShort 15 a s d]
  | .mov o a d => word32 (packT 0 o 0 a d 1)
  | .add o b a d => word32 (packT 1 o b a d 1)
  | .sub o b a d => word32 (packT 2 o b a d 1)
  | .rsub o b a d => word32 (packT 3 o b a d 1)
  | .mul o b a d => word32 (packT 4 o b a d 1)
  | .mulh o b a d => word32 (packT 5 o b a d 1)
  | .div o b a d => word32 (packT 6 o b a d 1)
  | .rem o b a d => word32 (packT 7 o b a d 1)
  | .min o b a d => word32 (packT 8 o b a d 1)
  | .max o b a d => word32 (packT 9 o b a d 1)
  | .abs o a d => word32 (packT 10 o 0 a d 1)
  | .neg o a d => word32 (packT 11 o 0 a d 1)
  | .clamp o b a d => word32 (packT 12 o b a d 1)
  | .abd o b a d => word32 (packT 13 o b a d 1)
  | .avg o b a d => word32 (packT 14 o b a d 1)
  | .adds o b a d => word32 (packT 15 o b a d 1)
  | .subs o b a d => word32 (packT 16 o b a d 1)
  | .and o b a d => word32 (packT 17 o b a d 1)
  | .or o b a d => word32 (packT 18 o b a d 1)
  | .xor o b a d => word32 (packT 19 o b a d 1)
  | .andn o b a d => word32 (packT 20 o b a d 1)
  | .not o a d => word32 (packT 21 o 0 a d 1)
  | .shl o b a d => word32 (packT 22 o b a d 1)
  | .shr o b a d => word32 (packT 23 o b a d 1)
  | .sar o b a d => word32 (packT 24 o b a d 1)
  | .rol o b a d => word32 (packT 25 o b a d 1)
  | .ror o b a d => word32 (packT 26 o b a d 1)
  | .clz o a d => word32 (packT 27 o 0 a d 1)
  | .ctz o a d => word32 (packT 28 o 0 a d 1)
  | .popc o a d => word32 (packT 29 o 0 a d 1)
  | .brev o a d => word32 (packT 30 o 0 a d 1)
  | .bfx o b a d => word32 (packT 0 o b a d 2)
  | .bfi o b a d => word32 (packT 1 o b a d 2)
  | .sxt o b a d => word32 (packT 2 o b a d 2)
  | .zxt o b a d => word32 (packT 3 o b a d 2)
  | .cvt o a d => word32 (packT 4 o 0 a d 2)
  | .cvts o b a d => word32 (packT 5 o b a d 2)
  | .rcp o a d => word32 (packT 6 o 0 a d 2)
  | .rsq o a d => word32 (packT 7 o 0 a d 2)
  | .sqrt o a d => word32 (packT 8 o 0 a d 2)
  | .exp2 o a d => word32 (packT 9 o 0 a d 2)
  | .log2 o a d => word32 (packT 10 o 0 a d 2)
  | .floor o a d => word32 (packT 11 o 0 a d 2)
  | .ceil o a d => word32 (packT 12 o 0 a d 2)
  | .rndn o a d => word32 (packT 13 o 0 a d 2)
  | .fma c b a d => word32 (packQ false c b a d 3)
  | .fnma c b a d => word32 (packQ true c b a d 3)
  | .fms c b a d => word32 (packQ false c b a d 4)
  | .fnms c b a d => word32 (packQ true c b a d 4)
  | .addi i a d => word32 (packI i a d 5)
  | .andi i a d => word32 (packI i a d 6)
  | .ori i a d => word32 (packI i a d 7)
  | .xori i a d => word32 (packI i a d 8)
  | .shli i a d => word32 (packI i a d 9)
  | .shri i a d => word32 (packI i a d 10)
  | .sari i a d => word32 (packI i a d 11)
  | .movi i d => word32 (packI i 0 d 12)
  | .li d lit => word32 (packI 0 0 d 13) ++ word32 lit
  | .near d lit => word32 (packI 1 0 d 13) ++ word32 lit
  | .spwn b a d lit => word32 (packI ((1 : BitVec 7) ++ b) a d 13) ++ word32 lit
  | .lea o b a d => word32 (packT 0 o b a d 14)
  | .adda o b a d => word32 (packT 1 o b a d 14)
  | .lcore o a d => word32 (packT 2 o 0 a d 14)
  | .cmp c o b a d => word32 (packT ((0 : BitVec 2) ++ c) o b a d 15)
  | .cmpm c o b a d => word32 (packT ((1 : BitVec 2) ++ c) o b a d 15)
  | .gand b a d => word32 (packT 16 0 b a d 15)
  | .gor b a d => word32 (packT 17 0 b a d 15)
  | .gxor b a d => word32 (packT 18 0 b a d 15)
  | .gnot a d => word32 (packT 19 0 0 a d 15)
  | .gmov o a d => word32 (packT 20 o 0 a d 15)
  | .st s b a f n g => word32 (packG ((0 : BitVec 1) ++ s) b a f n g 16)
  | .sts m b a f n g => word32 (packG ((2 : BitVec 2) ++ bit m) b a f n g 16)
  | .sel b a d n g => word32 (packG 0 b a d n g 17)
  | .selm b a d n g => word32 (packG 1 b a d n g 17)
  | .aadd b a d n g => word32 (packG 0 b a d n g 18)
  | .amin b a d n g => word32 (packG 1 b a d n g 18)
  | .amax b a d n g => word32 (packG 2 b a d n g 18)
  | .aand b a d n g => word32 (packG 3 b a d n g 18)
  | .aor b a d n g => word32 (packG 4 b a d n g 18)
  | .axor b a d n g => word32 (packG 5 b a d n g 18)
  | .aswp b a d n g => word32 (packG 6 b a d n g 18)
  | .acas b a d n g => word32 (packG 7 b a d n g 18)
  | .ainc b a d n g => word32 (packG 0 b a d n g 19)
  | .cpy c b a d n g op => word32 (packG 0 b a d n g 20) ++ word32 (packE op 0 c)
  | .cpys c b a d n g op => word32 (packG 1 b a d n g 20) ++ word32 (packE op 0 c)
  | .gath e c b a d n g => word32 (packG 2 b a d n g 20) ++ word32 (packE 0 e c)
  | .scat e c b a d n g => word32 (packG 3 b a d n g 20) ++ word32 (packE 0 e c)
  | .fill c b a d n g op => word32 (packG 4 b a d n g 20) ++ word32 (packE op 0 c)
  | .red c b a d n g op => word32 (packG 5 b a d n g 20) ++ word32 (packE op 0 c)
  | .ratm e c b a d n g op => word32 (packG 6 b a d n g 20) ++ word32 (packE op e c)
  | .bsig a d n g => word32 (packG 7 0 a d n g 20) ++ word32 (packE 0 0 0)
  | .rinv b a d n g => word32 (packG 0 b a d n g 21) ++ word32 (packE 0 0 0)
  | .wqryQuery b a d n g => word32 (packG 1 b a d n g 21) ++ word32 (packE 0 0 0)
  | .wqryExtend b a d n g => word32 (packG 1 b a d n g 21) ++ word32 (packE 1 0 0)
  | .br f k n g => word32 (packB f k n g 22)
  | .brl f k n g => word32 (packB f k n g 23)
  | .loop i d => word32 (packI i 0 d 24)
  | .nop => word32 (packT 0 0 0 0 0 25)
  | .endFiring => word32 (packT 1 0 0 0 0 25)
  | .trig => word32 (packT 2 0 0 0 0 25)
  | .halt => word32 (packT 3 0 0 0 0 25)
  | .yld => word32 (packT 4 0 0 0 0 25)
  | .wfe => word32 (packT 5 0 0 0 0 25)
  | .sev => word32 (packT 6 0 0 0 0 25)
  | .evclr => word32 (packT 7 0 0 0 0 25)
  | .algn => word32 (packT 8 0 0 0 0 25)
  | .jr o a => word32 (packT 9 o 0 a 0 25)
  | .jrl o a => word32 (packT 10 o 0 a 0 25)
  | .ret => word32 (packT 11 0 0 0 0 25)
  | .bcst o a d => word32 (packT 0 o 0 a d 26)
  | .perm o b a d => word32 (packT 1 o b a d 26)
  | .shfl o b a d => word32 (packT 2 o b a d 26)
  | .slide o b a d => word32 (packT 3 o b a d 26)
  | .zip o b a d => word32 (packT 4 o b a d 26)
  | .unzp o b a d => word32 (packT 5 o b a d 26)
  | .cmpr o a d => word32 (packT 6 o 0 a d 26)
  | .expd o a d => word32 (packT 7 o 0 a d 26)
  | .redadd o a d => word32 (packT 8 o 0 a d 26)
  | .redmax o a d => word32 (packT 9 o 0 a d 26)
  | .redmin o a d => word32 (packT 10 o 0 a d 26)
  | .scan o a d => word32 (packT 11 o 0 a d 26)
  | .dot4 o b a d => word32 (packT 12 o b a d 26)
  | .dot2 o b a d => word32 (packT 13 o b a d 26)
  | .view o b a d => word32 (packT 0 o b a d 27)
  | .vget o a d => word32 (packT 1 o 0 a d 27)
  | .vset o a d => word32 (packT 2 o 0 a d 27)
  | .rfil o a d => word32 (packT 3 o 0 a d 27)
  | .repx => word32 (packT 4 0 0 0 0 27)
  | .advr n d => word32 (packI n 0 d 28)
  | .advw n d => word32 (packI n 0 d 29)
  | .repb s c n => word32 (packI s c n 30)
  | .ld s o f a d => word32 (packT ((0 : BitVec 3) ++ s) o f a d 31)
  | .lds m o f a d => word32 (packT ((2 : BitVec 4) ++ bit m) o f a d 31)
  | .fenceC => word32 (packT 6 0 0 0 0 31)
  | .fenceD => word32 (packT 7 0 0 0 0 31)
  | .fenceP => word32 (packT 8 0 0 0 0 31)
  | .fenceF => word32 (packT 9 0 0 0 0 31)
  | .bind o b a => word32 (packT 0 o b a 0 32)
  | .unbd o b a => word32 (packT 1 o b a 0 32)
  | .acq o a => word32 (packT 2 o 0 a 0 32)
  | .rel o a => word32 (packT 3 o 0 a 0 32)
  | .trya o a d => word32 (packT 4 o 0 a d 32)
  | .bar o a => word32 (packT 5 o 0 a 0 32)
  | .bara o a => word32 (packT 6 o 0 a 0 32)
  | .barw o a => word32 (packT 7 o 0 a 0 32)
  | .semp o b a => word32 (packT 8 o b a 0 32)
  | .semw o b a => word32 (packT 9 o b a 0 32)
  | .objq o a d => word32 (packT 10 o 0 a d 32)
  | .send o b a d => word32 (packT 0 o b a d 33)
  | .sendi o b a d => word32 (packT 1 o b a d 33)
  | .msgq o a d => word32 (packT 2 o 0 a d 33)
  | .ceq o a d => word32 (packT 3 o 0 a d 33)
  | .fld s o f a d => word32 (packT ((0 : BitVec 3) ++ s) o f a d 34)
  | .fst s o b a f => word32 (packT ((1 : BitVec 3) ++ s) o b a f 34)
  | .fatmAdd o b a d => word32 (packT 8 o b a d 34)
  | .fatmMin o b a d => word32 (packT 9 o b a d 34)
  | .fatmMax o b a d => word32 (packT 10 o b a d 34)
  | .fatmAnd o b a d => word32 (packT 11 o b a d 34)
  | .fatmOr o b a d => word32 (packT 12 o b a d 34)
  | .fatmXor o b a d => word32 (packT 13 o b a d 34)
  | .fatmSwp o b a d => word32 (packT 14 o b a d 34)
  | .fatmCas o b a d => word32 (packT 15 o b a d 34)
  | .fatmInc o b a d => word32 (packT 16 o b a d 34)
  | .fxm o b a d => word32 (packT 17 o b a d 34)
  | .fmrk o a => word32 (packT 18 o 0 a 0 34)
  | .cend o a => word32 (packT 19 o 0 a 0 34)
  | .mlw o b a => word32 (packT 0 o b a 0 35)
  | .mlwC o b a => word32 (packT 1 o b a 0 35)
  | .mfmt o a => word32 (packT 2 o 0 a 0 35)
  | .mma o a d => word32 (packT 3 o 0 a d 35)
  | .msc o b a => word32 (packT 4 o b a 0 35)
  | .mdr o a => word32 (packT 5 o 0 a 0 35)
  | .mdrZ o a => word32 (packT 6 o 0 a 0 35)
  | .mdrp o b a d => word32 (packT 7 o b a d 35)
  | .mclr o d => word32 (packT 8 o 0 0 d 35)
  | .msta o d => word32 (packT 9 o 0 0 d 35)
  | .cmps k => word32 (packT 0 k 0 0 0 36)
  | .dcmp => word32 (packT 1 0 0 0 0 36)
  | .cmpq o d => word32 (packT 2 o 0 0 d 36)
  | .trap o a => word32 (packT 0 o 0 a 0 37)
  | .sys o a => word32 (packT 1 o 0 a 0 37)
  | .eret => word32 (packT 2 0 0 0 0 37)
  | .svs o a => word32 (packT 3 o 0 a 0 37)
  | .rss o a => word32 (packT 4 o 0 a 0 37)
  | .ts o d => word32 (packT 5 o 0 0 d 37)
  | .pmc o a d => word32 (packT 6 o 0 a d 37)
  | .bist o a d => word32 (packT 7 o 0 a d 37)
  | .sigq o a d => word32 (packT 8 o 0 a d 37)
  | .ckpt => word32 (packT 9 0 0 0 0 37)
  | .idle => word32 (packT 10 0 0 0 0 37)
  | .rds r d => word32 (packI ((0 : BitVec 1) ++ r) 0 d 38)
  | .wrs r a => word32 (packI ((0 : BitVec 1) ++ r) a 0 39)
  | .nopH h x => word32 ((3 : BitVec 2) ++ h ++ x ++ (63 : BitVec 6) ++ (1 : BitVec 1))
  | .rsPwrWrite _ _
  | .mxTeamWrite _ _ _
  | .mgVWrite _ _ _
  | .registerWrite _ _ _ _
  | .dispatch _ _
  | .messageArrival _
  | .tokenLanding _
  | .remoteLoadReply _
  | .nearRequest _
  | .remoteAtomic _
  | .objectOperation _
  | .withholdNotice _
  | .keeperPost _
  | .keeperSumRow _
  | .clOpRow _
  | .mdrpAdd _
  | .engineCommandStart _
  | .translationWalk _ _ _ _
  | .flushMarker _ _ _ _ _
  | .fabricRequest _ _ _ _
  | .fabricReply _ _ _
  | .lossNotice _ _ _
  | .requesterTimeOut _ _
  | .tagHoldExpiry _ _
  | .flitDiscard _
  | .linkErrorRateChange _ _ _
  | .trapMessage _
  | .dependentLaunchStart _
  | .composeGrant _
  | .preemption _ _
  | .resume _ _
  | .rollback _ _
  | .timeSliceExpiry _ _
  | .waitTimeOut _ _
  | .composeWaitBound _
  | .algnHoldExpiry _ _
  | .deadlineMiss _ _
  | .watchdogTrip _
  | .benchRemap _
  | .windowZeroed _ _
  | .bankReady _ _
  | .retentionWake _ _
  | .bindComplete _ _
  | .umpireCheck _ _ _ _
  | .bistComplete _ _ _
  | .railSettled _ _
  | .setRotation _
  | .pcSample _ _
  | .temperatureUpdate _ _
  | .snapshotTrigger
  | .loopbackStart _ _
  | .planeOut _ _
  | .loopbackDone _ _
  | .bindRecordWrite _ _ _
  | .preemptionRequest _ _
  | .fenceWrite _
  | .inboxWrite _ _ _
  | .statusFree _ _
  | .create _ _ _ _ _ _ _ _ _ _ _ _
  | .loadImage _ _ _ _ _
  | .report _ _ _ _
  | .destroy _ _
  | .invalidate _ _ _ _
  | .fabricRegisterRead _ _
  | .fabricRegisterWrite _ _ _
  | .peerTableWrite _ _ _ _ _
  | .debugHalt _ _ _ _
  | .debugRelease _ _ _ _
  | .readState _ _ _ _ _
  | .writeState _ _ _ _ _ _
  | .traceControl _ _ _
  | .watchpoint _ _ _ _ _ _ _
  | .snapshotArm _ _
  | .snapshotRead _ _ _
  | .errorLogRead _ _
  | .defectMapRead _
  | .reliabilityRegisterRead _ _ _
  | .reliabilityRegisterWrite _ _ _ _
  | .sysRelease _
  | .sysPost _
  | .hostMemoryRead _ _ _
  | .hostMemoryWrite _ _ _ _
  | .cxlViral
  | .powerCap _
  | .reset
  | .messageInjection _
  | .clearingNotice _
  | .peerTableHandshake _ _ _ _ => []

end Sys2Proof
end

