-- ==== Sys2Proof/Config.lean ====
section
/-!
DEFINITION. What one implementation fixes, and the free values: constants without a body, so that nothing about them
can be proved but what holds whatever they are.
-/

namespace Sys2Proof.Config

/-- The n-th free value of a run: a value the manual leaves open (the private bytes of a save area R321, the sums of a
member whose tile differs from the keeper's R127, the bytes a table names outside what the manual states). The step
that uses it reads and advances `State.fresh`. -/
opaque freeValue : Nat → Nat

/-- R102: RSQ, EXP2 and LOG2 deliver one of the two representable values that bracket the exact result, the same one on
every core for the same operation, type, rounding and input bits: `true` is the one of greater magnitude. -/
opaque faithful : (op ty rnd bits : Nat) → Bool

/-- R422, R425: the HBM stack, 0 to 7, that holds a physical address; the manual does not say which. -/
opaque stackOf : Nat → Nat

/-- R318: which of several operands that meet one trap its `detail` names; the manual does not say. -/
opaque operandNamed : (now core slot : Nat) → Nat

/-- R95: the second element of a `b` operand of a 64-bit operation that has one element only, by that element: the manual
does not say, but what a lane engine computes repeats bit for bit (R6, R110). -/
opaque halfMissing : (word : Nat) → Nat

/-- R108, R230: what `CVTS` into e8m0 makes of the code 0xFF that a `b` view supplies, by the scale and the rounding: no reserved code
is detected there, and the code stands for no number (R103). -/
opaque reservedScaled : (scale : Int) → (rnd : Nat) → Nat

/-- R371, R372: whether a trap message meets the matching ones in a router and is merged with them. -/
opaque trapsMeet : Nat → Bool

/-- R356: SHAKE256 with 32 bytes of output, over a list of bytes. -/
opaque shake256 : List (BitVec 8) → BitVec 256

/-- R356: the measurement of the running Ouva firmware. -/
opaque firmware : BitVec 256

/-- R356: the device identity, SHAKE256 of its XMSS public key. -/
opaque identity : BitVec 256

/-- R356: the 2,820 bytes of the XMSS signature made with a leaf over a report's bytes. -/
opaque xmss : (leaf : Nat) → List (BitVec 8) → Nat → BitVec 8

/-- R346: the n-th key drawn from the device's random source; no interface reads it. -/
opaque drawKey : Nat → BitVec 512

end Sys2Proof.Config
end

