-- ==== Sys2Proof/Machine/Num.lean ====
section
/-!
DEFINITION. Number formats and exact arithmetic (R55, R94 to R106, R109): element types, the exact value of a float,
one rounding to a destination type, and the integer fit. Everything is computed on Nat and Int; no result is rounded
before its one rounding.
-/

namespace Sys2Proof.Machine

/-- R55: the element types, in the order of their codes. -/
inductive Ty where
  | i8 | i16 | i32 | i64 | n8 | n16 | n32 | n64 | f32 | f16 | bf16 | e4m3 | e5m2 | i4x | e8m0 | b
  deriving DecidableEq, Repr

/-- R55: the type of a `type` field. -/
def Ty.ofCode (n : Nat) : Ty :=
  match n with
  | 0 => .i8 | 1 => .i16 | 2 => .i32 | 3 => .i64 | 4 => .n8 | 5 => .n16 | 6 => .n32 | 7 => .n64
  | 8 => .f32 | 9 => .f16 | 10 => .bf16 | 11 => .e4m3 | 12 => .e5m2 | 13 => .i4x | 14 => .e8m0 | _ => .b

/-- R55: the code of a type. -/
def Ty.code (t : Ty) : Nat :=
  match t with
  | .i8 => 0 | .i16 => 1 | .i32 => 2 | .i64 => 3 | .n8 => 4 | .n16 => 5 | .n32 => 6 | .n64 => 7
  | .f32 => 8 | .f16 => 9 | .bf16 => 10 | .e4m3 => 11 | .e5m2 => 12 | .i4x => 13 | .e8m0 => 14 | .b => 15

/-- R55: bits per element. -/
def Ty.bits (t : Ty) : Nat :=
  match t with
  | .i8 | .n8 | .e4m3 | .e5m2 | .e8m0 => 8
  | .i16 | .n16 | .f16 | .bf16 => 16
  | .i32 | .n32 | .f32 | .b => 32
  | .i64 | .n64 => 64
  | .i4x => 4

/-- R55: the integer class. -/
def Ty.isInt (t : Ty) : Bool :=
  match t with
  | .i8 | .i16 | .i32 | .i64 | .n8 | .n16 | .n32 | .n64 => true
  | _ => false

/-- R55: the float class. -/
def Ty.isFloat (t : Ty) : Bool :=
  match t with
  | .f32 | .f16 | .bf16 | .e4m3 | .e5m2 | .i4x | .e8m0 => true
  | _ => false

/-- R94: the signed types. -/
def Ty.isSigned (t : Ty) : Bool :=
  match t with
  | .i8 | .i16 | .i32 | .i64 => true
  | _ => false

/-- R55: two types of different class (`b` mixes with either). -/
def Ty.clash (t u : Ty) : Bool := (t.isInt && u.isFloat) || (t.isFloat && u.isInt)

/-! ## Integers (R94, R96) -/

/-- The value of `w` raw bits as an unsigned or two's-complement number (R94). -/
def intOf (signed : Bool) (w raw : Nat) : Int :=
  let r := raw % 2 ^ w
  if signed && decide (2 ^ (w - 1) ≤ r) then (r : Int) - (2 ^ w : Nat) else r

/-- The value of an integer element; `b` reads as unsigned (R95). -/
def Ty.intVal (t : Ty) (raw : Nat) : Int := intOf t.isSigned t.bits raw

/-- The low `w` bits of an integer. -/
def wrap (w : Nat) (v : Int) : Nat := (v % ((2 ^ w : Nat) : Int)).toNat

/-- R94: the least value of an integer type. -/
def Ty.minInt (t : Ty) : Int := if t.isSigned then -((2 ^ (t.bits - 1) : Nat) : Int) else 0

/-- R94: the greatest value of an integer type. -/
def Ty.maxInt (t : Ty) : Int :=
  if t.isSigned then ((2 ^ (t.bits - 1) : Nat) : Int) - 1 else ((2 ^ t.bits : Nat) : Int) - 1

/-- The nearest value of an integer type. -/
def Ty.clampInt (t : Ty) (v : Int) : Int := max t.minInt (min t.maxInt v)

/-- R96: an exact result fitted to an integer type. -/
def Ty.fit (t : Ty) (sat : Bool) (v : Int) : Nat := wrap t.bits (if sat then t.clampInt v else v)

/-! ## Exact values (R97, R98) -/

/-- The exact value of a float element: NaN, an infinity, or sign, magnitude and power of two. -/
inductive XNum where
  | nan
  | inf (neg : Bool)
  | fin (neg : Bool) (m : Nat) (e : Int)
  deriving DecidableEq, Repr

/-- R97: exponent and mantissa widths and bias of a float format. -/
structure FFmt where
  eb   : Nat
  mb   : Nat
  bias : Nat
  deriving DecidableEq, Repr

/-- R97: the formats; other types are never asked. -/
def Ty.fmt (t : Ty) : FFmt :=
  match t with
  | .f16 => ⟨5, 10, 15⟩
  | .bf16 => ⟨8, 7, 127⟩
  | .e4m3 => ⟨4, 3, 7⟩
  | .e5m2 => ⟨5, 2, 15⟩
  | _ => ⟨8, 23, 127⟩

/-- R97: the largest finite code. -/
def Ty.maxFin (t : Ty) : Nat :=
  match t with
  | .f16 => 0x7BFF
  | .bf16 => 0x7F7F
  | .e4m3 => 0x7E
  | .e5m2 => 0x7B
  | _ => 0x7F7FFFFF

/-- R97: the canonical NaN. -/
def Ty.qnan (t : Ty) : Nat :=
  match t with
  | .f16 => 0x7E00
  | .bf16 => 0x7FC0
  | .e4m3 => 0x7F
  | .e5m2 => 0x7E
  | _ => 0x7FC00000

/-- R97: the value of a code of f32, f16, bf16, e4m3 or e5m2. -/
def floatOf (t : Ty) (raw : Nat) : XNum :=
  let f := t.fmt
  let neg := raw / 2 ^ (f.eb + f.mb) % 2 == 1
  let ex := raw / 2 ^ f.mb % 2 ^ f.eb
  let m := raw % 2 ^ f.mb
  if t = .e4m3 then
    if ex = 15 ∧ m = 7 then .nan
    else if ex = 0 then .fin neg m (1 - (f.bias : Int) - f.mb)
    else .fin neg (m + 2 ^ f.mb) ((ex : Int) - f.bias - f.mb)
  else if ex = 2 ^ f.eb - 1 then (if m = 0 then .inf neg else .nan)
  else if ex = 0 then .fin neg m (1 - (f.bias : Int) - f.mb)
  else .fin neg (m + 2 ^ f.mb) ((ex : Int) - f.bias - f.mb)

/-- R103: the value of an e8m0 code other than 0xFF. -/
def e8m0Of (c : Nat) : XNum := .fin false 1 ((c : Int) - 127)

/-- An exact integer. -/
def XNum.ofInt (v : Int) : XNum := .fin (decide (v < 0)) v.natAbs 0

/-- The exact value of an element as a number, whatever its class (a nibble of i4x is read by `i4xRow`). -/
def Ty.num (t : Ty) (raw : Nat) : XNum :=
  match t with
  | .f32 | .f16 | .bf16 | .e4m3 | .e5m2 => floatOf t raw
  | .e8m0 => e8m0Of (raw % 256)
  | .i4x => .ofInt (intOf true 4 raw)
  | _ => .ofInt (t.intVal raw)

/-! ## Rounding (R99, R100) -/

/-- Whether a magnitude that was cut is rounded up: the mode (R99), the sign, the last kept bit, and the cut part
against one half. -/
def roundUp (rnd : Nat) (neg odd : Bool) (rem half : Nat) : Bool :=
  match rnd with
  | 0 => decide (half < rem) || (rem == half && odd && decide (0 < half))
  | 1 => false
  | 2 => !neg && decide (0 < rem)
  | _ => neg && decide (0 < rem)

/-- A magnitude m × 2^e as a multiple of 2^q, rounded under the mode. -/
def scaleTo (rnd : Nat) (neg : Bool) (m : Nat) (e q : Int) : Nat :=
  if q ≤ e then m * 2 ^ (e - q).toNat
  else
    let sh := (q - e).toNat
    let k := m / 2 ^ sh
    if roundUp rnd neg (k % 2 == 1) (m % 2 ^ sh) (2 ^ (sh - 1)) then k + 1 else k

/-- R99, R100: the code of an exact value rounded once to f32, f16, bf16, e4m3 or e5m2 in direction `dir`; what is
beyond the largest finite value then follows the table of R100 under `rnd`. DEDUCED: log entry 41. -/
def roundDir (t : Ty) (dir rnd : Nat) (sat : Bool) (x : XNum) : Nat :=
  let f := t.fmt
  let sgn (neg : Bool) (r : Nat) : Nat := if neg then r + 2 ^ (f.eb + f.mb) else r
  match x with
  | .nan => t.qnan
  | .inf neg =>
    if sat then sgn neg t.maxFin
    else if t = .e4m3 then t.qnan
    else sgn neg ((2 ^ f.eb - 1) * 2 ^ f.mb)
  | .fin neg m e =>
    if m = 0 then sgn neg 0
    else
      let emin : Int := 1 - (f.bias : Int) - f.mb
      let q : Int := max ((m.log2 : Int) + e - f.mb) emin
      let r := (q - emin).toNat * 2 ^ f.mb + scaleTo dir neg m e q
      if r ≤ t.maxFin then sgn neg r
      else if sat then sgn neg t.maxFin
      else if rnd = 0 ∨ (rnd = 2 ∧ neg = false) ∨ (rnd = 3 ∧ neg = true) then
        (if t = .e4m3 then t.qnan else sgn neg ((2 ^ f.eb - 1) * 2 ^ f.mb))
      else sgn neg t.maxFin

/-- R99, R100: an exact value rounded once under the destination's `rnd`. DEDUCED: log entry 41. -/
def roundFloat (t : Ty) (rnd : Nat) (sat : Bool) (x : XNum) : Nat := roundDir t rnd rnd sat x

/-- A finite value rounded to an integer under a mode. -/
def roundInt (rnd : Nat) (neg : Bool) (m : Nat) (e : Int) : Int :=
  let k := scaleTo rnd neg m e 0
  if neg then -(k : Int) else k

/-- R109: the exponent rule toward e8m0; `none` where the domain trap is taken. -/
def toE8m0 (rnd : Nat) (x : XNum) : Option Nat :=
  match x with
  | .fin false m e =>
    if m = 0 then none
    else
      let b := m.log2
      let base : Int := (b : Int) + e
      let exact := m == 2 ^ b
      let up := if rnd = 2 then !exact else if rnd = 0 then decide (3 * 2 ^ b ≤ 2 * m) else false
      some ((max (-127) (min 127 (if up then base + 1 else base))) + 127).toNat
  | _ => none

/-- R99, R100, R109: an exact value written to a destination of the float class, or to an integer type (rounded under
`rnd`, then clamped whatever `sat` holds); `none` is the conversion-domain trap. -/
def Ty.ofNum (t : Ty) (rnd : Nat) (sat : Bool) (x : XNum) : Option Nat :=
  match t with
  | .f32 | .f16 | .bf16 | .e4m3 | .e5m2 => some (roundFloat t rnd sat x)
  | .e8m0 => toE8m0 rnd x
  | .i4x =>
    match x with
    | .nan => some 0
    | .inf neg => some (wrap 4 (if neg then -7 else 7))
    | .fin neg m e => some (wrap 4 (max (-7) (min 7 (roundInt rnd neg m e))))
  | _ =>
    match x with
    | .nan => some 0
    | .inf neg => some (wrap t.bits (if neg then t.minInt else t.maxInt))
    | .fin neg m e => some (wrap t.bits (t.clampInt (roundInt rnd neg m e)))

/-! ## Exact operations -/

/-- The negation. -/
def XNum.neg (x : XNum) : XNum :=
  match x with
  | .nan => .nan
  | .inf n => .inf (!n)
  | .fin n m e => .fin (!n) m e

/-- The absolute value. -/
def XNum.abs (x : XNum) : XNum :=
  match x with
  | .nan => .nan
  | .inf _ => .inf false
  | .fin _ m e => .fin false m e

/-- The exact product (R99); ∞ × 0 is NaN. -/
def XNum.mul (x y : XNum) : XNum :=
  match x, y with
  | .nan, _ => .nan
  | _, .nan => .nan
  | .inf a, .inf b => .inf (a != b)
  | .inf a, .fin b m _ => if m = 0 then .nan else .inf (a != b)
  | .fin a m _, .inf b => if m = 0 then .nan else .inf (a != b)
  | .fin a m e, .fin b n f => .fin (a != b) (m * n) (e + f)

/-- A finite value as a signed multiple of 2^q, where q is at most its power. -/
def XNum.signedAt (q : Int) (x : XNum) : Int :=
  match x with
  | .fin neg m e => let k : Int := (m * 2 ^ (e - q).toNat : Nat); if neg then -k else k
  | _ => 0

/-- The power of two of a finite value. -/
def XNum.pow (x : XNum) : Option Int :=
  match x with
  | .fin _ m e => if m = 0 then none else some e
  | _ => none

/-- The least power of two of the nonzero finite terms. -/
def minPow (xs : List XNum) : Int :=
  match xs with
  | [] => 0
  | x :: rest =>
    match x.pow, rest.filterMap XNum.pow with
    | none, _ => minPow rest
    | some e, [] => e
    | some e, _ => min e (minPow rest)

/-- Whether a term is a zero of the given sign. -/
def XNum.isZero (neg : Bool) (x : XNum) : Bool :=
  match x with
  | .fin n m _ => m == 0 && n == neg
  | _ => false

/-- R99: the exact sum of its terms, an exact zero taking the sign the rule gives. -/
def sumNum (rnd : Nat) (xs : List XNum) : XNum :=
  if xs.any (· == .nan) then .nan
  else
    let pos := xs.any (· == .inf false)
    let neg := xs.any (· == .inf true)
    if pos && neg then .nan
    else if pos then .inf false
    else if neg then .inf true
    else
      let q := minPow xs
      let tot := (xs.map (XNum.signedAt q)).foldl (· + ·) 0
      if tot = 0 then
        if xs.all (XNum.isZero true) then .fin true 0 0
        else if xs.all (XNum.isZero false) then .fin false 0 0
        else .fin (rnd == 3) 0 0
      else .fin (decide (tot < 0)) tot.natAbs q

/-- The exact difference. -/
def XNum.sub (rnd : Nat) (x y : XNum) : XNum := sumNum rnd [x, y.neg]

/-- The quotient of two magnitudes to 80 bits with the rest jammed into the last bit, so that one rounding of it is the
rounding of the exact quotient. -/
def quot (m n : Nat) (e : Int) : Nat × Int :=
  let k := 80 + n.log2
  let q := m * 2 ^ k / n
  (2 * q + (if m * 2 ^ k % n = 0 then 0 else 1), e - k - 1)

/-- R102: the quotient. -/
def XNum.div (x y : XNum) : XNum :=
  match x, y with
  | .nan, _ => .nan
  | _, .nan => .nan
  | .inf _, .inf _ => .nan
  | .inf a, .fin b _ _ => .inf (a != b)
  | .fin a _ _, .inf b => .fin (a != b) 0 0
  | .fin a m e, .fin b n f =>
    if n = 0 then (if m = 0 then .nan else .inf (a != b))
    else let p := quot m n (e - f); .fin (a != b) p.1 p.2

/-- The integer square root by trial of `k` bits, from the top. -/
def isqrt (k n acc : Nat) : Nat :=
  match k with
  | 0 => acc
  | k + 1 => let t := acc + 2 ^ k; if t * t ≤ n then isqrt k n t else isqrt k n acc

/-- A square root to 64 bits or more with the rest jammed: the value m × 2^e, e even. -/
def rootOf (m : Nat) (e : Int) : Nat × Int :=
  let p := if e % 2 = 0 then (m, e) else (2 * m, e - 1)
  let n := p.1 * 2 ^ 128
  let r := isqrt (n.log2 / 2 + 1) n 0
  (2 * r + (if r * r = n then 0 else 1), (p.2 - 128) / 2 - 1)

/-- R102: the square root. -/
def XNum.sqrt (x : XNum) : XNum :=
  match x with
  | .nan => .nan
  | .inf neg => if neg then .nan else .inf false
  | .fin neg m e =>
    if m = 0 then .fin neg 0 0
    else if neg then .nan
    else let p := rootOf m e; .fin false p.1 p.2

/-- R102: the reciprocal square root, before its faithful rounding. -/
def XNum.rsq (x : XNum) : XNum :=
  match x with
  | .nan => .nan
  | .inf neg => if neg then .nan else .fin false 0 0
  | .fin neg m e =>
    if m = 0 then .inf neg
    else if neg then .nan
    else
      let p := if e % 2 = 0 then (m, e) else (2 * m, e - 1)
      let k := 160 + 2 * (p.1.log2 / 2)
      let n := 2 ^ k / p.1
      let r := isqrt (n.log2 / 2 + 1) n 0
      let exact := 2 ^ k % p.1 == 0 && r * r == n
      .fin false (2 * r + (if exact then 0 else 1)) (-(p.2 / 2) - k / 2 - 1)

/-- ln 2 × 2^200, rounded down. -/
def ln2x200 : Nat := 1113844574712631719546256151097547306333272293549090750737802

/-- The terms of 2^f = Σ (f ln 2)^k / k!, all scaled by 2^200; `x` is f ln 2. -/
def expTerms (k n x t acc : Nat) : Nat :=
  match k with
  | 0 => acc
  | k + 1 => let t' := t * x / 2 ^ 200 / n; expTerms k (n + 1) x t' (acc + t')

/-- R102: 2^x, before its faithful rounding: a value just below the exact one, with the rest jammed; exact for an
integer. -/
def XNum.exp2 (x : XNum) : XNum :=
  match x with
  | .nan => .nan
  | .inf neg => if neg then .fin false 0 0 else .inf false
  | .fin neg m e =>
    if m = 0 then .fin false 1 0
    else if 20 < (m.log2 : Int) + e then (if neg then .fin false 1 (-5000) else .fin false 1 5000)
    else
      let v : Int := if e < 0 then 0 else if neg then -((m * 2 ^ e.toNat : Nat) : Int) else (m * 2 ^ e.toNat : Nat)
      if 0 ≤ e then .fin false 1 v
      else
        let sh := (-e).toNat
        let sv : Int := if neg then -(m : Int) else m
        let fl := sv / ((2 ^ sh : Nat) : Int)
        let fr := (sv % ((2 ^ sh : Nat) : Int)).toNat
        if fr = 0 then .fin false 1 fl
        else
          let f200 := fr * 2 ^ 200 / 2 ^ sh
          let x200 := f200 * ln2x200 / 2 ^ 200
          let r := expTerms 48 1 x200 (2 ^ 200) (2 ^ 200) / 2 ^ 56
          .fin false (2 * (min r (2 ^ 145 - 1)) + 1) (fl - 145)

/-- The bits of log2 of y / 2^192, for y from 2^192 to below 2^193: each squaring gives the next. -/
def logBits (k y acc : Nat) : Nat :=
  match k with
  | 0 => acc
  | k + 1 =>
    let z := y * y / 2 ^ 192
    if 2 ^ 193 ≤ z then logBits k (z / 2) (2 * acc + 1) else logBits k z (2 * acc)

/-- R102: log2 x, before its faithful rounding: exact for a power of two, else a value just below the magnitude's
truncation with the rest jammed. -/
def XNum.log2 (x : XNum) : XNum :=
  match x with
  | .nan => .nan
  | .inf neg => if neg then .nan else .inf false
  | .fin neg m e =>
    if m = 0 then .inf true
    else if neg then .nan
    else
      let b := m.log2
      let i : Int := (b : Int) + e
      if m = 2 ^ b then .ofInt i
      else
        let y := m * 2 ^ 192 / 2 ^ b
        let tot : Int := i * ((2 ^ 128 : Nat) : Int) + logBits 128 y 0
        .fin (decide (tot < 0)) (2 * (if 0 ≤ tot then tot.natAbs else tot.natAbs - 1) + 1) (-129)

/-- R102, R100: the two values of a type that bracket a result, and the choice of one of them, of greater magnitude where
`away`; a choice beyond the largest finite value overflows under `rnd`. DESIGN CHOICE: log entry 14. -/
def faithfulRound (t : Ty) (rnd : Nat) (sat away : Bool) (x : XNum) : Nat :=
  let neg := match x with | .fin n _ _ => n | _ => false
  roundDir t (if away then (if neg then 3 else 2) else 1) rnd sat x

/-- The float remainder a − trunc(a ÷ b) × b (R229). -/
def XNum.rem (x y : XNum) : XNum :=
  match x, y with
  | .nan, _ => .nan
  | _, .nan => .nan
  | .inf _, _ => .nan
  | .fin a m e, .inf _ => .fin a m e
  | .fin a m e, .fin _ n f =>
    if n = 0 then .nan
    else
      let q := min e f
      let i := m * 2 ^ (e - q).toNat
      let j := n * 2 ^ (f - q).toNat
      .fin a (i % j) q

/-- R237, R101: the order of two numbers that are not NaN, −0 equal to +0. -/
def XNum.lt (x y : XNum) : Bool :=
  match x, y with
  | .inf true, .inf true => false
  | .inf true, .fin _ _ _ => true
  | .inf true, .inf false => true
  | .fin _ _ _, .inf false => true
  | .fin a m e, .fin b n f =>
    let q := min e f
    decide ((XNum.fin a m e).signedAt q < (XNum.fin b n f).signedAt q)
  | _, _ => false

/-- Equality as numbers, −0 equal to +0. -/
def XNum.eqv (x y : XNum) : Bool :=
  match x, y with
  | .nan, _ => false
  | _, .nan => false
  | x, y => !x.lt y && !y.lt x

/-- R101: the order of `MIN` and `MAX`, in which −0 stands below +0. -/
def XNum.ltZ (x y : XNum) : Bool := x.lt y || (x.isZero true && y.isZero false)

/-- R101: the smaller (or greater) of two, a NaN giving way to a number. -/
def XNum.pick (greater : Bool) (x y : XNum) : XNum :=
  match x, y with
  | .nan, y => y
  | x, .nan => x
  | x, y => if greater then (if x.ltZ y then y else x) else (if y.ltZ x then y else x)

/-- R102: rounding to an integral value; `rnd` 3 is FLOOR, 2 CEIL, 0 RNDN. A zero keeps the operand's sign. -/
def XNum.integral (rnd : Nat) (x : XNum) : XNum :=
  match x with
  | .fin neg m e => if 0 ≤ e then .fin neg m e else .fin neg (scaleTo rnd neg m e 0) 0
  | x => x

/-! ## i4x rows (R104, R105) -/

/-- What one nibble position of an i4x row holds: a value, or a reserved code with its fault code (R107). -/
inductive I4 where
  | val (x : XNum)
  | bad (code : Nat)
  deriving DecidableEq, Repr

/-- The value of a nibble that is no grit. -/
def nibble (n : Nat) : I4 := .val (.ofInt (intOf true 4 n))

/-- R105: the elements of a row of bytes, read in pairs from its first byte. DEDUCED: log entry 80. -/
def i4xRow (bs : List Nat) : List I4 :=
  match bs with
  | [] => []
  | [x] =>
    let lo := x % 16
    let hi := x / 16 % 16
    if lo = 8 ∧ hi = 8 then [.bad 0x12, .bad 0x12]
    else if lo = 8 then [.bad 0x13, nibble hi]
    else if hi = 8 then [nibble lo, .bad 0x13]
    else [nibble lo, nibble hi]
  | x :: y :: rest =>
    let lo := x % 16
    let hi := x / 16 % 16
    let carrier : I4 := if y % 128 = 127 then .bad 0x14 else .val (floatOf .e4m3 y)
    let zero : I4 := .val (.fin false 0 0)
    (if lo = 8 ∧ hi = 8 then
      [.bad 0x12, .bad 0x12,
        if y % 16 = 8 then .bad 0x11 else nibble (y % 16), if y / 16 % 16 = 8 then .bad 0x11 else nibble (y / 16 % 16)]
    else if lo = 8 then [carrier, nibble hi, zero, zero]
    else if hi = 8 then [nibble lo, carrier, zero, zero]
    else
      [nibble lo, nibble hi,
        if y % 16 = 8 then .bad 0x11 else nibble (y % 16), if y / 16 % 16 = 8 then .bad 0x11 else nibble (y / 16 % 16)])
      ++ i4xRow rest

end Sys2Proof.Machine
end

