-- ==== Sys2Proof/Machine/State.lean ====
section
/-!
DEFINITION. The state of one X12 as plain data, its reset value, and the reasons a step can stop.

Tables are sorted lists of (key, value) pairs with a default for what is not listed, so that the 12,288 cores of the
reset device are one empty list. All bytes of the device (register spaces, slices, HBM, host memory, loaded code) stand
in one canonical list `State.mem`; Machine/Ops.lean says where each lies in it.
-/

namespace Sys2Proof.Machine

/-- Raised by no meaning: every case the manual gives is a next state (safe). -/
inductive Fault where
  /-- Raised by no meaning; it keeps the type from being empty (safe). -/
  | impossible
  deriving DecidableEq, Repr

/-- A refusal: the instruction has no meaning yet. -/
inductive Refusal where
  /-- Raised by an arm of `exec` that has no meaning yet (safe). -/
  | notModelled (mnemonic : String)
  deriving DecidableEq, Repr

/-- R21: the four states of a slot. -/
inductive SlotSt where
  | unbound | idle | running | halted
  deriving DecidableEq, Repr

/-- A place in the register window of a slot; where its byte lies follows the slot's window and scrum (R48, R141). -/
structure Place where
  core : Nat
  slot : Nat
  off  : Nat
  deriving DecidableEq, Repr

/-- Where a result lands: the firing that waits for it, the identity of its pending mark, and the bytes (R69). -/
structure Ret where
  core   : Nat
  slot   : Nat
  fid    : Nat
  id     : Nat
  place  : Place
  len    : Nat
  deriving DecidableEq, Repr

/-- R69: one pending mark of a slot. `held`: only a held effect can clear it (R279). `near`: it waits for a near load
or atomic reply, not for a token (R15); `eng`: for the token of an engine command (R166). -/
structure Pend where
  id    : Nat
  place : Place
  len   : Nat
  held  : Bool
  near  : Bool
  eng   : Bool
  deriving DecidableEq, Repr

/-- A message, invocation, reply or spawn (R30, R33): its header and argument words; `arr` is the clock at its arrival,
`whq` the cycles its queue stood withheld since (R409), and `retry` the umpire's retry count (R421). `launch` is 0, or the launch whose
firing reads it (R350) or whose firing sent this spawn (R31). -/
structure Msg where
  hdr    : BitVec 128
  words  : List W32
  arr    : W64
  whq    : Nat
  retry  : Nat
  launch : Nat
  deriving DecidableEq, Repr

/-- R306: an engine command as it stands in the engine's queue. `code` is 0 to 9 for CPY CPYS GATH SCAT FILL RED RATM
BSIG RINV WQRY; `guard` names the guard slot and sense it waits for (R91); `words` is RINV's closed message. -/
structure Cmd where
  ctx    : Nat
  core   : Nat
  slot   : Nat
  fid    : Nat
  handle : Nat
  code   : Nat
  op     : BitVec 8
  a      : BitVec 128
  b      : BitVec 128
  c      : BitVec 128
  e      : BitVec 128
  guard  : Option (Nat × Bool)
  ret    : Ret
  words  : List W32
  deriving DecidableEq, Repr

/-- R289: an atomic on its way: operation 0 to 8 (AADD AMIN AMAX AAND AOR AXOR ASWP ACAS AINC), near address, type
code, operands; `ord`: its firing was a scrum as it issued (R146). -/
structure AtomReq where
  core : Nat
  slot : Nat
  op   : Nat
  addr : Nat
  ty   : Nat
  b0   : W64
  b1   : W64
  ret  : Ret
  ord  : Bool
  deriving DecidableEq, Repr

/-- R294: the object operations. -/
inductive ObjOp where
  | acq | rel | trya | bara | barw | bar | semp | semw | objq
  deriving DecidableEq, Repr

/-- R297, R386: how the answer to an operation of a peer finds its way back: the peer, the tag and its generation, and the
cluster whose engine serves it; `lost` where it came as a far release that had lost a plane (R174). -/
structure PeerRet where
  sdev    : Nat
  tag     : Nat
  gen     : Nat
  cluster : Nat
  lost    : Bool
  deriving DecidableEq, Repr

/-- R291, R294: an object operation on its way to the object's home; `peer` for one that came over the fabric. -/
structure ObjReq where
  op   : ObjOp
  ref  : W64
  arg  : Nat
  ctx  : Nat
  core : Nat
  slot : Nat
  fid  : Nat
  peer : Option PeerRet
  deriving DecidableEq, Repr

/-- R131: the rows an MDRP adds: target core and register-space offset, type code, rows of 16 words; `ord` as in `AtomReq`. -/
structure MdrpReq where
  ctx  : Nat
  core : Nat
  off  : Nat
  ty   : Nat
  rows : List (BitVec 512)
  ret  : Ret
  src  : Nat
  ord  : Bool
  deriving DecidableEq, Repr

/-- R284, R155: a load of another slice: whether a scrum issued it (R146), its near address and size, and where its reply lands. -/
structure LdReq where
  ord  : Bool
  addr : Nat
  size : Nat
  ret  : Ret
  deriving DecidableEq, Repr

/-- R277: an entry of the commit buffer; a load stands there behind an atomic of its firing on the same word (R155) or behind a fence, and
`rq` tells whether a message reserved a reply entry (R300). `fence` is no entry: it marks where a fence of scope `sc` (0 `.c`, 1 `.d`, 2 `.p`,
3 `.f`) was passed while older accesses were held; `ids` are the tokens it waits for (R166). -/
inductive Held where
  | send (m : Msg) (core : Nat) (ret : Option Ret) (rq : Bool)
  | cmd (c : Cmd)
  | atomic (a : AtomReq)
  | obj (o : ObjReq)
  | trig
  | mdrp (r : MdrpReq)
  | adv (entry : Nat) (write : Bool) (n : Nat)
  | ld (p : LdReq)
  | fence (sc : Nat) (ids : List Nat)
  deriving DecidableEq, Repr

/-- R278: a journal entry: address in `State.mem` and the pre-image. -/
structure Jrn where
  addr  : Nat
  bytes : List Byte
  deriving DecidableEq, Repr

/-- R79: the objects a halt can withhold. -/
inductive Obj where
  | port (core entry : Nat)
  | reqq (core ctx : Nat)
  | rplq (core slot fid : Nat)
  | home (addr : Nat)
  | trigger (launch : Nat)
  | completion (launch : Nat)
  | token (core slot fid id : Nat)
  | pitch (key : Nat)
  | klink (core : Nat)
  | clop (core : Nat)
  | scrum (core : Nat)
  deriving DecidableEq, Repr

/-- Items in flight on the mesh and inside the device; their deliveries are the events that name them. A near access names its core,
slot and firing, and whether that was a scrum as it issued (R146); a reply that carries a poison mark names the near address it was read
from (R424). -/
inductive Pkt where
  | nearLd (core slot : Nat) (ord : Bool) (addr size : Nat) (ret : Ret)
  | nearSt (core slot fid : Nat) (ord : Bool) (addr : Nat) (bytes : List Byte)
  | ldReply (ret : Ret) (bytes : List Byte) (poison : Option Nat)
  | token (ret : Ret) (v : W32)
  | atomic (a : AtomReq)
  | obj (o : ObjReq)
  | msg (m : Msg) (core : Nat) (ret : Option Ret)
  | notice (hid : BitVec 16) (ctx src : Nat) (obj : Obj)
  | clear (hid : BitVec 16) (ctx src : Nat) (obj : Obj)
  | kpost (keeper member : Nat) (epoch : BitVec 4) (scales : List Byte)
  | clRow (core sender : Nat) (row : BitVec 512)
  | mdrp (r : MdrpReq)
  | trap (m : BitVec 512)
  | sysReq (ctx core slot fid : Nat) (words : List W32)
  | kick (q : Cmd)
  | trig (core slot fid launch : Nat)
  | fence (core slot fid sc : Nat) (ids : List Nat)
  deriving DecidableEq, Repr

/-- A source of a guard (R90): its raw elements as they stood at issue, where their bytes lie, and the marks on them whose landings
replace their bytes. -/
structure GSrc where
  ty    : Nat
  vec   : Bool
  raws  : List W64
  place : Place
  waits : List Nat
  deriving DecidableEq, Repr

/-- A guard source of a guard operation: the guard it names while that is unresolved (R90), or its mask. -/
inductive GMask where
  | idx (g : Nat)
  | val (m : BitVec 16)
  deriving DecidableEq, Repr

/-- What a guard slot computes once its last source has landed (R90, R237, R238). `lanes` is 0 for `CMP` and the lane
count for `CMPM`; `cond` is the condition's code. -/
inductive GCalc where
  | cmp (cond lanes : Nat) (a b : GSrc)
  | and (a b : GMask)
  | or (a b : GMask)
  | xor (a b : GMask)
  | not (a : GMask)
  | mov (a : GSrc)
  deriving DecidableEq, Repr

/-- R236: a guard slot: its lane mask, and the computation it waits for while it is unresolved (R90). -/
structure Guard where
  m    : BitVec 16
  src  : Option GCalc
  deriving DecidableEq, Repr

/-- A port of the firing in a slot (R8, R16, R61): handle, port-table entry, rate, direction, slots advanced, the
output slots written, counted from the write position at the firing's start, and `skip`, how far that start lies from the pointer of the
port table: past the slots that saved firings keep (R13, R19). DESIGN CHOICE: log entry 153. -/
structure PortUse where
  h     : Nat
  entry : Nat
  rate  : Nat
  out   : Bool
  adv   : Nat
  wr    : List Nat
  skip  : Int
  deriving DecidableEq, Repr

/-- R270, R272: the repetition buffer: the captured body with its addresses, and the next pass and instruction. `susp`: a
handled trap of the repetition stands, to which `ERET` may return (R273, R319). -/
structure Rep where
  body   : List (Instr × BitVec 24 × Nat)
  count  : Nat
  stag   : Int
  k      : Nat
  j      : Nat
  active : Bool
  after  : BitVec 24
  susp   : Bool
  deriving DecidableEq, Repr

/-- Why the slot's instruction has not retired (R58, R69, R91, R133, R247, R253, R295, R302, R320). `sent`: an object
operation or request has left and its answer is awaited; `ring h o out`: a read (or write) of ring `h` needs slot `o`
filled (or free), `rings` several of them; `bank`: these banks of cores are not ready, or in retention (R52, R53);
`align set`: the align set as core, slot and firing (R247); `compose k`: a `CMPS` for k cores (R138);
`rollback`: issue has stopped and the firing waits to be undone (R281); `answer`: it has come; `trap`: the wait ends in a trap. -/
inductive Wait where
  | none
  | ring (h o : Nat) (out : Bool)
  | rings (l : List (Nat × Nat × Bool))
  | reply
  | bank (bs : List (Nat × Nat))
  | pending
  | guard
  | space
  | array
  | sent
  | answer (vals : List W32)
  | trap (code : Nat)
  | event
  | align (set : List (Nat × Nat × Nat))
  | mma (acts sums : Nat)
  | compose (k : Nat)
  | drain
  | rollback
  deriving DecidableEq, Repr

/-- R245: an entry of the run-ahead buffer. -/
structure RaEntry where
  gen  : BitVec 3
  addr : Nat
  size : Nat
  val  : List Byte
  deriving DecidableEq, Repr

/-- R420: a block that was left at its last instruction and whose check has not arrived: its start, where control went (`none` after END),
the core that ran it (R151), and the halfword behind its last instruction. -/
structure Check where
  start  : BitVec 24
  target : Option (BitVec 24)
  core   : Nat
  stop   : Nat
  deriving DecidableEq, Repr

/-- R139: the scrum a firing owns: size, member index of position 0, and the owner's window length. -/
structure Scrum where
  k    : Nat
  base : Nat
  len  : Nat
  deriving DecidableEq, Repr

/-- R118, R119: a latched weight tile: type code, depth, sixteen columns of bytes, scale form (0 none, 1 per tile, 2 per
column), the scale of each block and column, and the keeper epoch of its post. -/
structure Tile where
  fmt    : Nat
  kt     : Nat
  cols   : List (List Byte)
  sform  : Nat
  scales : List (List Byte)
  epoch  : BitVec 4
  deriving DecidableEq, Repr

/-- R119, R120, R130, R133, R134: the matrix array of a core and what is kept with it: the active tile, the columns of the shadow tile
that an `MLW.c` is filling, the rows of `mx.res` and, behind them, the drained rows that still wait for room there; `claim` is the slot
and firing that holds the array, `last` the one that held it last. -/
structure MArr where
  tile   : Option Tile
  shadow : Option (List (List Byte))
  afmt   : W32
  ovf    : Bool
  res    : List (BitVec 512)
  drain  : List (BitVec 512)
  resTy  : Nat
  claim : Option (Nat × Nat)
  last  : Option (Nat × Nat × Nat)
  deriving DecidableEq, Repr

/-- R20: a firing slot, with the firing it runs. `evAt` is the clock of the last event (R254). `ran` counts the cycles of its time slice (R365), `claimAt` is the clock
at which it claimed its message and `whc` the cycles it has stood halted since (R409); `opened` lists the branches that opened
a run-ahead generation, oldest first (R245), `acqs` the landed tokens not yet read (R170), `marr` is the array state written to its save area (R134), and
`dbgQ` the debugger's writes that wait for a landing (R403). `kfault` is the block of the reserved scale whose keeper trap the firing
takes at its next instruction boundary (R127); `doom` is the cause with which a firing that was given up while it stood halted or saved is
killed once it would run on, or 0 (R72); `wfeAt` is the clock at which its `WFE` sampled the event register (R254); `sigs` holds the phases in
which a `BSIG` of the firing arrived at barriers (R77). -/
structure Slot where
  bind    : BitVec 256
  zeroing : Bool
  st      : SlotSt
  fid     : Nat
  act     : BitVec 12
  pc      : BitVec 24
  views   : SMap (BitVec 128)
  guards  : SMap Guard
  lnk     : W32
  dl      : W64
  ev      : Bool
  evAt    : Option W64
  trapAct : Bool
  wid     : W64
  launch  : Nat
  child   : Bool
  pri     : Nat
  pend    : List Pend
  ports   : List PortUse
  restart : Bool
  ending  : Bool
  cbuf    : List Held
  jrn     : List Jrn
  outMsg  : List W32
  req     : Option Msg
  reqPos  : Nat
  replied : Bool
  rpl     : List Msg
  rplPos  : Nat
  rplRes  : List Nat
  rep     : Option Rep
  wait    : Wait
  waitOn  : List Obj
  waitExp : Option Nat
  waitRem : Option Nat
  locks   : List Nat
  phases  : SMap Nat
  posts   : List Nat
  feeds   : List Nat
  trigd   : Bool
  hid     : BitVec 16
  scrum   : Option Scrum
  member  : Option Nat
  claimed : Bool
  gen     : BitVec 3
  opened  : List (BitVec 24 × BitVec 3)
  ra      : List RaEntry
  acqs    : List (Place × Nat)
  blk     : Option (BitVec 24)
  bcore   : Nat
  checks  : List Check
  scSel   : BitVec 14
  since   : Nat
  ran     : Nat
  claimAt : Nat
  whc     : Nat
  marr    : Option MArr
  dbgQ    : List (Nat × List Byte)
  kfault  : Option Nat
  doom    : Nat
  wfeAt   : Option W64
  sigs    : SMap Nat
  deriving DecidableEq, Repr

/-- A queue entry (R34): the message, and the slot and firing that claimed it, if any. -/
structure QEntry where
  m       : Msg
  claimed : Option Nat
  deriving DecidableEq, Repr

/-- R39, R302: a reserved entry of the core's send queue: its slot and firing, and once its message has left the commit buffer
(R279) the message, its target core and its token, until the tail flit is injected. -/
structure SendEntry where
  slot : Nat
  fid  : Nat
  msg  : Option (Msg × Nat × Option Ret)
  deriving DecidableEq, Repr

/-- R127, R128: a sum row that a member holds, with the K_t and the format bits (`atype`, `nsc`) its keeper cut the stream by; K_t is 0
for a keeper without a tile. -/
structure KSum where
  row : BitVec 576
  kt  : Nat
  fmt : Nat
  deriving DecidableEq, Repr

/-- R127: a cut activation row that the keeper has not broadcast: its scales, its blocks, what it was cut by (as in `KSum`), and the
posts there were as its first row arrived. -/
structure KRow where
  scales : List Byte
  blocks : Nat
  kt     : Nat
  fmt    : Nat
  posts  : SMap (BitVec 4 × List Byte)
  deriving DecidableEq, Repr

/-- R127: what the keeper hardware of a core holds: the latest post of each member (epoch and scales), the rows of the
activation row it is gathering with the posts there were as the first arrived, the cut rows it has not broadcast, and whether a reserved scale stalls it. -/
structure Keeper where
  posts : SMap (BitVec 4 × List Byte)
  part  : List (BitVec 512)
  snap  : SMap (BitVec 4 × List Byte)
  queue : List KRow
  stall : Bool
  deriving DecidableEq, Repr

/-- R323, R408: one counter: the count, and the clocks from which its time-enabled and its time-running value grow: those of its last
reset. DEDUCED: log entry 129. -/
structure Counter where
  count   : W64
  rstAt   : W64
  runAt   : W64
  deriving DecidableEq, Repr

/-- R409: a scorecard entry. -/
structure Score where
  ctx    : Nat
  sender : Nat
  tr     : W32
  qw     : W32
  run    : W32
  wh     : W32
  n      : W32
  deriving DecidableEq, Repr

/-- R419: an instruction of the replay queue: the register-space bytes it wrote, with the values it writes again; `bad`: its captured
sources have lost their parity. -/
structure Replay where
  cells : List Host.Cell
  bad   : Bool
  deriving DecidableEq, Repr

/-- R404: an instruction that a core issued: the clock, the slot, context and halfword address, and whether the slot was in a scrum. -/
structure Issued where
  at_   : W64
  slot  : Nat
  ctx   : Nat
  pc    : Nat
  scrum : Bool
  deriving DecidableEq, Repr

/-- `kpLast` is the latest sum row that came, which `h53` reads (R62, R128), `wdCnt` the watchdog's count (R83), `pmAt` the clock of the last rotation of the event sets (R408), `iss` the
latest instruction the core issued (R404).

A core (R20), or the register file and microcode thread of a copy engine (R222, R306), which lacks the rest. -/
structure Core where
  slots   : SMap Slot
  ports   : SMap (BitVec 128)
  pwr     : W32
  bankAt  : SMap Nat
  skew    : SMap W32
  fired   : SMap Nat
  issued  : SMap Nat
  hiQ     : List QEntry
  loQ     : List QEntry
  resume  : SMap QEntry
  sendQ   : List SendEntry
  arr     : MArr
  clop    : List (BitVec 512)
  kpscl   : List KSum
  kpLast  : Option (BitVec 576)
  team    : W32
  epoch   : BitVec 4
  keeper  : Keeper
  clamp   : BitVec 4
  preq    : BitVec 4
  busy    : BitVec 4
  ended   : BitVec 4
  wdog    : W32
  wdCnt   : Nat
  fenced  : Bool
  remap   : Bool
  pmRot   : W32
  pmSet   : SMap W32
  pmAct   : Nat
  ctrs    : SMap Counter
  pmAt    : Nat
  score   : List Score
  ce      : W32
  repl    : W32
  rb      : W32
  kill    : W32
  ump     : W32
  umpAt   : List Nat
  biRes   : W32
  bist    : List (Nat × Nat × Ret)
  replay  : List Replay
  iss     : Option Issued
  deriving DecidableEq, Repr

/-- R374, R375: an entry of an engine's translation cache. -/
structure Tlb where
  ctx  : Nat
  va   : Nat
  size : Nat
  tgt  : Nat
  peer : Nat
  pa   : Nat
  w    : Bool
  deriving DecidableEq, Repr

/-- What a copy engine does with a fabric reply (R382): write it to near bytes, to far bytes, land it in a register
place of its microcode (`rel`: the answer of a far release that lost a plane, R174), only count it, take its value as the command's status, land its value under a token, or answer an
object operation. -/
inductive Cont where
  | near (addr len : Nat)
  | far (ctx va len : Nat)
  | reg (ret : Ret)
  | rel (ret : Ret)
  | ack
  | value
  | tok (ret : Ret)
  | obj (o : ObjReq)
  deriving DecidableEq, Repr

/-- One end of a copy (R307): a near address, or a far one. -/
inductive End where
  | near (a : Nat)
  | far (va : Nat)
  deriving DecidableEq, Repr

/-- A step of an engine command: n bytes copied, bytes written (poisoned or not), an element added (R116) or an atomic on a far word (R289). -/
inductive Micro where
  | copy (src dst : End) (n : Nat)
  | put (dst : End) (bs : List Byte) (psn : Bool)
  | add (src : Nat) (dst : End) (ty : Nat)
  | atom (va op ty : Nat) (b0 b1 : W64) (dst : Nat)
  deriving DecidableEq, Repr

/-- R385: a plane of a plane list, with how often its link to the peer had left the set (R174), and how often the list's class had been shed
on it (R390), as the list was built. -/
structure Listed where
  plane  : Nat
  losses : Nat
  sheds  : Nat
  deriving DecidableEq, Repr

/-- R384, R386, R387: a requester tag. -/
structure Tag where
  busy  : Bool
  gen   : BitVec 4
  tmos  : Nat
  hold  : Bool
  sent  : Nat
  peer  : Nat
  plane : Nat
  cls   : Nat
  cont  : Cont
  deriving DecidableEq, Repr

/-- R172: what the markers of a far release closed: its sequence, the planes used in either request class, how often each plane had been
lost as its class's list was built, and whether one of the lists has lost a plane since (R385). -/
structure FarMask where
  seq  : Nat
  m0   : BitVec 96
  m1   : BitVec 96
  c0   : List Byte
  c1   : List Byte
  lost : Bool
  deriving DecidableEq, Repr

/-- R173: a far release that waits at its destination for markers: sender, sequence, the planes still awaited of either
request class with the losses its sender counted for each plane, the request packet's header and payload, and whether a plane was lost
(R174). -/
structure FarRel where
  sdev : Nat
  src  : Nat
  prev : Nat
  seq  : Nat
  m0   : BitVec 96
  m1   : BitVec 96
  c0   : List Byte
  c1   : List Byte
  hdr  : BitVec 128
  body : List Byte
  lost : Bool
  deriving DecidableEq, Repr

/-- A copy engine (R305-R315, R371-R387 of its fabric port); `parked` holds each `BSIG` that has started and waits for the
older commands of its slot (R307); `lists` holds the plane lists (R385), and
`notices` the loss notices that came for a plane of a peer (R174). -/
structure Engine where
  queue   : List Cmd
  parked  : List Cmd
  cur     : Option Cmd
  todo    : List Micro
  outst   : Nat
  status  : W32
  ucode   : Bool
  uentry  : BitVec 24
  hid     : BitVec 16
  tlb     : List Tlb
  tags    : SMap Tag
  masks   : SMap (BitVec 96)
  seqs    : SMap Nat
  lists   : SMap (List Listed)
  lastRel : SMap Nat
  marked  : SMap FarMask
  holding : List FarRel
  seen    : List (Nat × Nat × Nat × Nat × Nat)
  notices : SMap Nat
  deriving DecidableEq, Repr

/-- R329: a data record with its payload. -/
structure DataRec where
  space : Nat
  addr  : Nat
  bytes : List Byte
  zeros : Nat
  deriving DecidableEq, Repr

/-- R328: an actor-table entry with its descriptors and register-space records. -/
structure Actor where
  valid   : Bool
  entry   : BitVec 24
  trapent : BitVec 24
  tmask   : W64
  descs   : List (BitVec 128)
  recs    : List DataRec
  inp     : List (Nat × Nat)
  outp    : List (Nat × Nat)
  minwin  : Nat
  deriving DecidableEq, Repr

/-- R327: a loaded object image; its code bytes stand in `State.mem`. -/
structure Image where
  codelen  : Nat
  actors   : List Actor
  sigs     : List W64
  launches : List (BitVec 1536)
  hash     : BitVec 256
  deriving DecidableEq, Repr

/-- R160: a binding of a region to an object. -/
structure Binding where
  ref   : W64
  start : Nat
  len   : Nat
  far   : Bool
  deriving DecidableEq, Repr

/-- R35: a message in the overflow area, and the core whose queue it is for. The items held apart for a saved firing
(R366) stand with that firing, in `State.saved`. -/
structure Spill where
  core  : Nat
  m     : Msg
  deriving DecidableEq, Repr

/-- R411: a watchpoint. -/
structure Watch where
  far    : Bool
  addr   : Nat
  mask   : W64
  action : Nat
  deriving DecidableEq, Repr

/-- R345, R346: a context; `smpAt` is the clock of its last sample tick (R404). -/
structure Ctx where
  live    : Bool
  debug   : Bool
  pfwd    : Bool
  fenced  : Bool
  sup     : Nat
  mbase   : Nat
  msize   : Nat
  root    : Nat
  obase   : Nat
  osize   : Nat
  tbase   : Nat
  tsize   : Nat
  key     : Option Nat
  image   : Option Image
  binds   : List Binding
  spills  : List Spill
  peers   : SMap (BitVec 16)
  trace   : W32
  smpAt   : W64
  mbLost  : Nat
  mbAt    : W64
  mbErrAt : Nat
  trLost  : Nat
  trAt    : W64
  watch   : SMap Watch
  haltLog : List (BitVec 128)
  seqs    : SMap Nat
  stale   : SMap Nat
  deriving DecidableEq, Repr

/-- R345, R351, R400: what a function's BAR0 shows: status entries and the last mailbox answer. -/
structure Func where
  status : SMap (BitVec 512)
  mbox   : W32
  data   : List Byte
  deriving DecidableEq, Repr

/-- R353: a level of a launch. -/
structure Level where
  width : Nat
  ext   : Nat
  cls   : Nat
  dense : Bool
  bv    : Bool
  bar   : BitVec 37
  deriving DecidableEq, Repr

/-- R350, R352: a launch in progress. `started` lists the firings begun (index, core, slot); `ended`, `trigs` count;
`kids` counts spawned children not ended; `retries` holds the retry count of each firing that a mismatch has rolled back (R421). -/
structure Launch where
  id       : Nat
  ctx      : Nat
  act      : Nat
  trig     : Bool
  irq      : Bool
  after    : Option Nat
  dl       : W64
  cobj     : Option (BitVec 37)
  levels   : List Level
  pc       : Option (Nat × Nat × Nat)
  msg      : Msg
  status   : Option (Nat × Nat)
  waiting  : Bool
  started  : List (Nat × Nat × Nat)
  ended    : Nat
  trigs    : Nat
  kids     : Nat
  retries  : SMap Nat
  trigDone : Bool
  done     : Bool
  deriving DecidableEq, Repr

/-- R311: a pitch counter. -/
structure Pitch where
  x       : Nat
  y       : Nat
  n       : Nat
  feeders : Nat
  waiting : List Cmd
  deriving DecidableEq, Repr

/-- R76: a live halt with its record. -/
structure Halt where
  stamp   : W64
  hid     : BitVec 16
  reached : BitVec 16
  core    : Nat
  slot    : Nat
  cause   : Nat
  okind   : Nat
  ctx     : Nat
  fid     : Nat
  deriving DecidableEq, Repr

/-- R78: a withhold mark on an object. -/
structure Mark where
  hid : BitVec 16
  ctx : Nat
  obj : Obj
  deriving DecidableEq, Repr

/-- A die: its logical-to-physical table (R378), HBM counts (R425) and rail margins (R428). -/
structure Die where
  tab   : SMap Byte
  hce   : W32
  hue   : W32
  hiv   : W32
  mv    : SMap W32
  vstat : W32
  temp  : W32
  deriving DecidableEq, Repr

/-- R393: the register block of a plane; `need` is the flits each peer's link keeps for retry and `kept` the classes it
carries (R389: 3 all, 2 without REQ1, 1 replies alone, 0 none); `losses` counts how often each peer's link has left the set, `sheds` how
often a request class was shed on it (R390: by 2 × peer + class); `run` a loopback run in progress. -/
structure Plane where
  stat  : W32
  ctl   : W32
  vofs  : W32
  tofs  : W32
  cor   : W32
  unc   : W32
  lb    : W32
  trim  : W32
  need  : SMap Nat
  kept  : SMap Nat
  losses : SMap Nat
  sheds : SMap Nat
  run   : Bool
  deriving DecidableEq, Repr

/-- R393: the fabric registers of the device. -/
structure Fab where
  tmo    : W32
  drop   : W32
  pod    : W32
  planes : SMap Plane
  relSeq : SMap Nat
  deriving DecidableEq, Repr

/-- R366, R368: a pre-empted firing: where it was saved, the slot it ran in, the header its area shows (R321), and what the
area's private contents stand for. `due`: the message it
gave way to, which fires first (R366, step 4). `late`: what landed for it while the area stood elsewhere (R70, R366). -/
structure Saved where
  core : Nat
  slot : Nat
  area : Nat
  head : List Byte
  body : Slot
  due  : Option Msg
  late : List (Nat × List Byte)
  deriving DecidableEq, Repr

/-- What moves next: an issue of a core or engine, an event of the table, a scan of the run-ahead unit (R245), a soft
error striking bytes (R417), corrected or not, or the captured sources of an entry of a replay queue (R419), an HBM sector whose tag no
longer fits (R422), a plane's light and codewords (R393), n merged fetches of a core (R408), or Ouva's
abandon of a saved firing of a slot (R368). -/
inductive Act where
  | issue (core : Nat)
  | event (i : Instr)
  | runAhead (core slot : Nat)
  | upset (addr len : Nat)
  | corrected (addr : Nat)
  | tamper (addr : Nat)
  | line (plane : Nat) (lit : Bool) (cor unc : Nat)
  | merged (core n : Nat)
  | spoiled (core entry : Nat)
  | giveUp (core slot : Nat)
  deriving DecidableEq, Repr

/-- One entry of the agenda: the cycles that pass before it, and what moves. -/
structure Turn where
  dt  : Nat
  act : Act
  deriving DecidableEq, Repr

/-- The state of the device. `agenda`, `curCore`, `curSlot`, `fresh` and `nextId` are the model's own. `poison` lists the
units marked poisoned (R417: 8 bytes of a slice, 256 of HBM), `parity` register bytes whose parity fails, `homes` the live
object blocks (R292) with the operations that wait there in object order (R159). `ouvaBad` says whether the stored Ouva image fails
its verification (R359); `hostOut` lists the completions of host reads: function, bytes, and 0 good, 1 poisoned, 2 unsupported. -/
structure State where
  agenda   : List Turn
  curCore  : Nat
  curSlot  : Nat
  fresh    : Nat
  nextId   : Nat
  pos      : BitVec 5
  now      : W64
  mem      : List Host.Cell
  poison   : List Nat
  parity   : List Nat
  tampered : List Nat
  homes    : SMap (List ObjReq)
  cores    : SMap Core
  engines  : SMap Engine
  ctxs     : SMap Ctx
  funcs    : SMap Func
  net      : List Pkt
  marks    : List Mark
  halts    : List Halt
  launches : List Launch
  pitch    : SMap Pitch
  dies     : SMap Die
  fab      : Fab
  fabOut   : List (Nat × BitVec 128 × List Byte)
  saved    : List Saved
  saves    : List (Nat × Saved)
  backstop : SMap (List (BitVec 512))
  errLog   : List (BitVec 512)
  aer      : Nat
  irqs     : List (Nat × Nat)
  snapAt   : Option W64
  snaps    : SMap (BitVec 512)
  powerCap : Bool
  leaf     : Nat
  fuses    : List Host.Cell
  ouvaBad  : Bool
  hostOut  : List (Nat × List Byte × Nat)
  deriving DecidableEq, Repr

/-! ## Reset values -/

/-- A slot after reset: no bind record (R21, R361), descriptors 0 (R54), `sys.lnk`, `sys.dl` 0 (R198). DESIGN CHOICE: log entry 11. -/
def Slot.reset : Slot where
  bind := 0
  zeroing := false
  st := .unbound
  fid := 0
  act := 0
  pc := 0
  views := []
  guards := []
  lnk := 0
  dl := 0
  ev := false
  evAt := none
  trapAct := false
  wid := 0
  launch := 0
  child := false
  pri := 0
  pend := []
  ports := []
  restart := true
  ending := false
  cbuf := []
  jrn := []
  outMsg := []
  req := none
  reqPos := 0
  replied := false
  rpl := []
  rplPos := 0
  rplRes := []
  rep := none
  wait := .none
  waitOn := []
  waitExp := none
  waitRem := none
  locks := []
  phases := []
  posts := []
  feeds := []
  trigd := false
  hid := 0
  scrum := none
  member := none
  claimed := false
  gen := 0
  opened := []
  ra := []
  acqs := []
  blk := none
  bcore := 0
  checks := []
  scSel := 0
  since := 0
  ran := 0
  claimAt := 0
  whc := 0
  marr := none
  dbgQ := []
  kfault := none
  doom := 0
  wfeAt := none
  sigs := []

/-- R120, R132: the array after reset: no tile, format word 0x0000_000A, no overflow. -/
def MArr.reset : MArr where
  tile := none
  shadow := none
  afmt := 0x0000000A
  ovf := false
  res := []
  drain := []
  resTy := 8
  claim := none
  last := none

/-- A guard slot at dispatch (R225) and at reset: resolved and false. -/
def Guard.reset : Guard := ⟨0, none⟩

/-- A counter after reset (R323, R408). -/
def Counter.reset : Counter := ⟨0, 0, 0⟩

/-- A core after reset: banks on (R51), `wdog` 1,024 (R360), `pm.rot` 0x0001_0000 (R407), counts 0 (R425). -/
def Core.reset : Core where
  slots := []
  ports := []
  pwr := 0
  bankAt := []
  skew := []
  fired := []
  issued := []
  hiQ := []
  loQ := []
  resume := []
  sendQ := []
  arr := MArr.reset
  clop := []
  kpscl := []
  kpLast := none
  team := 0
  epoch := 0
  keeper := ⟨[], [], [], [], false⟩
  clamp := 0
  preq := 0
  busy := 0
  ended := 0
  wdog := 1024
  wdCnt := 0
  fenced := false
  remap := false
  pmRot := 0x00010000
  pmSet := []
  pmAct := 0
  ctrs := []
  pmAt := 0
  score := []
  ce := 0
  repl := 0
  rb := 0
  kill := 0
  ump := 0
  umpAt := []
  biRes := 0
  bist := []
  replay := []
  iss := none

/-- A copy engine after reset. DESIGN CHOICE: log entry 74. -/
def Engine.reset : Engine where
  queue := []
  parked := []
  cur := none
  todo := []
  outst := 0
  status := 0
  ucode := false
  uentry := 0
  hid := 0
  tlb := []
  tags := []
  masks := []
  seqs := []
  lists := []
  lastRel := []
  marked := []
  holding := []
  seen := []
  notices := []

/-- A requester tag that was never used. -/
def Tag.reset : Tag := ⟨false, 0, 0, false, 0, 0, 0, 0, .ack⟩

/-- A context that was never created (R345). -/
def Ctx.reset : Ctx where
  live := false
  debug := false
  pfwd := false
  fenced := false
  sup := 0
  mbase := 0
  msize := 0
  root := 0
  obase := 0
  osize := 0
  tbase := 0
  tsize := 0
  key := none
  image := none
  binds := []
  spills := []
  peers := []
  trace := 0
  smpAt := 0
  mbLost := 0
  mbAt := 0
  mbErrAt := 0
  trLost := 0
  trAt := 0
  watch := []
  haltLog := []
  seqs := []
  stale := []

/-- R351: every status entry free. -/
def Func.reset : Func := ⟨[], 0, []⟩

/-- R311: a counter no launch has set holds no work. DEDUCED: log entry 73. -/
def Pitch.reset : Pitch := ⟨1, 0, 0, 0, []⟩

/-- A die after reset (R425, R428). -/
def Die.reset : Die := ⟨[], 0, 0, 0, [], 0x0000000F, 0⟩

/-- R393: a plane after reset. -/
def Plane.reset : Plane := ⟨0, 0, 0, 0, 0, 0, 0, 0x00000080, [], [], [], [], false⟩

/-- R393: the fabric registers after reset: time-out 96, the own position answering alone. -/
def Fab.reset : Fab := ⟨96, 0, 1, [], []⟩

/-- R429: the fuses of a device without a defect: magic, version, and the CRC of the map. DESIGN CHOICE: log entry 101. -/
def defaultFuses : List Host.Cell :=
  [(0, 0x58), (1, 0x46), (2, 0x44), (3, 0x4D), (4, 0x01), (0x1FE, 0x37), (0x1FF, 0x0A)]

/-- The device right after reset: register spaces zero (R50), no slot bound (R361), no context, nothing in flight; core
0 is named first by an empty agenda. DESIGN CHOICE: log entry 10. -/
def State.reset : State where
  agenda := []
  curCore := 0
  curSlot := 0
  fresh := 0
  nextId := 1
  pos := 0
  now := 0
  mem := []
  poison := []
  parity := []
  tampered := []
  homes := []
  cores := []
  engines := []
  ctxs := []
  funcs := []
  net := []
  marks := []
  halts := []
  launches := []
  pitch := []
  dies := []
  fab := Fab.reset
  fabOut := []
  saved := []
  saves := []
  backstop := []
  errLog := []
  aer := 0
  irqs := []
  snapAt := none
  snaps := []
  powerCap := false
  leaf := 0
  fuses := defaultFuses
  ouvaBad := false
  hostOut := []

end Sys2Proof.Machine
end

