-- ==== Sys2Proof/Machine/Mem.lean ====
section
/-!
DEFINITION. Tables, the byte memory, where each space of the device lies in it, and the accessors of cores, slots, bind
records, descriptors and windows.
-/

namespace Sys2Proof.Machine

/-! ## Tables -/

/-- The entry of a key, or the default. -/
def mget {β : Type} (m : SMap β) (k : Nat) (dflt : β) : β :=
  match m with
  | [] => dflt
  | p :: rest => if p.1 = k then p.2 else mget rest k dflt

/-- The entry of a key, if listed. -/
def mfind {β : Type} (m : SMap β) (k : Nat) : Option β :=
  match m with
  | [] => none
  | p :: rest => if p.1 = k then some p.2 else mfind rest k

/-- The table with a key set, keys kept rising. -/
def mput {β : Type} (m : SMap β) (k : Nat) (v : β) : SMap β :=
  match m with
  | [] => [(k, v)]
  | p :: rest =>
    if k < p.1 then (k, v) :: p :: rest
    else if p.1 = k then (k, v) :: rest
    else p :: mput rest k v

/-- The table without a key. -/
def mdel {β : Type} (m : SMap β) (k : Nat) : SMap β := m.filter (fun p => p.1 != k)

/-! ## The byte memory -/

/-- A byte of memory; an unlisted address reads 0. DESIGN CHOICE: log entry 12. -/
def memGet (m : List Host.Cell) (a : Nat) : Byte :=
  match m with
  | [] => 0
  | p :: rest => if p.1 = a then p.2 else if a < p.1 then 0 else memGet rest a

/-- Memory with one byte written, in its canonical form: addresses rise and no entry is 0. -/
def memPut (m : List Host.Cell) (a : Nat) (v : Byte) : List Host.Cell :=
  match m with
  | [] => if v = 0 then [] else [(a, v)]
  | p :: rest =>
    if a < p.1 then (if v = 0 then p :: rest else (a, v) :: p :: rest)
    else if p.1 = a then (if v = 0 then rest else (a, v) :: rest)
    else p :: memPut rest a v

/-- Memory with consecutive bytes written. -/
def memPuts (m : List Host.Cell) (a : Nat) (bs : List Byte) : List Host.Cell :=
  match bs with
  | [] => m
  | v :: rest => memPuts (memPut m a v) (a + 1) rest

/-- Consecutive bytes of memory. -/
def memGets (m : List Host.Cell) (a n : Nat) : List Byte :=
  match n with
  | 0 => []
  | n + 1 => memGet m a :: memGets m (a + 1) n

/-- The canonical form: addresses strictly rise, and no entry equals what an unlisted address reads as. -/
def Memory.wf (m : List Host.Cell) : Bool :=
  match m with
  | [] => true
  | [p] => p.2 != 0
  | p :: q :: rest => p.2 != 0 && decide (p.1 < q.1) && Memory.wf (q :: rest)

/-- The number of little-endian bytes (R94). -/
def leNat (bs : List Byte) : Nat :=
  match bs with
  | [] => 0
  | v :: rest => v.toNat + 256 * leNat rest

/-- The first n little-endian bytes of a number (R94). -/
def toLe (n v : Nat) : List Byte :=
  match n with
  | 0 => []
  | n + 1 => BitVec.ofNat 8 v :: toLe n (v / 256)

/-- A field [lo, lo + n) of a number. -/
def bits (v lo n : Nat) : Nat := v / 2 ^ lo % 2 ^ n

/-- A number with the field [lo, lo + n) replaced. -/
def setBits (v lo n x : Nat) : Nat := v - bits v lo n * 2 ^ lo + x % 2 ^ n * 2 ^ lo

/-! ## Where each space lies -/

/-- R65: a byte of a slice. -/
def nearAddr (core off : Nat) : Nat := core * 2 ^ 17 + off

/-- R47: a byte of a register space, of a core or of a copy engine. DESIGN CHOICE: log entry 13. -/
def rsAddr (agent off : Nat) : Nat := 2 ^ 32 + agent * 2 ^ 15 + off

/-- A byte of HBM at a physical address (R373). -/
def hbmAddr (pa : Nat) : Nat := 2 ^ 52 + pa

/-- A byte of host memory. -/
def hostAddr (pa : Nat) : Nat := 2 ^ 53 + pa

/-- A byte of a context's loaded code (R199). -/
def codeAddr (ctx off : Nat) : Nat := 2 ^ 54 + ctx * 2 ^ 26 + off

/-- A byte of an engine's microcode (R222). -/
def ucodeAddr (engine off : Nat) : Nat := 2 ^ 55 + engine * 2 ^ 26 + off

/-- The core key under which the register file and the thread of a copy engine stand. DESIGN CHOICE: log entry 3. -/
def engineKey (cluster : Nat) : Nat := 0x4000 + cluster

/-- Whether a core key is a copy engine. -/
def isEngine (core : Nat) : Bool := decide (0x4000 ≤ core)

/-- Consecutive bytes. -/
def State.bytesAt (s : State) (a n : Nat) : List Byte := memGets s.mem a n

/-- Consecutive bytes written. -/
def State.setBytes (s : State) (a : Nat) (bs : List Byte) : State := { s with mem := memPuts s.mem a bs }

/-- The unit that is poisoned as a whole (R417): 8 bytes of a slice, a 256-byte sector of HBM. -/
def poisonUnit (a : Nat) : Nat := if 2 ^ 52 ≤ a then a / 256 * 256 else a / 8 * 8

/-- Whether one of n bytes is marked poisoned. -/
def State.poisoned (s : State) (a n : Nat) : Bool :=
  s.poison.any (fun u => decide (poisonUnit a ≤ u ∧ u < a + n))

/-- Mark the units of n bytes poisoned. -/
def State.addPoison (s : State) (a n : Nat) : State :=
  let step := if 2 ^ 52 ≤ a then 256 else 8
  let us := (List.range ((a + n - poisonUnit a + step - 1) / step)).map (fun i => poisonUnit a + i * step)
  { s with poison := s.poison ++ us.filter (fun u => !s.poison.contains u) }

/-- R418: a store that covers every byte of a marked unit clears its mark. -/
def State.clearPoison (s : State) (a n : Nat) : State :=
  { s with poison := s.poison.filter fun u =>
      !decide (a ≤ u ∧ u + (if 2 ^ 52 ≤ u then 256 else 8) ≤ a + n) }

/-! ## The logical mesh (R2 to R4) -/

/-- R2: the logical cores. -/
def numCores : Nat := 12288

/-- R2: the column of a logical core. -/
def coreX (c : Nat) : Nat := c % 96

/-- R2: the row of a logical core. -/
def coreY (c : Nat) : Nat := c / 96

/-- R3: the die of a logical core, or of an engine's cluster. -/
def dieOf (c : Nat) : Nat :=
  if isEngine c then 2 * ((c - 0x4000) / 24 * 4 / 64) + (c - 0x4000) % 24 * 4 / 48
  else 2 * (coreY c / 64) + coreX c / 48

/-- R4: the cluster of a logical core. -/
def clusterOf (c : Nat) : Nat := if isEngine c then c - 0x4000 else coreY c / 4 * 24 + coreX c / 4

/-- R4: the member index of a logical core. -/
def memberOf (c : Nat) : Nat := coreY c % 4 * 4 + coreX c % 4

/-- R4: the logical core of a cluster's member. -/
def coreOfMember (cluster i : Nat) : Nat := (cluster / 24 * 4 + i / 4) * 96 + (cluster % 24 * 4 + i % 4)

/-- R370: the die row of a logical core. -/
def dieRow (c : Nat) : Nat := dieOf c * 64 + coreY c % 64

/-! ## Cores and slots -/

/-- A core (or a copy engine's register file). -/
def State.core (s : State) (c : Nat) : Core := mget s.cores c Core.reset

/-- A core replaced. -/
def State.setCore (s : State) (c : Nat) (x : Core) : State := { s with cores := mput s.cores c x }

/-- A slot of a core. -/
def State.slot (s : State) (c k : Nat) : Slot := mget (s.core c).slots k Slot.reset

/-- A slot replaced. -/
def State.setSlot (s : State) (c k : Nat) (x : Slot) : State :=
  s.setCore c { s.core c with slots := mput (s.core c).slots k x }

/-- A slot changed. -/
def State.updSlot (s : State) (c k : Nat) (f : Slot → Slot) : State := s.setSlot c k (f (s.slot c k))

/-- A core changed. -/
def State.updCore (s : State) (c : Nat) (f : Core → Core) : State := s.setCore c (f (s.core c))

/-- The slot whose firing executes. -/
def State.cur (s : State) : Slot := s.slot s.curCore s.curSlot

/-- The core on which it executes. -/
def State.curC (s : State) : Core := s.core s.curCore

/-- The executing slot changed. -/
def State.updCur (s : State) (f : Slot → Slot) : State := s.updSlot s.curCore s.curSlot f

/-- A copy engine. -/
def State.engine (s : State) (e : Nat) : Engine := mget s.engines e Engine.reset

/-- A copy engine changed. -/
def State.updEngine (s : State) (e : Nat) (f : Engine → Engine) : State :=
  { s with engines := mput s.engines e (f (s.engine e)) }

/-- A context. -/
def State.ctx (s : State) (c : Nat) : Ctx := mget s.ctxs c Ctx.reset

/-- A context changed. -/
def State.updCtx (s : State) (c : Nat) (f : Ctx → Ctx) : State := { s with ctxs := mput s.ctxs c (f (s.ctx c)) }

/-- A die. -/
def State.die (s : State) (d : Nat) : Die := mget s.dies d Die.reset

/-- A die changed. -/
def State.updDie (s : State) (d : Nat) (f : Die → Die) : State := { s with dies := mput s.dies d (f (s.die d)) }

/-- An item put into flight. -/
def State.push (s : State) (p : Pkt) : State := { s with net := s.net ++ [p] }

/-- A fresh identity of the model. -/
def State.newId (s : State) : Nat × State := (s.nextId, { s with nextId := s.nextId + 1 })

/-- The next free value: nothing is known of it (Config.freeValue). DESIGN CHOICE: log entry 5. -/
def State.free (s : State) : Nat × State := (Config.freeValue s.fresh, { s with fresh := s.fresh + 1 })

/-! ## Bind records (R361) -/

/-- A field of a bind record. -/
def Slot.bindF (x : Slot) (lo n : Nat) : Nat := bits x.bind.toNat lo n

/-- R361: bound. -/
def Slot.bound (x : Slot) : Bool := x.bindF 255 1 == 1
/-- R361: the system flag. -/
def Slot.sysFlag (x : Slot) : Bool := x.bindF 254 1 == 1
/-- R361: the scrum-member flag. -/
def Slot.smem (x : Slot) : Bool := x.bindF 253 1 == 1
/-- R361: accepts spawns. -/
def Slot.spwnFlag (x : Slot) : Bool := x.bindF 252 1 == 1
/-- R361: the context. -/
def Slot.ctx (x : Slot) : Nat := x.bindF 244 8
/-- R361: the actor index. -/
def Slot.bindAct (x : Slot) : Nat := x.bindF 232 12
/-- R361: handler slot. -/
def Slot.hdl (x : Slot) : Bool := x.bindF 231 1 == 1
/-- R361: bound priority. -/
def Slot.bpri (x : Slot) : Nat := x.bindF 228 3
/-- R48, R361: window base in bytes. -/
def Slot.wbase (x : Slot) : Nat := x.bindF 219 9 * 64
/-- R48, R361: window length in bytes. -/
def Slot.wlen (x : Slot) : Nat := (x.bindF 210 9 + 1) * 64
/-- R361: save area offset in the slice. -/
def Slot.save (x : Slot) : Nat := x.bindF 201 9 * 256
/-- R361: time slice. -/
def Slot.sliceLen (x : Slot) : Nat := x.bindF 177 24
/-- R361: compose bound in cycles. -/
def Slot.cbnd (x : Slot) : Nat := x.bindF 161 16 * 16
/-- R361: wait time-out in cycles. -/
def Slot.wto (x : Slot) : Nat := x.bindF 145 16 * 256
/-- R361: launch slot. -/
def Slot.lch (x : Slot) : Bool := x.bindF 144 1 == 1
/-- R361: the port-table entry of output port i. -/
def Slot.omap (x : Slot) (i : Nat) : Nat := x.bindF (48 + 6 * i) 6
/-- R361: the port-table entry of input port i. -/
def Slot.imap (x : Slot) (i : Nat) : Nat := x.bindF (6 * i) 6

/-- R21: what `sstat` shows. -/
def Slot.stCode (x : Slot) : Nat :=
  if x.zeroing then 0 else match x.st with | .unbound => 0 | .idle => 1 | .running => 2 | .halted => 3

/-- A slot whose firing can issue. -/
def Slot.runs (x : Slot) : Bool := x.st == .running && !x.claimed && x.wait != .rollback

/-- R63, R30, R430: a firing that reads `in.req`: of a handler slot, or of a launch; a spawn child has none. -/
def Slot.hasReq (x : Slot) : Bool := (x.hdl || x.launch != 0) && !x.child && x.req.isSome

/-! ## Images and actors -/

/-- The actor of an index in a context's actor table. -/
def State.actorAt (s : State) (ctx i : Nat) : Option Actor :=
  match (s.ctx ctx).image with
  | none => none
  | some im => (im.actors[i]?).bind fun a => if a.valid then some a else none

/-- The actor of the firing in a slot. -/
def State.actorOf (s : State) (x : Slot) : Option Actor := s.actorAt x.ctx x.act.toNat

/-- R242: the code length of a context's image in halfwords. -/
def State.codeLen (s : State) (ctx : Nat) : Nat :=
  match (s.ctx ctx).image with
  | none => 0
  | some im => im.codelen

/-- R214: the signature entry that starts at a halfword. -/
def State.sigAt (s : State) (ctx pc : Nat) : Option W64 :=
  match (s.ctx ctx).image with
  | none => none
  | some im => im.sigs.find? fun e => bits e.toNat 40 24 == pc

/-- Whether a block starts at a halfword (R213). -/
def State.blockAt (s : State) (ctx pc : Nat) : Bool := (s.sigAt ctx pc).isSome

/-! ## Windows, banks and scrums -/

/-- R48: the window of a slot: base and length; a copy engine has its whole register space (R306). -/
def State.win (s : State) (c k : Nat) : Nat × Nat :=
  if isEngine c then (0, 0x8000) else ((s.slot c k).wbase, (s.slot c k).wlen)

/-- R141: where a byte of a window stands: with the member of the scrum that holds its granule, or in place. -/
def State.winAddr (s : State) (p : Place) : Nat :=
  match (s.slot p.core p.slot).scrum with
  | none => rsAddr p.core ((s.win p.core p.slot).1 + p.off)
  | some q =>
    let g := p.off / 64
    let m := coreOfMember (clusterOf p.core) (q.base + g % q.k)
    rsAddr m ((s.win m 0).1 + g / q.k * 64 + p.off % 64)

/-- The bytes of a window. -/
def State.winGet (s : State) (p : Place) (n : Nat) : List Byte :=
  match n with
  | 0 => []
  | n + 1 => memGet s.mem (s.winAddr p) :: s.winGet { p with off := p.off + 1 } n

/-- The bytes of a window written. -/
def State.winPut (s : State) (p : Place) (bs : List Byte) : State :=
  match bs with
  | [] => s
  | v :: rest => State.winPut { s with mem := memPut s.mem (s.winAddr p) v } { p with off := p.off + 1 } rest

/-- R47, R51: the state of a bank of a core. -/
def Core.bank (x : Core) (b : Nat) : Nat := bits x.pwr.toNat (2 * b) 2

/-! ## Descriptors (R54) -/

/-- A field of a descriptor. -/
def dF (d : BitVec 128) (lo n : Nat) : Nat := bits d.toNat lo n

/-- A descriptor with a field replaced. -/
def dSet (d : BitVec 128) (lo n x : Nat) : BitVec 128 := BitVec.ofNat 128 (setBits d.toNat lo n x)

/-- R54: the fields software may write: all but `port` and the reserved ones. -/
def dWritable : Nat := (2 ^ 44 - 1) * 2 ^ 84 + (2 ^ 31 - 1) * 2 ^ 49 + 63 * 2 ^ 42 + (2 ^ 15 - 1)

/-- R54: a descriptor with bytes written over it, RO fields and `port` kept. -/
def dWrite (old new : BitVec 128) : BitVec 128 :=
  (old &&& ~~~(BitVec.ofNat 128 dWritable)) ||| (new &&& BitVec.ofNat 128 dWritable)

/-! ## Withheld state (R78) -/

/-- R311: whether every bound feeder of a pitch counter is halted. -/
def State.pitchHeld (s : State) (key : Nat) : Bool :=
  let n := (mget s.pitch key Pitch.reset).feeders
  n != 0 && decide (n ≤ (s.marks.filter fun m => m.obj == .pitch key).length)

/-- R79: the objects whose halts withhold an object: itself, and for the token of a query that waits at a pitch counter,
the counter. -/
def State.behind (s : State) (o : Obj) : List Obj :=
  match o with
  | .token c k f i =>
    o :: (s.pitch.filter fun p => p.2.waiting.any fun q =>
      q.ret.core == c && q.ret.slot == k && q.ret.fid == f && q.ret.id == i).map fun p => Obj.pitch p.1
  | _ => [o]

/-- R78: whether an object is withheld. -/
def State.withheld (s : State) (o : Obj) : Bool :=
  (s.behind o).any fun u => match u with
    | .pitch key => s.pitchHeld key
    | _ => s.marks.any (fun m => m.obj == u)

/-- R78: the reported identifier of an object: the earliest live halt, in record order, that withholds it. -/
def State.reported (s : State) (o : Obj) : BitVec 16 :=
  match s.halts.find? (fun h => s.marks.any (fun m => (s.behind o).contains m.obj && m.hid == h.hid && m.ctx == h.ctx)) with
  | some h => h.hid
  | none => 0

/-- R79: the kind code of an object. -/
def Obj.kind (o : Obj) : Nat :=
  match o with
  | .port _ _ => 1
  | .reqq _ _ => 2
  | .rplq _ _ _ => 3
  | .home _ => 4
  | .trigger _ => 7
  | .completion _ => 8
  | .token _ _ _ _ => 9
  | .pitch _ => 10
  | .klink _ => 11
  | .clop _ => 1
  | .scrum _ => 12

end Sys2Proof.Machine
end

