-- ==== Sys2Proof/Machine/Far.lean ====
section
/-!
DEFINITION. Translation of far addresses (R373 to R376) and plain reads and writes of far bytes of this device.
-/

namespace Sys2Proof.Machine

/-- A translated far address: target (0 HBM, 1 host, 2 peer), peer position, physical address, page size and page's
write permission. -/
structure Frame where
  tgt  : Nat
  peer : Nat
  pa   : Nat
  base : Nat
  size : Nat
  w    : Bool
  deriving DecidableEq, Repr

/-- What a walk gives: a frame, a translation fault with its reason (R376), or what the memory controller found at a table entry
(R422): poisoned bytes, or, at an address, a sector whose tag no longer fits. -/
inductive Walk where
  | ok (f : Frame)
  | fault (reason : Nat)
  | media
  | integ (a : Nat)
  deriving DecidableEq, Repr

/-- R422: whether n bytes of this device's HBM touch a sector whose tag no longer fits; ECC is checked before the tag. -/
def State.tamperedAt (s : State) (a n : Nat) : Bool :=
  s.tampered.any fun u => decide (u < a + n ∧ a < u + 256) && !s.poisoned u 256

/-- R373, R422: an entry of a page table in HBM, or what the memory controller finds there. -/
def State.pte (s : State) (table i : Nat) : Except Walk Nat :=
  let a := hbmAddr (table + 8 * i)
  if s.poisoned a 8 then .error .media
  else if s.tamperedAt a 8 then .error (.integ a)
  else .ok (leNat (s.bytesAt a 8))

/-- R1: the bytes of the device's HBM, 8 stacks of 96 GiB. -/
def hbmBytes : Nat := 8 * 96 * 2 ^ 30

/-- R373: the table an entry names, or the reason it does not; one beyond the HBM has address bits that name no memory. DESIGN
CHOICE: log entry 156. -/
def pteNext (e : Nat) : Except Nat Nat :=
  if bits e 63 1 = 0 then .error 1
  else if bits e 61 2 ≠ 0 then .error 2
  else if bits e 53 8 ≠ 0 ∨ bits e 51 2 ≠ 0 ∨ bits e 0 16 ≠ 0 ∨ hbmBytes ≤ bits e 16 35 * 2 ^ 16 then .error 3
  else .ok (bits e 16 35 * 2 ^ 16)

/-- R373, R376: a leaf entry for an access, or the reason it faults; a page beyond the HBM as a table there. DESIGN CHOICE: log entry 156. -/
def State.pteLeaf (s : State) (e va shift : Nat) (write : Bool) : Walk :=
  if bits e 51 2 ≠ 0 ∨ bits e 0 16 ≠ 0 ∨ bits e 16 (shift - 16) ≠ 0 then .fault 3
  else if bits e 58 2 = 3 then .fault 5
  else if bits e 58 2 = 2 ∧ (bits e 53 5 = s.pos.toNat ∨ bits s.fab.pod.toNat (bits e 53 5) 1 = 0) then .fault 5
  else if bits e 58 2 = 0 ∧ hbmBytes ≤ bits e shift (51 - shift) * 2 ^ shift then .fault 3
  else if write ∧ bits e 60 1 = 0 then .fault 4
  else .ok
    { tgt := bits e 58 2, peer := bits e 53 5,
      pa := bits e shift (51 - shift) * 2 ^ shift + va % 2 ^ shift,
      base := va / 2 ^ shift * 2 ^ shift, size := 2 ^ shift, w := bits e 60 1 == 1 }

/-- R374: a walk of a context's tables. -/
def State.walk (s : State) (ctx va : Nat) (write : Bool) : Walk :=
  match s.pte (s.ctx ctx).root (bits va 45 12) with
  | .error w => w
  | .ok e1 =>
    match pteNext e1 with
    | .error r => .fault r
    | .ok t2 =>
      match s.pte t2 (bits va 32 13) with
      | .error w => w
      | .ok e2 =>
        if bits e2 63 1 = 0 then .fault 1
        else if bits e2 61 2 = 3 then s.pteLeaf e2 va 34 write
        else
          match pteNext e2 with
          | .error r => .fault r
          | .ok t3 =>
            match s.pte t3 (bits va 19 13) with
            | .error w => w
            | .ok e3 =>
              if bits e3 63 1 = 0 then .fault 1
              else if bits e3 61 2 = 1 then s.pteLeaf e3 va 19 write
              else if bits e3 61 2 = 2 then s.pteLeaf e3 va 25 write
              else .fault 2

/-- The address in `State.mem` of a frame's byte, when it is of this device or its host. -/
def Frame.addr (f : Frame) : Option Nat :=
  match f.tgt with
  | 0 => some (hbmAddr f.pa)
  | 1 => some (hostAddr f.pa)
  | _ => none

/-- The place of a far byte as the device itself reaches it: `none` where the walk fails or a peer holds it. -/
def State.farAt (s : State) (ctx va : Nat) (write : Bool) : Option Nat :=
  match s.walk ctx va write with
  | .ok f => f.addr
  | _ => none

/-- Far bytes, one translation each. -/
def State.farGet (s : State) (ctx va n : Nat) : Option (List Byte) :=
  match n with
  | 0 => some []
  | n + 1 =>
    match s.farAt ctx va false, s.farGet ctx (va + 1) n with
    | some a, some bs => some (memGet s.mem a :: bs)
    | _, _ => none

/-- Far bytes written, one translation each; `none` where one cannot be written. -/
def State.farPut (s : State) (ctx va : Nat) (bs : List Byte) : Option State :=
  match bs with
  | [] => some s
  | v :: rest =>
    match s.farAt ctx va true with
    | none => none
    | some a => State.farPut { s with mem := memPut s.mem a v } ctx (va + 1) rest

/-- R373: the place of a far item of n bytes as the device writes it, in the one page or the two neighbours it lies in: where it
begins, the bytes up to the page's end, and where the rest lies. -/
def State.farParts (s : State) (ctx va n : Nat) : Option (Nat × Nat × Nat) :=
  let k := min n (2 ^ 19 - va % 2 ^ 19)
  match s.farAt ctx va true, s.farAt ctx (if k < n then va + k else va) true with
  | some a, some b => some (a, k, b)
  | _, _ => none

/-- R373: a far item of n bytes that the device can write, as a number. -/
def State.farItem (s : State) (ctx va n : Nat) : Option Nat :=
  (s.farParts ctx va n).map fun p => leNat (s.bytesAt p.1 p.2.1 ++ s.bytesAt p.2.2 (n - p.2.1))

/-- R373: a far item written. -/
def State.putFar (s : State) (ctx va : Nat) (bs : List Byte) : Option State :=
  (s.farParts ctx va bs.length).map fun p => (s.setBytes p.1 (bs.take p.2.1)).setBytes p.2.2 (bs.drop p.2.1)

end Sys2Proof.Machine
end

