-- ==== Sys2Proof/Machine/Flags.lean ====
section
/-!
DEFINITION. Every flag computation: the conditions of CMP and CMPM (R237), the mask operations (R238), and when a guard
slot that waits for its sources resolves (R90).
-/

namespace Sys2Proof.Machine

/-- R237: a condition on two integers, by its code (eq ne lt le gt ge uo od). -/
def condInt (c : Nat) (a b : Int) : Bool :=
  match c with
  | 0 => a == b
  | 1 => a != b
  | 2 => decide (a < b)
  | 3 => decide (a ≤ b)
  | 4 => decide (b < a)
  | 5 => decide (b ≤ a)
  | 6 => false
  | _ => true

/-- R237: a condition on two floats. -/
def condNum (c : Nat) (a b : XNum) : Bool :=
  if a == .nan || b == .nan then c == 1 || c == 6
  else
    match c with
    | 0 => a.eqv b
    | 1 => !a.eqv b
    | 2 => a.lt b
    | 3 => !b.lt a
    | 4 => b.lt a
    | 5 => !a.lt b
    | 6 => false
    | _ => true

/-- The type of an element type code. -/
def GSrc.type (g : GSrc) : Ty := Ty.ofCode g.ty

/-- R237: the operation type of a compare: the first source that is not `b`, or `n32`. -/
def cmpType (a b : Ty) : Ty := if a ≠ .b then a else if b ≠ .b then b else .n32

/-- R95, R237: the bits lane i of a source supplies under an operation type; a scalar serves every lane. DESIGN CHOICE: log entry 16. -/
def GSrc.lane (g : GSrc) (op : Ty) (i : Nat) : Nat :=
  let j := if g.vec then i else 0
  if g.type = .b then
    if op.bits = 64 then
      let low := (g.raws.getD (2 * j) 0).toNat
      low + 2 ^ 32 * (match g.raws[2 * j + 1]? with | some v => v.toNat | none => Config.halfMissing low % 2 ^ 32)
    else (g.raws.getD j 0).toNat % 2 ^ op.bits
  else (g.raws.getD j 0).toNat

/-- The type under which a source is read: its own, or the operation type for `b` (R95). -/
def GSrc.readTy (g : GSrc) (op : Ty) : Ty := if g.type = .b then op else g.type

/-- R237: the outcome of a comparison on lane i. -/
def cmpLane (cond : Nat) (a b : GSrc) (i : Nat) : Bool :=
  let op := cmpType a.type b.type
  if op.isFloat then condNum cond ((a.readTy op).num (a.lane op i)) ((b.readTy op).num (b.lane op i))
  else condInt cond ((a.readTy op).intVal (a.lane op i)) ((b.readTy op).intVal (b.lane op i))

/-- A mask from the outcomes of its lanes, lane 0 first. -/
def maskOf (l : List Bool) : Nat :=
  match l with
  | [] => 0
  | x :: rest => (if x then 1 else 0) + 2 * maskOf rest

/-- R237: the mask of a compare: all ones or zero for `CMP` (lanes 0), one bit per lane for `CMPM`. -/
def cmpMask (cond lanes : Nat) (a b : GSrc) : BitVec 16 :=
  if lanes = 0 then (if cmpLane cond a b 0 then 0xFFFF else 0)
  else BitVec.ofNat 16 (maskOf ((List.range lanes).map (cmpLane cond a b)))

/-- Whether every source stands. -/
def GCalc.ready (c : GCalc) : Bool :=
  match c with
  | .cmp _ _ a b => a.waits.isEmpty && b.waits.isEmpty
  | .and (.val _) (.val _) => true
  | .or (.val _) (.val _) => true
  | .xor (.val _) (.val _) => true
  | .not (.val _) => true
  | .mov a => a.waits.isEmpty
  | _ => false

/-- The mask of a source that stands. -/
def GMask.get (m : GMask) : BitVec 16 := match m with | .idx _ => 0 | .val v => v

/-- R237, R238: the mask a guard slot takes. -/
def GCalc.mask (c : GCalc) : BitVec 16 :=
  match c with
  | .cmp cond lanes a b => cmpMask cond lanes a b
  | .and a b => a.get &&& b.get
  | .or a b => a.get ||| b.get
  | .xor a b => a.get ^^^ b.get
  | .not a => ~~~a.get
  | .mov a => BitVec.ofNat 16 ((a.raws.getD 0 0).toNat)

/-- The guard of a number; g7 holds all ones (R236). -/
def Slot.guard (x : Slot) (g : Nat) : Guard := if g = 7 then ⟨0xFFFF, none⟩ else mget x.guards g Guard.reset

/-- A guard source that can be replaced by its mask is. -/
def GMask.settle (x : Slot) (m : GMask) : GMask :=
  match m with
  | .idx g => if (x.guard g).src.isNone then .val (x.guard g).m else .idx g
  | .val v => .val v

/-- Whether a pending mark of a slot overlaps bytes of a window (R69). -/
def Slot.pendOn (x : Slot) (p : Place) (len : Nat) : Bool :=
  x.pend.any fun q => q.place.core == p.core && q.place.slot == p.slot &&
    decide (q.place.off < p.off + len) && decide (p.off < q.place.off + q.len)

/-- R90: element `i` of a source after n bytes of a window have landed: its bytes among them take what landed. -/
def GSrc.refresh (s : State) (p : Place) (n : Nat) (g : GSrc) (i : Nat) (v : W64) : W64 :=
  let w := g.type.bits / 8
  BitVec.ofNat 64 <| leNat <| (List.range w).map fun j =>
    let off := g.place.off + i * w + j
    if g.place.core = p.core ∧ g.place.slot = p.slot ∧ p.off ≤ off ∧ off < p.off + n
    then memGet s.mem (s.winAddr { p with off := off })
    else BitVec.ofNat 8 (v.toNat / 2 ^ (8 * j))

/-- R90: a source after the mark of an identity has cleared. -/
def GSrc.land (s : State) (id : Nat) (p : Place) (n : Nat) (g : GSrc) : GSrc :=
  if g.waits.contains id then
    { g with waits := g.waits.filter (· != id), raws := g.raws.mapIdx (g.refresh s p n) }
  else g

/-- The sources of a computation after a mark has cleared. -/
def GCalc.land (s : State) (id : Nat) (p : Place) (n : Nat) (c : GCalc) : GCalc :=
  match c with
  | .cmp cond lanes a b => .cmp cond lanes (a.land s id p n) (b.land s id p n)
  | .mov a => .mov (a.land s id p n)
  | _ => c

/-- A computation with every guard source replaced by its mask that can be. -/
def GCalc.settle (x : Slot) (c : GCalc) : GCalc :=
  match c with
  | .and a b => .and (a.settle x) (b.settle x)
  | .or a b => .or (a.settle x) (b.settle x)
  | .xor a b => .xor (a.settle x) (b.settle x)
  | .not a => .not (a.settle x)
  | _ => c

/-- R90: a guard slot: its mask once every source stands. -/
def Guard.settle (x : Slot) (g : Guard) : Guard :=
  match g.src with
  | none => g
  | some c =>
    let c' := c.settle x
    if c'.ready then ⟨c'.mask, none⟩ else ⟨g.m, some c'⟩

/-- One pass over the guard slots of a slot. -/
def Slot.settleOnce (x : Slot) : Slot := { x with guards := x.guards.map (fun p => (p.1, p.2.settle x)) }

/-- R90: the guard slots after a mark has cleared: its bytes are captured, and a chain of guard operations resolves in the same
cycle. -/
def Slot.landed (s : State) (id : Nat) (p : Place) (n : Nat) (x : Slot) : Slot :=
  if x.guards.all (fun q => q.2.src.isNone) then x
  else
    let y := { x with guards := x.guards.map fun q => (q.1, { q.2 with src := q.2.src.map (·.land s id p n) }) }
    (List.range 7).foldl (fun z _ => z.settleOnce) y

/-- R236: the value of a guard under a sense: `v` XOR `sn`. -/
def Slot.guardOn (x : Slot) (g : BitVec 3) (n : Bool) : Bool := ((x.guard g.toNat).m != 0) != n

/-- R91: whether a guard is unresolved. -/
def Slot.guardOpen (x : Slot) (g : BitVec 3) : Bool := (x.guard g.toNat).src.isSome

/-- A guard slot written with a computation: resolved at once where its sources stand. -/
def Slot.putGuard (x : Slot) (g : Nat) (c : GCalc) : Slot :=
  { x with guards := mput x.guards g ((Guard.mk (x.guard g).m (some c)).settle x) }

end Sys2Proof.Machine
end

