-- ==== Sys2Proof/Machine/Ops.lean ====
section
/-!
DEFINITION. The operations every meaning shares: register-space writes, landings, the supervisor mailbox (R40), records
(R424), halts and their notices (R75 to R78), commit and publication (R279, R61), trap entry and park (R17, R318), the
return from a trap (R319), near accesses at their slice, and the retirement of an instruction.
-/

namespace Sys2Proof.Machine

/-! ## Items in flight -/

/-- Item k taken out of flight. -/
def State.taken (s : State) (k : Nat) : State := { s with net := s.net.eraseIdx k }

/-- Whether an item that stands before item k has a property. -/
def State.earlier (s : State) (k : Nat) (p : Pkt → Bool) : Bool := (s.net.take k).any p

/-! ## Slice blocks under test (R426) -/

/-- Whether two ranges of a and b with lengths m and n overlap. -/
def meet (a m b n : Nat) : Bool := decide (a < b + n ∧ b < a + m)

/-- R426: whether n bytes of a slice lie in a block that a self-test runs on: accesses wait. -/
def State.testing (s : State) (a n : Nat) : Bool :=
  (s.core (a / 2 ^ 17)).bist.any fun t => t.1 == 2 && meet (a % 2 ^ 17) n (t.2.1 * 0x1000) 0x1000

/-! ## Register-space writes -/

/-- R419: bytes rewritten have good parity. -/
def State.clearParity (s : State) (as : List Nat) : State :=
  if s.parity.isEmpty then s else { s with parity := s.parity.filter (fun a => !as.contains a) }

/-- The places of n window bytes in `State.mem`. -/
def State.winAddrs (s : State) (p : Place) (n : Nat) : List Nat :=
  (List.range n).map fun i => s.winAddr { p with off := p.off + i }

/-- R419: the bytes an instruction writes, kept for replay: the last 16 of the core. -/
def Core.remember (x : Core) (cells : List Host.Cell) : Core :=
  { x with replay := (x.replay ++ [Replay.mk cells false]).drop (x.replay.length + 1 - 16) }

/-- R419: bytes whose last writer is a landing cannot be replayed. -/
def Core.forget (x : Core) (as : List Nat) : Core :=
  if x.replay.isEmpty then x
  else { x with replay := x.replay.map fun r => { r with cells := r.cells.filter fun p => !as.contains p.1 } }

/-- Bytes of a window written by a retiring instruction of the executing core (R49, R419). -/
def State.regWrite (s : State) (p : Place) (bs : List Byte) : State :=
  let as := s.winAddrs p bs.length
  ((s.winPut p bs).clearParity as).updCore s.curCore (·.remember (as.zip bs))

/-- R53: a bank of register space that was in retention is on after an access of the hardware to a byte of it. -/
def State.wakeBank (s : State) (a : Nat) : State :=
  let c := (a - 2 ^ 32) / 2 ^ 15
  let k := a % 2 ^ 15 / 2 ^ 13
  if (s.core c).pwr ≠ 0 ∧ (s.core c).bank k = 1 then
    s.updCore c fun x => { x with pwr := BitVec.ofNat 32 (setBits x.pwr.toNat (2 * k) 2 0) }
  else s

/-- Bytes of a window written by a landing (R69, R419, R53). -/
def State.landWrite (s : State) (p : Place) (bs : List Byte) : State :=
  let as := s.winAddrs p bs.length
  as.foldl State.wakeBank (((s.winPut p bs).clearParity as).updCore p.core (·.forget as))

/-- R53: the banks of some bytes of a core's register space that the hardware reads are on. -/
def State.wakeBanks (s : State) (cs as : List Nat) : State :=
  if cs.all fun c => (s.core c).pwr == 0 then s else as.foldl State.wakeBank s

/-- R139, R148, R419, R53: the window of slot 0 of a core moves to where `f` puts its bytes. A byte whose parity fails keeps failing, what
the move writes is not replayed, and the banks it passes through are on. DEDUCED: log entry 163. -/
def State.moveWindow (s : State) (c : Nat) (f : State → State) : State :=
  let n := (s.win c 0).2
  let was := s.winAddrs ⟨c, 0, 0⟩ n
  let t := f s
  let is_ := t.winAddrs ⟨c, 0, 0⟩ n
  let cs := (List.range 16).map (coreOfMember (clusterOf c))
  let u := t.winPut ⟨c, 0, 0⟩ (s.winGet ⟨c, 0, 0⟩ n)
  let v :=
    if s.parity.isEmpty then u
    else { u with parity := (u.parity.filter fun a => !is_.contains a) ++ ((was.zip is_).filter fun p => s.parity.contains p.1).map Prod.snd }
  (cs.foldl (fun w m => if (w.core m).replay.isEmpty then w else w.updCore m (·.forget is_)) v).wakeBanks cs (was ++ is_)

/-- R252, R254: an event reaches a slot; one that comes in the cycle in which its `WFE` sampled came before it. -/
def Slot.signal (now : W64) (x : Slot) : Slot := if x.wfeAt = some now then x else { x with ev := true, evAt := some now }

/-- R253, R254: a slot's `WFE` samples its event register, which clears. -/
def Slot.sample (now : W64) (x : Slot) : Slot := { x with ev := false, evAt := none, wfeAt := some now }

/-- R252: the event register set of every slot of a core that a predicate holds of, and of every firing saved there. -/
def State.signalOn (s : State) (c : Nat) (p : Slot → Bool) : State :=
  let s1 := (List.range 4).foldl (fun t k => if p (t.slot c k) then t.updSlot c k (·.signal s.now) else t) s
  { s1 with saved := s1.saved.map fun v => if v.core = c ∧ p v.body = true then { v with body := v.body.signal s.now } else v }

/-- R70: where a saved window byte stands in the save area. -/
def Saved.winAddr (v : Saved) (off : Nat) : Nat := nearAddr v.core (v.area + 0x3F00 + off)

/-- R175: a write to a word of the own slice discards run-ahead entries that hold it. -/
def State.flushRa (s : State) (a n : Nat) : State :=
  let c := a / 2 ^ 17
  { s with cores := s.cores.map fun p =>
      if p.1 = c then
        (p.1, { p.2 with slots := p.2.slots.map fun q =>
          (q.1, { q.2 with ra := q.2.ra.filter fun e => !decide (e.addr / 4 * 4 < a + n ∧ a < (e.addr + e.size + 3) / 4 * 4) }) })
      else p }

/-- R403: the debugger's writes to a slot whose bytes no mark holds any longer. -/
def Slot.dbgReady (x : Slot) (c k : Nat) : List (Nat × List Byte) :=
  x.dbgQ.filter fun q => !(x.pend.any fun p => p.place.core == c && p.place.slot == k &&
    decide (p.place.off < q.1 + q.2.length) && decide (q.1 < p.place.off + p.len))

/-- R403: the debugger's writes that waited for a landing are applied. DEDUCED: log entry 126. -/
def State.applyDbg (s : State) (c k : Nat) : State :=
  let ws := (s.slot c k).dbgReady c k
  if ws.isEmpty then s
  else (ws.foldl (fun t w => t.landWrite ⟨c, k, w.1⟩ w.2) s).updSlot c k fun x =>
    { x with dbgQ := x.dbgQ.filter fun q => !ws.contains q }

/-- Whether a firing waits for the landing of an identity. -/
def Slot.awaits (x : Slot) (id : Nat) : Bool := x.pend.any fun q => q.id == id

/-- R69, R252: a mark cleared; a landing, at its clock, sets the event register. -/
def Slot.unpend (id : Nat) (ev : Option W64) (x : Slot) : Slot :=
  if x.awaits id then
    let y := { x with pend := x.pend.filter (fun q => q.id != id) }
    match ev with
    | some t => y.signal t
    | none => y
  else x

/-- R90: the guards of a core's firings, saved ones included, after a mark has cleared; `view` shows the bytes that landed. -/
def State.landGuards (s view : State) (r : Ret) : State :=
  let f := Slot.landed view r.id r.place r.len
  let g (v : Saved) : Saved := if v.core = r.core then { v with body := f v.body } else v
  { s.updCore r.core (fun x => { x with slots := x.slots.map fun q => (q.1, f q.2) }) with
    saved := s.saved.map g, saves := s.saves.map fun p => (p.1, g p.2) }

/-- R69, R281, R91: the mark of an identity cleared wherever its firing stands: in its slot, pre-empted (R366), and in what `SVS` saved
of it (R321). -/
def State.clearMark (s : State) (r : Ret) (ev : Option W64) : State :=
  { (if (s.slot r.core r.slot).awaits r.id then s.updSlot r.core r.slot (·.unpend r.id ev) else s) with
    saved := s.saved.map fun v => { v with body := v.body.unpend r.id ev }
    saves := s.saves.map fun p => (p.1, { p.2 with body := p.2.body.unpend r.id ev }) }

/-- R321, R366: the header an area shows. -/
def State.areaHead (s : State) (a : Nat) : List Byte := s.bytesAt a 256

/-- R366, R321, R426: whether what was saved of a firing stands in its area, where a landing can reach it: another save may have taken its
place, Ouva may have moved it, or a test may run on the block. -/
def Saved.stands (s : State) (v : Saved) : Bool :=
  s.areaHead (nearAddr v.core v.area) == v.head && !s.testing (v.winAddr 0) v.body.wlen

/-- R70, R403: what a landing writes into the saved window of a firing: its bytes, and the debugger's writes that waited for it. -/
def Saved.landing (v : Saved) (r : Ret) (bs : List Byte) : List (Nat × List Byte) :=
  (r.place.off, bs) :: (v.body.unpend r.id none).dbgReady v.core v.slot

/-- R70, R403, R175: a landing written into the area of a saved firing, while that stands there. -/
def State.landImage (s : State) (r : Ret) (bs : List Byte) (v : Saved) : State :=
  if v.stands s then
    (v.landing r bs).foldl (fun t w => ({ t with mem := memPuts t.mem (v.winAddr w.1) w.2 }).flushRa (v.winAddr w.1) w.2.length) s
  else s

/-- R70: a landing kept for a saved firing whose area stands elsewhere. DEDUCED: log entry 140. -/
def Saved.landLate (s : State) (r : Ret) (bs : List Byte) (v : Saved) : Saved :=
  if v.body.awaits r.id && !v.stands s then { v with late := v.late ++ v.landing r bs } else v

/-- R70: a landing in every image of its firing. -/
def State.landImages (s : State) (r : Ret) (bs : List Byte) : State :=
  let l := (s.saved ++ s.saves.map Prod.snd).filter fun w => w.body.awaits r.id
  let t := l.foldl (fun t w => t.landImage r bs w) s
  { t with saved := t.saved.map (·.landLate s r bs), saves := t.saves.map fun (p : Nat × Saved) => (p.1, p.2.landLate s r bs) }

/-- R403: what the debugger still waits to write to a saved firing. -/
def Saved.dbgLeft (v : Saved) : Saved :=
  if v.body.dbgQ.isEmpty then v
  else
    let ws := v.body.dbgReady v.core v.slot
    { v with body := { v.body with dbgQ := v.body.dbgQ.filter fun q => !ws.contains q } }

/-- The device with the window of a saved firing in place, to read what it holds. -/
def State.shows (s : State) (v : Saved) : State :=
  s.winPut ⟨v.core, v.slot, 0⟩ (s.bytesAt (v.winAddr 0) v.body.wlen)

/-- R69, R70: a token or reply lands: its bytes are written and its mark clears, in the slot of its firing and in the
areas that hold it; of an abandoned firing the bytes still land (R85), and what no mark waits for is dropped. -/
def State.land (s : State) (r : Ret) (bs : List Byte) : State :=
  let v := bs.take r.len
  let live := (s.slot r.core r.slot).awaits r.id
  let images := (s.saved ++ s.saves.map Prod.snd).filter fun w => w.body.awaits r.id
  if !live && images.isEmpty then s
  else
    let s1 := if live then s.landWrite r.place v else s
    let s2 := (s1.landImages r v).clearMark r (some s.now)
    let view := if live then s2 else match images with | w :: _ => s2.shows w | [] => s2
    let s3 := { s2 with saved := s2.saved.map Saved.dbgLeft, saves := s2.saves.map fun (p : Nat × Saved) => (p.1, p.2.dbgLeft) }
    (s3.landGuards view r).applyDbg r.core r.slot

/-- The firing of an identity changed, in its slot or in its saved image (R70). -/
def State.updFiring (s : State) (c k fid : Nat) (f : Slot → Slot) : State :=
  if (s.slot c k).fid = fid then s.updSlot c k f
  else { s with saved := s.saved.map fun v => if v.body.fid = fid then { v with body := f v.body } else v }

/-- The firing of an identity, in its slot or in its saved image. DEDUCED: log entry 47. -/
def State.firing (s : State) (c k fid : Nat) : Slot :=
  if (s.slot c k).fid = fid then s.slot c k
  else match s.saved.find? (fun v => v.body.fid == fid) with | some v => v.body | none => Slot.reset

/-- R91, R281, R403: a pending mark clears and its bytes keep their value, but for what the debugger waited to write there. -/
def State.unmark (s : State) (r : Ret) : State :=
  let s1 := (s.landImages r []).clearMark r none
  let s2 := { s1 with saved := s1.saved.map Saved.dbgLeft, saves := s1.saves.map fun (p : Nat × Saved) => (p.1, p.2.dbgLeft) }
  (s2.landGuards s2 { r with len := 0 }).applyDbg r.core r.slot

/-- R246, R175: the run-ahead entries of a slot discarded. -/
def Slot.flushRun (x : Slot) : Slot := { x with ra := [], opened := [] }

/-- R90: whether a guard of a slot waits for a mark. -/
def Slot.guardAwaits (id : Nat) (x : Slot) : Bool :=
  x.guards.any fun p => match p.2.src with
    | some (.cmp _ _ a b) => a.waits.contains id || b.waits.contains id
    | some (.mov a) => a.waits.contains id
    | _ => false

/-- R170, R175: a token has landed: the first instruction that reads it is an acquire; a compare has read it already (R90). -/
def Slot.landedToken (r : Ret) (read : Bool) (x : Slot) : Slot :=
  if read then x.flushRun else { x with acqs := (r.place, r.len) :: x.acqs.filter fun p => p.1 != r.place }

/-- A token's value lands. -/
def State.landToken (s : State) (r : Ret) (v : W32) : State :=
  let x := s.firing r.core r.slot r.fid
  (s.land r (toLe r.len v.toNat)).updFiring r.core r.slot r.fid (·.landedToken r (x.guardAwaits r.id))

/-! ## Inbound queues (R34, R35) -/

/-- R33: the context of a message. -/
def Msg.ctx (m : Msg) : Nat := bits m.hdr.toNat 0 8
/-- R33: the priority of a message. -/
def Msg.pri (m : Msg) : Nat := bits m.hdr.toNat 29 3
/-- R34: whether a message goes to the high queue. -/
def Msg.high (m : Msg) : Bool := decide (4 ≤ m.pri)

/-- R34: one of the two queues. -/
def Core.queue (x : Core) (hi : Bool) : List QEntry := if hi then x.hiQ else x.loQ

/-- R34: one of the two queues replaced. -/
def Core.setQueue (x : Core) (hi : Bool) (l : List QEntry) : Core :=
  if hi then { x with hiQ := l } else { x with loQ := l }

/-- R34: a message filed by priority, then by arrival. -/
def insertMsg (e : QEntry) (l : List QEntry) : List QEntry :=
  match l with
  | [] => [e]
  | x :: rest => if x.m.pri < e.m.pri then e :: x :: rest else x :: insertMsg e rest

/-- Whether a spilled message is for a queue. -/
def Spill.isFor (p : Spill) (c : Nat) (hi : Bool) : Bool := p.core == c && p.m.high == hi

/-- R35: the first of two spilled messages in refill order. -/
def Spill.first (a b : Spill) : Spill :=
  if b.m.pri < a.m.pri ∨ (b.m.pri = a.m.pri ∧ a.m.arr.toNat ≤ b.m.arr.toNat) then a else b

/-- The first element of a list that equals another removed. -/
def dropOne {α : Type} [DecidableEq α] (x : α) (l : List α) : List α :=
  match l with
  | [] => []
  | y :: rest => if y = x then rest else y :: dropOne x rest

/-- R35: freed entries of a queue are refilled from the overflow areas. -/
def State.refill (s : State) (c : Nat) (hi : Bool) (k : Nat) : State :=
  match k with
  | 0 => s
  | k + 1 =>
    if 32 ≤ ((s.core c).queue hi).length then s
    else
      match s.ctxs.flatMap fun p => p.2.spills.filter (·.isFor c hi) with
      | [] => s
      | a :: rest =>
        let p := rest.foldl Spill.first a
        let s1 := s.updCtx p.m.ctx fun x => { x with spills := dropOne p x.spills }
        State.refill (s1.updCore c fun x => x.setQueue hi (insertMsg ⟨p.m, none⟩ (x.queue hi))) c hi k

/-! ## Fencing a context (R423) -/

/-- The firings in their slots and in their save areas, with the core and slot of each. -/
def State.firings (s : State) : List (Nat × Nat × Slot) :=
  (s.cores.flatMap fun p => p.2.slots.map fun q => (p.1, q.1, q.2)) ++ s.saved.map fun v => (v.core, v.slot, v.body)

/-- R423: a slot whose firing of a fenced context has stopped. -/
def Slot.stopFor (ctx : Nat) (x : Slot) : Slot :=
  if x.ctx = ctx ∧ (x.st = .running ∨ x.st = .halted) then
    { x with st := .idle, pend := [], dbgQ := [], cbuf := [], jrn := [], req := none, rpl := [], wait := .none, waitOn := [], feeds := [],
             outMsg := [], locks := [], fid := 0, ra := [], rep := none, scrum := none, member := none, claimed := false }
  else x

/-- R423: a core whose firings of a fenced context, of the identities `gone`, have stopped: what they held of it is free, and the messages
of the context are dropped. -/
def Core.stopFor (ctx : Nat) (gone : List Nat) (x : Core) : Core :=
  let keep (q : QEntry) : Bool := q.m.ctx != ctx
  { x with
    slots := x.slots.map fun q => (q.1, q.2.stopFor ctx)
    hiQ := x.hiQ.filter keep
    loQ := x.loQ.filter keep
    resume := x.resume.filter fun q => keep q.2
    sendQ := x.sendQ.filter fun e => !(e.msg.isNone && gone.contains e.fid)
    arr := match x.arr.claim with
      | some p => if gone.contains p.2 then { x.arr with claim := none, shadow := none, res := [], drain := [], last := some (p.1, p.2, ctx) } else x.arr
      | none => x.arr }

/-- R423: a context fenced: its firings stop for good, running, halted or saved, and its messages are dropped. -/
def State.fenceCtx (s : State) (ctx : Nat) : State :=
  let gone := (s.firings.filter fun p => p.2.2.ctx == ctx && p.2.2.fid != 0).map fun p => p.2.2.fid
  let s1 : State :=
    { s.updCtx ctx (fun c => { c with fenced := true, spills := [] }) with
      cores := s.cores.map fun p => (p.1, p.2.stopFor ctx gone)
      saved := s.saved.filter (fun v => v.body.ctx != ctx)
      saves := s.saves.map (fun p => (p.1, { p.2 with body := p.2.body.stopFor ctx }))
      halts := s.halts.filter (fun h => h.ctx != ctx)
      marks := s.marks.filter (fun m => m.ctx != ctx) }
  s1.cores.foldl (fun t p => (t.refill p.1 true 32).refill p.1 false 32) s1

/-! ## The supervisor mailbox and records (R40, R424) -/

/-- R40: an entry: type, context, core concerned, code and body. -/
structure Entry where
  type  : Nat
  ctx   : Nat
  lcore : Nat
  code  : Nat
  body  : Nat
  deriving DecidableEq, Repr

/-- R40: the 128 bytes of an entry. -/
def Entry.bytes (e : Entry) (stamp : Nat) : List Byte :=
  toLe 8 stamp ++ toLe 1 e.type ++ toLe 1 e.ctx ++ toLe 2 e.lcore ++ toLe 4 e.code ++ toLe 48 0 ++ toLe 64 e.body

/-- R40: the event registers of the context's slots on the supervisor core. -/
def State.wakeSup (s : State) (ctx : Nat) : State :=
  s.signalOn (s.ctx ctx).sup fun x => x.bound && x.ctx == ctx

/-- R424: a record appended to the PF's error log, which holds the last 1,024. -/
def State.logError (s : State) (r : BitVec 512) : State :=
  { s with errLog := (s.errLog ++ [r]).drop (s.errLog.length + 1 - 1024) }

/-- R422, R425: the die whose stacks hold a physical address. DESIGN CHOICE: log entry 20. -/
def sectorDie (pa : Nat) : Nat := Config.stackOf pa % 8 / 2

/-- A count that saturates at 0xFFFF_FFFF (R425). -/
def bump (v : W32) : W32 := if v = 0xFFFFFFFF then v else v + 1

/-- R424: the fields of an error record. -/
structure ErrRec where
  code   : Nat
  ctx    : Option Nat
  src    : Nat
  fate   : Nat
  lcore  : Nat
  slot   : Nat
  retry  : Nat := 0
  addr   : Nat := 0
  detail : Nat := 0
  hdr    : BitVec 128 := 0
  deriving DecidableEq, Repr

/-- R424: the first logical core of a die, which a record of the die that concerns no core names. DESIGN CHOICE: log entry 166. -/
def dieCore (die : Nat) : Nat := die / 2 * 64 * 96 + die % 2 * 48

/-- R378: the physical column of a logical core: its own, or the bench's (48) when the die table replaces it. -/
def State.physCol (s : State) (c : Nat) : Nat :=
  let e := (mget (s.die (dieOf c)).tab (coreY c % 64) 0).toNat
  if 128 ≤ e ∧ e % 64 = coreX c % 48 then 48 else coreX c % 48

/-- R428: whether a margin offset is applied on a die. -/
def Die.margined (d : Die) : Bool := d.mv.any (fun p => bits p.2.toNat 31 1 == 1)

/-- R424: the 64 bytes of an error record, as a number. -/
def State.errBits (s : State) (r : ErrRec) : BitVec 512 :=
  BitVec.ofNat 512 <|
    s.now.toNat * 2 ^ 448 + r.code * 2 ^ 416 + (r.ctx.getD 0) * 2 ^ 408 + (if r.ctx.isSome then 2 ^ 407 else 0)
    + (if (s.die (dieOf r.lcore)).margined then 2 ^ 406 else 0) + r.src * 2 ^ 403 + r.fate * 2 ^ 400
    + r.lcore * 2 ^ 386 + r.slot * 2 ^ 384 + dieRow r.lcore * 2 ^ 376 + s.physCol r.lcore * 2 ^ 370 + r.retry * 2 ^ 368
    + r.addr * 2 ^ 256 + r.detail * 2 ^ 128 + r.hdr.toNat

/-- R417, R422, R424: the record of an event in an HBM sector: its physical address, its stack, and the die of that. -/
def hbmRec (code pa fate : Nat) (ctx : Option Nat) : ErrRec :=
  { code := code, ctx := ctx, src := 2, fate := fate, lcore := dieCore (sectorDie pa), slot := 0, addr := pa,
    detail := Config.stackOf pa % 8 * 2 ^ 125 }

/-- R422: what a bad tag does whose context's mailbox the device cannot use: it is counted, recorded for the PF, and fences the context.
DESIGN CHOICE: log entry 118. -/
def State.violation (s : State) (ctx a : Nat) : State :=
  let pa := a / 256 * 256 - 2 ^ 52
  ((s.updDie (sectorDie pa) fun d => { d with hiv := bump d.hiv }).logError
    ((s.updDie (sectorDie pa) fun d => { d with hiv := bump d.hiv }).errBits (hbmRec 0x62 pa 5 (some ctx)))).fenceCtx ctx

/-- R422: the sector with a bad tag that the device meets as it reaches a far byte itself: in a page table, or where the byte lies. -/
def State.badTag (s : State) (ctx va : Nat) : Option Nat :=
  match s.walk ctx va true with
  | .integ a => some a
  | .ok f =>
    match f.addr with
    | some a => if 2 ^ 52 ≤ a ∧ s.tamperedAt a 1 = true then some a else none
    | none => none
  | _ => none

/-- R422: the same at the header of a ring of n-byte places after 64 bytes, and at the first and the last byte of the place its write count
names. -/
def State.ringTag (s : State) (ctx base size n : Nat) : Option Nat :=
  if s.tampered.isEmpty then none
  else
    (s.badTag ctx base).orElse fun _ =>
      (s.farItem ctx base 8).bind fun wr =>
        let a := base + 64 + n * (wr % ((size - 64) / n))
        (s.badTag ctx a).orElse fun _ => s.badTag ctx (a + n - 1)

/-- R40: an entry that was not written is counted: in the header when that can be written, and for the loss entry. -/
def State.loseEntry (s : State) (ctx : Nat) : State :=
  let s1 := s.updCtx ctx fun c =>
    { c with mbLost := min (c.mbLost + 1) 0xFFFFFFFF, mbAt := if c.mbLost = 0 then s.now else c.mbAt }
  let at_ := (s1.ctx ctx).mbase + 16
  match s1.farItem ctx at_ 8 with
  | none => s1
  | some n => (s1.putFar ctx at_ (toLe 8 (min (n + 1) (2 ^ 64 - 1)))).getD s1

/-- R40: an entry written at the write count, which advances after it. -/
def State.writeEntry (s : State) (ctx : Nat) (bs : List Byte) : Option State :=
  let c := s.ctx ctx
  (s.farItem ctx c.mbase 8).bind fun wr =>
    (s.putFar ctx (c.mbase + 64 + 128 * (wr % ((c.msize - 64) / 128))) bs).bind fun t => t.putFar ctx c.mbase (toLe 8 (wr + 1))

/-- R40: the places free in the mailbox, `none` when its header cannot be reached. -/
def State.mboxRoom (s : State) (ctx : Nat) : Option Nat :=
  let c := s.ctx ctx
  (s.farItem ctx c.mbase 16).map fun h => (c.msize - 64) / 128 - (h % 2 ^ 64 + 2 ^ 64 - h / 2 ^ 64) % 2 ^ 64

/-- R40: the mailbox could not be reached: the entry is dropped and counted, and at most one record per context in 2^20
cycles goes to the PF's log. -/
def State.mboxUnreachable (s : State) (e : Entry) : State :=
  let s1 := s.loseEntry e.ctx
  let c := s1.ctx e.ctx
  if c.mbErrAt ≠ 0 ∧ s.now.toNat < c.mbErrAt + 2 ^ 20 then s1
  else
    (s1.updCtx e.ctx fun c => { c with mbErrAt := s.now.toNat + 1 }).logError
      (s.errBits { code := 0x69, ctx := some e.ctx, src := 7, fate := 0, lcore := e.lcore, slot := 0 })

/-- R40: an entry posted to the supervisor mailbox of its context, a loss entry first where entries were lost. DEDUCED: log entry 62. -/
def State.post (s : State) (e : Entry) : State :=
  if !(s.ctx e.ctx).live then s
  else if let some a := s.ringTag e.ctx (s.ctx e.ctx).mbase (s.ctx e.ctx).msize 128 then (s.loseEntry e.ctx).violation e.ctx a
  else
    match s.mboxRoom e.ctx with
    | none => s.mboxUnreachable e
    | some 0 => s.loseEntry e.ctx
    | some room =>
      let c := s.ctx e.ctx
      let loss : Option State :=
        if c.mbLost = 0 then some s
        else
          (s.writeEntry e.ctx ((Entry.mk 7 e.ctx 0x3FFF 0 (c.mbLost + c.mbAt.toNat * 2 ^ 64)).bytes s.now.toNat)).map
              (·.updCtx e.ctx fun c => { c with mbLost := 0, mbAt := 0 })
      match loss with
      | none => s.mboxUnreachable e
      | some s1 =>
        if c.mbLost ≠ 0 ∧ room = 1 then (s1.loseEntry e.ctx).wakeSup e.ctx
        else
          match s1.writeEntry e.ctx (e.bytes s.now.toNat) with
          | none => let t := s1.mboxUnreachable e; if c.mbLost ≠ 0 then t.wakeSup e.ctx else t
          | some s2 => s2.wakeSup e.ctx

/-- R378: a report to the supervisor of a context. -/
def State.reportTo (s : State) (ctx : Nat) (r : ErrRec) : State :=
  s.post { type := 5, ctx := ctx, lcore := r.lcore, code := r.code, body := (s.errBits r).toNat }

/-- R424: an error record: to the supervisor of its context, if any, and to the PF's log. -/
def State.record (s : State) (r : ErrRec) : State :=
  let v := s.errBits r
  let s1 :=
    match r.ctx with
    | none => s
    | some c => s.reportTo c r
  s1.logError v

/-- R40: a message fault: the header of a message that was refused or dropped. -/
def State.msgFault (s : State) (ctx lcore code : Nat) (hdr : BitVec 128) : State :=
  s.post { type := 6, ctx := ctx, lcore := lcore, code := code, body := hdr.toNat }

/-- R272: the address at which the slot's instruction stands: the body's, while a repetition runs. -/
def Slot.here (x : Slot) : BitVec 24 :=
  match x.rep with
  | some r => if r.active then (match r.body[r.j]? with | some b => b.2.1 | none => x.pc) else x.pc
  | none => x.pc

/-! ## Blocks of a scrum (R140, R144) -/

/-- R140: the position of the block that starts at a halfword in a scrum of 2^m cores; k bounds the groups of m bits. -/
def blockFold (x m k : Nat) : Nat :=
  match k with
  | 0 => 0
  | k + 1 => (x % 2 ^ m) ^^^ blockFold (x / 2 ^ m) m k

/-- R140: the position on which the block that starts at a halfword runs: bits [13:5] folded to the size of the scrum. -/
def scrumPos (k a : Nat) : Nat := blockFold (a / 32 % 2 ^ 9) (Nat.log2 k) 9

/-- R140, R213: the start of the block in which a firing stands. -/
def State.blockStart (s : State) (x : Slot) : Option Nat :=
  match x.blk, (s.ctx x.ctx).image with
  | some b, _ => some b.toNat
  | none, some im =>
    let pc := x.here.toNat
    (im.sigs.find? fun e => decide (bits e.toNat 40 24 ≤ pc ∧ pc < bits e.toNat 40 24 + bits e.toNat 32 8)).map
      fun e => bits e.toNat 40 24
  | none, none => none

/-- R140, R142: the core on which the block that starts at a halfword runs: a member of the scrum whose owner is core c, or c itself. -/
def Slot.blockCore (x : Slot) (c : Nat) (start : Option Nat) : Nat :=
  match x.scrum, start with
  | some q, some a => coreOfMember (clusterOf c) (q.base + scrumPos q.k a)
  | _, _ => c

/-- R140, R144: the core on which a firing issues. -/
def State.seatOf (s : State) (c k : Nat) : Nat :=
  let x := s.slot c k
  if x.scrum.isNone then c else x.blockCore c (s.blockStart x)

/-- R74, R144: the slot whose firing stands behind a slot: a member of a scrum stands for its owner. DEDUCED: log entry 85. -/
def State.ownerOf (s : State) (core slot : Nat) : Nat × Nat :=
  match slot, (s.slot core slot).member with
  | 0, some o => (o, 0)
  | _, _ => (core, slot)

/-! ## The trace buffer and the counters (R404 to R408) -/

/-- R405: the places free in the trace buffer; none when its header cannot be reached. -/
def State.traceRoom (s : State) (ctx : Nat) : Nat :=
  let c := s.ctx ctx
  match s.farItem ctx c.tbase 16 with
  | none => 0
  | some h => (c.tsize - 64) / 32 - (h % 2 ^ 64 + 2 ^ 64 - h / 2 ^ 64) % 2 ^ 64

/-- R405: a record lost and counted. -/
def State.loseTrace (s : State) (ctx : Nat) : State :=
  let s1 := s.updCtx ctx fun c =>
    { c with trLost := min (c.trLost + 1) 0xFFFFFFFF, trAt := if c.trLost = 0 then s.now else c.trAt }
  let at_ := (s1.ctx ctx).tbase + 16
  match s1.farItem ctx at_ 8 with
  | none => s1
  | some n => (s1.putFar ctx at_ (toLe 8 (min (n + 1) (2 ^ 64 - 1)))).getD s1

/-- R405: a record written at the write count, which advances after it; `none` where its place cannot be reached. -/
def State.putTrace (s : State) (ctx rec : Nat) : Option State :=
  let c := s.ctx ctx
  (s.farItem ctx c.tbase 8).bind fun wr =>
    (s.putFar ctx (c.tbase + 64 + 32 * (wr % ((c.tsize - 64) / 32))) (toLe 32 rec)).bind fun t =>
      t.putFar ctx c.tbase (toLe 8 (wr + 1))

/-- R222, R406: the logical core that stands for an agent where a core is named: a copy engine's is member 0 of its cluster. DESIGN CHOICE: log entry 165. -/
def agentCore (c : Nat) : Nat := if isEngine c then coreOfMember (c - 0x4000) 0 else c

/-- R406: the bits of a trace record. -/
def traceBits (stamp type lcore slot pc pay : Nat) : Nat :=
  stamp * 2 ^ 192 + type * 2 ^ 188 + agentCore lcore % 2 ^ 14 * 2 ^ 174 + slot % 4 * 2 ^ 172 + pc % 2 ^ 24 * 2 ^ 148 + pay % 2 ^ 148

/-- R405: a record for a context's trace buffer, a loss marker first where records were lost; a record or a marker whose place cannot be
reached is lost, and the loss stays to be told. DEDUCED: log entry 62. -/
def State.trace (s : State) (ctx type lcore slot pc pay : Nat) : State :=
  let room := s.traceRoom ctx
  let c := s.ctx ctx
  if let some a := s.ringTag ctx c.tbase c.tsize 32 then (s.loseTrace ctx).violation ctx a
  else if room = 0 then s.loseTrace ctx
  else
    let put (t : State) : State := (t.putTrace ctx (traceBits s.now.toNat type lcore slot pc pay)).getD (t.loseTrace ctx)
    if c.trLost = 0 then put s
    else
      match s.putTrace ctx (traceBits s.now.toNat 3 lcore slot 0 (c.trLost + c.trAt.toNat * 2 ^ 32)) with
      | none => s.loseTrace ctx
      | some t =>
        let s1 := t.updCtx ctx fun c => { c with trLost := 0, trAt := 0 }
        if room = 1 then s1.loseTrace ctx else put s1

/-- R404: a branch record, when the context traces branches. -/
def State.traceBranch (s : State) (c k target kind : Nat) : State :=
  let x := s.slot c k
  if bits (s.ctx x.ctx).trace.toNat 30 1 = 1 then s.trace x.ctx 2 c k x.here.toNat (target % 2 ^ 24 + kind * 2 ^ 24) else s

/-- R408: the event code counter j counts in the active set. -/
def Core.evCode (x : Core) (j : Nat) : Nat := bits (mget x.pmSet x.pmAct 0).toNat (8 * j) 8

/-- R408: n occurrences of an event counted. -/
def Core.count (x : Core) (ev n : Nat) : Core :=
  if (List.range 4).any (fun j => x.evCode j == ev) then
    { x with ctrs := (List.range 4).foldl (fun m j =>
        if x.evCode j = ev then
          let c := mget m j Counter.reset
          mput m j { c with count := c.count + BitVec.ofNat 64 n }
        else m) x.ctrs }
  else x

/-- R408: an event counted on a core. -/
def State.count (s : State) (c ev : Nat) : State :=
  if (s.core c).pmSet.isEmpty then s else s.updCore c (·.count ev 1)

/-! ## Halts (R72 to R78) -/

/-- R75: the next identifier of a die and context that is not live; 0 when all 511 are. -/
def nextSeq (live : List Nat) (k from_ : Nat) : Nat :=
  match k with
  | 0 => 0
  | k + 1 => let n := from_ % 511 + 1; if live.contains n then nextSeq live k n else n

/-- R75: the live sequence numbers of a die and context. -/
def State.liveSeqs (s : State) (die ctx : Nat) : List Nat :=
  (s.halts.filter fun h => h.ctx == ctx && bits h.hid.toNat 9 2 == die).map fun h => bits h.hid.toNat 0 9

/-- R76: the 16 bytes of a halt record. -/
def Halt.bits (h : Halt) : BitVec 128 :=
  BitVec.ofNat 128 (h.stamp.toNat * 2 ^ 64 + h.hid.toNat * 2 ^ 48 + h.reached.toNat * 2 ^ 32 + h.core * 2 ^ 18
    + h.slot * 2 ^ 16 + h.cause * 2 ^ 12 + h.okind * 2 ^ 8 + h.ctx)

/-- R76: record order: by stamp, then die, then sequence. -/
def Halt.before (a b : Halt) : Bool :=
  decide (a.stamp.toNat < b.stamp.toNat) || (a.stamp == b.stamp && decide (a.hid.toNat % 2 ^ 11 ≤ b.hid.toNat % 2 ^ 11))

/-- A halt placed in record order; one that reached another stands after it (R76). -/
def insertHalt (h : Halt) (l : List Halt) : List Halt :=
  match l with
  | [] => [h]
  | x :: rest => if x.before h || x.hid == h.reached then x :: insertHalt h rest else
      if rest.any (fun y => y.hid == h.reached && h.reached != 0) then x :: insertHalt h rest else h :: x :: rest

/-- R28: the reference of a level's barrier instance for a work identifier; its bits above the home name a peer, if any. -/
def levelHome (bar : BitVec 37) (below : Nat) (wid : Nat) : Nat := bar.toNat + 64 * (wid / 2 ^ below)

/-- R27, R28: the barriers of a firing's own level groups, lowest level first (`none` where a level has none). -/
def barrierHomes (ls : List Level) (below wid : Nat) : List (Option Nat) :=
  match ls with
  | [] => []
  | l :: rest => (if l.bv then some (levelHome l.bar (below + l.width) wid) else none) :: barrierHomes rest (below + l.width) wid

/-- A launch by its identity. -/
def State.launchOf (s : State) (id : Nat) : Option Launch := s.launches.find? (fun l => l.id == id)

/-- R33: the sender's core, slot and token handle of a message. -/
def Msg.sender (m : Msg) : Nat × Nat × Nat := (bits m.hdr.toNat 32 14, bits m.hdr.toNat 104 2, bits m.hdr.toNat 106 6)

/-- R33: the origin of a message. -/
def Msg.orig (m : Msg) : Nat := bits m.hdr.toNat 8 4
/-- R33: the kind of a message. -/
def Msg.kind (m : Msg) : Nat := bits m.hdr.toNat 27 2
/-- R33: the handler index of a message. -/
def Msg.hix (m : Msg) : Nat := bits m.hdr.toNat 12 12
/-- R33: whether a message is a spawn. -/
def Msg.spn (m : Msg) : Bool := bits m.hdr.toNat 112 1 == 1

/-- R125: the keeper member of the team word, and its enable bit. -/
def Core.isKeeper (x : Core) (member : Nat) : Bool :=
  bits x.team.toNat 31 1 == 1 && bits x.team.toNat 16 4 == member

/-- R27: the groups of a firing, lowest level first: the size of each, and its number. -/
def groupsOf (ls : List Level) (below size wid : Nat) : List (Nat × Nat) :=
  match ls with
  | [] => []
  | l :: rest => (size * l.ext, wid / 2 ^ (below + l.width)) :: groupsOf rest (below + l.width) (size * l.ext) wid

/-- R27: whether two firings of a launch share a group of a size. -/
def Launch.share (l : Launch) (size a b : Nat) : Bool :=
  ((groupsOf l.levels 0 1 a).zip (groupsOf l.levels 0 1 b)).any fun p => p.1 == p.2 && p.1.1 == size

/-- The name under which a firing and its halts know an object: its home, or the whole reference of one at a peer. DESIGN CHOICE: log entry
160. -/
def lockKey (r : Nat) : Nat := if bits r 36 1 = 1 then r else bits r 0 31

/-- Whether a firing arrives at a barrier with an operation that has left its core and is on its way (R77). -/
def Pkt.arrives (c k fid h : Nat) (p : Pkt) : Bool :=
  match p with
  | .obj o => (o.op == .bara || o.op == .bar) && o.core == c && o.slot == k && o.fid == fid && o.peer.isNone
      && lockKey o.ref.toNat == h
  | _ => false

/-- R292: the phase of a barrier block. -/
def State.homePhase (s : State) (h : Nat) : Nat := leNat (s.bytesAt (h + 12) 2)

/-- R77, R307: whether a command is the arrival of a firing at a barrier. -/
def Cmd.arrives (fid h : Nat) (q : Cmd) : Bool := q.code == 7 && q.fid == fid && lockKey q.a.toNat == h

/-- R77: whether the firing of a slot has arrived at a barrier in its phase: an arrival has been published, by the firing or by a `BSIG` that
has left its core; the phase of a peer's barrier is not known here. DESIGN CHOICE: log entry 160. -/
def State.hasArrived (s : State) (c k : Nat) (x : Slot) (h : Nat) : Bool :=
  let en := s.engine (clusterOf c)
  s.net.any (fun p => p.arrives c k x.fid h || (match p with | .kick q => q.arrives x.fid h | _ => false))
    || (en.cur.toList ++ en.parked ++ en.queue).any (Cmd.arrives x.fid h)
    || [mfind x.phases h, mfind x.sigs h].any fun p => p.any fun v => decide (2 ^ 31 ≤ h) || v == s.homePhase h

/-- R28, R77: the barriers of the level groups of a launch's firing. -/
def State.levelBarriers (s : State) (x : Slot) : List Nat :=
  match s.launchOf x.launch with
  | some l => if x.child then [] else (barrierHomes l.levels 0 x.wid.toNat).filterMap id
  | none => []

/-- R77, R343, R434: whether firing x is of the group that meets at a barrier with another firing, which has come there: of a level group of
its launch with as many firings as the barrier has participants, or, at a barrier that no level created, the handler of a message which
that firing sent. DEDUCED: log entry 60. -/
def State.sameGroup (s : State) (h : Nat) (p : Nat × Nat × Slot) (x : Slot) : Bool :=
  p.2.2.fid != x.fid && !x.child &&
    (match s.launchOf x.launch with
      | some l => p.2.2.launch == l.id && !p.2.2.child && l.share (leNat (s.bytesAt (h + 4) 4)) p.2.2.wid.toNat x.wid.toNat
      | none => p.2.2.ctx == x.ctx && !(s.levelBarriers p.2.2).contains h
          && x.req.any fun m => m.orig == 0 && m.sender.1 == p.1 && m.sender.2.1 == p.2.1)

/-- R77, R343, R434: the barriers that no launch level created at which a group of a firing meets: another of its firings has arrived
there or waits. DEDUCED: log entry 60. -/
def State.metBarriers (s : State) (x : Slot) : List Nat :=
  ((s.homes.map Prod.fst).filter fun h => bits (leNat (s.bytesAt h 1)) 0 2 == 2).filter fun h =>
    s.firings.any fun p => ((mfind p.2.2.phases h).isSome || p.2.2.waitOn.contains (.home h))
      && s.sameGroup h p x

/-- R77: whether the reply to a firing's claimed message has left its core: not one that its commit buffer still holds. -/
def Slot.answered (x : Slot) : Bool := x.replied && !x.cbuf.any fun e => match e with | .send m _ _ _ => m.kind == 2 | _ => false

/-- R77: the objects a halted firing is bound to produce into. DESIGN CHOICE: log entry 160. DEDUCED: log entry 60. -/
def State.produces (s : State) (c k : Nat) : List Obj :=
  let x := s.slot c k
  let ports := (x.ports.filter (·.out)).map (fun p => Obj.port c p.entry)
  let barriers := if x.child then []
    else ((s.levelBarriers x ++ s.metBarriers x).eraseDups.filter fun h => !s.hasArrived c k x h).map Obj.home
  let launch := match s.launchOf x.launch with
    | none => []
    | some l =>
      (if l.trig && !x.trigd && !x.child then [Obj.trigger l.id] else [])
      ++ [Obj.completion l.id]
      ++ (match l.cobj with | some r => [Obj.home r.toNat] | none => [])
  let reply := match x.req with
    | some m => if x.hdl && !x.answered && m.orig == 0 && decide (m.sender.1 < numCores)
        then [Obj.rplq m.sender.1 m.sender.2.1 0] else []
    | none => []
  let claims := (s.core c).arr.claim == some (k, x.fid)
  let keep := if (s.core c).isKeeper (memberOf c) && claims then [Obj.klink c] else []
  let stream := if claims && bits (s.core c).team.toNat 31 1 == 1 && bits (s.core c).team.toNat 20 4 == memberOf c then
      ((List.range 16).filter fun m => bits (s.core c).team.toNat m 1 == 1).map fun m => Obj.clop (coreOfMember (clusterOf c) m)
    else []
  let scrum := if x.scrum.isSome then [Obj.scrum c] else []
  ports ++ stream ++ barriers ++ launch ++ (x.locks ++ x.posts).map Obj.home ++ reply ++ keep ++ x.feeds.map Obj.pitch ++ scrum

/-- R33, R421: the header of the claimed message, or 0. -/
def Slot.reqHdr (x : Slot) : BitVec 128 := match x.req with | some m => m.hdr | none => 0

/-- R424: the retry count of the claimed message, or 0. -/
def Slot.reqRetry (x : Slot) : Nat := match x.req with | some m => m.retry | none => 0

/-- R70: the outstanding tokens of a halted firing, which its halt withholds; their marks stand with the firing itself. -/
def Slot.ownTokens (x : Slot) (c k : Nat) : List Obj := (x.pend.filter fun p => !p.near).map fun p => Obj.token c k x.fid p.id

/-- R76, R77: a halt recorded: its identifier, its record in the context's log and mailbox, its notices on their way. -/
def State.recordHalt (s : State) (c k cause : Nat) (reached : BitVec 16) (okind : Nat) : State :=
  let x := s.slot c k
  let die := dieOf c
  let seq := nextSeq (s.liveSeqs die x.ctx) 511 (mget (s.ctx x.ctx).seqs die 0)
  if seq = 0 then
    (s.record { code := 0x68, ctx := some x.ctx, src := 7, fate := 5, lcore := c, slot := k, retry := x.reqRetry, hdr := x.reqHdr }).fenceCtx x.ctx
  else
    let hid : BitVec 16 := BitVec.ofNat 16 (s.pos.toNat * 2 ^ 11 + die * 2 ^ 9 + seq)
    let h : Halt := ⟨s.now, hid, reached, c, k, cause, okind, x.ctx, x.fid⟩
    let s1 := (s.updSlot c k fun y => { y with st := .halted, hid := hid, ra := [] }).updCtx x.ctx fun cx =>
      { cx with seqs := mput cx.seqs die seq, haltLog := cx.haltLog ++ [h.bits] }
    let s2 := { s1 with halts := insertHalt h s1.halts,
                        net := s1.net ++ (s.produces c k).map (fun o => Pkt.notice hid x.ctx c o),
                        marks := s1.marks ++ (x.ownTokens c k).map fun o => Mark.mk hid x.ctx o }
    s2.post { type := 2, ctx := x.ctx, lcore := c, code := 0, body := h.bits.toNat }

/-- R72: a slot halts with a root cause. -/
def State.haltSlot (s : State) (c k cause : Nat) : State := s.recordHalt c k cause 0 0

/-! ## Scrums: collapse with handback (R148, R149) -/

/-- R151: a scrum ends without its granules being copied back. DEDUCED: log entry 83. -/
def State.dissolve (s : State) (c : Nat) : State :=
  match (s.slot c 0).scrum with
  | none => s
  | some q =>
    (List.range q.k).foldl (fun t i =>
      let m := coreOfMember (clusterOf c) (q.base + i)
      if m = c then t else t.updSlot m 0 fun x => { x with member := none, claimed := false, st := .idle })
      (s.updSlot c 0 fun x => { x with scrum := none })

/-- R148: every granule goes back to the owner's window and the members' slots become idle. -/
def State.handback (s : State) (c : Nat) : State :=
  match (s.slot c 0).scrum with
  | none => s
  | some _ => s.moveWindow c (·.dissolve c)

/-! ## Traps (R17, R224, R318) -/

/-- A precise trap: fault code, the handle and element its frame names (R318), the reason and unwritten slot of a rate
trap, and the operand of `TRAP`. -/
structure Trap where
  code    : Nat
  handle  : Nat := 0
  elem    : Nat := 0
  reason  : Nat := 0
  operand : Option W32 := none
  deriving DecidableEq, Repr

/-- R318: the first bits of the instruction at a halfword: 32, or 16 for the short form. DEDUCED: log entry 192. -/
def State.instAt (s : State) (x : Slot) (core : Nat) : Nat :=
  let a := if isEngine core then ucodeAddr (core - 0x4000) (2 * x.pc.toNat) else codeAddr x.ctx (2 * x.pc.toNat)
  let v := leNat (s.bytesAt a 4)
  if v % 2 = 0 then v % 2 ^ 16 else v

/-- R318: the `detail` word. -/
def Trap.detail (t : Trap) (pass : Nat) : Nat :=
  match t.operand with
  | some v => v.toNat
  | none => t.handle % 64 + pass % 64 * 2 ^ 8 + t.reason % 4 * 2 ^ 14 + t.elem % 2 ^ 16 * 2 ^ 16

/-- R319: where a handled trap continues: the trapping instruction, or past it for `TRAP`. -/
def Trap.resume (t : Trap) (pc : Nat) : Nat := if t.operand.isSome then (pc + 2) % 2 ^ 24 else pc

/-- R273: the pass a trap happened in. -/
def Slot.pass (x : Slot) : Nat :=
  match x.rep with
  | some r => if r.active then r.k else 0
  | none => 0

/-- R318: the 128 bits of a trap frame. -/
def State.frame (s : State) (c : Nat) (x : Slot) (t : Trap) : BitVec 128 :=
  BitVec.ofNat 128 (s.instAt x c * 2 ^ 96 + t.detail x.pass * 2 ^ 64 + t.resume x.pc.toNat * 2 ^ 32 + t.code)

/-- R370: a trap message: `kind` 0 for a core, 1 for a copy engine; `addr` the far address of an engine fault. -/
def State.trapMsg (s : State) (core slot ctx code kind addr page : Nat) (frame : BitVec 128) : BitVec 512 :=
  BitVec.ofNat 512 <|
    2 ^ (464 + coreX core % 48) + dieRow core * 2 ^ 456 + ctx * 2 ^ 448 + 2 ^ 432 + code * 2 ^ 384 + page % 2 ^ 64 * 2 ^ 320
    + s.now.toNat * 2 ^ 256 + frame.toNat * 2 ^ 128 + addr % 2 ^ 64 * 2 ^ 64 + kind * 2 ^ 60 + slot % 4 * 2 ^ 58

/-- R370: the fault message of a firing's trap. -/
def State.sendTrap (s : State) (c k : Nat) (t : Trap) : State :=
  let x := s.slot c k
  s.push (.trap (s.trapMsg c k x.ctx t.code 0 0 (2 * x.pc.toNat / 2 ^ 19) (s.frame c x t)))

/-- R209, R108, R17: the traps that always park, and the cause of a park (R72). -/
def Trap.cause (t : Trap) : Nat :=
  if t.code = 0x08 ∨ (0x10 ≤ t.code ∧ t.code ≤ 0x14) then 2 else if t.code = 0x0C then 5 else 6

/-- R318: whether the slot's own trap entry takes a trap. -/
def State.handles (s : State) (x : Slot) (t : Trap) : Option Actor :=
  match s.actorOf x with
  | none => none
  | some a =>
    if t.cause = 6 ∧ t.code < 64 ∧ x.trapAct = false ∧ bits a.tmask.toNat t.code 1 = 1 then some a else none

/-- R318: a firing at a trap: its instruction no longer waits. The captured body and the repetition state stay (R273, R274). DEDUCED: log entry 143. -/
def Slot.atTrap (x : Slot) : Slot := { x with wait := .none, waitOn := [], waitExp := none, waitRem := none }

/-- R273, R274: a running repetition stands while the trap entry's code runs; its body stays captured. -/
def Slot.suspendRep (x : Slot) : Slot :=
  { x with rep := x.rep.map fun r => { r with active := false, susp := r.active || r.susp } }

/-- R273, R319: a return to an instruction of the body goes on with the pass that trapped; a return to any other address leaves the
repetition. DEDUCED: log entry 143. -/
def Slot.resumeRep (x : Slot) (pc : BitVec 24) : Slot :=
  { x with rep := x.rep.map fun r =>
      if r.susp then
        (match r.body.findIdx? (fun q => q.2.1 == pc) with
          | some j => { r with j := j, active := true, susp := false }
          | none => { r with susp := false })
      else r }

/-- R420: the transfer to an entry (of an actor, a spawn or a trap) that is no start of a listed block is found by its check. DEDUCED: log entry 94. -/
def State.entryCheck (s : State) (c : Nat) (x : Slot) (pc : BitVec 24) : List Check :=
  if s.blockAt x.ctx pc.toNat then [] else [⟨pc, some pc, x.blockCore c (some pc.toNat), pc.toNat⟩]

/-- R318, R17, R108, R209: THE taking of a precise trap by the firing of a slot. With its bit of the trap mask set and
trap-active clear: any scrum collapses, the frame is written at L − 16, trap-active is set and the firing continues at
the trap entry. Every other trap collapses any scrum, sends the fault message and parks the firing. -/
def State.takeTrap (s : State) (c k : Nat) (t : Trap) : State :=
  let x := s.slot c k
  let s1 := if k = 0 then s.handback c else s
  match s.handles x t with
  | some a =>
    ((s1.landWrite ⟨c, k, (s.win c k).2 - 16⟩ (toLe 16 (s.frame c x t).toNat)).traceBranch c k a.trapent.toNat 6).updSlot c k
      fun y =>
        { y.atTrap.suspendRep with trapAct := true, pc := a.trapent, blk := some a.trapent, bcore := c
                                   checks := y.checks ++ s.entryCheck c x a.trapent }
  | none => ((s1.sendTrap c k t).updSlot c k Slot.atTrap).haltSlot c k t.cause

/-- R319: the return from a trap: trap-active clears and the firing continues at `resume` as it stands in the window;
the block that this ends awaits its check, and a partial block that it enters is not checked (R420). -/
def State.trapReturn (s : State) (c k : Nat) : State :=
  let r := leNat (s.winGet ⟨c, k, (s.win c k).2 - 12⟩ 4)
  s.updSlot c k fun y =>
    { y.resumeRep (BitVec.ofNat 24 r) with
             trapAct := false, pc := BitVec.ofNat 24 r,
             checks := match y.blk with | some b => y.checks ++ [⟨b, none, y.bcore, y.here.toNat + 2⟩] | none => y.checks,
             blk := if s.blockAt y.ctx r then some (BitVec.ofNat 24 r) else none, bcore := y.blockCore c (some r) }

/-- R319: the `resume` word of the frame in the window. -/
def State.resumeWord (s : State) (c k : Nat) : Nat := leNat (s.winGet ⟨c, k, (s.win c k).2 - 12⟩ 4)

/-- R306, R72: the token a command owes. -/
def Cmd.owed (q : Cmd) : Obj := .token q.ret.core q.ret.slot q.ret.fid q.ret.id

/-- R72, R75, R309, R313: a copy engine's microcode halts with cause 0x9, once; its command, its queue and its parked commands are
withheld, and their tokens with them. -/
def State.haltEngine (s : State) (e : Nat) : State :=
  let en := s.engine e
  let c := coreOfMember e 0
  let ctx := match en.cur with | some q => q.ctx | none => 0
  let die := dieOf c
  let seq := nextSeq (s.liveSeqs die ctx) 511 (mget (s.ctx ctx).seqs die 0)
  if (s.slot (engineKey e) 0).st = .halted then s
  else if seq = 0 then (s.record { code := 0x68, ctx := some ctx, src := 7, fate := 5, lcore := c, slot := 0 }).fenceCtx ctx
  else
  let hid : BitVec 16 := BitVec.ofNat 16 (s.pos.toNat * 2 ^ 11 + die * 2 ^ 9 + seq)
  let h : Halt := ⟨s.now, hid, 0, c, 0, 9, 0, ctx, 0⟩
  let owed := ((match en.cur with | some q => [q] | none => []) ++ en.parked ++ en.queue).map
    fun q => Pkt.notice hid ctx c q.owed
  let s1 := (s.updSlot (engineKey e) 0 fun y => { y with st := .halted, hid := hid }).updEngine e fun en =>
    { en with hid := hid }
  let s2 := s1.updCtx ctx fun cx => { cx with seqs := mput cx.seqs die seq, haltLog := cx.haltLog ++ [h.bits] }
  ({ s2 with halts := insertHalt h s2.halts, net := s2.net ++ owed }).post
    { type := 2, ctx := ctx, lcore := c, code := 0, body := h.bits.toNat }

/-- A trap of the executing agent: a firing takes it, a copy engine's microcode halts (R209, R313). -/
def State.trapCur (s : State) (t : Trap) : State :=
  if isEngine s.curCore then s.haltEngine (s.curCore - 0x4000) else s.takeTrap s.curCore s.curSlot t

/-! ## Port rings (R61) -/

/-- R328: the indexes of the declared ports of a list that are no fixed port. -/
def declared (l : List (Nat × Nat)) : List Nat := (List.range l.length).filter fun i => decide ((l.getD i (0xFF, 0)).1 < 48)

/-- R10, R361: the output ports that the actors of a slot declare. -/
def State.outPorts (s : State) (x : Slot) : List Nat :=
  match (s.ctx x.ctx).image with
  | none => []
  | some im =>
    if x.hdl || x.spwnFlag then (im.actors.filter Actor.valid).flatMap fun a => declared a.outp
    else match im.actors[x.bindAct]? with | some a => declared a.outp | none => []

/-- R361: the declared input ports of a slot that is not a handler slot. -/
def State.inPorts (s : State) (x : Slot) : List Nat :=
  if x.hdl then []
  else match (s.ctx x.ctx).image with
    | none => []
    | some im => match im.actors[x.bindAct]? with | some a => declared a.inp | none => []

/-- Whether a slot produces into a port-table entry. -/
def State.producesInto (s : State) (x : Slot) (entry : Nat) : Bool :=
  x.bound && (s.outPorts x).any (fun i => x.omap i == entry)

/-- Whether a slot consumes from a port-table entry. -/
def State.consumesFrom (s : State) (x : Slot) (entry : Nat) : Bool :=
  x.bound && (s.inPorts x).any (fun i => x.imap i == entry)

/-- R61: the slot bound as a port's producer; with none, the slot that asks. -/
def State.producer (s : State) (c entry own : Nat) : Nat :=
  match (List.range 4).find? (fun k => s.producesInto (s.slot c k) entry) with
  | some k => k
  | none => own

/-- R60: whether the slot at the other end of a port is another one than the slot of the instruction: the consumer's for
a write, the producer's for a read. -/
def State.otherEnd (s : State) (c own entry : Nat) (write : Bool) : Bool :=
  (List.range 4).any fun k =>
    k != own && (if write then s.consumesFrom (s.slot c k) entry else s.producesInto (s.slot c k) entry)

/-- R59: a ring descriptor after its read pointer (or write pointer) moved n slots. -/
def dMove (d : BitVec 128) (write : Bool) (n : Nat) : BitVec 128 :=
  let cnt := dF d 95 8 + 1
  let fill := dF d 119 9
  if write then dSet (dSet d 111 8 ((dF d 111 8 + n) % cnt)) 119 9 (fill + n)
  else dSet (dSet d 103 8 ((dF d 103 8 + n) % cnt)) 119 9 (fill - n)

/-- R13, R19: a port of a saved firing after the pointer of its entry moved n slots: its own slots stay where they are. -/
def PortUse.passed (entry : Nat) (write : Bool) (n : Nat) (p : PortUse) : PortUse :=
  if p.entry = entry ∧ p.out = write then { p with skip := p.skip - n } else p

/-- R61, R252: a port move published in the port table: the slots at both ends see it. -/
def State.publish (s : State) (c entry : Nat) (write : Bool) (n : Nat) : State :=
  let s0 := s.updCore c fun x => { x with ports := mput x.ports entry (dMove (mget x.ports entry 0) write n) }
  let s1 := { s0 with saved := s0.saved.map fun (v : Saved) =>
    if v.core = c then { v with body := { v.body with ports := v.body.ports.map fun (p : PortUse) => p.passed entry write n } } else v }
  s1.signalOn c fun x => s1.consumesFrom x entry || s1.producesInto x entry

/-! ## Near accesses at their slice (R155, R292, R418) -/

/-- R378, R66: whether a core is being copied to its spare: what is sent to it waits. DEDUCED: log entry 92. -/
def State.moving (s : State) (c : Nat) : Bool := (s.core c).fenced && (s.core c).remap

/-- R155, R156: whether two near accesses are of one agent and share a word. -/
def sameWords (a b : Nat × Nat × Nat × Nat) : Bool :=
  a.1 == b.1 && a.2.1 == b.2.1 && decide (a.2.2.1 / 4 * 4 < b.2.2.1 + b.2.2.2 ∧ b.2.2.1 / 4 * 4 < a.2.2.1 + a.2.2.2)

/-- R292: the home block of an address that is live. -/
def State.liveBlock (s : State) (a : Nat) : Bool := (mfind s.homes (a / 64 * 64)).isSome

/-- R292: whether one of n bytes lies in a live block. -/
def State.touchesLive (s : State) (a n : Nat) : Bool := s.liveBlock a || s.liveBlock (a + n - 1)

/-- R370: who a fault message names: the context, the core and slot of the firing, and whether a copy engine acted for it. -/
structure Writer where
  ctx  : Nat
  core : Nat
  slot : Nat
  eng  : Bool
  deriving DecidableEq, Repr

/-- R306: the firing that issued a command, as its engine's writes name it. -/
def Cmd.writer (q : Cmd) : Writer := ⟨q.ctx, q.core, q.slot, true⟩

/-- R370, R371: a fault message about an access, on its way to its backstop. -/
def State.faultMsg (s : State) (w : Writer) (code addr : Nat) : State :=
  s.push (.trap (s.trapMsg w.core w.slot w.ctx code (if w.eng then 1 else 0) addr (if w.eng then addr / 2 ^ 19 else 0) (BitVec.ofNat 128 code)))

/-- R292, R418: bytes written to a slice by a store: discarded (and reported) in a live object block; a poisoned word
keeps its mark unless all of it is covered. -/
def State.storeNear (s : State) (w : Writer) (a : Nat) (bs : List Byte) : State :=
  if s.touchesLive a bs.length then s.faultMsg w 0x36 0
  else ((s.setBytes a bs).clearPoison a bs.length).flushRa a bs.length

/-- R417: the own record of a poisoned slice word that a firing consumes (R418, code 0x66). -/
def poisonRec (ctx core slot addr fate : Nat) (hdr : BitVec 128) : ErrRec :=
  { code := 0x66, ctx := some ctx, src := 1, fate := fate, lcore := core, slot := slot, addr := addr, hdr := hdr }

/-- The context an agent acts for: that of a firing, in its slot or saved, or of the command an engine runs. -/
def State.agentCtx (s : State) (c k fid : Nat) : Nat :=
  if isEngine c then (match (s.engine (c - 0x4000)).cur with | some q => q.ctx | none => 0)
  else
    match s.saved.find? fun v => v.body.fid == fid && (s.slot c k).fid != fid with
    | some v => v.body.ctx
    | none => (s.slot c k).ctx

/-- Who an agent's writes name: a firing, or the issuer of the command an engine runs. -/
def State.writer (s : State) (c k fid : Nat) : Writer :=
  if isEngine c then (match (s.engine (c - 0x4000)).cur with | some q => q.writer | none => ⟨0, agentCore c, 0, true⟩)
  else ⟨s.agentCtx c k fid, c, k, false⟩

/-- Who the writes of the executing agent name. -/
def State.writerCur (s : State) : Writer := s.writer s.curCore s.curSlot s.cur.fid

/-! ## Watchpoints on the writes of an engine (R412) -/

/-- R411, R412: the near (or far) watchpoints of a context that a write of n bytes matches: index and action. DEDUCED: log entry 57. -/
def State.watchHits (s : State) (ctx a n : Nat) (far : Bool) : List (Nat × Nat) :=
  ((s.ctx ctx).watch.filter fun p => p.2.far == far && (List.range n).any fun i =>
    (a + i) / 64 * 64 == p.2.addr && bits p.2.mask.toNat ((a + i) % 64) 1 == 1).map fun p => (p.1, p.2.action)

/-- R412: what a step of a command writes: each write's side (whether it is far), its address and its length. -/
def Micro.writes (m : Micro) : List (Bool × Nat × Nat) :=
  let at_ (e : End) (n : Nat) : Bool × Nat × Nat := match e with | .far va => (true, va, n) | .near a => (false, a, n)
  match m with
  | .copy _ dst n => [at_ dst n]
  | .put dst bs _ => [at_ dst bs.length]
  | .add _ dst tc => [at_ dst ((Ty.ofCode tc).bits / 8)]
  | .atom va _ tc _ _ dst => [(true, va, (Ty.ofCode tc).bits / 8), (false, dst, 8)]

/-- R412: what the reply to a request of a command writes. -/
def Cont.writes (c : Cont) : List (Bool × Nat × Nat) :=
  match c with
  | .near a n => [(false, a, n)]
  | .far _ va n => [(true, va, n)]
  | _ => []

/-- R412: the 64-byte beats of some writes after one that ends in a beat: writes one after another into one aligned 64-byte line are one beat. -/
def beatsOf (last : Bool × Nat) (l : List (Bool × Nat × Nat)) : Nat :=
  match l with
  | [] => 0
  | (far, a, n) :: rest =>
    let b := (a + n - 1) / 64
    (b - a / 64) + (if last = (far, a / 64) then 0 else 1) + beatsOf (far, b) rest

/-- R412: how many further beats of an engine can have been performed before the report of a write at byte a of a line is formed: those its
command has still to do and those its outstanding replies will bring, or any number where other commands follow or microcode runs. -/
def Engine.beatsLeft (en : Engine) (far : Bool) (line a n : Nat) : Nat :=
  if en.ucode || !en.queue.isEmpty then 255
  else
    let own (p : Bool × Nat × Nat) : Bool := p.1 == far && decide (p.2.1 ≤ a ∧ a + n ≤ p.2.1 + p.2.2)
    let l := en.todo.flatMap Micro.writes
    let due := (en.tags.filter fun t => t.2.busy).flatMap fun t => t.2.cont.writes
    let here := match l with
      | p :: rest => if own p then (p.2.1 + p.2.2, rest) else (a + n, l)
      | [] => (a + n, [])
    min 255 (((here.1 - 1) / 64 - line) + beatsOf (far, (here.1 - 1) / 64) (here.2 ++ due))

/-- R412, R406: the reports of an engine's write; `q` is the command. The skid is a free value among those that can be. DESIGN CHOICE: log entry 172. -/
def State.watchEngine (s : State) (e : Nat) (q : Cmd) (a n : Nat) (far : Bool) : State :=
  if bits (s.ctx q.ctx).trace.toNat 28 1 = 0 then s
  else (s.watchHits q.ctx a n far).foldl (fun t h =>
    let r := t.free
    r.2.trace q.ctx 6 q.core q.slot 0
      (a % 2 ^ 57 + (if far then 2 ^ 57 else 0) + h.1 * 2 ^ 58 + e * 2 ^ 60 + r.1 % ((t.engine e).beatsLeft far ((mget (t.ctx q.ctx).watch h.1 ⟨far, a, 0, 0⟩).addr / 64) a n + 1) * 2 ^ 70
        + (q.ctx * 2 ^ 24 + q.slot * 2 ^ 22 + q.handle * 2 ^ 16 + q.core + (bits q.op.toNat 0 8 * 2 ^ 56)
            + q.code / 8 * 2 ^ 35 + q.code % 8 * 2 ^ 32) * 2 ^ 78)) s

/-- R412: a near write of microcode has been performed, as a near watchpoint sees it. -/
def State.watchAgent (s : State) (c a n : Nat) : State :=
  if isEngine c then (match (s.engine (c - 0x4000)).cur with | some q => s.watchEngine (c - 0x4000) q a n false | none => s) else s

/-- R285, R292, R412: a store of an agent performed at its slice. -/
def State.storeBy (s : State) (c k fid a : Nat) (bs : List Byte) : State :=
  let t := s.storeNear (s.writer c k fid) a bs
  if s.touchesLive a bs.length then t else t.watchAgent c a bs.length

/-- R164: the stores of a slot that still wait in its release queue perform, in order. DESIGN CHOICE: log entry 55. -/
def State.drainStores (s : State) (c k : Nat) : State :=
  let mine (p : Pkt) : Bool := match p with | .nearSt c' k' _ _ _ _ => c' == c && k' == k | _ => false
  let todo := s.net.filter mine
  todo.foldl (fun t p => match p with | .nearSt _ _ fid _ a bs => t.storeBy c k fid a bs | _ => t)
    { s with net := s.net.filter (fun p => !mine p) }

/-- R42, R176: a write of a slot to another core that has not performed. -/
def Pkt.writes (c k : Nat) (p : Pkt) : Bool :=
  match p with
  | .nearSt c' k' _ _ _ _ => c' == c && k' == k
  | .atomic q => q.core == c && q.slot == k
  | .mdrp r => r.src == c && r.ret.slot == k
  | _ => false

/-- R15, R176: whether writes of a slot, or its release of a trigger, have not performed. -/
def State.writesOut (s : State) (c k : Nat) : Bool :=
  s.net.any fun p => p.writes c k || (match p with | .trig c' k' _ _ => c' == c && k' == k | _ => false)

/-- R164: stores of a slot that have not performed. -/
def State.storesOut (s : State) (c k : Nat) : Nat :=
  (s.net.filter fun p => match p with | .nearSt c' k' _ _ _ _ => c' == c && k' == k | _ => false).length

/-! ## Fences on their way (R166, R167) -/

/-- The target address of an access of a slot that is still on its way. -/
def Pkt.nearOf (c k : Nat) (p : Pkt) : Option Nat :=
  match p with
  | .nearLd c' k' _ a _ _ => if c' = c ∧ k' = k then some a else none
  | .nearSt c' k' _ _ a _ => if c' = c ∧ k' = k then some a else none
  | .atomic q => if q.core = c ∧ q.slot = k then some q.addr else none
  | .ldReply r _ _ => if r.core = c ∧ r.slot = k then some (nearAddr c 0) else none
  | .mdrp r => if r.src = c ∧ r.ret.slot = k then some (nearAddr r.core 0) else none
  | _ => none

/-- R166: whether a fence of code `sc` of core c covers a slice; on an engine every scope is `.p`. -/
def fenceScope (c sc core : Nat) : Bool :=
  match sc with
  | 0 => isEngine c || clusterOf core == clusterOf c
  | 1 => isEngine c || dieOf core == dieOf c
  | _ => true

/-- R166, R167: whether a fence of slot k of core c, item i of the network, still waits: for an access that it covers, or for a token. -/
def State.fenceWaits (s : State) (i c k : Nat) : Bool :=
  match s.net[i]? with
  | some (.fence c' k' fid sc ids) => c' == c && k' == k &&
      ((s.earlier i fun p => match p.nearOf c k with | some a => fenceScope c sc (a / 2 ^ 17) | none => false)
        || (s.firing c k fid).pend.any fun p => ids.contains p.id)
  | _ => false

/-- R166, R167: whether an access of a slot that stands at place n of the network stands behind a fence that still waits. -/
def State.behindFence (s : State) (n c k : Nat) : Bool := (List.range n).any fun i => s.fenceWaits i c k

/-- R166: the fences of a slot that wait for nothing any more are gone. -/
def State.dropFences (s : State) (c k : Nat) : State :=
  let mine (p : Pkt) : Bool := match p with | .fence c' k' _ _ _ => c' == c && k' == k | _ => false
  if s.net.any mine then
    { s with net := ((List.range s.net.length).filter fun i => s.fenceWaits i c k || !(s.net[i]?.any mine)).filterMap fun i => s.net[i]? }
  else s

/-! ## Status entries (R351) -/

/-- R351: a status entry. -/
def State.status (s : State) (fn i : Nat) : BitVec 512 := mget (mget s.funcs fn Func.reset).status i 0

/-- R351: the `st` field. -/
def statusSt (v : BitVec 512) : Nat := bits v.toNat 28 4

/-- R351: a status entry written, with the clock of the change and its reply words kept. -/
def State.setStatus (s : State) (fn i st code hid : Nat) (rpl : Nat) : State :=
  let f := mget s.funcs fn Func.reset
  let v : BitVec 512 := BitVec.ofNat 512 (rpl * 2 ^ 128 + s.now.toNat * 2 ^ 64 + code * 2 ^ 32 + st * 2 ^ 28 + hid)
  { s with funcs := mput s.funcs fn { f with status := mput f.status i v } }

/-- R351: a status entry whose reported identifier changes while its `st` stands: `when` stays. -/
def State.setStatusHid (s : State) (fn i hid : Nat) : State :=
  let f := mget s.funcs fn Func.reset
  let v := BitVec.ofNat 512 (setBits (s.status fn i).toNat 0 16 hid)
  { s with funcs := mput s.funcs fn { f with status := mput f.status i v } }

/-- R351: an MSI-X vector raised by a function. -/
def State.raise (s : State) (fn i : Nat) : State := { s with irqs := s.irqs ++ [(fn, i)] }

/-- R351, R79: the object whose withholding a launch's status shows: its completion object, or, before it starts, the trigger it waits
for. -/
def State.launchHeld (s : State) (l : Launch) : Option Obj :=
  let os := Obj.completion l.id :: (match l.after with | some a => if l.waiting then [Obj.trigger a] else [] | none => [])
  os.find? s.withheld

/-- R351: a launch's status entry brought up to its state, with its MSI-X vector when `st` changes. -/
def State.syncLaunch (s : State) (l : Launch) : State :=
  match l.status with
  | none => s
  | some (fn, i) =>
    let o := s.launchHeld l
    let st := if l.done then 5 else if o.isSome then 6 else if l.trig && l.trigDone then 4 else 3
    let hid := if st = 6 then (match o with | some o => (s.reported o).toNat | none => 0) else 0
    let v := s.status fn i
    if statusSt v = st then (if bits v.toNat 0 16 = hid then s else s.setStatusHid fn i hid)
    else
      let s1 := s.setStatus fn i st 0 hid (bits v.toNat 128 384)
      if l.irq then s1.raise fn i else s1

/-- R351: the status entries of every launch. -/
def State.syncStatus (s : State) : State := s.launches.foldl (fun t l => if l.done then t else t.syncLaunch l) s

/-- A launch changed, and its status entry with it. -/
def State.updLaunch (s : State) (id : Nat) (f : Launch → Launch) : State :=
  let s1 := { s with launches := s.launches.map fun l => if l.id = id then f l else l }
  match s1.launchOf id with
  | none => s1
  | some l => s1.syncLaunch l

/-! ## The passing of time -/

/-- R79: whether a context's inbound request queue on a core is withheld: every handler slot of it there is halted. -/
def Core.queueHeld (x : Core) (ctx : Nat) : Bool :=
  let hs := x.slots.filter fun p => p.2.bound && p.2.hdl && p.2.ctx == ctx
  !hs.isEmpty && hs.all (fun p => p.2.st == .halted)

/-- R409: a queued message that nobody has claimed, after cycles in which its queue may have been withheld. -/
def QEntry.tick (x : Core) (dt : Nat) (q : QEntry) : QEntry :=
  if q.claimed.isNone && x.queueHeld q.m.ctx then { q with m := { q.m with whq := q.m.whq + dt } } else q

/-- R365, R409: a slot after dt cycles. -/
def Slot.tick (dt : Nat) (x : Slot) : Slot :=
  match x.st with
  | .running => { x with ran := x.ran + dt }
  | .halted => { x with whc := x.whc + dt }
  | _ => x

/-- R82, R79: whether the firing of a slot is withheld: halted on an object, and not as a root. -/
def State.slotWithheld (s : State) (x : Slot) : Bool :=
  x.st == .halted && s.halts.any fun h => h.hid == x.hid && h.ctx == x.ctx && h.cause == 4

/-- R408: how many of an event dt cycles bring a core; `held` tells which of its slots are withheld. -/
def Core.cycles (x : Core) (held : Slot → Bool) (ev dt : Nat) : Nat :=
  let n (p : Slot → Bool) : Nat := (x.slots.filter fun q => p q.2).length
  match ev with
  | 0x01 => dt
  | 0x03 => dt * n fun y => y.st == .running && (match y.wait with | .ring _ _ _ => true | .rings _ => true | .reply => true | .mma _ _ => true | _ => false)
  | 0x04 => dt * n fun y => y.st == .running && y.wait == .pending
  | 0x0A => dt * n held
  | _ => 0

/-- R408: counter j after dt cycles. DEDUCED: log entry 129. -/
def Core.tickCtr (x : Core) (held : Slot → Bool) (dt j : Nat) : Counter :=
  let c := mget x.ctrs j Counter.reset
  { c with count := c.count + BitVec.ofNat 64 (x.cycles held (x.evCode j) dt) }

/-- R83, R408: a core after dt cycles: its counters, its slots and queues, and its watchdog's count. -/
def Core.tick (held : Slot → Bool) (dt : Nat) (x : Core) : Core :=
  let busy := x.slots.any fun p => p.2.runs && p.2.wait == .none
  { x with
    ctrs := if x.pmSet.isEmpty then x.ctrs else (List.range 4).foldl (fun m j => mput m j (x.tickCtr held dt j)) x.ctrs
    slots := x.slots.map fun p => (p.1, p.2.tick dt)
    hiQ := x.hiQ.map (·.tick x dt)
    loQ := x.loQ.map (·.tick x dt)
    resume := x.resume.map fun p => (p.1, p.2.tick x dt)
    wdCnt := if busy then x.wdCnt + dt else 0 }

/-- R35, R409: a spilled message, after cycles in which its queue may have been withheld. -/
def Spill.tick (s : State) (dt : Nat) (p : Spill) : Spill :=
  if (s.core p.core).queueHeld p.m.ctx then { p with m := { p.m with whq := p.m.whq + dt } } else p

/-- R409: a saved firing after dt cycles: what it stands halted counts. -/
def Saved.tick (dt : Nat) (v : Saved) : Saved :=
  match v.body.st with
  | .halted => { v with body := v.body.tick dt }
  | _ => v

/-- The package clock advances by dt cycles. DESIGN CHOICE: log entries 6, 137. -/
def State.tick (s : State) (dt : Nat) : State :=
  if dt = 0 then s
  else
    { s with
      now := s.now + BitVec.ofNat 64 dt
      cores := s.cores.map fun p => (p.1, p.2.tick s.slotWithheld dt)
      saved := s.saved.map (·.tick dt)
      ctxs := s.ctxs.map fun p => (p.1, if p.2.spills.isEmpty then p.2 else { p.2 with spills := p.2.spills.map (·.tick s dt) }) }

/-! ## Commit (R277 to R280) -/

/-- R306, R309: a command enters its cluster's engine queue; on a halted engine its token is withheld at once. -/
def State.enqueueCmd (s : State) (q : Cmd) : State :=
  let e := clusterOf q.core
  let s1 := s.updEngine e fun en => { en with queue := en.queue ++ [q] }
  if (s.engine e).hid = 0 then s1
  else
    let ctx := match (s.engine e).cur with | some p => p.ctx | none => q.ctx
    s1.push (.notice (s.engine e).hid ctx (coreOfMember e 0) q.owed)

/-- R302: the first reserved entry of a firing takes the message that leaves the commit buffer, at the end of the queue. -/
def fillSend (l : List SendEntry) (fid : Nat) (m : Msg) (core : Nat) (r : Option Ret) : List SendEntry :=
  match l with
  | [] => []
  | e :: rest =>
    if e.fid = fid ∧ e.msg.isNone then rest ++ [{ e with msg := some (m, core, r) }]
    else e :: fillSend rest fid m core r

/-- R41: a firing's release of its launch's trigger is counted; when every firing has, the trigger is released. -/
def State.countTrig (s : State) (id : Nat) : State :=
  s.updLaunch id fun l =>
    if l.trig then
      { l with trigs := l.trigs + 1,
               trigDone := l.trigDone || decide ((l.levels.map Level.ext).foldl (· * ·) 1 ≤ l.trigs + 1) }
    else l

/-- R279, R280: one held effect leaves the core. -/
def State.release (s : State) (c k : Nat) (e : Held) : State :=
  match e with
  | .send m core r _ =>
    let s1 := if m.spn ∧ m.launch ≠ 0 then s.updLaunch m.launch (fun l => { l with kids := l.kids + 1 }) else s
    s1.updCore c fun x => { x with sendQ := fillSend x.sendQ (s.slot c k).fid m core r }
  | .cmd q => s.push (.kick q)
  | .atomic a => s.push (.atomic a)
  | .obj o => s.push (.obj o)
  | .trig => (s.push (.trig c k (s.slot c k).fid (s.slot c k).launch)).updSlot c k fun x => { x with trigd := true }
  | .mdrp r => s.push (.mdrp r)
  | .adv entry write n => s.publish c entry write n
  | .ld q => s.push (.nearLd c k q.ord q.addr q.size q.ret)
  | .fence sc ids => s.push (.fence c k (s.slot c k).fid sc ids)

/-- R279, R282: the commit of a slot's firing: its held effects leave in program order and the journal is discarded. A mark
that only a held effect could clear is an ordinary mark from then on. The commit takes one cycle, so that an error consumed in its cycle
was consumed before it. DESIGN CHOICE: log entry 146. -/
def State.commit (s : State) (c k : Nat) : State :=
  let x := s.slot c k
  let s1 := (if x.restart then (s.count c 8).tick 1 else s).updSlot c k fun y =>
    { y with restart := false, cbuf := [], jrn := [], pend := y.pend.map (fun p => { p with held := false }) }
  x.cbuf.foldl (fun t e => t.release c k e) s1

/-- R420: a commit waits for every outstanding check of the firing. -/
def Slot.canCommit (x : Slot) : Bool := x.checks.isEmpty

/-- R277: the entries of a commit buffer. -/
def Slot.heldLen (x : Slot) : Nat := (x.cbuf.filter fun e => match e with | .fence _ _ => false | _ => true).length

/-- R279, R280: an effect of the held class issues: it enters the commit buffer of a restartable firing (a full buffer
commits first), and leaves at once from a committed one. -/
def State.hold (s : State) (e : Held) : State :=
  let c := s.curCore
  let k := s.curSlot
  if s.cur.restart then
    if s.cur.heldLen < 64 then s.updCur fun x => { x with cbuf := x.cbuf ++ [e] }
    else (s.commit c k).release c k e
  else s.release c k e

/-- R420: whether a held effect must wait before it can enter: its commit would wait for a check. -/
def Slot.holdWaits (x : Slot) : Bool := x.restart && decide (64 ≤ x.heldLen) && !x.canCommit

/-- R278: pre-images journalled for a restartable firing; entries past 512 commit the firing first (R279). -/
def State.journal (s : State) (es : List Jrn) : State :=
  if s.cur.restart then
    if s.cur.jrn.length + es.length ≤ 512 then s.updCur fun x => { x with jrn := x.jrn ++ es }
    else s.commit s.curCore s.curSlot
  else s

/-! ## Consumed errors (R281, R418) -/

/-- Two counts added, saturating at 2^32 − 1 (R409). -/
def satAdd (a : W32) (n : Nat) : W32 := BitVec.ofNat 32 (min (a.toNat + n) 0xFFFFFFFF)

/-- R406: the payload of a scorecard record. -/
def Score.payload (v : Score) : Nat :=
  v.sender + v.tr.toNat * 2 ^ 14 + v.qw.toNat * 2 ^ 46 + v.run.toNat * 2 ^ 78 + v.wh.toNat * 2 ^ 110

/-- R409: what the scorecard takes from a handler firing at its end, kill or abandon. -/
def State.scoreEnd (s : State) (c k : Nat) : State :=
  let x := s.slot c k
  match x.req with
  | none => s
  | some m =>
    if x.hdl && !x.child then
      let sender := m.sender.1
      let old := ((s.core c).score.find? fun e => e.ctx == x.ctx && e.sender == sender).getD ⟨x.ctx, sender, 0, 0, 0, 0, 0⟩
      let e : Score :=
        { old with
          tr := satAdd old.tr ((m.arr.toNat + 2 ^ 32 - bits m.hdr.toNat 64 32) % 2 ^ 32)
          qw := satAdd old.qw (x.claimAt - m.arr.toNat - m.whq)
          run := satAdd old.run (s.now.toNat - x.claimAt - x.whc)
          wh := satAdd old.wh (m.whq + x.whc)
          n := satAdd old.n 1 }
      let l := (s.core c).score.filter (fun e => !(e.ctx == x.ctx && e.sender == sender)) ++ [e]
      let s1 := s.updCore c fun y => { y with score := l.drop (l.length - 64) }
      match l with
      | v :: _ =>
        if 64 < l.length ∧ bits (s.ctx v.ctx).trace.toNat 29 1 = 1 then
          s1.trace v.ctx 4 c 0 0 v.payload
        else s1
      | [] => s1
    else s

/-- R72, R281: a committed firing killed with a cause: halted for good, counted (R425). -/
def State.kill (s : State) (c k cause : Nat) : State :=
  let s1 := (if k = 0 then s.handback c else s).scoreEnd c k
  ((s1.updCore c fun x => { x with kill := bump x.kill }).updSlot c k Slot.atTrap).haltSlot c k cause

/-- R418, R72, R424: the microcode of an engine loads a poisoned word: the event is recorded, and the microcode halts. -/
def State.microPoison (s : State) (e : Nat) : State :=
  let c := engineKey e
  (s.record { code := 0x66, ctx := some (s.writer c 0 0).ctx, src := 5, fate := 3, lcore := agentCore c, slot := 0 }).haltEngine e

/-- R281, R418: the firing of a slot consumes an uncorrectable error: a restartable one stops issuing and waits to be
undone (fate 1), a committed one is killed with cause 0x3 (fate 3); the event is recorded with the retry count of its message (R424).
A copy engine's microcode halts (R72). DEDUCED: log entry 66. -/
def State.consume (s : State) (c k : Nat) (r0 : ErrRec) : State :=
  let x := s.slot c k
  let r := { r0 with retry := x.reqRetry }
  if isEngine c then s.microPoison (c - 0x4000)
  else if x.restart then
    (s.record { r with fate := 1, hdr := x.reqHdr }).updSlot c k fun y =>
      { y with wait := .rollback, waitOn := [], ra := [] }
  else (s.record { r with fate := 3, hdr := x.reqHdr }).kill c k 3

/-! ## Waiting and retiring -/

/-- What an instruction comes to at issue: a trap, a wait (on objects that may be withheld, committing the firing if it
is a blocking wait), or a state in which it has retired: falling through, jumping, or left where it stands. -/
inductive Verdict where
  | trap (t : Trap)
  | wait (w : Wait) (on : List Obj) (commits : Bool)
  | done (s : State)
  | jump (s : State) (pc : Nat)
  | stay (s : State)
  deriving DecidableEq, Repr

/-- R79: the kind code of an object; a home block's follows its `kind` field, that of an object at a peer what firings here use it for.
DESIGN CHOICE: log entry 160. -/
def State.okind (s : State) (o : Obj) : Nat :=
  match o with
  | .home h =>
    let k := if h < 2 ^ 31 then bits (leNat (s.bytesAt h 1)) 0 2
      else if s.firings.any (fun p => p.2.2.locks.contains h) then 1
      else if s.firings.any (fun p => p.2.2.posts.contains h) then 3 else 2
    if s.launches.any (fun l => !l.done && (match l.cobj with | some r => r.toNat == h | none => false)) then 8
    else if k = 1 then 5 else if k = 3 then 6 else 4
  | _ => o.kind

/-- R79: whether a wait has reached an object: one whose operation is applied at the object's home reaches it once it waits there. -/
def State.waitsAt (s : State) (c k : Nat) (o : Obj) : Bool :=
  match (s.slot c k).wait, o with
  | .sent, .home h =>
    let mine (q : ObjReq) : Bool := q.core == c && q.slot == k && q.fid == (s.slot c k).fid && q.peer.isNone
    if h < 2 ^ 31 then (mget s.homes h []).any mine else !s.net.any fun p => match p with | .obj q => mine q | _ => false
  | _, _ => true

/-- R79, R80: the waiting firing halts on the first of its objects that is withheld. -/
def State.consumerHalt (s : State) (c k : Nat) : State :=
  let x := s.slot c k
  match x.waitOn.find? (fun o => s.waitsAt c k o && s.withheld o) with
  | none => s
  | some o =>
    let rem := match x.waitExp with | some e => some (e - s.now.toNat) | none => x.waitRem
    ((s.updSlot c k fun y => { y with waitRem := rem, waitExp := none }).recordHalt c k 4 (s.reported o)
      (s.okind o))

/-- Every slot listed. -/
def State.allSlots (s : State) : List (Nat × Nat) := s.cores.flatMap fun p => p.2.slots.map fun q => (p.1, q.1)

/-- R81: the time-out of a wait stands still while its object is withheld, in a slot the debugger halted too, and in one whose operation is
still on its way. -/
def State.freezeHalted (s : State) : State :=
  let f (x : Slot) : Slot :=
    match x.waitExp with
    | some e => if x.waitOn.any s.withheld = true then { x with waitExp := none, waitRem := some (e - s.now.toNat) } else x
    | none => x
  s.allSlots.foldl (fun t p => if (t.slot p.1 p.2).waitExp.isSome then t.updSlot p.1 p.2 f else t) s

/-- R81: it counts on once the object is clear; a consumer halt keeps its remainder until it resumes. -/
def State.thawHalted (s : State) : State :=
  let own (x : Slot) : Bool := x.st == .running || x.st == .halted && s.halts.any fun h => h.hid == x.hid && h.ctx == x.ctx && h.cause != 4
  let f (x : Slot) : Slot := match x.waitRem with | some r => { x with waitExp := some (s.now.toNat + r), waitRem := none } | none => x
  s.allSlots.foldl (fun t p =>
    let x := t.slot p.1 p.2
    if x.waitRem.isSome = true ∧ own x = true ∧ x.waitOn.any s.withheld = false then t.updSlot p.1 p.2 f else t) s

/-- R58, R69, R279, R79: the executing slot waits. A blocking wait commits the firing (once every check has come), and a
wait that has reached a withheld object halts it. -/
def State.waitCur (s : State) (w : Wait) (on : List Obj) (commits : Bool) : State :=
  let s1 := if commits && s.cur.restart && s.cur.canCommit then s.commit s.curCore s.curSlot else s
  let fresh := s.cur.wait = .none
  (s1.updCur fun x =>
    { x with wait := w, waitOn := on, since := if fresh then s.now.toNat else x.since }).consumerHalt s.curCore s.curSlot

/-- R279, R276: an instruction that ends restartability issues: the firing commits first, once every check has come (R420). -/
def State.blocking (s : State) (f : State → Verdict) : Verdict :=
  if s.cur.restart then
    if s.cur.canCommit then
      let t := s.commit s.curCore s.curSlot
      match f t with
      | .wait w on _ => .stay (t.waitCur w on false)
      | .trap x => .stay (t.trapCur x)
      | v => v
    else .wait .drain [] false
  else f s

end Sys2Proof.Machine
end

