-- ==== Sys2Proof/Machine/Operands.lean ====
section
/-!
DEFINITION. Every operand form: the view a handle names (R54 to R63), the slot offset of R202, the bytes an access
touches, the checks and waits of R48, R53, R56, R58, R60, R63 and R69, and the reading and writing of elements (R95,
R223, R257).
-/

namespace Sys2Proof.Machine

/-! ## Views -/

/-- A handle as an instruction sees it: the descriptor (a port's with the firing's own moves, R61), and the window its
bytes lie in; `entry` is the port-table entry and whether the port is an output. -/
structure View where
  h     : Nat
  d     : BitVec 128
  core  : Nat
  slot  : Nat
  entry : Option (Nat × Bool)
  deriving DecidableEq, Repr

/-- R54: a descriptor from a type code, shape, elements per row and ring bit. -/
def mkDesc (ty shape len ring : Nat) : BitVec 128 :=
  BitVec.ofNat 128 (ring * 2 ^ 84 + (len - 1) * 2 ^ 64 + ty * 2 ^ 44 + shape * 2 ^ 42)

/-- R62: the fixed descriptors of h48 to h55; `resTy` is the type of the rows in `mx.res`. -/
def fixedDesc (h resTy : Nat) : BitVec 128 :=
  match h with
  | 51 => mkDesc resTy 1 16 1
  | 52 => mkDesc 15 1 16 1
  | 53 => mkDesc 14 1 16 1
  | 54 => mkDesc 15 0 1 0
  | 55 => mkDesc 6 0 1 0
  | _ => mkDesc 15 0 1 1

/-- R61: a port descriptor with the moves its firing has made and not yet published. -/
def ownMoves (entry : Nat) (l : List Held) (d : BitVec 128) : BitVec 128 :=
  match l with
  | [] => d
  | .adv e w n :: rest => ownMoves entry rest (if e = entry then dMove d w n else d)
  | _ :: rest => ownMoves entry rest d

/-- R13, R19, R59: a ring descriptor as the firing sees it whose slots start n past the pointer (before it, where n is negative). -/
def dShift (d : BitVec 128) (out : Bool) (n : Int) : BitVec 128 :=
  if n = 0 then d
  else
    let cnt := dF d 95 8 + 1
    let at_ (lo : Nat) : Nat := (((dF d lo 8 : Int) + n) % cnt).toNat
    let fill := min cnt ((dF d 119 9 : Int) + (if out then n else -n)).toNat
    if out then dSet (dSet d 111 8 (at_ 111)) 119 9 fill else dSet (dSet d 103 8 (at_ 103)) 119 9 fill

/-- R61, R13: a port's descriptor as its firing sees it. -/
def PortUse.desc (p : PortUse) (c : Core) (l : List Held) : BitVec 128 :=
  dShift (ownMoves p.entry l (mget c.ports p.entry 0)) p.out p.skip

/-- R272: a handle field as it counts while a repetition runs: pass k adds k × stagger to h0 to h47. -/
def Slot.stagger (x : Slot) (h : Nat) : Nat :=
  match x.rep with
  | some r => if r.active ∧ h < 48 then ((h : Int) + r.k * r.stag).toNat else h
  | none => h

/-- R130, R133, R134: the array state whose `mx.res` rows the executing firing reads: the array's while it holds the
claim, else what stands for it in its save area. -/
def State.ownArr (s : State) : Option MArr :=
  if s.curC.arr.claim = some (s.curSlot, s.cur.fid) then some s.curC.arr else s.cur.marr

/-- R130: the rows of `mx.res`. -/
def State.resRows (s : State) : List (BitVec 512) := match s.ownArr with | some a => a.res | none => []

/-- R130: the type of the rows of `mx.res`. -/
def State.resType (s : State) : Nat := match s.ownArr with | some a => a.resTy | none => 8

/-- R54, R61, R62: the view a handle field names for the executing firing. -/
def State.view (s : State) (field : Nat) : View :=
  let x := s.cur
  let h := x.stagger field
  if 48 ≤ h then ⟨h, fixedDesc h s.resType, s.curCore, s.curSlot, none⟩
  else
    let d := mget x.views h 0
    if dF d 83 1 = 1 then
      match x.ports.find? (fun p => p.h == h) with
      | some p =>
        ⟨h, p.desc s.curC x.cbuf, s.curCore, s.producer s.curCore p.entry s.curSlot,
          some (p.entry, p.out)⟩
      | none => ⟨h, d, s.curCore, s.curSlot, none⟩
    else ⟨h, d, s.curCore, s.curSlot, none⟩

/-- R55: the element type. -/
def View.ty (v : View) : Ty := Ty.ofCode (dF v.d 44 4)
/-- R54: the shape: 0 scalar, 1 vector, 2 tile, 3 accumulator. -/
def View.shape (v : View) : Nat := dF v.d 42 2
/-- R54: elements per row. -/
def View.len (v : View) : Nat := dF v.d 64 8 + 1
/-- R54: rows. -/
def View.rows (v : View) : Nat := dF v.d 72 8 + 1
/-- R54: row pitch in bytes. -/
def View.pitch (v : View) : Nat := dF v.d 52 12
/-- R54: rounding mode. -/
def View.rnd (v : View) : Nat := dF v.d 50 2
/-- R54: saturation. -/
def View.sat (v : View) : Bool := dF v.d 49 1 == 1
/-- R54: base. -/
def View.base (v : View) : Nat := dF v.d 0 15
/-- R54: slots of a ring. -/
def View.cnt (v : View) : Nat := dF v.d 95 8 + 1
/-- R54: bytes of a ring slot. -/
def View.slotBytes (v : View) : Nat := 4 * (dF v.d 85 10 + 1)
/-- R54: ring fill. -/
def View.fill (v : View) : Nat := dF v.d 119 9
/-- R62: a fixed port. -/
def View.fixed (v : View) : Bool := decide (48 ≤ v.h)
/-- R202: a ring view, or one of h48 to h53. -/
def View.ring (v : View) : Bool := if v.fixed then decide (v.h ≤ 53) else dF v.d 84 1 == 1
/-- R56: bytes of a row. -/
def View.rowBytes (v : View) : Nat := (v.len * v.ty.bits + 7) / 8
/-- R56: footprint. -/
def View.footprint (v : View) : Nat :=
  if v.shape ≤ 1 then v.rowBytes else (v.rows - 1) * v.pitch + v.rowBytes
/-- R56: extent. -/
def View.extent (v : View) : Nat := if v.ring then v.slotBytes * v.cnt else v.footprint
/-- R57: the byte offset of slot `o` of the read or the write side. -/
def View.start (v : View) (o : Nat) (out : Bool) : Nat :=
  if v.ring then v.base + (dF v.d (if out then 111 else 103) 8 + o) % v.cnt * v.slotBytes else v.base

/-- R56: whether a view is valid in a window of a length. -/
def View.valid (v : View) (wlen : Nat) : Bool :=
  (match v.shape with
    | 0 => v.len == 1 && v.rows == 1 && v.ty != .i4x
    | 1 => v.rows == 1 &&
        (if v.ty.bits = 64 then decide (v.len ≤ 8)
         else if v.ty = .i4x then v.len % 2 == 0 && decide (v.len ≤ 32) else decide (v.len ≤ 16))
    | 2 => (v.rows == 1 || decide (v.rowBytes ≤ v.pitch)) && (v.ty != .i4x || v.len % 2 == 0)
    | _ => (v.ty == .f32 || v.ty == .i32) && v.len == 16 && (v.rows == 1 || v.pitch == 64))
  && (!v.ring ||
      (decide (v.footprint ≤ v.slotBytes) && decide (v.fill ≤ v.cnt) && decide (dF v.d 103 8 < v.cnt)
        && decide (dF v.d 111 8 < v.cnt)))
  && decide (v.base + v.extent ≤ wlen)

/-! ## Accesses -/

/-- A read or a write of a view by an instruction: the slot offset (R202), and how many elements of its first row it
names (0: the whole view). -/
structure Acc where
  v   : View
  o   : Nat
  out : Bool
  n   : Nat
  deriving DecidableEq, Repr

/-- R48: the byte ranges of a window an access touches. -/
def Acc.ranges (q : Acc) : List (Nat × Nat) :=
  if q.v.fixed then []
  else
    let st := q.v.start q.o q.out
    if q.n ≠ 0 then [(st, (q.n * q.v.ty.bits + 7) / 8)]
    else if q.v.shape ≤ 1 then [(st, q.v.rowBytes)]
    else (List.range q.v.rows).map fun r => (st + r * q.v.pitch, q.v.rowBytes)

/-- R48: an access that would touch a byte outside its window. -/
def Acc.outside (s : State) (q : Acc) : Bool :=
  q.ranges.any fun r => decide ((s.win q.v.core q.v.slot).2 < r.1 + r.2)

/-- R56: an access through an invalid view. -/
def Acc.invalid (s : State) (q : Acc) : Bool := !q.v.fixed && !q.v.valid (s.win q.v.core q.v.slot).2

/-- R53: the banks of register space an access touches, as (core, bank). -/
def Acc.banks (s : State) (q : Acc) : List (Nat × Nat) :=
  (q.ranges.flatMap fun r => (s.winAddrs ⟨q.v.core, q.v.slot, r.1⟩ r.2).map
    fun a => ((a - 2 ^ 32) / 2 ^ 15, a % 2 ^ 15 / 2 ^ 13)).eraseDups

/-- R53: an access to a bank that is off. -/
def Acc.bankOff (s : State) (q : Acc) : Bool := (q.banks s).any fun p => (s.core p.1).bank p.2 == 2

/-- R52, R53: whether a bank of a core is not yet ready, or in retention. -/
def State.bankLate (s : State) (p : Nat × Nat) : Bool := (s.core p.1).bank p.2 == 1 || (mfind (s.core p.1).bankAt p.2).isSome

/-- R52, R53: an access that waits for its bank: not yet ready, or waking from retention. DEDUCED: log entry 97. -/
def Acc.bankWait (s : State) (q : Acc) : Bool :=
  (q.banks s).any s.bankLate

/-- R63: argument words of the claimed message. -/
def Slot.reqWords (x : Slot) : List W32 := match x.req with | some m => m.words | none => []

/-- R62, R63: the operand trap of an access to a fixed port. -/
def Acc.fixedTrap (s : State) (q : Acc) : Option Trap :=
  if !q.v.fixed then none
  else
    let bad : Option Trap := some { code := 5, handle := q.v.h }
    if q.out then (if q.v.h = 50 ∨ q.v.h = 54 then none else bad)
    else if q.v.h = 48 then (if s.cur.hasReq then none else bad)
    else if q.v.h = 50 then (if q.o < s.cur.outMsg.length then none else bad)
    else none

/-- R63: the message-end trap of a read, and the message-length trap of a write past word 123. -/
def Acc.msgTrap (s : State) (q : Acc) : Option Trap :=
  if q.out then
    (if q.v.h = 50 ∧ 124 ≤ s.cur.outMsg.length then some { code := 0xA, handle := 50 } else none)
  else if q.v.h = 48 ∧ s.cur.reqWords.length ≤ s.cur.reqPos + q.o then some { code := 9, handle := 48 }
  else if q.v.h = 49 then
    match s.cur.rpl with
    | [] => none
    | m :: _ => if m.words.length ≤ s.cur.rplPos + q.o then some { code := 9, handle := 49 } else none
  else none

/-- R69: whether a mark lies on bytes of an access. -/
def Acc.hits (q : Acc) (p : Pend) : Bool :=
  q.ranges.any fun r =>
    p.place.core == q.v.core && p.place.slot == q.v.slot && decide (p.place.off < r.1 + r.2) &&
      decide (r.1 < p.place.off + p.len)

/-- R69: the slots of the executing core that hold marks of their own, the executing one first. -/
def State.markers (s : State) : List Nat :=
  s.curSlot :: ((List.range 4).filter fun k => k != s.curSlot && !(s.slot s.curCore k).pend.isEmpty)

/-- R69, R15: the marks on the bytes of an access, each with the slot whose landing clears it: a ring of a port lies in its
producer's window, whose own marks count. -/
def Acc.marks (s : State) (q : Acc) : List (Nat × Pend) :=
  s.markers.flatMap fun k => ((s.slot s.curCore k).pend.filter q.hits).map fun p => (k, p)

/-- R58, R62, R127: whether the slot an access names is there. -/
def Acc.ringOk (s : State) (q : Acc) : Bool :=
  if q.v.fixed then
    (if q.out then true
     else match q.v.h with
      | 49 => !s.cur.rpl.isEmpty
      | 51 => decide (q.o < s.resRows.length)
      | 52 => decide (q.o < s.curC.clop.length)
      | 53 => s.curC.kpLast.isSome
      | _ => true)
  else if !q.v.ring then true
  else if q.out then decide (q.o < q.v.cnt - q.v.fill)
  else decide (q.o < q.v.fill)

/-- R79: the object a ring read waits on. -/
def Acc.waitsOn (s : State) (q : Acc) : List Obj :=
  if q.out then []
  else match q.v.entry with
    | some (e, _) => [Obj.port s.curCore e]
    | none =>
      match q.v.h with
      | 49 => [Obj.rplq s.curCore s.curSlot 0]
      | 52 => [Obj.clop s.curCore]
      | 53 => [Obj.klink (coreOfMember (clusterOf s.curCore) (bits s.curC.team.toNat 16 4))]
      | _ => []

/-- R79: the token objects behind pending marks of slots. -/
def tokenObjs (s : State) (ps : List (Nat × Pend)) : List Obj :=
  ps.map fun p => Obj.token s.curCore p.1 (s.slot s.curCore p.1).fid p.2.id

/-- The executing slot's own marks. -/
def State.ownMarks (s : State) : List (Nat × Pend) := s.cur.pend.map fun p => (s.curSlot, p)

/-- The first trap of a list. -/
def firstTrap (l : List (Option Trap)) : Option Trap :=
  match l with
  | [] => none
  | some t :: _ => some t
  | none :: rest => firstTrap rest

/-- R224, R318: the trap of one rank: the first kind present, and, where several operands meet it, any one of them. DESIGN CHOICE: log entry 15. -/
def State.oneOf (s : State) (l : List (Option Trap)) : Option Trap :=
  match l.filterMap id with
  | [] => none
  | t :: rest =>
    let q := t :: rest.filter (fun u => u.code == t.code)
    some (q.getD (Config.operandNamed s.now.toNat s.curCore s.curSlot % q.length) t)

/-- The traps of the accesses for which a test holds. -/
def accTraps (code : Nat) (test : Acc → Bool) (l : List Acc) : List (Option Trap) :=
  (l.filter test).map fun q => some { code := code, handle := q.v.h }

/-- R224: the traps of an instruction that its operands' views decide, in rank order: window, view invalid, view
mismatch, bank off, operand (those of fixed ports, then the instruction's own). DEDUCED: log entry 35. -/
def State.viewTraps (s : State) (accs : List Acc) (mism : List Nat) (opnd : List (Option Trap)) : Option Trap :=
  firstTrap
    [s.oneOf (accTraps 1 (·.outside s) accs), s.oneOf (accTraps 2 (·.invalid s) accs),
      s.oneOf (mism.map fun h => some { code := 3, handle := h }), s.oneOf (accTraps 4 (·.bankOff s) accs),
      s.oneOf (accs.map (·.fixedTrap s) ++ opnd)]

/-- R60: a wait for a ring slot that no other agent could end: neither a fixed port nor a port whose other end is
another slot's. DEDUCED: log entry 28. -/
def Acc.selfWait (s : State) (q : Acc) : Bool :=
  !q.v.fixed && !q.v.entry.any (fun e => s.otherEnd s.curCore s.curSlot e.1 q.out)

/-- R58, R60, R62: the wait for ring slots that are not there: one that nobody could end traps (R60), a read of
`in.rpl` is a blocking wait (R279). -/
def State.ringWait (s : State) (accs : List Acc) : Option Verdict :=
  let bad := accs.filter (fun q => !q.ringOk s)
  match s.oneOf (accTraps 6 (·.selfWait s) bad) with
  | some t => some (.trap t)
  | none =>
    match bad with
    | [] => none
    | q :: _ =>
      some (.wait (if bad.length ≠ 1 then .rings (bad.map fun r => (r.v.h, r.o, r.out)) else if q.v.h = 49 then .reply else .ring q.v.h q.o q.out) (bad.flatMap (·.waitsOn s)) (bad.any (fun r => r.v.h == 49)))

/-- R69, R279: the wait for pending marks on the bytes of its accesses; one that only a held effect can clear is a
blocking wait where it is read. DEDUCED: log entry 29. -/
def State.pendWait (s : State) (accs : List Acc) : Option Verdict :=
  match accs.flatMap (·.marks s) with
  | [] => none
  | ps =>
    let rd := (accs.filter (fun q => !q.out)).flatMap (·.marks s)
    some (.wait .pending (tokenObjs s ps) (rd.any (fun p => p.1 == s.curSlot && p.2.held)))

/-- R417, R418: bytes of register space named by a read whose parity fails. -/
def Acc.badParity (s : State) (q : Acc) : List Nat :=
  if s.parity.isEmpty || q.out then []
  else (q.ranges.flatMap fun r => s.winAddrs ⟨q.v.core, q.v.slot, r.1⟩ r.2).filter (fun a => s.parity.contains a)

/-- R419: the last queued write of a byte: the value it writes again, or none where its replay finds a parity error itself. -/
def lastWrite (l : List Replay) (a : Nat) : Option (Option Byte) :=
  match l with
  | [] => none
  | r :: rest =>
    match lastWrite rest a with
    | some v => some v
    | none => (r.cells.find? (fun p => p.1 == a)).map fun p => if r.bad then none else some p.2

/-- R419: the value that replay gives a byte, if it can. -/
def replayed (l : List Replay) (a : Nat) : Option Byte := (lastWrite l a).join

/-- R419: what the instructions of a replay queue that wrote some bytes last write again: all their destination bytes, but for those that a
later one has written since. -/
def rewrites (l : List Replay) (as : List Nat) : List Host.Cell :=
  match l with
  | [] => []
  | r :: rest =>
    let own := r.cells.filter fun p => !rest.any fun q => q.cells.any fun u => u.1 == p.1
    (if own.any fun p => as.contains p.1 then own else []) ++ rewrites rest as

/-- R419: bytes whose parity fails repaired from the replay queue of a core, with the other bytes of the instructions that are executed again;
`none` where a byte cannot be. -/
def State.repair (s : State) (c : Nat) (as : List Nat) : Option State :=
  if as.all fun a => (replayed (s.core c).replay a).isSome then
    let cells := rewrites (s.core c).replay as
    let s1 := { s with mem := cells.foldl (fun m (p : Host.Cell) => memPut m p.1 p.2) s.mem }
    some ((s1.clearParity (cells.map Prod.fst)).updCore c fun x => { x with repl := bump x.repl })
  else none

/-- R418, R424: the record of a parity error of a register byte that a firing of a slot consumes. -/
def parityRec (ctx core slot a : Nat) : ErrRec :=
  { code := 0x63, ctx := some ctx, src := 0, fate := 0, lcore := core, slot := slot, addr := a % 2 ^ 15 }

/-- R419, R418: a read that found a parity error: repaired by replay, after which the reader issues again, or consumed. -/
def State.parityError (s : State) (as : List Nat) : State :=
  (s.repair s.curCore as).getD (s.consume s.curCore s.curSlot (parityRec s.cur.ctx s.curCore s.curSlot (as.headD 0)))

/-- R279: an instruction whose firing commits before it issues again. -/
def State.commitFirst (s : State) : Verdict :=
  if s.cur.canCommit then .stay (s.commit s.curCore s.curSlot) else .wait .drain [] false

/-- R279: a read of `in.rpl` by a restartable firing, which commits first. -/
def Acc.commits (s : State) (q : Acc) : Bool := s.cur.restart && q.v.h == 49 && !q.out

/-- R224, R48 to R69: everything an instruction passes before its values are read, `pend` being its wait for pending
bytes: the traps of its views and `late` ones that need no value, then the waits for banks, pending bytes and ring slots,
then parity (R419), and the commit that a read of `in.rpl` makes (R279). `none`: it may go on. DEDUCED: log entry 34. -/
def State.gateWith (s : State) (accs : List Acc) (mism : List Nat) (opnd late : List (Option Trap))
    (pend : Option Verdict) : Option Verdict :=
  match s.viewTraps accs mism opnd with
  | some t => some (.trap t)
  | none =>
    let msgs := accs.map (·.msgTrap s)
    match firstTrap (late.filter (fun t => t.any (fun u => u.code == 0xB)) ++ msgs.filter (fun t => t.any (fun u => u.code == 9)) ++ msgs ++ late) with
    | some t => some (.trap t)
    | none =>
      if accs.any (·.bankWait s) then some (.wait (.bank ((accs.flatMap (·.banks s)).filter s.bankLate)) [] false)
      else
        match pend with
        | some v => some v
        | none =>
          match s.ringWait accs with
          | some v => some v
          | none =>
            match accs.flatMap (·.badParity s) with
            | [] => if accs.any (·.commits s) then some s.commitFirst else none
            | as => some (.stay (s.parityError as))

/-- The gate of an instruction that waits for the pending bytes it names (R69). -/
def State.gate (s : State) (accs : List Acc) (mism : List Nat) (opnd late : List (Option Trap)) : Option Verdict :=
  s.gateWith accs mism opnd late (s.pendWait accs)

/-- A trap that the value of an operand decides, where the value can be read already. -/
def Acc.early (s : State) (q : Acc) (t : Option Trap) : Option Trap :=
  if q.ringOk s && (q.marks s).isEmpty && !q.bankWait s then t else none

/-- R224: an instruction that passes its gate goes on with `k`. A ring-self-wait trap ranks after the traps its values
decide, so one of a full destination gives way to them. -/
def State.gated (s : State) (accs : List Acc) (mism : List Nat) (opnd late : List (Option Trap)) (k : Unit → Verdict) :
    Verdict :=
  match s.gate accs mism opnd late with
  | none => k ()
  | some (.trap t) =>
    if t.code = 6 ∧ accs.all (fun q => q.out || q.ringOk s) = true then
      (match k () with
        | .trap u => .trap u
        | _ => .trap t)
    else .trap t
  | some v => v

/-! ## Slot offsets (R202) -/

/-- R202: the offsets of the first source and of the destination, or the operand trap of a nonzero `o` that names no
ring. -/
structure Offs where
  src : Nat
  dst : Nat
  bad : Option Trap
  deriving DecidableEq, Repr

/-- R202: `src` and `dst` are the views of the `a` field where the instruction reads it, and of the `d` field where it
writes it. -/
def offsets (o : BitVec 2) (src dst : Option View) : Offs :=
  if src.any View.ring then ⟨o.toNat, 0, none⟩
  else if dst.any (fun v => !v.fixed && v.ring) then ⟨0, o.toNat, none⟩
  else ⟨0, 0, if o = 0 then none else some { code := 5 }⟩

/-! ## Reading elements -/

/-- The bytes of row `r` of an access. -/
def Acc.rowBytesOf (s : State) (q : Acc) (r : Nat) : List Byte :=
  s.winGet ⟨q.v.core, q.v.slot, q.v.start q.o q.out + r * q.v.pitch⟩ q.v.rowBytes

/-- A word of a 512-bit row. -/
def rowWord (row : BitVec 512) (i : Nat) : Nat := bits row.toNat (32 * i) 32

/-- R62: element `i` of a fixed port at the access's offset. -/
def Acc.fixedElem (s : State) (q : Acc) (i : Nat) : Nat :=
  match q.v.h with
  | 48 => (s.cur.reqWords.getD (s.cur.reqPos + q.o) 0).toNat
  | 49 => match s.cur.rpl with | [] => 0 | m :: _ => (m.words.getD (s.cur.rplPos + q.o) 0).toNat
  | 50 => (s.cur.outMsg.getD q.o 0).toNat
  | 51 => rowWord (s.resRows.getD q.o 0) i
  | 52 => rowWord (s.curC.clop.getD q.o 0) i
  | 53 => bits (s.curC.kpLast.getD 0).toNat (128 * q.o + 8 * i) 8
  | 55 => i
  | _ => 0

/-- The raw bits of element `i` of the first row of an access (an i4x element is its nibble, R104). -/
def Acc.elem (s : State) (q : Acc) (i : Nat) : Nat :=
  if q.v.fixed then q.fixedElem s i
  else
    let w := q.v.ty.bits
    let off := q.v.start q.o q.out + i * w / 8
    bits (leNat (s.winGet ⟨q.v.core, q.v.slot, off⟩ ((w + 7) / 8))) (i * w % 8) w

/-- R95, R223: the operation type: the destination's, unless that is `b` or `zero`; then the first source's that is
neither, or `n32`. -/
def opType (d : View) (srcs : List View) : Ty :=
  if d.ty ≠ .b then d.ty
  else match srcs.find? (fun v => v.ty != .b) with
    | some v => v.ty
    | none => .n32

/-- R95, R257: the raw bits a source supplies to lane `i`, under an operation type: a scalar and lane 0 serve every
lane; `b` gives its low bits, or two adjacent
elements (the second free where there is none). DESIGN CHOICE: log entry 16. -/
def Acc.lane (s : State) (q : Acc) (op : Ty) (i : Nat) : Nat :=
  if q.v.h = 54 then 0
  else
    let j := if q.v.h = 55 then i else if q.v.shape = 0 then 0 else i
    if q.v.ty = .b then
      if op.bits = 64 then
        q.elem s (2 * j) + 2 ^ 32 * (if q.v.shape ≠ 0 ∧ 2 * j + 1 < q.v.len then q.elem s (2 * j + 1)
          else Config.halfMissing (q.elem s (2 * j)) % 2 ^ 32)
      else q.elem s j % 2 ^ op.bits
    else q.elem s j

/-- R95: the type a source is read under. -/
def View.readTy (v : View) (op : Ty) : Ty := if v.ty = .b then op else v.ty

/-- R223: element 0 of a scalar operand as an unsigned number (an integer-class or `b` view). -/
def Acc.nat (s : State) (q : Acc) : Nat := q.elem s 0

/-- Element 0 under the view's own type, `b` read as `i32`. -/
def Acc.int (s : State) (q : Acc) : Int := (if q.v.ty = .b then Ty.i32 else q.v.ty).intVal (q.elem s 0)

/-- A 64-bit operand: a 64-bit element, or elements 0 and 1 of a `b` vector. -/
def Acc.nat64 (s : State) (q : Acc) : Nat :=
  if q.v.ty = .b ∧ q.v.shape = 1 then q.elem s 0 + 2 ^ 32 * q.elem s 1 else q.elem s 0

/-- The words of a `b` vector. -/
def Acc.words (s : State) (q : Acc) (n : Nat) : List W32 := (List.range n).map fun i => BitVec.ofNat 32 (q.elem s i)

/-! ## Writing elements -/

/-- The words of the executing slot's own window from an offset on, as the operand of an instruction that names bytes (R303, R319). -/
def State.windowAcc (s : State) (off n : Nat) : Acc :=
  ⟨⟨0, dSet (mkDesc 15 1 (n / 4) 0) 0 15 off, s.curCore, s.curSlot, none⟩, 0, false, 0⟩

/-- R52, R53, R69, R419: what a read of n bytes of the own window passes before they are read. -/
def State.rawGate (s : State) (off n : Nat) : Option Verdict :=
  let q := s.windowAcc off n
  if n = 0 then none
  else if q.bankOff s then some (.trap { code := 4 })
  else if q.bankWait s then some (.wait (.bank ((q.banks s).filter s.bankLate)) [] false)
  else
    match s.pendWait [q] with
    | some v => some v
    | none =>
      match q.badParity s with
      | [] => none
      | as => some (.stay (s.parityError as))

/-- Several ranges of one window written by one instruction (R49, R419). -/
def State.regPuts (s : State) (core slot : Nat) (ws : List (Nat × List Byte)) : State :=
  let cells : List Host.Cell := ws.flatMap fun w => (s.winAddrs ⟨core, slot, w.1⟩ w.2.length).zip w.2
  let s1 := { s with mem := cells.foldl (fun m (p : Host.Cell) => memPut m p.1 p.2) s.mem }
  (s1.clearParity (cells.map Prod.fst)).updCore s.curCore (·.remember cells)

/-- R16: the output slots of a port of the firing, counted from the write position at its start, that bytes of the port's window
belong to. -/
def State.slotsHit (s : State) (p : PortUse) (rs : List (Nat × Nat)) : List Nat :=
  let d := p.desc s.curC s.cur.cbuf
  let cnt := dF d 95 8 + 1
  let size := 4 * (dF d 85 10 + 1)
  (List.range p.rate).filter fun k =>
    let st := dF d 0 15 + (dF d 111 8 + k + cnt * p.adv - p.adv) % cnt * size
    rs.any fun r => decide (st < r.1 + r.2) && decide (r.1 < st + size)

/-- R16: a port of the firing after a write of bytes of a slot's window. -/
def State.touched (s : State) (slot : Nat) (rs : List (Nat × Nat)) (p : PortUse) : PortUse :=
  if p.out && s.producer s.curCore p.entry s.curSlot == slot then
    { p with wr := p.wr ++ (s.slotsHit p rs).filter fun k => !p.wr.contains k }
  else p

/-- R16: the bookkeeping of a write of any view: the output slots of the firing's ports that its bytes belong to are written. -/
def Acc.wrote (q : Acc) (s : State) : State :=
  if s.cur.ports.isEmpty then s
  else s.updCur fun x => { x with ports := x.ports.map (s.touched q.v.slot q.ranges) }

/-- The low bits of a number as whole bytes. -/
def rawBytes (w raw : Nat) : List Byte := toLe (w / 8) raw

/-- R95: the bytes of an element whose low w bits are replaced; a w that is no whole number of bytes keeps the rest of the
last one. -/
def Acc.lowBytes (s : State) (q : Acc) (off w raw : Nat) : List Byte :=
  if w % 8 = 0 then rawBytes w raw
  else toLe (w / 8 + 1) (setBits (leNat (s.winGet ⟨q.v.core, q.v.slot, off⟩ (w / 8 + 1))) 0 w raw)

/-- R104: nibbles packed two to a byte. -/
def packNibbles (l : List Nat) : List Byte :=
  match l with
  | [] => []
  | [x] => [BitVec.ofNat 8 (x % 16)]
  | x :: y :: rest => BitVec.ofNat 8 (x % 16 + 16 * (y % 16)) :: packNibbles rest

/-- R95, R223, R257: the lanes of a result written to a destination, as one register-space write. `w` is the width of
each lane. A `b` element of 32 bits takes a narrower lane in its low bits, its other bits kept, and a 64-bit lane in two
elements; `zero` discards and `out.msg` appends one word (R62). DEDUCED: log entry 32. -/
def Acc.putLanes (s : State) (q : Acc) (w : Nat) (raws : List Nat) : State :=
  if q.v.h = 54 then s
  else if q.v.h = 50 then s.updCur fun x => { x with outMsg := x.outMsg ++ [BitVec.ofNat 32 (raws.headD 0 % 2 ^ w)] }
  else
    let st := q.v.start q.o true
    let ew := q.v.ty.bits
    let ws : List (Nat × List Byte) :=
      if q.v.ty = .i4x then [(st, packNibbles raws)]
      else if w < ew then raws.mapIdx fun i r => (st + i * ew / 8, q.lowBytes s (st + i * ew / 8) w r)
      else if q.v.ty = .b ∧ w = 64 ∧ q.v.shape = 0 then [(st, rawBytes 32 (raws.headD 0))]
      else [(st, raws.flatMap (rawBytes w))]
    q.wrote (s.regPuts q.v.core q.v.slot ws)

/-- Whole bytes written from the start of a destination. -/
def Acc.putBytes (s : State) (q : Acc) (bs : List Byte) : State :=
  if q.v.h = 54 then s else q.wrote (s.regPuts q.v.core q.v.slot [(q.v.start q.o true, bs)])

/-- Element 0 written as raw bits of the element's width. -/
def Acc.putRaw (s : State) (q : Acc) (raw : Nat) : State := q.putLanes s q.v.ty.bits [raw]

/-! ## Ring advances (R59, R61, R63) -/

/-- R59, R61: an advance of a ring view or port by `n` slots; a port's move is counted in adv(p) (R16) and held until
commit. -/
def State.advance (s : State) (v : View) (write : Bool) (n : Nat) : State :=
  match v.entry with
  | some (e, _) =>
    (s.updCur fun x => { x with ports := x.ports.map fun p =>
      if p.entry = e ∧ p.out = write then { p with adv := p.adv + n } else p }).hold (.adv e write n)
  | none => s.updCur fun x => { x with views := mput x.views v.h (dMove v.d write n) }

/-- R63: the words of the current reply passed; passing the last frees the reply and its reservation (R301). -/
def Slot.passReply (x : Slot) (n : Nat) : Slot :=
  match x.rpl with
  | [] => x
  | m :: rest => if m.words.length ≤ x.rplPos + n then { x with rpl := rest, rplPos := 0, rplRes := x.rplRes.erase m.sender.2.2 } else { x with rplPos := x.rplPos + n }

/-- R130: drained rows move into `mx.res` as its 16 places become free. -/
def MArr.show (a : MArr) : MArr := { a with res := a.res ++ a.drain.take (16 - a.res.length), drain := a.drain.drop (16 - a.res.length) }

/-- R130, R269: n rows of `mx.res` passed. -/
def MArr.pass (a : MArr) (n : Nat) : MArr := ({ a with res := a.res.drop n } : MArr).show

/-- R59, R63, R269: an advance of any readable ring, fixed ports included. -/
def State.advanceRead (s : State) (v : View) (n : Nat) : State :=
  match v.h with
  | 48 => s.updCur fun x => { x with reqPos := x.reqPos + n }
  | 49 => s.updCur (·.passReply n)
  | 51 =>
    if s.curC.arr.claim = some (s.curSlot, s.cur.fid) then
      s.updCore s.curCore fun x => { x with arr := x.arr.pass n }
    else s.updCur fun x => { x with marr := x.marr.map (·.pass n) }
  | 52 => s.updCore s.curCore fun x => { x with clop := x.clop.drop n }
  | _ => s.advance v false n

/-! ## Pending marks (R69) -/

/-- R69: the slot already tracks 16 pending views. -/
def Slot.pendFull (x : Slot) : Bool := decide (16 ≤ x.pend.length)

/-- R69: bytes of a destination marked pending: the identity that the landing will clear. -/
def State.mark (s : State) (q : Acc) (len : Nat) (held near eng : Bool) : Ret × State :=
  let p : Place := ⟨q.v.core, q.v.slot, q.v.start q.o true⟩
  let n := s.newId
  (⟨s.curCore, s.curSlot, s.cur.fid, n.1, p, len⟩,
    q.wrote (n.2.updCur fun x => { x with pend := x.pend ++ [⟨n.1, p, len, held, near, eng⟩] }))

end Sys2Proof.Machine
end

