-- ==== Sys2Proof/Machine/Queue.lean ====
section
/-!
DEFINITION. Message queues and the overflow area (R34 to R38), replies, launches (R350 to R354,
R41), pitch counters (R311), and how a firing ends (R16, R248).
-/

namespace Sys2Proof.Machine

/-! ## Inbound queues (R34, R35) -/

/-- R38, R350: the message a firing claimed from a queue; a launch's firing reads one that it has not claimed. -/
def Slot.claim (x : Slot) : Option Msg := if x.launch = 0 ∨ x.child = true then x.req else none

/-- R35: the items of a context's overflow area, those held apart for saved firings included (R366). -/
def State.spillUsed (s : State) (ctx : Nat) : Nat :=
  (s.ctx ctx).spills.length + ((s.saved.filter fun v => v.body.ctx == ctx).map fun v =>
    (if v.body.claim.isSome then 1 else 0) + v.body.rpl.length).sum

/-- R35, R346: the messages a context's overflow area holds. -/
def State.spillRoom (s : State) (ctx : Nat) : Nat := (s.ctx ctx).osize / 512 - s.spillUsed ctx

/-- R34, R35, R37: a message filed, spilled or refused: the value its token takes. One that finds the queue full ends its cycle: an entry
freed in that cycle was freed before it. DESIGN CHOICE: log entry 146. -/
def State.fileMsg (s : State) (c : Nat) (m : Msg) : Nat × State :=
  let q := (s.core c).queue m.high
  if !(s.ctx m.ctx).spills.any (·.isFor c m.high) && decide (q.length < 32) then
    (0, s.updCore c fun x => x.setQueue m.high (insertMsg ⟨m, none⟩ (x.queue m.high)))
  else if 0 < s.spillRoom m.ctx then (1, (s.updCtx m.ctx fun x => { x with spills := x.spills ++ [⟨c, m⟩] }).tick 1)
  else (2, s.tick 1)

/-- R38, R16: the queue entry or resume entry a firing claimed is freed, and its queue refilled. -/
def State.freeClaim (s : State) (c k fid : Nat) : State :=
  let drop (l : List QEntry) : List QEntry := l.filter fun q => q.claimed != some fid
  let s1 := s.updCore c fun x =>
    { x with hiQ := drop x.hiQ, loQ := drop x.loQ,
             resume := match mfind x.resume k with
               | some q => if q.claimed = some fid then mdel x.resume k else x.resume
               | none => x.resume }
  (s1.refill c true 32).refill c false 32

/-! ## Replies (R301) -/

/-- R301: a handle's reply reservation freed. -/
def freeRes (h : Nat) (l : List Nat) : List Nat := l.erase h

/-- R301, R252, R366: a reply reaches its requester: the entry reserved for its slot and handle, which outlasts the firing that reserved it,
or that of a firing saved from there; with none it is dropped and reported. -/
def State.landReply (s : State) (c : Nat) (m : Msg) : Nat × State :=
  let k := m.sender.2.1
  let h := m.sender.2.2
  let owes (x : Slot) : Bool := decide ((x.rpl.map fun r => r.sender.2.2).count h < x.rplRes.count h)
  let take (x : Slot) : Slot := { x with rpl := x.rpl ++ [m] }.signal s.now
  let x := s.slot c k
  if x.bound = true ∧ x.ctx = m.ctx ∧ owes x = true then (0, s.updSlot c k take)
  else
    match s.saved.find? (fun v => v.core == c && v.slot == k && v.body.ctx == m.ctx && owes v.body) with
    | some v => (0, { s with saved := s.saved.map fun w => if w = v then { w with body := take w.body } else w })
    | none => (2, s.msgFault m.ctx c 0x3B m.hdr)

/-! ## Launches (R350 to R354) -/

/-- R352: a field of a launch header: n bits at a bit of a byte offset. -/
def hdrF (h : BitVec 1536) (byte lo n : Nat) : Nat := bits h.toNat (8 * byte + lo) n

/-- R353: a level of a launch header. -/
def levelOf (h : BitVec 1536) (i : Nat) : Level where
  width := hdrF h (0x48 + 16 * i) 58 6
  ext := hdrF h (0x40 + 16 * i) 0 63 + 1
  cls := hdrF h (0x48 + 16 * i) 55 3
  dense := hdrF h (0x48 + 16 * i) 54 1 == 1
  bv := hdrF h (0x48 + 16 * i) 37 1 == 1
  bar := BitVec.ofNat 37 (hdrF h (0x48 + 16 * i) 0 37)

/-- R353: the six levels. -/
def levelsOf (h : BitVec 1536) : List Level := (List.range 6).map (levelOf h)

/-- R27: the firings of a group over some levels. -/
def groupSize (ls : List Level) : Nat := (ls.map Level.ext).foldl (· * ·) 1

/-- R28: the levels with a barrier, each with the levels above it and its group size. DEDUCED: log entry 184. -/
def barriersOf (ls done : List Level) : List (Level × List Level × Nat) :=
  match ls with
  | [] => []
  | l :: rest => let lower := done ++ [l]; (if l.bv then [(l, rest, groupSize lower)] else []) ++ barriersOf rest lower

/-- R28: the highest group number over some levels, 1 more. -/
def groupSpan (ls : List Level) : Nat := (ls.foldl (fun (p : Nat × Nat) q => (p.1 + (q.ext - 1) * 2 ^ p.2, p.2 + q.width)) (0, 0)).1 + 1

/-- R28, R23: the group numbers over some levels: those that identifiers of the launch give. -/
def groupNumbers (ls : List Level) : List Nat :=
  match ls with
  | [] => [0]
  | l :: rest => (groupNumbers rest).flatMap fun g => (List.range l.ext).map fun i => i + 2 ^ l.width * g

/-- R28, R291: whether n blocks from a reference on stand in one slice, here or on a peer. DEDUCED: log entry 61. -/
def barrierFits (ref n : Nat) : Bool :=
  let h := ref % 2 ^ 31
  (decide (ref < 2 ^ 31) || decide (2 ^ 36 ≤ ref)) && h % 64 == 0 && decide (h / 2 ^ 17 < numCores) && decide (h % 2 ^ 17 + 64 * n ≤ 0x18000)

/-- R28: the references of the instances of a level's barrier. -/
def instancesOf (b : Level × List Level × Nat) : List Nat := (groupNumbers b.2.1).map fun g => b.1.bar.toNat + 64 * g

/-- R28: whether two of some lists of instances share a block. -/
def overlaps (l : List (List Nat)) : Bool :=
  match l with
  | [] => false
  | b :: rest => rest.any (fun c => b.any c.contains) || overlaps rest

/-- R25: whether each class is equal to or narrower than every higher one. -/
def classOrder (l : List Nat) : Bool :=
  match l with
  | [] => true
  | c :: rest => rest.all (fun d => decide (c ≤ d)) && classOrder rest

/-- R336: whether the dense levels obey their conditions. -/
def denseOk (ls done : List Level) : Bool :=
  match ls with
  | [] => true
  | l :: rest => (!l.dense || (l.cls == 1 && decide (groupSize (done ++ [l]) ≤ 16))) && denseOk rest (done ++ [l])

/-- R354: the fields of a launch header that must hold. -/
def headerOk (h : BitVec 1536) : Bool :=
  let ls := levelsOf h
  let mbz := hdrF h 0 24 8 == 0 && hdrF h 0 0 10 == 0 && hdrF h 4 6 25 == 0 && hdrF h 0xC 6 25 == 0 && hdrF h 0x18 37 26 == 0
    && hdrF h 0x20 0 256 == 0 && hdrF h 0xA0 0 256 == 0
    && (List.range 6).all fun i => hdrF h (0x40 + 16 * i) 63 1 == 0 && hdrF h (0x48 + 16 * i) 38 16 == 0
  let cobj := hdrF h 0x18 63 1 == 0 || barrierFits (hdrF h 0x18 0 37) 1
  mbz && cobj && decide ((ls.map Level.width).sum ≤ 64)
    && ls.all (fun l => decide (l.ext ≤ 2 ^ l.width) && decide (l.cls < 5))
    && decide (groupSize ls ≤ 2 ^ 48) && (barriersOf ls []).all (fun b => barrierFits b.1.bar.toNat (groupSpan b.2.1))
    && !overlaps ((barriersOf ls []).map instancesOf)

/-- R354: the launch whose trigger a launch waits for, by the status slot it names. DEDUCED: log entry 108. -/
def State.afterOf (s : State) (ctx slot : Nat) : Option Launch :=
  if statusSt (s.status ctx slot) = 0 then none
  else (s.launches.filter fun l => l.status == some (ctx, slot)).getLast?

/-- R354, R350: why a launch is rejected, if it is. DEDUCED: log entry 107. -/
def State.launchRefusal (s : State) (ctx : Nat) (h : Option (BitVec 1536)) : Option Nat :=
  match h with
  | none => some 3
  | some h =>
    let ls := (levelsOf h).filter fun l => l.width != 0
    if !headerOk h then some 0x44
    else if !classOrder (ls.map Level.cls) || !denseOk (levelsOf h) [] then some 4
    else if hdrF h 0xC 31 1 = 1 ∧ ((s.afterOf ctx (hdrF h 0xC 0 6)).any Launch.trig) = false then some 0x45
    else if (s.actorAt ctx (hdrF h 0 12 12)).isNone then some 3
    else none

/-- R28, R352: an object block that Ouva writes afresh; one on a peer is the peer's. DEDUCED: log entry 61. -/
def State.freshBlock (s : State) (home kind parm : Nat) : State :=
  if 2 ^ 31 ≤ home then s
  else { (s.setBytes home (toLe 4 kind ++ toLe 4 parm ++ toLe 56 0)).flushRa home 64 with homes := mdel s.homes home }

/-- R311: the key of a pitch counter of a die and context. -/
def pitchKey (die ctx i : Nat) : Nat := (die * 256 + ctx) * 64 + i

/-- R350: the grid of a launch built: its barriers and completion semaphore written. -/
def State.buildLaunch (s : State) (ctx : Nat) (h : BitVec 1536) (m : Msg) (status : Option (Nat × Nat)) : State :=
  let ls := levelsOf h
  let after := if hdrF h 0xC 31 1 = 1 then (s.afterOf ctx (hdrF h 0xC 0 6)).map Launch.id else none
  let s1 := (barriersOf ls []).foldl (fun t b =>
    (instancesOf b).foldl (fun t r => t.freshBlock r 2 b.2.2) t) s
  let cobj := if hdrF h 0x18 63 1 = 1 then some (BitVec.ofNat 37 (hdrF h 0x18 0 37)) else none
  let s2 := match cobj with | some r => s1.freshBlock r.toNat 3 0 | none => s1
  let n := s2.newId
  let l : Launch :=
    { id := n.1, ctx := ctx, act := hdrF h 0 12 12, trig := hdrF h 0 11 1 == 1, irq := hdrF h 0 10 1 == 1, after := after,
      dl := BitVec.ofNat 64 (hdrF h 0x10 0 64), cobj := cobj, levels := ls,
      pc := if hdrF h 4 31 1 = 0 then none else some (hdrF h 4 0 6, hdrF h 8 0 16 + 1, hdrF h 8 16 16 + 1), msg := { m with launch := n.1 },
      status := status, waiting := after.isSome, started := [], ended := 0, trigs := 0, kids := 0, retries := [],
      trigDone := false, done := false }
  ({ n.2 with launches := n.2.launches ++ [l] }).syncLaunch l

/-- R350, R354: a launch accepted or rejected: the value its token or status takes. -/
def State.startLaunch (s : State) (m : Msg) (status : Option (Nat × Nat)) : Nat × State :=
  let h := match (s.ctx m.ctx).image with | none => none | some im => im.launches[m.hix]?
  match s.launchRefusal m.ctx h, h with
  | none, some h => (0, s.buildLaunch m.ctx h m status)
  | some c, _ => (c, s)
  | none, none => (3, s)

/-- R350, R426: whether an accepted launch would write an object block that is under test. -/
def State.launchTests (s : State) (ctx hix : Nat) : Bool :=
  let h := match (s.ctx ctx).image with | none => none | some im => im.launches[hix]?
  s.cores.any (fun p => p.2.bist.any fun t => t.1 == 2) && (s.launchRefusal ctx h).isNone &&
    (match h with
      | none => false
      | some h =>
        let own := if hdrF h 0x18 63 1 = 1 then [hdrF h 0x18 0 37] else []
        ((barriersOf (levelsOf h) []).flatMap instancesOf ++ own).any fun r => decide (r < 2 ^ 31) && s.testing r 64)

/-- R42, R352: a launch whose firings and children have all ended is complete: its status, and one post of 2^31 − 1 on
its completion semaphore. -/
def State.checkLaunch (s : State) (id : Nat) : State :=
  match s.launchOf id with
  | none => s
  | some l =>
    if l.done = false ∧ groupSize l.levels ≤ l.ended ∧ l.kids = 0 then
      let s1 := s.updLaunch id fun l => { l with done := true }
      match l.cobj with
      | none => s1
      | some r => s1.push (.obj ⟨.semp, BitVec.ofNat 64 r.toNat, 2 ^ 31 - 1, l.ctx, r.toNat % 2 ^ 31 / 2 ^ 17, 0, 0, none⟩)
    else s

/-- R42: a firing or a spawned child of a launch has ended. -/
def State.countEnd (s : State) (id : Nat) (child : Bool) : State :=
  if id = 0 then s
  else
    (s.updLaunch id fun l => if child then { l with kids := l.kids - 1 } else { l with ended := l.ended + 1 }).checkLaunch id

/-! ## Arrival (R33 to R37) -/

/-- R36, R328: whether an invocation's handler index names a valid actor; a message of another kind names none. -/
def State.hasHandler (s : State) (m : Msg) : Bool := m.kind != 1 || (s.actorAt m.ctx m.hix).isSome

/-- R32, R30: whether a spawn-accepting slot of a context is bound on a core. -/
def State.hasSpawnSlot (s : State) (c ctx : Nat) : Bool :=
  (List.range 4).any fun k => (s.slot c k).bound && (s.slot c k).spwnFlag && (s.slot c k).ctx == ctx

/-- R31, R42: the answer to a message; a spawn that is refused leaves no child to wait for. -/
def State.unborn (m : Msg) (r : Nat × State) : Nat × State := if m.spn ∧ 2 ≤ r.1 then (r.1, r.2.countEnd m.launch true) else r

/-- R33 to R37, R301, R379: a message at its target's network interface: the value its token takes. DEDUCED: log entry 63. -/
def State.arrive (s : State) (c : Nat) (m0 : Msg) : Nat × State :=
  let m := { m0 with arr := s.now }
  let ctx := m.ctx
  State.unborn m <|
  if !(s.ctx ctx).live || (s.ctx ctx).fenced then (2, s)
  else if m.kind = 3 ∨ 3 ≤ m.orig then (2, s.msgFault ctx c 0x3A m.hdr)
  else if c = 0x3FFF then s.startLaunch m none
  else if (s.core c).fenced then (2, s)
  else if m.spn then (if s.hasSpawnSlot c ctx then s.fileMsg c m else (3, s.msgFault ctx c 3 m.hdr))
  else if m.kind = 2 then s.landReply c m
  else if s.hasHandler m then s.fileMsg c m
  else (3, s.msgFault ctx c 3 m.hdr)

/-! ## Pitch counters (R311) -/

/-- R311: the answer of a query to a counter. -/
def Pitch.draw (p : Pitch) : Nat × Pitch :=
  if p.n < p.x * p.y then (p.n / p.x * 2 ^ 32 + p.n % p.x, { p with n := p.n + 1 }) else (2 ^ 64 - 1, p)

/-- R311, R412: the answer of a query written near. -/
def State.putPitch (s : State) (q : Cmd) (v : Nat) : State :=
  let a := bits q.a.toNat 0 31
  let t := s.storeNear q.writer a (toLe 8 v)
  if s.touchesLive a 8 then t else t.watchEngine (clusterOf q.core) q a 8 false

/-- R311, R426: waiting queries answered while the counter has an index, or once no feeder is bound; one whose answer goes to a block under
test waits, and those behind it. -/
def State.servePitch (s : State) (key k : Nat) : State :=
  match k with
  | 0 => s
  | k + 1 =>
    let p := mget s.pitch key Pitch.reset
    match p.waiting with
    | [] => s
    | q :: rest =>
      if s.testing (bits q.a.toNat 0 31) 8 then s
      else if p.n < p.x * p.y ∨ p.feeders = 0 then
        let d := p.draw
        let s1 := { s with pitch := mput s.pitch key { d.2 with waiting := rest } }
        State.servePitch ((s1.putPitch q d.1).push (.token q.ret 0)) key k
      else s

/-- R311: a firing is no longer bound as a feeder. -/
def State.unfeed (s : State) (keys : List Nat) : State :=
  keys.foldl (fun t key =>
    let p := mget t.pitch key Pitch.reset
    State.servePitch { t with pitch := mput t.pitch key { p with feeders := p.feeders - 1 } } key p.waiting.length) s

/-! ## The end of a firing (R16, R248) -/

/-- R133, R130: the array a firing claimed is released at its end, with the rows of `mx.res` it left unread. -/
def State.releaseArray (s : State) (c k : Nat) : State :=
  match (s.core c).arr.claim with
  | some (k', fid) =>
    if k' = k ∧ fid = (s.slot c k).fid then
      s.updCore c fun x =>
        { x with arr := { x.arr with claim := none, shadow := none, res := [], drain := [], last := some (k, fid, (s.slot c k).ctx) } }
    else s
  | none => s

/-- A slot without a firing (R21): what a dispatch sets anew is left, the rest is cleared. The reply entries reserved in the slot, and the
replies in them, stay (R301). DEDUCED: log entry 167. -/
def Slot.idle (x : Slot) : Slot :=
  { x with st := .idle, launch := 0, child := false, ports := [], restart := true, ending := false, cbuf := [], jrn := [],
           outMsg := [], req := none, reqPos := 0, replied := false, rep := none, acqs := [],
           wait := .none, waitOn := [], waitExp := none, waitRem := none, locks := [], phases := [], posts := [],
           feeds := [], trigd := false, hid := 0, scrum := none, ra := [], blk := none, checks := [], marr := none, kfault := none, doom := 0, sigs := [] }

/-- R16: the trap of a port that was moved past its rate, or of an output slot that was not written. -/
def rateTrap (ps : List PortUse) : Option Trap :=
  match ps.find? (fun p => decide (0 < p.rate ∧ p.rate < p.adv)) with
  | some p => some { code := 0xC, handle := p.h, reason := 1 }
  | none =>
    firstTrap (ps.map fun p =>
      if p.out then
        match (List.range p.rate).find? (fun k => !p.wr.contains k) with
        | some k => some { code := 0xC, handle := p.h, reason := 2, elem := k }
        | none => none
      else none)

/-- R16, R61: the ports settled and published. -/
def State.settle (s : State) (c k : Nat) : State :=
  ((s.slot c k).ports.filter fun p => decide (0 < p.rate)).foldl (fun t p => t.publish c p.entry p.out (p.rate - p.adv)) s

/-- R296: a firing's locks released, as `REL`. -/
def State.dropLocks (s : State) (c k : Nat) : State :=
  let x := s.slot c k
  { s with net := s.net ++ x.locks.map fun h => Pkt.obj ⟨.rel, BitVec.ofNat 64 h, 0, x.ctx, c, k, x.fid, none⟩ }

/-- R41: the trigger of a firing that reaches its end without having released it. -/
def State.endTrig (s : State) (c k : Nat) : State :=
  let x := s.slot c k
  if x.launch ≠ 0 ∧ x.child = false ∧ x.trigd = false then s.countTrig x.launch else s

/-- R248, steps 6 and 7: ports settled, trigger, locks, claimed message and array released, and the slot idle. -/
def State.finish (s : State) (c k : Nat) : State :=
  let x := s.slot c k
  let s1 := ((s.settle c k).scoreEnd c k).dropLocks c k
  let s2 := ((s1.endTrig c k).unfeed x.feeds).freeClaim c k x.fid
  ((((s2.releaseArray c k).updSlot c k Slot.idle).countEnd x.launch x.child).updCore c fun y => { y with wdCnt := 0 }).dropFences c k

end Sys2Proof.Machine
end

