-- ==== Sys2Proof/Machine/Retire.lean ====
section
/-!
DEFINITION. How an instruction is fetched, what its fields name (R220), and how it retires or issues: the block it stands in (R420), the
pass of a repetition (R272), landed tokens (R170) and the profile of the agent (R222).
-/

namespace Sys2Proof.Machine

/-! ## Fetch and fields -/

/-- R199, R242: the instruction at a halfword of the executing agent's code, with its length; `none` past the code or
where nothing decodes. -/
def State.fetchAt (s : State) (pc : Nat) : Option (Instr × Nat) :=
  let a := if isEngine s.curCore then ucodeAddr (s.curCore - 0x4000) (2 * pc) else codeAddr s.cur.ctx (2 * pc)
  match decode (halves (s.bytesAt a 8)) with
  | .ok (i, n) => some (i, n)
  | .error _ => none

/-- R242: the code length that bounds the executing agent. -/
def State.codeEnd (s : State) : Nat := if isEngine s.curCore then 2 ^ 24 else s.codeLen s.cur.ctx

/-- R220: the handle fields of an encodable instruction: those tested under R196 and staggered by `REPB`; a field of an engine
command that its mnemonic leaves unused names h0 (R220) and counts. -/
def handleFields (i : Instr) : List Nat :=
  match i with
  | .movShort _ s d => [s.toNat, d.toNat]
  | .addShort _ s d => [s.toNat, d.toNat]
  | .subShort _ s d => [s.toNat, d.toNat]
  | .rsubShort _ s d => [s.toNat, d.toNat]
  | .mulShort _ s d => [s.toNat, d.toNat]
  | .minShort _ s d => [s.toNat, d.toNat]
  | .maxShort _ s d => [s.toNat, d.toNat]
  | .andShort _ s d => [s.toNat, d.toNat]
  | .orShort _ s d => [s.toNat, d.toNat]
  | .xorShort _ s d => [s.toNat, d.toNat]
  | .andnShort _ s d => [s.toNat, d.toNat]
  | .shlShort _ s d => [s.toNat, d.toNat]
  | .shrShort _ s d => [s.toNat, d.toNat]
  | .sarShort _ s d => [s.toNat, d.toNat]
  | .negShort _ s d => [s.toNat, d.toNat]
  | .absShort _ s d => [s.toNat, d.toNat]
  | .mov _ a d => [a.toNat, d.toNat]
  | .add _ b a d => [b.toNat, a.toNat, d.toNat]
  | .sub _ b a d => [b.toNat, a.toNat, d.toNat]
  | .rsub _ b a d => [b.toNat, a.toNat, d.toNat]
  | .mul _ b a d => [b.toNat, a.toNat, d.toNat]
  | .mulh _ b a d => [b.toNat, a.toNat, d.toNat]
  | .div _ b a d => [b.toNat, a.toNat, d.toNat]
  | .rem _ b a d => [b.toNat, a.toNat, d.toNat]
  | .min _ b a d => [b.toNat, a.toNat, d.toNat]
  | .max _ b a d => [b.toNat, a.toNat, d.toNat]
  | .abs _ a d => [a.toNat, d.toNat]
  | .neg _ a d => [a.toNat, d.toNat]
  | .clamp _ b a d => [b.toNat, a.toNat, d.toNat]
  | .abd _ b a d => [b.toNat, a.toNat, d.toNat]
  | .avg _ b a d => [b.toNat, a.toNat, d.toNat]
  | .adds _ b a d => [b.toNat, a.toNat, d.toNat]
  | .subs _ b a d => [b.toNat, a.toNat, d.toNat]
  | .and _ b a d => [b.toNat, a.toNat, d.toNat]
  | .or _ b a d => [b.toNat, a.toNat, d.toNat]
  | .xor _ b a d => [b.toNat, a.toNat, d.toNat]
  | .andn _ b a d => [b.toNat, a.toNat, d.toNat]
  | .not _ a d => [a.toNat, d.toNat]
  | .shl _ b a d => [b.toNat, a.toNat, d.toNat]
  | .shr _ b a d => [b.toNat, a.toNat, d.toNat]
  | .sar _ b a d => [b.toNat, a.toNat, d.toNat]
  | .rol _ b a d => [b.toNat, a.toNat, d.toNat]
  | .ror _ b a d => [b.toNat, a.toNat, d.toNat]
  | .clz _ a d => [a.toNat, d.toNat]
  | .ctz _ a d => [a.toNat, d.toNat]
  | .popc _ a d => [a.toNat, d.toNat]
  | .brev _ a d => [a.toNat, d.toNat]
  | .bfx _ b a d => [b.toNat, a.toNat, d.toNat]
  | .bfi _ b a d => [b.toNat, a.toNat, d.toNat]
  | .sxt _ b a d => [b.toNat, a.toNat, d.toNat]
  | .zxt _ b a d => [b.toNat, a.toNat, d.toNat]
  | .cvt _ a d => [a.toNat, d.toNat]
  | .cvts _ b a d => [b.toNat, a.toNat, d.toNat]
  | .rcp _ a d => [a.toNat, d.toNat]
  | .rsq _ a d => [a.toNat, d.toNat]
  | .sqrt _ a d => [a.toNat, d.toNat]
  | .exp2 _ a d => [a.toNat, d.toNat]
  | .log2 _ a d => [a.toNat, d.toNat]
  | .floor _ a d => [a.toNat, d.toNat]
  | .ceil _ a d => [a.toNat, d.toNat]
  | .rndn _ a d => [a.toNat, d.toNat]
  | .fma c b a d => [c.toNat, b.toNat, a.toNat, d.toNat]
  | .fnma c b a d => [c.toNat, b.toNat, a.toNat, d.toNat]
  | .fms c b a d => [c.toNat, b.toNat, a.toNat, d.toNat]
  | .fnms c b a d => [c.toNat, b.toNat, a.toNat, d.toNat]
  | .addi _ a d => [a.toNat, d.toNat]
  | .andi _ a d => [a.toNat, d.toNat]
  | .ori _ a d => [a.toNat, d.toNat]
  | .xori _ a d => [a.toNat, d.toNat]
  | .shli _ a d => [a.toNat, d.toNat]
  | .shri _ a d => [a.toNat, d.toNat]
  | .sari _ a d => [a.toNat, d.toNat]
  | .movi _ d => [d.toNat]
  | .li d _ => [d.toNat]
  | .near d _ => [d.toNat]
  | .spwn b a d _ => [b.toNat, a.toNat, d.toNat]
  | .lea _ b a d => [b.toNat, a.toNat, d.toNat]
  | .adda _ b a d => [b.toNat, a.toNat, d.toNat]
  | .lcore _ a d => [a.toNat, d.toNat]
  | .cmp _ _ b a _ => [b.toNat, a.toNat]
  | .cmpm _ _ b a _ => [b.toNat, a.toNat]
  | .gmov _ a _ => [a.toNat]
  | .st _ b a _ _ _ => [b.toNat, a.toNat]
  | .sts _ b a _ _ _ => [b.toNat, a.toNat]
  | .sel b a d _ _ => [b.toNat, a.toNat, d.toNat]
  | .selm b a d _ _ => [b.toNat, a.toNat, d.toNat]
  | .aadd b a d _ _ => [b.toNat, a.toNat, d.toNat]
  | .amin b a d _ _ => [b.toNat, a.toNat, d.toNat]
  | .amax b a d _ _ => [b.toNat, a.toNat, d.toNat]
  | .aand b a d _ _ => [b.toNat, a.toNat, d.toNat]
  | .aor b a d _ _ => [b.toNat, a.toNat, d.toNat]
  | .axor b a d _ _ => [b.toNat, a.toNat, d.toNat]
  | .aswp b a d _ _ => [b.toNat, a.toNat, d.toNat]
  | .acas b a d _ _ => [b.toNat, a.toNat, d.toNat]
  | .ainc b a d _ _ => [b.toNat, a.toNat, d.toNat]
  | .cpy c b a d _ _ _ => [0, c.toNat, b.toNat, a.toNat, d.toNat]
  | .cpys c b a d _ _ _ => [0, c.toNat, b.toNat, a.toNat, d.toNat]
  | .gath e c b a d _ _ => [e.toNat, c.toNat, b.toNat, a.toNat, d.toNat]
  | .scat e c b a d _ _ => [e.toNat, c.toNat, b.toNat, a.toNat, d.toNat]
  | .fill c b a d _ _ _ => [0, c.toNat, b.toNat, a.toNat, d.toNat]
  | .red c b a d _ _ _ => [0, c.toNat, b.toNat, a.toNat, d.toNat]
  | .ratm e c b a d _ _ _ => [e.toNat, c.toNat, b.toNat, a.toNat, d.toNat]
  | .bsig a d _ _ => [0, 0, 0, a.toNat, d.toNat]
  | .rinv b a d _ _ => [0, 0, b.toNat, a.toNat, d.toNat]
  | .wqryQuery b a d _ _ => [0, 0, b.toNat, a.toNat, d.toNat]
  | .wqryExtend b a d _ _ => [0, 0, b.toNat, a.toNat, d.toNat]
  | .loop _ d => [d.toNat]
  | .jr _ a => [a.toNat]
  | .jrl _ a => [a.toNat]
  | .bcst _ a d => [a.toNat, d.toNat]
  | .perm _ b a d => [b.toNat, a.toNat, d.toNat]
  | .shfl _ b a d => [b.toNat, a.toNat, d.toNat]
  | .slide _ b a d => [b.toNat, a.toNat, d.toNat]
  | .zip _ b a d => [b.toNat, a.toNat, d.toNat]
  | .unzp _ b a d => [b.toNat, a.toNat, d.toNat]
  | .cmpr _ a d => [a.toNat, d.toNat]
  | .expd _ a d => [a.toNat, d.toNat]
  | .redadd _ a d => [a.toNat, d.toNat]
  | .redmax _ a d => [a.toNat, d.toNat]
  | .redmin _ a d => [a.toNat, d.toNat]
  | .scan _ a d => [a.toNat, d.toNat]
  | .dot4 _ b a d => [b.toNat, a.toNat, d.toNat]
  | .dot2 _ b a d => [b.toNat, a.toNat, d.toNat]
  | .view _ b a d => [b.toNat, a.toNat, d.toNat]
  | .vget _ a d => [a.toNat, d.toNat]
  | .vset _ a d => [a.toNat, d.toNat]
  | .rfil _ a d => [a.toNat, d.toNat]
  | .advr _ d => [d.toNat]
  | .advw _ d => [d.toNat]
  | .ld _ _ _ a d => [a.toNat, d.toNat]
  | .lds _ _ _ a d => [a.toNat, d.toNat]
  | .bind _ b a => [b.toNat, a.toNat]
  | .unbd _ b a => [b.toNat, a.toNat]
  | .acq _ a => [a.toNat]
  | .rel _ a => [a.toNat]
  | .trya _ a d => [a.toNat, d.toNat]
  | .bar _ a => [a.toNat]
  | .bara _ a => [a.toNat]
  | .barw _ a => [a.toNat]
  | .semp _ b a => [b.toNat, a.toNat]
  | .semw _ b a => [b.toNat, a.toNat]
  | .objq _ a d => [a.toNat, d.toNat]
  | .send _ b a d => [b.toNat, a.toNat, d.toNat]
  | .sendi _ b a d => [b.toNat, a.toNat, d.toNat]
  | .msgq _ a d => [a.toNat, d.toNat]
  | .ceq _ a d => [a.toNat, d.toNat]
  | .fld _ _ _ a d => [a.toNat, d.toNat]
  | .fst _ _ b a _ => [b.toNat, a.toNat]
  | .fatmAdd _ b a d => [b.toNat, a.toNat, d.toNat]
  | .fatmMin _ b a d => [b.toNat, a.toNat, d.toNat]
  | .fatmMax _ b a d => [b.toNat, a.toNat, d.toNat]
  | .fatmAnd _ b a d => [b.toNat, a.toNat, d.toNat]
  | .fatmOr _ b a d => [b.toNat, a.toNat, d.toNat]
  | .fatmXor _ b a d => [b.toNat, a.toNat, d.toNat]
  | .fatmSwp _ b a d => [b.toNat, a.toNat, d.toNat]
  | .fatmCas _ b a d => [b.toNat, a.toNat, d.toNat]
  | .fatmInc _ b a d => [b.toNat, a.toNat, d.toNat]
  | .fxm _ b a d => [b.toNat, a.toNat, d.toNat]
  | .fmrk _ a => [a.toNat]
  | .cend _ a => [a.toNat]
  | .mlw _ b a => [b.toNat, a.toNat]
  | .mlwC _ b a => [b.toNat, a.toNat]
  | .mfmt _ a => [a.toNat]
  | .mma _ a d => [a.toNat, d.toNat]
  | .msc _ b a => [b.toNat, a.toNat]
  | .mdr _ a => [a.toNat]
  | .mdrZ _ a => [a.toNat]
  | .mdrp _ b a d => [b.toNat, a.toNat, d.toNat]
  | .mclr _ d => [d.toNat]
  | .msta _ d => [d.toNat]
  | .cmpq _ d => [d.toNat]
  | .trap _ a => [a.toNat]
  | .sys _ a => [a.toNat]
  | .svs _ a => [a.toNat]
  | .rss _ a => [a.toNat]
  | .ts _ d => [d.toNat]
  | .pmc _ a d => [a.toNat, d.toNat]
  | .bist _ a d => [a.toNat, d.toNat]
  | .sigq _ a d => [a.toNat, d.toNat]
  | .rds _ d => [d.toNat]
  | .wrs _ a => [a.toNat]
  | _ => []


/-! ## Landed tokens (R170, R175) -/

/-- R170: whether an instruction names bytes of a landed token that has not been read. DEDUCED: log entry 149. -/
def State.namesToken (s : State) (i : Instr) (p : Place × Nat) : Bool :=
  (match i with | .spwn _ _ _ _ => true | _ => false)
    || (handleFields i).any fun h =>
      let v := s.view h
      !v.fixed && v.core == p.1.core && v.slot == p.1.slot && decide (v.base < p.1.off + p.2) && decide (p.1.off < v.base + v.extent)

/-- R170, R175: the first instruction that reads a landed token is an acquire: the slot's run-ahead entries are discarded. DEDUCED: log
entry 149. -/
def State.acquired (s : State) (x : Slot) : Slot :=
  if x.acqs.isEmpty then x
  else
    match s.fetchAt x.here.toNat with
    | none => x
    | some (i, _) => if x.acqs.any (s.namesToken i) then { x.flushRun with acqs := x.acqs.filter fun p => !s.namesToken i p } else x

/-! ## Retiring and issuing -/

/-- R202, R212: the length of an instruction in halfwords, its trailing word included. -/
def instrLen (i : Instr) : Nat := (encode i).length

/-- R213: the instructions behind which a block starts. -/
def endsBlock (i : Instr) : Bool :=
  match i with
  | .br _ _ _ _ | .brl _ _ _ _ | .jr _ _ | .jrl _ _ | .ret | .loop _ _ | .endFiring => true
  | _ => false

/-- R420, R213: the block bookkeeping of a transfer of control (or a fall-through) to `pc`: a block left at its end, behind an instruction
that ends one, or by a jump waits for its check over what was fetched of it; the next block is entered at its start, or in its middle. DEDUCED: log entry 94. -/
def Slot.atBlock (s : State) (x : Slot) (pc : Nat) (jumped : Bool) : Slot :=
  let enter (y : Slot) : Slot :=
    { y with blk := if s.blockAt x.ctx pc then some (BitVec.ofNat 24 pc) else none, bcore := x.blockCore s.curCore (some pc) }
  match x.blk with
  | none => if s.blockAt x.ctx pc then enter x else x
  | some b =>
    let len := match s.sigAt x.ctx b.toNat with | some e => bits e.toNat 32 8 | none => 0
    let last := s.fetchAt x.here.toNat
    if jumped || decide (b.toNat + len ≤ pc) || last.any (fun q => endsBlock q.1) then
      enter { x with checks := x.checks ++ [⟨b, some (BitVec.ofNat 24 pc), x.bcore,
        if jumped then (match last with | some q => x.here.toNat + q.2 | none => pc) else pc⟩] }
    else x

/-- R272: the slot after one instruction of a repetition: the next of the pass, the next pass, or past the body. -/
def Slot.nextPass (x : Slot) (r : Rep) : Slot :=
  if r.j + 1 < r.body.length then { x with rep := some { r with j := r.j + 1 } }
  else if r.k + 1 < r.count then { x with rep := some { r with j := 0, k := r.k + 1 } }
  else { x with rep := some { r with j := 0, k := 0, active := false }, pc := r.after }

/-- The executing instruction retires and control falls through. DEDUCED: log entry 48. -/
def State.retire (s : State) (len : Nat) : State :=
  let x := s.acquired { s.cur with wait := .none, waitOn := [], waitExp := none, waitRem := none }
  match x.rep with
  | some r =>
    if r.active then
      let y := x.nextPass r
      s.updCur fun _ => (if y.rep.any (fun q => q.active) then { y with pc := y.here } else y.atBlock s y.pc.toNat false)
    else
      let pc := (x.pc.toNat + len) % 2 ^ 24
      s.updCur fun _ => { (x.atBlock s pc false) with pc := BitVec.ofNat 24 pc }
  | none =>
    let pc := (x.pc.toNat + len) % 2 ^ 24
    s.updCur fun _ => { (x.atBlock s pc false) with pc := BitVec.ofNat 24 pc }

/-- The executing instruction retires and control is transferred. -/
def State.retireTo (s : State) (pc : Nat) : State :=
  let x := s.acquired { s.cur with wait := .none, waitOn := [], waitExp := none, waitRem := none }
  s.updCur fun _ => { (x.atBlock s pc true) with pc := BitVec.ofNat 24 pc }

/-- R20, R12, R144, R404: the executing slot of `p` has issued last at its level, on the core where its block runs; `p` is the state in
which the instruction issued. -/
def State.noteIssue (s p : State) : State :=
  s.updCore (p.seatOf p.curCore p.curSlot) fun x =>
    { x with issued := mput x.issued p.cur.pri p.curSlot,
             iss := some ⟨s.now, p.curSlot, p.cur.ctx, p.cur.here.toNat, p.cur.scrum.isSome⟩ }

/-- What becomes of the machine when an instruction of a running firing has been issued. -/
def State.conclude (s : State) (i : Instr) (v : Verdict) : State :=
  match v with
  | .trap t => s.trapCur t
  | .wait w on c => s.waitCur w on c
  | .done s' => ((s'.noteIssue s).count s.curCore 2).retire (instrLen i)
  | .jump s' pc => ((s'.noteIssue s).count s.curCore 2).retireTo pc
  | .stay s' => s'

/-- R222: majors a copy engine has; on a core the engine profile, and on an engine everything else, is reserved. -/
def State.profileOk (s : State) (engineOk coreOk : Bool) : Bool :=
  if isEngine s.curCore then engineOk else coreOk

/-- An instruction issued by the executing agent: nothing happens where no firing runs there (the step never asks); an
instruction outside the agent's profile is a reserved encoding (R222, R209). DESIGN CHOICE: log entry 4. -/
def State.issueAs (s : State) (i : Instr) (engineOk coreOk : Bool) (v : State → Verdict) : State :=
  if s.cur.runs then
    if s.profileOk engineOk coreOk then s.conclude i (v s) else s.trapCur { code := 8 }
  else s

/-- An instruction of the core profile alone. -/
def State.issue (s : State) (i : Instr) (v : State → Verdict) : State := s.issueAs i false true v

/-- An instruction of both profiles. -/
def State.issueAny (s : State) (i : Instr) (v : State → Verdict) : State := s.issueAs i true true v

end Sys2Proof.Machine
end

