-- ==== Sys2Proof/Machine/Alu.lean ====
section
/-!
DEFINITION. The arithmetic every scalar and lane operation shares (R223 to R235, R257, R258): what a lane reads, what an
operation makes of it, and the one pipeline from views to the write of every lane.
-/

namespace Sys2Proof.Machine

/-! ## What a lane reads and gives -/

/-- What a source supplies to a lane: the bits of an element under the type it is read as, beside them its own type and
whole element (for the operands read as bits, R229), an exact number (immediates, i4x elements), or a reserved code (R107). -/
inductive LVal where
  | raw (t : Ty) (r : Nat) (own : Ty) (full : Nat)
  | num (x : XNum)
  | bad (code : Nat)
  deriving DecidableEq, Repr

/-- What an operation gives a lane: its bits, a conversion-domain trap (R109), or a reserved code of source `src`. -/
inductive LOut where
  | ok (r : Nat)
  | dom
  | bad (code src : Nat)
  deriving DecidableEq, Repr

/-- The exact integer of a lane value. -/
def LVal.int (v : LVal) : Int :=
  match v with
  | .raw t r _ _ => t.intVal r
  | .num (.fin neg m e) => let k : Int := (m * 2 ^ e.toNat : Nat); if neg then -k else k
  | _ => 0

/-- The exact number of a lane value. -/
def LVal.num' (v : LVal) : XNum :=
  match v with
  | .raw t r _ _ => t.num r
  | .num x => x
  | .bad _ => .nan

/-- The bits of an element as they stand (R229: an operand read as bits). -/
def LVal.bits (v : LVal) : Nat := match v with | .raw _ _ _ f => f | _ => 0

/-- The bits of an element as it is read: the low ones of a `b` element under a narrower type (R95). -/
def LVal.input (v : LVal) : Nat := match v with | .raw _ r _ _ => r | _ => 0

/-- Whether the own type of the element behind a lane value is signed. -/
def LVal.signed (v : LVal) : Bool := match v with | .raw _ _ t _ => t.isSigned | .num _ => true | .bad _ => false

/-- The value of an operand read under its own type, `b` as `i32` (R229, R230). -/
def LVal.own (v : LVal) : Int :=
  match v with
  | .raw _ _ .b f => intOf true 32 f
  | .raw _ _ t f => t.intVal f
  | v => v.int

/-- Whether a lane value was read under an integer type. -/
def LVal.isInt (v : LVal) : Bool := match v with | .raw t _ _ _ => t.isInt | _ => false

/-- The class an operation admits (R226). -/
inductive Cls where
  | any | int | float
  deriving DecidableEq, Repr

/-- An operation: its class, and what it gives a lane under operation type, rounding, saturation and sources. -/
structure Sem where
  cls : Cls
  f   : Ty → Nat → Bool → List LVal → LOut

/-- The first, second and third source. -/
def arg (l : List LVal) (i : Nat) : LVal := l.getD i (.num (.fin false 0 0))

/-- An operation on exact integers, fitted once (R96). -/
def intSem (g : List Int → Int) : Ty → Nat → Bool → List LVal → LOut :=
  fun op _ sat l => .ok (op.fit sat (g (l.map LVal.int)))

/-- An operation on exact numbers, rounded once (R99, R100). -/
def fltSem (g : Nat → List XNum → XNum) : Ty → Nat → Bool → List LVal → LOut :=
  fun op rnd sat l => .ok (roundFloat op rnd sat (g rnd (l.map LVal.num')))

/-- R226: an operation of class "any", by its integer and its float form. -/
def anySem (gi : List Int → Int) (gf : Nat → List XNum → XNum) : Sem :=
  ⟨.any, fun op rnd sat l => if op.isFloat then fltSem gf op rnd sat l else intSem gi op rnd sat l⟩

/-- The first integer or number of a list. -/
def i1 (l : List Int) : Int := l.getD 0 0
/-- The second integer of a list. -/
def i2 (l : List Int) : Int := l.getD 1 0
/-- The third integer of a list. -/
def i3 (l : List Int) : Int := l.getD 2 0
/-- The first number of a list. -/
def n1 (l : List XNum) : XNum := l.getD 0 .nan
/-- The second number of a list. -/
def n2 (l : List XNum) : XNum := l.getD 1 .nan
/-- The third number of a list. -/
def n3 (l : List XNum) : XNum := l.getD 2 .nan

/-- R226: a + b. -/
def semAdd : Sem := anySem (fun l => i1 l + i2 l) (fun r l => sumNum r [n1 l, n2 l])
/-- R226: a − b. -/
def semSub : Sem := anySem (fun l => i1 l - i2 l) (fun r l => (n1 l).sub r (n2 l))
/-- R226: b − a. -/
def semRsub : Sem := anySem (fun l => i2 l - i1 l) (fun r l => (n2 l).sub r (n1 l))
/-- R226: a × b. -/
def semMul : Sem := anySem (fun l => i1 l * i2 l) (fun _ l => (n1 l).mul (n2 l))
/-- R229: a + b, always saturating. -/
def semAdds : Sem := ⟨.any, fun op rnd _ l => semAdd.f op rnd true l⟩
/-- R229: a − b, always saturating. -/
def semSubs : Sem := ⟨.any, fun op rnd _ l => semSub.f op rnd true l⟩
/-- R101: the smaller. -/
def semMin : Sem := anySem (fun l => min (i1 l) (i2 l)) (fun _ l => XNum.pick false (n1 l) (n2 l))
/-- R101: the greater. -/
def semMax : Sem := anySem (fun l => max (i1 l) (i2 l)) (fun _ l => XNum.pick true (n1 l) (n2 l))
/-- R226: |a|. -/
def semAbs : Sem := anySem (fun l => (i1 l).natAbs) (fun _ l => (n1 l).abs)
/-- R226: −a. -/
def semNeg : Sem := anySem (fun l => -(i1 l)) (fun _ l => (n1 l).neg)
/-- R229: |a − b|, fitted or rounded once. -/
def semAbd : Sem := anySem (fun l => (i1 l - i2 l).natAbs) (fun r l => ((n1 l).sub r (n2 l)).abs)

/-- A number times 2^k. -/
def XNum.scale (x : XNum) (k : Int) : XNum := match x with | .fin n m e => .fin n m (e + k) | x => x

/-- R229: the mean. -/
def semAvg : Sem :=
  anySem (fun l => (i1 l + i2 l + 1) / 2) (fun r l => (sumNum r [n1 l, n2 l]).scale (-1))

/-- R229: a limited to the two bounds. -/
def semClamp : Sem :=
  anySem (fun l => min (max (i1 l) (i2 l)) (i3 l))
    (fun _ l => XNum.pick false (XNum.pick true (n1 l) (n2 l)) (n3 l))

/-- R229: the high half of the exact product. -/
def semMulh : Sem :=
  ⟨.int, fun op _ _ l => .ok (wrap (2 * op.bits) ((arg l 0).int * (arg l 1).int) / 2 ^ op.bits)⟩

/-- R96, R102: the quotient, with its results for a zero divisor. DEDUCED: log entry 186. -/
def semDiv : Sem :=
  ⟨.any, fun op rnd sat l =>
    if op.isFloat then fltSem (fun _ l => (n1 l).div (n2 l)) op rnd sat l
    else if (arg l 1).int = 0 then .ok (2 ^ op.bits - 1)
    else .ok (op.fit sat ((arg l 0).int.tdiv (arg l 1).int))⟩

/-- R96, R229: the remainder. -/
def semRem : Sem :=
  ⟨.any, fun op rnd sat l =>
    if op.isFloat then fltSem (fun _ l => (n1 l).rem (n2 l)) op rnd sat l
    else if (arg l 1).int = 0 then .ok (op.fit sat (arg l 0).int)
    else .ok (op.fit sat ((arg l 0).int.tmod (arg l 1).int))⟩

/-- A source as bits of the operation type's width: sign- or zero-extended by its own type (R96). -/
def LVal.pat (v : LVal) (w : Nat) : Nat := wrap w v.int

/-- R226: an operation on bit patterns of the operation type; `sat` has no effect (R96). -/
def bitSem (g : Nat → Nat → Nat → Nat) : Sem :=
  ⟨.int, fun op _ _ l => .ok (g op.bits ((arg l 0).pat op.bits) ((arg l 1).pat op.bits) % 2 ^ op.bits)⟩

/-- R226: AND. -/
def semAnd : Sem := bitSem fun _ a b => a &&& b
/-- R226: OR. -/
def semOr : Sem := bitSem fun _ a b => a ||| b
/-- R226: XOR. -/
def semXor : Sem := bitSem fun _ a b => a ^^^ b
/-- R226: a AND NOT b. -/
def semAndn : Sem := bitSem fun w a b => a &&& (2 ^ w - 1 - b)
/-- R226: NOT a. -/
def semNot : Sem := bitSem fun w a _ => 2 ^ w - 1 - a

/-- R229: a shift or rotate: the pattern, and the amount modulo w. -/
def shiftSem (g : Nat → Nat → Nat → Nat) : Sem :=
  ⟨.int, fun op _ _ l =>
    .ok (g op.bits ((arg l 0).pat op.bits) ((arg l 1).int % (op.bits : Int)).toNat % 2 ^ op.bits)⟩

/-- R229: shift left. -/
def semShl : Sem := shiftSem fun _ a n => a * 2 ^ n
/-- R229: shift right, zeros entering. -/
def semShr : Sem := shiftSem fun _ a n => a / 2 ^ n
/-- R229: shift right, the sign bit entering. -/
def semSar : Sem := shiftSem fun w a n => a / 2 ^ n + (if 2 ^ (w - 1) ≤ a then 2 ^ w - 2 ^ (w - n) else 0)
/-- R229: rotate left. -/
def semRol : Sem := shiftSem fun w a n => a * 2 ^ n + a / 2 ^ (w - n)
/-- R229: rotate right. -/
def semRor : Sem := shiftSem fun w a n => a / 2 ^ n + a * 2 ^ (w - n)

/-- R229: the bit-count operations work in the width of the source's type, 32 for `b`. -/
def LVal.width (v : LVal) : Nat := match v with | .raw _ _ t _ => t.bits | _ => 32

/-- The trailing zero bits among the low k bits. -/
def ctzN (k a : Nat) : Nat :=
  match k with
  | 0 => 0
  | k + 1 => if a % 2 = 1 then 0 else 1 + ctzN k (a / 2)

/-- The one bits among the low k bits. -/
def popN (k a : Nat) : Nat :=
  match k with
  | 0 => 0
  | k + 1 => a % 2 + popN k (a / 2)

/-- The low k bits in reverse order. -/
def revN (k a acc : Nat) : Nat :=
  match k with
  | 0 => acc
  | k + 1 => revN k (a / 2) (2 * acc + a % 2)

/-- R229: an operation on the source's own bits; the result is fitted by its low bits (R96). -/
def countSem (g : Nat → Nat → Nat) : Sem :=
  ⟨.int, fun op _ _ l => .ok (g (arg l 0).width ((arg l 0).bits % 2 ^ (arg l 0).width) % 2 ^ op.bits)⟩

/-- R229: leading zeros. -/
def semClz : Sem := countSem fun w a => if a = 0 then w else w - 1 - a.log2
/-- R229: trailing zeros. -/
def semCtz : Sem := countSem ctzN
/-- R226: one bits. -/
def semPopc : Sem := countSem popN
/-- R226: reversed bit order. -/
def semBrev : Sem := countSem fun w a => revN w a 0

/-- R229: bit-field extract; bits of a at or above w read as its sign when a is signed, else 0. DEDUCED: log entry 40. -/
def semBfx : Sem :=
  ⟨.int, fun op _ _ l =>
    let a := arg l 0
    let p := (arg l 1).bits % 256
    let n := (arg l 1).bits / 256 % 256
    let v : Int := (a.pat op.bits : Int) - (if a.signed && decide (a.int < 0) then ((2 ^ op.bits : Nat) : Int) else 0)
    if n = 0 then .ok 0
    else
      let f := wrap n (v / ((2 ^ p : Nat) : Int))
      .ok (wrap op.bits (intOf op.isSigned n f))⟩

/-- R229: bit-field insert into d, the third source. -/
def semBfi : Sem :=
  ⟨.int, fun op _ _ l =>
    let w := op.bits
    let p := (arg l 1).bits % 256
    let n := (arg l 1).bits / 256 % 256
    let hi := Nat.min (p + n) w
    let mask := if p < hi then 2 ^ hi - 2 ^ p else 0
    .ok (((arg l 2).pat w &&& (2 ^ w - 1 - mask)) ||| (((arg l 0).pat w * 2 ^ p) &&& mask))⟩

/-- R229: the low n bits of a, extended. -/
def extSem (signed : Bool) : Sem :=
  ⟨.int, fun op _ _ l =>
    let n := (arg l 1).own
    let a := (arg l 0).pat op.bits
    if n ≤ 0 then .ok 0
    else if (op.bits : Int) ≤ n then .ok a
    else .ok (wrap op.bits (intOf signed n.toNat a))⟩

/-- R227: a float operation correctly rounded once. -/
def floatSem (g : XNum → XNum) : Sem := ⟨.float, fltSem (fun _ l => g (n1 l))⟩

/-- R102: 1 ÷ a. -/
def semRcp : Sem := floatSem fun x => (XNum.fin false 1 0).div x
/-- R102: √a. -/
def semSqrt : Sem := floatSem XNum.sqrt
/-- R227: the largest integral value not above a. -/
def semFloor : Sem := floatSem (XNum.integral 3)
/-- R227: the smallest integral value not below a. -/
def semCeil : Sem := floatSem (XNum.integral 2)
/-- R227: the nearest integral value, ties to even. -/
def semRndn : Sem := floatSem (XNum.integral 0)

/-- The type code a lane value was read under. -/
def LVal.typeCode (v : LVal) : Nat := match v with | .raw t _ _ _ => t.code | _ => 15

/-- R102: a faithfully rounded operation: one of the two values that bracket the exact result, the choice fixed by the
operation, types, rounding mode and input bits (Config.faithful). -/
def faithSem (code : Nat) (g : XNum → XNum) : Sem :=
  ⟨.float, fun op rnd sat l =>
    .ok (faithfulRound op rnd sat (Config.faithful code (16 * (arg l 0).typeCode + op.code) rnd (arg l 0).input)
      (g (arg l 0).num'))⟩

/-- R102: 1 ÷ √a. -/
def semRsq : Sem := faithSem 0 XNum.rsq
/-- R102: 2^a. -/
def semExp2 : Sem := faithSem 1 XNum.exp2
/-- R102: log2 a. -/
def semLog2 : Sem := faithSem 2 XNum.log2

/-- R231: the fused operations: the product negated or not, plus c negated or not. -/
def semFused (negP negC : Bool) : Sem :=
  anySem
    (fun l => (if negP then -(i1 l * i2 l) else i1 l * i2 l) + (if negC then -(i3 l) else i3 l))
    (fun r l =>
      let p := (n1 l).mul (n2 l)
      sumNum r [if negP then p.neg else p, if negC then (n3 l).neg else n3 l])

/-! ## Moves and conversions (R109, R228, R230) -/

/-- R107, R108: the reserved code of a lane value that is interpreted, if any; a `b` view's bits are not. -/
def LVal.reserved (v : LVal) : Option Nat :=
  match v with
  | .bad c => some c
  | .raw .e8m0 r own _ => if r = 0xFF ∧ own ≠ .b then some 0x10 else none
  | _ => none

/-- R103: whether a lane value is the code 0xFF, which stands for no number. -/
def LVal.codeless (v : LVal) : Bool := match v with | .raw .e8m0 r _ _ => r == 0xFF | _ => false

/-- R109: the value converted to a type. -/
def convert (op : Ty) (rnd : Nat) (sat : Bool) (v : LVal) : LOut :=
  match v.reserved with
  | some c => .bad c 0
  | none =>
    match v with
    | .raw t r _ _ =>
      if t = op then .ok r
      else if t.isInt && op.isInt then .ok (op.fit sat (t.intVal r))
      else match op.ofNum rnd sat (t.num r) with | some x => .ok x | none => .dom
    | v => match op.ofNum rnd sat v.num' with | some x => .ok x | none => .dom

/-- R228: `MOV`: bits between equal types (and `b`), else the exact value fitted. -/
def semMov : Sem :=
  ⟨.any, fun op rnd sat l =>
    match arg l 0 with
    | .raw t r own f => if t = op then .ok r else convert op rnd sat (.raw t r own f)
    | v => if op.isFloat then convert op rnd sat v else .ok (op.fit sat v.int)⟩

/-- R109: `CVT`; with `b` on either side the bits move unchanged (`rawDst`: the destination is `b`). Between equal float
types a NaN is delivered as the canonical one (R98). -/
def semCvt (rawDst : Bool) : Sem :=
  ⟨.any, fun op rnd sat l =>
    match arg l 0 with
    | .raw t r own f =>
      if rawDst || own == .b then .ok r
      else if t = op ∧ t ≠ .e8m0 ∧ t.isFloat = true then
        (match op.ofNum rnd sat (t.num r) with | some x => .ok x | none => .dom)
      else convert op rnd sat (.raw t r own f)
    | v => convert op rnd sat v⟩

/-- R230: the scale exponent of `CVTS`; a `b` view is read as `i32`. -/
def scaleExp (v : LVal) : Int :=
  match v with
  | .raw _ r .e8m0 _ => (r : Int) - 127
  | v => max (-1024) (min 1024 v.own)

/-- R230, R107: the reserved code of a scale exponent; a `b` view holds none. -/
def scaleReserved (v : LVal) : Option Nat := match v with | .raw _ _ .b _ => none | v => v.reserved

/-- R230: `CVTS`: a × 2^e with one rounding; an integer scaled up to an integer is still an integer, fitted under R96. DESIGN CHOICE: log entry 164. DEDUCED: log entry 185. -/
def semCvts : Sem :=
  ⟨.any, fun op rnd sat l =>
    match (arg l 0).reserved, scaleReserved (arg l 1) with
    | some c, _ => .bad c 0
    | _, some c => .bad c 1
    | none, none =>
      let e := scaleExp (arg l 1)
      if (arg l 0).codeless then .ok (Config.reservedScaled e rnd % 256)
      else if op.isInt && (arg l 0).isInt && decide (0 ≤ e) then .ok (op.fit sat ((arg l 0).int * 2 ^ e.toNat))
      else
        match op.ofNum rnd sat ((arg l 0).num'.scale e) with
        | some x => .ok x
        | none => .dom⟩

/-! ## Address arithmetic (R235) -/

/-- R235: `LEA`. -/
def semLea : Sem :=
  ⟨.int, fun op _ sat l =>
    let a := wrap 32 (arg l 0).int
    let off := (((arg l 0).int + (arg l 1).int) % ((2 ^ 17 : Nat) : Int)).toNat
    .ok (op.fit sat ((a &&& 0x7FFE0000) + off : Nat))⟩

/-- R235: `ADDA`. -/
def semAdda : Sem :=
  ⟨.int, fun op _ sat l =>
    let a := wrap 32 (arg l 0).int
    let i : Int := (bits a 17 14 * 98304 + bits a 0 17 : Nat) + (arg l 1).int
    let core := ((i / 98304) % 16384).toNat
    let off := (i % 98304).toNat
    .ok (op.fit sat (core * 2 ^ 17 + off : Nat))⟩

/-- R235: `LCORE`. -/
def semLcore : Sem :=
  ⟨.int, fun op _ sat l =>
    let a := wrap 32 (arg l 0).int
    let x := bits a 0 7
    .ok (if 95 < x then 2 ^ op.bits - 1 else op.fit sat ((bits a 16 7 * 96 + x : Nat)))⟩

/-! ## The pipeline (R223, R224, R257) -/

/-- A source of an arithmetic instruction: a handle, an immediate (R204), or a literal's bits (R233). -/
inductive Src where
  | hnd (h : Nat)
  | imm (v : Int)
  deriving DecidableEq, Repr

/-- The handle of a source. -/
def Src.handle (x : Src) : Option Nat := match x with | .hnd h => some h | .imm _ => none

/-- R258, R103: which of `i4x` and `e8m0` an instruction admits: `MOV` both (i4x against i4x alone), `CVT` both (`cvtRaw`
with a `b` destination, whose lanes take the codes), `CVTS` both but
an i4x scale (R230); every other one neither. -/
inductive Odd where
  | none | mov | cvt | cvtRaw | cvts
  deriving DecidableEq, Repr

/-- R55, R226, R258: the handles whose class clashes. `ds` is the destination's view and the
sources' views follow. DEDUCED: log entry 36. -/
def mismatch (cls : Cls) (odd : Odd) (op : Ty) (d : View) (srcs : List View) : List Nat :=
  let oddBad (v : View) (i : Nat) : Bool :=
    match odd with
    | .none => v.ty == .i4x || v.ty == .e8m0
    | .mov => v.ty == .i4x && !(d.ty == .i4x && srcs.all (fun w => w.ty == .i4x))
    | .cvt => false
    | .cvtRaw => false
    | .cvts => (v.ty == .i4x && i == 2) || (i == 2 && v.ty.isFloat && v.ty != .e8m0)
  let clsBad (v : View) : Bool :=
    match cls with
    | .any => if odd = .cvt ∨ odd = .cvtRaw ∨ odd = .cvts then false else v.ty.clash op
    | .int => v.ty.isFloat
    | .float => v.ty.isInt
  match ((List.zip (d :: srcs) (List.range (srcs.length + 1))).filter (fun p => oddBad p.1 p.2 || clsBad p.1)).map
      (fun p => p.1.h) with
  | [] => if (cls = .float ∧ op.isFloat = false) ∨ (cls = .int ∧ op.isFloat = true) then [d.h] else []
  | l => l

/-- R257: the lanes of a destination: a `b` destination of a 64-bit operation pairs its elements. -/
def laneCount (d : View) (op : Ty) : Nat :=
  if d.shape = 1 then (if d.ty = .b ∧ op.bits = 64 then d.len / 2 else d.len) else 1

/-- R257: the operand trap of a source of a lane operation. DEDUCED: log entry 33. -/
def laneTrap (d : View) (op : Ty) (v : View) : Option Trap :=
  let bad : Option Trap := some { code := 5, handle := v.h }
  if d.shape ≠ 1 ∨ 54 ≤ v.h then none
  else if 2 ≤ v.shape then bad
  else if v.shape = 1 ∧ v.len ≠ (if v.ty = .b ∧ op.bits = 64 then 2 * laneCount d op else laneCount d op) then bad
  else none

/-- R258: the operand trap of an i4x vector of more than 16 elements, which only `MOV` admits. DEDUCED: log entry 142. -/
def longI4 (odd : Odd) (v : View) : Option Trap :=
  if v.ty = .i4x ∧ v.shape = 1 ∧ 16 < v.len ∧ odd ≠ .mov then some { code := 5, handle := v.h } else none

/-- R95: the element that stands for lane `i` where an operand is read whole: of the two of a `b` vector that a 64-bit operation pairs,
the low one. -/
def Acc.whole (q : Acc) (op : Ty) (i : Nat) : Nat :=
  if q.v.shape = 0 then 0 else if q.v.ty = .b ∧ op.bits = 64 then 2 * i else i

/-- What a source supplies to lane `i` (R95, R104 to R106, R223, R257); `zero` is the number 0 under every type. DEDUCED: log entry 191. -/
def Acc.lval (s : State) (q : Acc) (op : Ty) (odd : Odd) (i : Nat) : LVal :=
  if q.v.ty = .i4x ∧ (odd = .cvt ∨ odd = .cvts) then
    match (i4xRow ((q.rowBytesOf s 0).map BitVec.toNat))[i]? with
    | some (.val x) => .num x
    | some (.bad c) => .bad c
    | none => .num (.fin false 0 0)
  else if q.v.h = 55 then .raw .n32 i .n32 i
  else if q.v.h = 54 then (if op = .e8m0 ∧ (odd = .cvt ∨ odd = .cvts) then .num (.fin false 0 0) else .raw op 0 op 0)
  else .raw (q.v.readTy op) (q.lane s op i) q.v.ty (q.elem s (q.whole op i))

/-- R229, R95: a bound of `CLAMP`: one element of its view; under a 64-bit type a `b` element lacks its second half. DESIGN CHOICE: log entry 16. -/
def Acc.bound (s : State) (q : Acc) (op : Ty) (odd : Odd) (j : Nat) : LVal :=
  if q.v.ty = .b ∧ op.bits = 64 then
    .raw op (q.elem s j + 2 ^ 32 * (Config.halfMissing (q.elem s j) % 2 ^ 32)) .b (q.elem s j)
  else q.lval s op odd j

/-- The reserved codes that lanes meet, as traps; `site` gives handle and element of source j of lane i. -/
def badLanes (site : Nat → Nat → Nat × Nat) (outs : List LOut) : List Trap :=
  (outs.zip (List.range outs.length)).filterMap fun p =>
    match p.1 with
    | .bad c j => some { code := c, handle := (site p.2 j).1, elem := (site p.2 j).2 }
    | _ => none

/-- R108: of some traps the one of the lowest element. -/
def lowestElem (l : List Trap) : Option Trap :=
  match l with
  | [] => none
  | t :: rest => match lowestElem rest with | some u => some (if u.elem < t.elem then u else t) | none => some t

/-- The write of the lanes, or the first trap they meet: domain (rank 8), then reserved code (rank 13), whose frame names
the handle and the lowest element. -/
def finishLanes (s : State) (dst : Acc) (site : Nat → Nat → Nat × Nat) (w : Nat) (outs : List LOut) : Except Trap State :=
  if outs.any (fun r => match r with | .dom => true | _ => false) then .error { code := 7, handle := (site 0 0).1 }
  else
    match lowestElem (badLanes site outs) with
    | some t => .error t
    | none => .ok (dst.putLanes s w (outs.map fun r => match r with | .ok x => x | _ => 0))

/-- A source ready to be read: its access, or an immediate; `pair` marks the two bounds of `CLAMP` (R229). -/
structure Rd where
  src  : Src
  acc  : Option Acc
  pair : Bool
  deriving DecidableEq, Repr

/-- What a source supplies to lane `i`; the bounds of `CLAMP` are one pair for every lane. -/
def Rd.vals (s : State) (op : Ty) (odd : Odd) (i : Nat) (r : Rd) : List LVal :=
  match r.src, r.acc with
  | .imm v, _ => [.num (.ofInt v)]
  | _, none => [.num .nan]
  | _, some q => if r.pair then [q.bound s op odd 0, q.bound s op odd 1] else [q.lval s op odd i]

/-- What else an arithmetic instruction carries: the i4x and e8m0 it admits, the advance bit of the short form (which acts
after the read, R59, R200), that the last source holds the bounds of `CLAMP`, its own operand and later traps, a wait after the others (`hold`), and
for a select which lanes take the first source (`pick`). -/
structure Opts where
  odd  : Odd := .none
  adv  : Option Nat := none
  pair : Bool := false
  opnd : List (Option Trap) := []
  late : List (Option Trap) := []
  hold : Option Verdict := none
  pick : Option (Nat → Bool) := none

/-- R239: the sources a lane reads: all, or of a select the one its guard picks. -/
def Opts.choose (x : Opts) (i : Nat) (l : List (List LVal)) : List LVal :=
  match x.pick with
  | none => l.flatten
  | some f => l.getD (if f i then 0 else 1) []

/-- R239: a reserved code of the second source of a select is named as such. -/
def Opts.blame (x : Opts) (i : Nat) (r : LOut) : LOut :=
  match x.pick, r with
  | some f, .bad c _ => .bad c (if f i then 0 else 1)
  | _, r => r

/-- The views of the sources an arithmetic instruction reads, in operand order. -/
def srcViews (srcs : List Src) (s : State) : List View := (srcs.filterMap Src.handle).map s.view

/-- R95: the operation type of an arithmetic instruction. -/
def arithTy (d : Nat) (srcs : List Src) (s : State) : Ty := opType (s.view d) (srcViews srcs s)

/-- R202: the slot offsets of an arithmetic instruction. -/
def arithOffs (o : BitVec 2) (d : Nat) (srcs : List Src) (s : State) : Offs :=
  offsets o (srcViews srcs s).head? (some (s.view d))

/-- Whether source i holds the two bounds of `CLAMP`. -/
def isPair (srcs : List Src) (x : Opts) (i : Nat) : Bool := x.pair && i + 1 == srcs.length

/-- The elements of a source that are read: all (0), or those of element 0. -/
def arithCount (d : Nat) (srcs : List Src) (x : Opts) (s : State) (v : View) (i : Nat) : Nat :=
  if v.shape = 0 ∨ (s.view d).shape = 1 ∨ v.ty = .i4x ∨ isPair srcs x i then 0
  else if v.ty = .b ∧ (arithTy d srcs s).bits = 64 ∧ v.shape = 1 then Nat.min 2 v.len else 1

/-- The sources of an arithmetic instruction with the accesses that read them. -/
def arithRds (o : BitVec 2) (d : Nat) (srcs : List Src) (x : Opts) (s : State) : List Rd :=
  srcs.mapIdx fun i y =>
    ⟨y, y.handle.map fun h =>
      ⟨s.view h, if i = 0 then (arithOffs o d srcs s).src else 0, false, arithCount d srcs x s (s.view h) i⟩, isPair srcs x i⟩

/-- The access that writes the destination. -/
def arithDst (o : BitVec 2) (d : Nat) (srcs : List Src) (s : State) : Acc :=
  ⟨s.view d, (arithOffs o d srcs s).dst, true, if (s.view d).shape = 1 then 0 else 1⟩

/-- R229, R257: the operand trap of one source. -/
def Rd.trap (dv : View) (op : Ty) (r : Rd) : Option Trap :=
  match r.acc with
  | some q =>
    if r.pair then (if q.v.shape = 1 ∧ q.v.len = 2 ∧ q.v.fixed = false then none else some { code := 5, handle := q.v.h })
    else laneTrap dv op q.v
  | none => none

/-- R223, R202, R200, R257: the operand traps of an arithmetic instruction. -/
def arithOpnd (o : BitVec 2) (d : Nat) (srcs : List Src) (x : Opts) (s : State) : List (Option Trap) :=
  (if 2 ≤ (s.view d).shape then some { code := 5, handle := (s.view d).h } else none)
  :: (arithOffs o d srcs s).bad
  :: (match x.adv with | some h => if (s.view h).ring then none else some { code := 5, handle := (s.view h).h } | none => none)
  :: longI4 x.odd (s.view d)
  :: ((arithRds o d srcs x s).map (Rd.trap (s.view d) (arithTy d srcs s)) ++ (srcViews srcs s).map (longI4 x.odd) ++ x.opnd)

/-- What lane i of an arithmetic instruction comes to. -/
def arithLane (o : BitVec 2) (d : Nat) (srcs : List Src) (sem : Sem) (x : Opts) (s : State) (i : Nat) : LOut :=
  let op := arithTy d srcs s
  x.blame i (sem.f op (s.view d).rnd (s.view d).sat
    (x.choose i ((arithRds o d srcs x s).map (Rd.vals s op x.odd (if (s.view d).shape = 1 then i else 0)))))

/-- What the lanes of an arithmetic instruction come to. -/
def arithLanes (o : BitVec 2) (d : Nat) (srcs : List Src) (sem : Sem) (x : Opts) (s : State) : List LOut :=
  (List.range (laneCount (s.view d) (arithTy d srcs s))).map (arithLane o d srcs sem x s)

/-- R258: a reserved code in a later element of an i4x vector that `CVT` or `CVTS` reads for a scalar destination: what each of its elements
comes to from the second on, or nothing where none of them is one. -/
def arithRest (o : BitVec 2) (d : Nat) (srcs : List Src) (x : Opts) (s : State) : List LOut :=
  match (arithRds o d srcs x s).head?.bind Rd.acc with
  | some q =>
    if (s.view d).shape ≠ 1 ∧ q.v.ty = .i4x ∧ q.v.shape = 1 ∧ (x.odd = .cvt ∨ x.odd = .cvts) then
      let l := (((i4xRow ((q.rowBytesOf s 0).map BitVec.toNat)).take q.v.len).drop 1).map fun e =>
        match e with | .bad c => LOut.bad c 0 | .val _ => .ok 0
      if l.any (fun r => r != .ok 0) then l else []
    else []
  | none => []

/-- What an arithmetic instruction comes to: its lanes, and the elements that are read beyond them. -/
def arithOuts (o : BitVec 2) (d : Nat) (srcs : List Src) (sem : Sem) (x : Opts) (s : State) : List LOut :=
  arithLanes o d srcs sem x s ++ arithRest o d srcs x s

/-- The accesses of an arithmetic instruction. -/
def arithAccs (o : BitVec 2) (d : Nat) (srcs : List Src) (x : Opts) (s : State) : List Acc :=
  arithDst o d srcs s :: (arithRds o d srcs x s).filterMap Rd.acc

/-- R55, R226, R258: the view mismatches of an arithmetic instruction. -/
def arithMism (d : Nat) (srcs : List Src) (sem : Sem) (x : Opts) (s : State) : List Nat :=
  mismatch sem.cls x.odd (arithTy d srcs s) (s.view d) (srcViews srcs s)

/-- R108: the handle and the element of source j in lane i of an arithmetic instruction; what stands behind the one lane of a scalar are
elements (R258). -/
def arithSite (srcs : List Src) (s : State) (i j : Nat) : Nat × Nat :=
  match (srcViews srcs s)[j]? with
  | some v => (v.h, if v.shape = 0 then 0 else i)
  | none => (0, 0)

/-- R223, R257: an arithmetic instruction: its views, checks and waits, then every lane at once. -/
def arith (o : BitVec 2) (d : Nat) (srcs : List Src) (sem : Sem) (x : Opts) (s : State) : Verdict :=
  s.gated (arithAccs o d srcs x s) (arithMism d srcs sem x s) (arithOpnd o d srcs x s) x.late fun _ =>
    if x.hold.isSome then x.hold.getD (.wait .none [] false)
    else if x.adv.isSome && s.cur.holdWaits then .wait .drain [] true
    else
      match finishLanes s (arithDst o d srcs s) (arithSite srcs s) (arithTy d srcs s).bits
          (arithOuts o d srcs sem x s) with
      | .error t => .trap t
      | .ok s' =>
        match x.adv with
        | some h => .done (s'.advanceRead (s'.view h) 1)
        | none => .done s'

/-- A form T arithmetic instruction. -/
def arithT (o : BitVec 2) (d : BitVec 6) (srcs : List (BitVec 6)) (sem : Sem) (s : State) : Verdict :=
  arith o d.toNat (srcs.map fun h => .hnd h.toNat) sem {} s

/-- An immediate form (R204): the immediate stands as the second source. -/
def arithI (i : BitVec 13) (a d : BitVec 6) (sem : Sem) (s : State) : Verdict :=
  arith 0 d.toNat [.hnd a.toNat, .imm i.toInt] sem {} s

/-- The advance bit of a short form (R200). -/
def advOpt (a : Bool) (r : BitVec 5) (odd : Odd) : Opts := { odd := odd, adv := if a then some r.toNat else none }

/-- R200: a short form of two sources: d and s. -/
def arithS2 (a : Bool) (r d : BitVec 5) (sem : Sem) (s : State) : Verdict :=
  arith 0 d.toNat [.hnd d.toNat, .hnd r.toNat] sem (advOpt a r .none) s

/-- R200: a short form of one source. -/
def arithS1 (a : Bool) (r d : BitVec 5) (sem : Sem) (odd : Odd) (s : State) : Verdict :=
  arith 0 d.toNat [.hnd r.toNat] sem (advOpt a r odd) s

end Sys2Proof.Machine
end

