-- ==== Sys2Proof/Machine/Scalar.lean ====
section
/-!
DEFINITION. The meanings of the short form (R200), arithmetic groups A and B (R226, R227), the fused operations (R231),
immediates and literals (R232 to R234) and the address instructions (R235): scalar and lane by lane (R257).
-/

namespace Sys2Proof.Machine

/-- What every meaning answers. -/
abbrev Out := Host.Outcome State Fault Refusal

/-- R200, R228: short `MOV` d = s, then the advance. -/
def execMovShort (a : Bool) (r d : BitVec 5) (s : State) : Out :=
  .next (s.issueAny (.movShort a r d) (arithS1 a r d semMov .mov))

/-- R200: short `ADD`: d and s, then the advance. -/
def execAddShort (a : Bool) (r d : BitVec 5) (s : State) : Out :=
  .next (s.issueAny (.addShort a r d) (arithS2 a r d semAdd))

/-- R200: short `SUB`: d and s, then the advance. -/
def execSubShort (a : Bool) (r d : BitVec 5) (s : State) : Out :=
  .next (s.issueAny (.subShort a r d) (arithS2 a r d semSub))

/-- R200: short `RSUB`: d and s, then the advance. -/
def execRsubShort (a : Bool) (r d : BitVec 5) (s : State) : Out :=
  .next (s.issueAny (.rsubShort a r d) (arithS2 a r d semRsub))

/-- R200: short `MUL`: d and s, then the advance. -/
def execMulShort (a : Bool) (r d : BitVec 5) (s : State) : Out :=
  .next (s.issueAny (.mulShort a r d) (arithS2 a r d semMul))

/-- R200: short `MIN`: d and s, then the advance. -/
def execMinShort (a : Bool) (r d : BitVec 5) (s : State) : Out :=
  .next (s.issueAny (.minShort a r d) (arithS2 a r d semMin))

/-- R200: short `MAX`: d and s, then the advance. -/
def execMaxShort (a : Bool) (r d : BitVec 5) (s : State) : Out :=
  .next (s.issueAny (.maxShort a r d) (arithS2 a r d semMax))

/-- R200: short `AND`: d and s, then the advance. -/
def execAndShort (a : Bool) (r d : BitVec 5) (s : State) : Out :=
  .next (s.issueAny (.andShort a r d) (arithS2 a r d semAnd))

/-- R200: short `OR`: d and s, then the advance. -/
def execOrShort (a : Bool) (r d : BitVec 5) (s : State) : Out :=
  .next (s.issueAny (.orShort a r d) (arithS2 a r d semOr))

/-- R200: short `XOR`: d and s, then the advance. -/
def execXorShort (a : Bool) (r d : BitVec 5) (s : State) : Out :=
  .next (s.issueAny (.xorShort a r d) (arithS2 a r d semXor))

/-- R200: short `ANDN`: d and s, then the advance. -/
def execAndnShort (a : Bool) (r d : BitVec 5) (s : State) : Out :=
  .next (s.issueAny (.andnShort a r d) (arithS2 a r d semAndn))

/-- R200: short `SHL`: d and s, then the advance. -/
def execShlShort (a : Bool) (r d : BitVec 5) (s : State) : Out :=
  .next (s.issueAny (.shlShort a r d) (arithS2 a r d semShl))

/-- R200: short `SHR`: d and s, then the advance. -/
def execShrShort (a : Bool) (r d : BitVec 5) (s : State) : Out :=
  .next (s.issueAny (.shrShort a r d) (arithS2 a r d semShr))

/-- R200: short `SAR`: d and s, then the advance. -/
def execSarShort (a : Bool) (r d : BitVec 5) (s : State) : Out :=
  .next (s.issueAny (.sarShort a r d) (arithS2 a r d semSar))

/-- R200: short `NEG`: of s into d, then the advance. -/
def execNegShort (a : Bool) (r d : BitVec 5) (s : State) : Out :=
  .next (s.issueAny (.negShort a r d) (arithS1 a r d semNeg .none))

/-- R200: short `ABS`: of s into d, then the advance. -/
def execAbsShort (a : Bool) (r d : BitVec 5) (s : State) : Out :=
  .next (s.issueAny (.absShort a r d) (arithS1 a r d semAbs .none))

/-- R228: `MOV`. -/
def execMov (o : BitVec 2) (a d : BitVec 6) (s : State) : Out :=
  .next (s.issueAny (.mov o a d) (arith o d.toNat [.hnd a.toNat] semMov { odd := .mov }))

/-- R226: `ADD`. -/
def execAdd (o : BitVec 2) (b a d : BitVec 6) (s : State) : Out :=
  .next (s.issueAny (.add o b a d) (arithT o d [a, b] semAdd))

/-- R226: `SUB`. -/
def execSub (o : BitVec 2) (b a d : BitVec 6) (s : State) : Out :=
  .next (s.issueAny (.sub o b a d) (arithT o d [a, b] semSub))

/-- R226: `RSUB`. -/
def execRsub (o : BitVec 2) (b a d : BitVec 6) (s : State) : Out :=
  .next (s.issueAny (.rsub o b a d) (arithT o d [a, b] semRsub))

/-- R226: `MUL`. -/
def execMul (o : BitVec 2) (b a d : BitVec 6) (s : State) : Out :=
  .next (s.issueAny (.mul o b a d) (arithT o d [a, b] semMul))

/-- R229: `MULH`. -/
def execMulh (o : BitVec 2) (b a d : BitVec 6) (s : State) : Out :=
  .next (s.issueAny (.mulh o b a d) (arithT o d [a, b] semMulh))

/-- R96, R102: `DIV`. -/
def execDiv (o : BitVec 2) (b a d : BitVec 6) (s : State) : Out :=
  .next (s.issueAny (.div o b a d) (arithT o d [a, b] semDiv))

/-- R229: `REM`. -/
def execRem (o : BitVec 2) (b a d : BitVec 6) (s : State) : Out :=
  .next (s.issueAny (.rem o b a d) (arithT o d [a, b] semRem))

/-- R101: `MIN`. -/
def execMin (o : BitVec 2) (b a d : BitVec 6) (s : State) : Out :=
  .next (s.issueAny (.min o b a d) (arithT o d [a, b] semMin))

/-- R101: `MAX`. -/
def execMax (o : BitVec 2) (b a d : BitVec 6) (s : State) : Out :=
  .next (s.issueAny (.max o b a d) (arithT o d [a, b] semMax))

/-- R229: `ABD`. -/
def execAbd (o : BitVec 2) (b a d : BitVec 6) (s : State) : Out :=
  .next (s.issueAny (.abd o b a d) (arithT o d [a, b] semAbd))

/-- R229: `AVG`. -/
def execAvg (o : BitVec 2) (b a d : BitVec 6) (s : State) : Out :=
  .next (s.issueAny (.avg o b a d) (arithT o d [a, b] semAvg))

/-- R229: `ADDS`. -/
def execAdds (o : BitVec 2) (b a d : BitVec 6) (s : State) : Out :=
  .next (s.issueAny (.adds o b a d) (arithT o d [a, b] semAdds))

/-- R229: `SUBS`. -/
def execSubs (o : BitVec 2) (b a d : BitVec 6) (s : State) : Out :=
  .next (s.issueAny (.subs o b a d) (arithT o d [a, b] semSubs))

/-- R226: `AND`. -/
def execAnd (o : BitVec 2) (b a d : BitVec 6) (s : State) : Out :=
  .next (s.issueAny (.and o b a d) (arithT o d [a, b] semAnd))

/-- R226: `OR`. -/
def execOr (o : BitVec 2) (b a d : BitVec 6) (s : State) : Out :=
  .next (s.issueAny (.or o b a d) (arithT o d [a, b] semOr))

/-- R226: `XOR`. -/
def execXor (o : BitVec 2) (b a d : BitVec 6) (s : State) : Out :=
  .next (s.issueAny (.xor o b a d) (arithT o d [a, b] semXor))

/-- R226: `ANDN`. -/
def execAndn (o : BitVec 2) (b a d : BitVec 6) (s : State) : Out :=
  .next (s.issueAny (.andn o b a d) (arithT o d [a, b] semAndn))

/-- R229: `SHL`. -/
def execShl (o : BitVec 2) (b a d : BitVec 6) (s : State) : Out :=
  .next (s.issueAny (.shl o b a d) (arithT o d [a, b] semShl))

/-- R229: `SHR`. -/
def execShr (o : BitVec 2) (b a d : BitVec 6) (s : State) : Out :=
  .next (s.issueAny (.shr o b a d) (arithT o d [a, b] semShr))

/-- R229: `SAR`. -/
def execSar (o : BitVec 2) (b a d : BitVec 6) (s : State) : Out :=
  .next (s.issueAny (.sar o b a d) (arithT o d [a, b] semSar))

/-- R229: `ROL`. -/
def execRol (o : BitVec 2) (b a d : BitVec 6) (s : State) : Out :=
  .next (s.issueAny (.rol o b a d) (arithT o d [a, b] semRol))

/-- R229: `ROR`. -/
def execRor (o : BitVec 2) (b a d : BitVec 6) (s : State) : Out :=
  .next (s.issueAny (.ror o b a d) (arithT o d [a, b] semRor))

/-- R229: `BFX`. -/
def execBfx (o : BitVec 2) (b a d : BitVec 6) (s : State) : Out :=
  .next (s.issueAny (.bfx o b a d) (arithT o d [a, b] semBfx))

/-- R226: `ABS`. -/
def execAbs (o : BitVec 2) (a d : BitVec 6) (s : State) : Out :=
  .next (s.issueAny (.abs o a d) (arithT o d [a] semAbs))

/-- R226: `NEG`. -/
def execNeg (o : BitVec 2) (a d : BitVec 6) (s : State) : Out :=
  .next (s.issueAny (.neg o a d) (arithT o d [a] semNeg))

/-- R226: `NOT`. -/
def execNot (o : BitVec 2) (a d : BitVec 6) (s : State) : Out :=
  .next (s.issueAny (.not o a d) (arithT o d [a] semNot))

/-- R229: `CLZ`. -/
def execClz (o : BitVec 2) (a d : BitVec 6) (s : State) : Out :=
  .next (s.issueAny (.clz o a d) (arithT o d [a] semClz))

/-- R229: `CTZ`. -/
def execCtz (o : BitVec 2) (a d : BitVec 6) (s : State) : Out :=
  .next (s.issueAny (.ctz o a d) (arithT o d [a] semCtz))

/-- R226: `POPC`. -/
def execPopc (o : BitVec 2) (a d : BitVec 6) (s : State) : Out :=
  .next (s.issueAny (.popc o a d) (arithT o d [a] semPopc))

/-- R226: `BREV`. -/
def execBrev (o : BitVec 2) (a d : BitVec 6) (s : State) : Out :=
  .next (s.issueAny (.brev o a d) (arithT o d [a] semBrev))

/-- R102: `RCP`. -/
def execRcp (o : BitVec 2) (a d : BitVec 6) (s : State) : Out :=
  .next (s.issueAny (.rcp o a d) (arithT o d [a] semRcp))

/-- R102: `RSQ`. -/
def execRsq (o : BitVec 2) (a d : BitVec 6) (s : State) : Out :=
  .next (s.issueAny (.rsq o a d) (arithT o d [a] semRsq))

/-- R102: `SQRT`. -/
def execSqrt (o : BitVec 2) (a d : BitVec 6) (s : State) : Out :=
  .next (s.issueAny (.sqrt o a d) (arithT o d [a] semSqrt))

/-- R102: `EXP2`. -/
def execExp2 (o : BitVec 2) (a d : BitVec 6) (s : State) : Out :=
  .next (s.issueAny (.exp2 o a d) (arithT o d [a] semExp2))

/-- R102: `LOG2`. -/
def execLog2 (o : BitVec 2) (a d : BitVec 6) (s : State) : Out :=
  .next (s.issueAny (.log2 o a d) (arithT o d [a] semLog2))

/-- R227: `FLOOR`. -/
def execFloor (o : BitVec 2) (a d : BitVec 6) (s : State) : Out :=
  .next (s.issueAny (.floor o a d) (arithT o d [a] semFloor))

/-- R227: `CEIL`. -/
def execCeil (o : BitVec 2) (a d : BitVec 6) (s : State) : Out :=
  .next (s.issueAny (.ceil o a d) (arithT o d [a] semCeil))

/-- R227: `RNDN`. -/
def execRndn (o : BitVec 2) (a d : BitVec 6) (s : State) : Out :=
  .next (s.issueAny (.rndn o a d) (arithT o d [a] semRndn))

/-- R229: `CLAMP`: the two bounds are the elements of b. -/
def execClamp (o : BitVec 2) (b a d : BitVec 6) (s : State) : Out :=
  .next (s.issueAny (.clamp o b a d) (arith o d.toNat [.hnd a.toNat, .hnd b.toNat] semClamp { pair := true }))

/-- R229: `BFI`: d is read as a source. -/
def execBfi (o : BitVec 2) (b a d : BitVec 6) (s : State) : Out :=
  .next (s.issueAny (.bfi o b a d) (arithT o d [a, b, d] semBfi))

/-- R229: `SXT`. -/
def execSxt (o : BitVec 2) (b a d : BitVec 6) (s : State) : Out :=
  .next (s.issueAny (.sxt o b a d) (arithT o d [a, b] (extSem true)))

/-- R229: `ZXT`. -/
def execZxt (o : BitVec 2) (b a d : BitVec 6) (s : State) : Out :=
  .next (s.issueAny (.zxt o b a d) (arithT o d [a, b] (extSem false)))

/-- R109: `CVT`; a `b` destination takes bits. -/
def cvtVerdict (o : BitVec 2) (a d : BitVec 6) (s : State) : Verdict :=
  if (s.view d.toNat).ty = .b then arith o d.toNat [.hnd a.toNat] (semCvt true) { odd := .cvtRaw } s
  else arith o d.toNat [.hnd a.toNat] (semCvt false) { odd := .cvt } s

/-- R109: `CVT`. -/
def execCvt (o : BitVec 2) (a d : BitVec 6) (s : State) : Out := .next (s.issueAny (.cvt o a d) (cvtVerdict o a d))

/-- R109, R224: the conversion-domain trap of a `CVTS` to e8m0, which a's value alone decides, before b is read. -/
def cvtsDomain (o : BitVec 2) (b a d : BitVec 6) (s : State) : Option Trap :=
  let srcs := [.hnd a.toNat, .hnd b.toNat]
  let q : Acc := ⟨s.view a.toNat, (arithOffs o d.toNat srcs s).src, false, arithCount d.toNat srcs {} s (s.view a.toNat) 0⟩
  let bad (i : Nat) : Bool :=
    let v := q.lval s .e8m0 .cvts i
    v.reserved.isNone && (toE8m0 0 v.num').isNone
  if arithTy d.toNat srcs s = .e8m0 ∧ q.msgTrap s = none ∧
      (List.range (laneCount (s.view d.toNat) .e8m0)).any bad = true then
    q.early s (some { code := 7, handle := q.v.h })
  else none

/-- R230: `CVTS`. -/
def execCvts (o : BitVec 2) (b a d : BitVec 6) (s : State) : Out :=
  .next (s.issueAny (.cvts o b a d) fun t =>
    arith o d.toNat [.hnd a.toNat, .hnd b.toNat] semCvts { odd := .cvts, opnd := [cvtsDomain o b a d t] } t)

/-- R231: `FMA`. -/
def execFma (c b a d : BitVec 6) (s : State) : Out :=
  .next (s.issue (.fma c b a d) (arithT 0 d [a, b, c] (semFused false false)))

/-- R231: `FNMA`. -/
def execFnma (c b a d : BitVec 6) (s : State) : Out :=
  .next (s.issue (.fnma c b a d) (arithT 0 d [a, b, c] (semFused true false)))

/-- R231: `FMS`. -/
def execFms (c b a d : BitVec 6) (s : State) : Out :=
  .next (s.issue (.fms c b a d) (arithT 0 d [a, b, c] (semFused false true)))

/-- R231: `FNMS`. -/
def execFnms (c b a d : BitVec 6) (s : State) : Out :=
  .next (s.issue (.fnms c b a d) (arithT 0 d [a, b, c] (semFused true true)))

/-- R204, R232: `ADDI`. -/
def execAddi (i : BitVec 13) (a d : BitVec 6) (s : State) : Out :=
  .next (s.issueAny (.addi i a d) (arithI i a d semAdd))

/-- R204, R232: `ANDI`. -/
def execAndi (i : BitVec 13) (a d : BitVec 6) (s : State) : Out :=
  .next (s.issueAny (.andi i a d) (arithI i a d semAnd))

/-- R204, R232: `ORI`. -/
def execOri (i : BitVec 13) (a d : BitVec 6) (s : State) : Out :=
  .next (s.issueAny (.ori i a d) (arithI i a d semOr))

/-- R204, R232: `XORI`. -/
def execXori (i : BitVec 13) (a d : BitVec 6) (s : State) : Out :=
  .next (s.issueAny (.xori i a d) (arithI i a d semXor))

/-- R204, R232: `SHLI`. -/
def execShli (i : BitVec 13) (a d : BitVec 6) (s : State) : Out :=
  .next (s.issueAny (.shli i a d) (arithI i a d semShl))

/-- R204, R232: `SHRI`. -/
def execShri (i : BitVec 13) (a d : BitVec 6) (s : State) : Out :=
  .next (s.issueAny (.shri i a d) (arithI i a d semShr))

/-- R204, R232: `SARI`. -/
def execSari (i : BitVec 13) (a d : BitVec 6) (s : State) : Out :=
  .next (s.issueAny (.sari i a d) (arithI i a d semSar))

/-- R204, R232: `MOVI`: the immediate fitted to the destination. -/
def execMovi (i : BitVec 13) (d : BitVec 6) (s : State) : Out :=
  .next (s.issueAny (.movi i d) (arith 0 d.toNat [.imm i.toInt] semMov {}))

/-- R233: a literal written as bits: whole, its low bits, or extended (signed for `i64`). -/
def semLi (lit : BitVec 32) : Sem :=
  ⟨.any, fun op _ _ _ => .ok (if op = .i64 then wrap 64 lit.toInt else lit.toNat % 2 ^ op.bits)⟩

/-- R233: `LI`. -/
def execLi (d : BitVec 6) (lit : BitVec 32) (s : State) : Out :=
  .next (s.issueAny (.li d lit) (arith 0 d.toNat [] (semLi lit) { odd := .cvt }))

/-- R142, R198: the logical core a firing reads; an engine's microcode reads a core of its cluster. DESIGN CHOICE: log entry 165. -/
def State.lcore (s : State) : Nat := agentCore s.curCore

/-- R234: the near address of the own slice plus a literal; too narrow a destination is an operand trap, a literal past
the slice a near-range trap. -/
def nearVerdict (d : BitVec 6) (lit : BitVec 32) (s : State) : Verdict :=
  let v := s.view d.toNat
  let narrow : Option Trap := if v.ty.bits < 32 then some { code := 5, handle := v.h } else none
  let range : Option Trap := if 0x17FFF < lit.toNat then some { code := 0xB } else none
  let a := nearAddr s.lcore lit.toNat
  arith 0 d.toNat [] ⟨.int, fun op _ _ _ => .ok (a % 2 ^ op.bits)⟩ { opnd := [narrow], late := [range] } s

/-- R234: `NEAR`. -/
def execNear (d : BitVec 6) (lit : BitVec 32) (s : State) : Out :=
  .next (s.issueAny (.near d lit) (nearVerdict d lit))

/-- R235: `LEA`. -/
def execLea (o : BitVec 2) (b a d : BitVec 6) (s : State) : Out :=
  .next (s.issueAny (.lea o b a d) (arithT o d [a, b] semLea))

/-- R235: `ADDA`. -/
def execAdda (o : BitVec 2) (b a d : BitVec 6) (s : State) : Out :=
  .next (s.issueAny (.adda o b a d) (arithT o d [a, b] semAdda))

/-- R235: `LCORE`. -/
def execLcore (o : BitVec 2) (a d : BitVec 6) (s : State) : Out :=
  .next (s.issueAny (.lcore o a d) (arithT o d [a] semLcore))

end Sys2Proof.Machine
end

