-- ==== Sys2Proof/Machine/Lane.lean ====
section
/-!
DEFINITION. Lane movement, reductions and dot products (R261 to R263, R110).
-/

namespace Sys2Proof.Machine

/-- The elements a source holds under an operation type; a scalar counts as a vector of one, and `b` pairs its elements
for a 64-bit type (R95, R262). -/
def View.count (v : View) (op : Ty) : Nat :=
  if v.h = 55 then 16 else if v.shape = 0 then 1 else if v.ty = .b ∧ op.bits = 64 then v.len / 2 else v.len

/-- The elements of a source: codes of i4x as they stand where the operation type is i4x or `b` (R262), their values
otherwise. DEDUCED: log entry 37. -/
def Acc.elems (s : State) (q : Acc) (op : Ty) (rawI4 : Bool) : List LVal :=
  (List.range (q.v.count op)).map fun i => q.lval s op (if rawI4 then .mov else .cvt) i

/-- R262: the values of an index operand: each element under its own type, `b` as `i32`, never paired. -/
def Acc.indices (s : State) (q : Acc) : List Int :=
  (List.range (if q.v.h = 55 then 16 else if q.v.shape = 0 then 1 else q.v.len)).map fun i =>
    if q.v.h = 54 then 0 else (if q.v.ty = .b then Ty.i32 else q.v.ty).intVal (q.elem s i)

/-- R262: which elements of a source have bits that are not all zero: the raw bits of each, whatever its type. -/
def Acc.nonzero (s : State) (q : Acc) (op : Ty) : List Bool :=
  (List.range (q.v.count op)).map fun i =>
    if q.v.ty = .b ∧ op.bits < 64 ∧ q.v.h ≠ 54 then q.elem s (if q.v.shape = 0 then 0 else i) != 0 else q.lane s op i != 0

/-- An element on its way: its value, and the source (0 a, 1 b) and index it comes from. -/
abbrev Elem := LVal × Nat × Nat

/-- The elements of a source with where they come from. -/
def placed (k : Nat) (l : List LVal) : List Elem := l.zipIdx.map fun p => (p.1, k, p.2)

/-- A movement: what lane i of the destination takes, from the elements of a and b, the indices b holds, and which
elements of the mask are not zero; `none` is Z. -/
abbrev Pick := (lanes : Nat) → (a b : List Elem) → (idx : List Int) → (mask : List Bool) → List (Option Elem)

/-- A limit of R262 on the indices, checked once they are read. -/
abbrev ValTrap := List Int → Bool

/-- What a movement instruction names: whether b and d are sources and whether b's elements move, the limits of its views,
and the limit of a value. -/
structure Move where
  useB : Bool
  bMoves : Bool
  useD : Bool
  pick : Pick
  okV  : (op : Ty) → (d a b : View) → Bool
  okB  : ValTrap

/-- The operation type of a movement instruction: of its destination and the sources whose elements move (R95). -/
def moveTy (b a d : BitVec 6) (m : Move) (s : State) : Ty :=
  opType (s.view d.toNat) (if m.bMoves then [s.view a.toNat, s.view b.toNat] else [s.view a.toNat])

/-- R202: its slot offsets. -/
def moveOffs (o : BitVec 2) (a d : BitVec 6) (s : State) : Offs := offsets o (some (s.view a.toNat)) (some (s.view d.toNat))

/-- The access that writes its destination. -/
def moveDst (o : BitVec 2) (a d : BitVec 6) (s : State) : Acc := ⟨s.view d.toNat, (moveOffs o a d s).dst, true, 0⟩

/-- The access that reads a. -/
def moveA (o : BitVec 2) (a d : BitVec 6) (s : State) : Acc := ⟨s.view a.toNat, (moveOffs o a d s).src, false, 0⟩

/-- The access that reads a handle whole, at its own slot. -/
def wholeRd (h : BitVec 6) (s : State) : Acc := ⟨s.view h.toNat, 0, false, 0⟩

/-- The accesses of a movement instruction. -/
def moveAccs (o : BitVec 2) (b a d : BitVec 6) (m : Move) (s : State) : List Acc :=
  [moveDst o a d s, moveA o a d s] ++ (if m.useB then [wholeRd b s] else []) ++ (if m.useD then [wholeRd d s] else [])

/-- R55: the handles whose class clashes with the operation type. -/
def moveMism (b a d : BitVec 6) (m : Move) (s : State) : List Nat :=
  ((s.view d.toNat :: (if m.bMoves then [s.view a.toNat, s.view b.toNat] else [s.view a.toNat])).filter
    fun v => v.ty.clash (moveTy b a d m s)).map View.h

/-- The operand trap of a handle, when a limit on it is broken. -/
def badOpnd (h : Nat) (c : Bool) : Option Trap := if c then some { code := 5, handle := h } else none

/-- R202, R262: its operand traps. -/
def moveOpnd (o : BitVec 2) (b a d : BitVec 6) (m : Move) (s : State) : List (Option Trap) :=
  [badOpnd (s.view d.toNat).h (decide (2 ≤ (s.view d.toNat).shape)), (moveOffs o a d s).bad,
    badOpnd (s.view a.toNat).h (decide (2 ≤ (s.view a.toNat).shape)),
    badOpnd (if m.useB then (s.view b.toNat).h else (s.view a.toNat).h)
      (!m.okV (moveTy b a d m s) (s.view d.toNat) (s.view a.toNat) (s.view b.toNat))]

/-- The elements of b, where they move. -/
def moveB (b a d : BitVec 6) (m : Move) (s : State) : List LVal :=
  let op := moveTy b a d m s
  if m.bMoves then (wholeRd b s).elems s op (op == .i4x || (s.view d.toNat).ty == .b) else []

/-- The indices b holds, where it is an index operand. -/
def moveIdx (b : BitVec 6) (m : Move) (s : State) : List Int :=
  if m.useB && !m.bMoves then (wholeRd b s).indices s else []

/-- What each lane of a movement instruction takes. -/
def movePicks (o : BitVec 2) (b a d : BitVec 6) (m : Move) (s : State) : List (Option Elem) :=
  let dv := s.view d.toNat
  let op := moveTy b a d m s
  m.pick (laneCount dv op) (placed 0 ((moveA o a d s).elems s op (op == .i4x || dv.ty == .b))) (placed 1 (moveB b a d m s))
    (moveIdx b m s) ((if m.useD then wholeRd d s else moveA o a d s).nonzero s op)

/-- What the lanes of a movement instruction come to. -/
def moveOuts (o : BitVec 2) (b a d : BitVec 6) (m : Move) (s : State) : List LOut :=
  (movePicks o b a d m s).map fun l =>
    match l with
    | none => LOut.ok 0
    | some e => semMov.f (moveTy b a d m s) (s.view d.toNat).rnd (s.view d.toNat).sat [e.1]

/-- R108: the handle and the element that lane i takes. -/
def moveSite (o : BitVec 2) (b a d : BitVec 6) (m : Move) (s : State) (i _j : Nat) : Nat × Nat :=
  match (movePicks o b a d m s)[i]? with
  | some (some e) => ((s.view (if e.2.1 = 0 then a else b).toNat).h, e.2.2)
  | _ => ((s.view a.toNat).h, 0)

/-- R262: a movement instruction. -/
def moveLanes (o : BitVec 2) (b a d : BitVec 6) (m : Move) (s : State) : Verdict :=
  s.gated (moveAccs o b a d m s) (moveMism b a d m s) (moveOpnd o b a d m s) [] fun _ =>
    if !m.okB (moveIdx b m s) then .trap { code := 5, handle := (s.view b.toNat).h }
    else
      match finishLanes s (moveDst o a d s) (moveSite o b a d m s) (moveTy b a d m s).bits (moveOuts o b a d m s) with
      | .error t => .trap t
      | .ok s' => .done s'

/-- The element of a list at an integer index, `none` (Z) outside it. -/
def at? (l : List Elem) (j : Int) : Option Elem := if 0 ≤ j then l[j.toNat]? else none

/-- The first index; 0 where there is none. -/
def idx0 (l : List Int) : Int := l.headD 0

/-- R262: an index operand is of integer class or `b`. DEDUCED: log entry 38. -/
def idxOk (v : View) : Bool := v.ty.isInt || v.ty == .b

/-- R262: `BCST`. -/
def mvBcst : Move :=
  ⟨false, false, false, fun n a _ _ _ => List.replicate n a.head?, fun _ _ _ _ => true, fun _ => true⟩

/-- R262: `PERM`: indices under b's own type, a scalar broadcast. -/
def mvPerm : Move :=
  ⟨true, false, false,
    fun n a _ x _ => (List.range n).map fun i => at? a (x.getD (if x.length = 1 then 0 else i) 0),
    fun op d _ b => idxOk b && (b.shape == 0 || (b.shape == 1 && b.len == laneCount d op)), fun _ => true⟩

/-- R262: `SHFL`. -/
def mvShfl : Move :=
  ⟨true, false, false, fun n a _ x _ => (List.range n).map fun i => a[i ^^^ (idx0 x).toNat]?,
    fun _ _ _ b => idxOk b && b.shape == 0, fun x => decide (0 ≤ idx0 x ∧ idx0 x ≤ 31)⟩

/-- R262: `SLIDE`. -/
def mvSlide : Move :=
  ⟨true, false, false, fun n a _ x _ => (List.range n).map fun (i : Nat) => at? a ((i : Int) + idx0 x),
    fun _ _ _ b => idxOk b && b.shape == 0, fun _ => true⟩

/-- R262: `ZIP`: both sources move, and are of one type. -/
def mvZip : Move :=
  ⟨true, true, false, fun n a b _ _ => (List.range n).map fun i => if i % 2 = 0 then a[i / 2]? else b[i / 2]?,
    fun op d a b => laneCount d op % 2 == 0 && a.count op == laneCount d op / 2 && b.count op == laneCount d op / 2
      && a.ty == b.ty, fun _ => true⟩

/-- R262: `UNZP`. -/
def mvUnzp : Move :=
  ⟨true, false, false, fun n a _ x _ => (List.range n).map fun i => a[2 * i + (idx0 x).toNat]?,
    fun op d a b => a.count op == 2 * laneCount d op && idxOk b && b.shape == 0,
    fun x => idx0 x == 0 || idx0 x == 1⟩

/-- The elements of a list whose mask holds. -/
def kept (a : List Elem) (mask : List Bool) : List Elem := ((a.zip mask).filter (·.2)).map (·.1)

/-- R262: `CMPR`. -/
def mvCmpr : Move :=
  ⟨false, false, false, fun n a _ _ k => (List.range n).map fun i => (kept a k)[i]?,
    fun op d a _ => a.count op == laneCount d op, fun _ => true⟩

/-- R262: the elements of a placed where the mask holds. -/
def expand (mask : List Bool) (a : List Elem) : List (Option Elem) :=
  match mask with
  | [] => []
  | true :: rest => a.head? :: expand rest (a.drop 1)
  | false :: rest => none :: expand rest a

/-- R262: `EXPD`. DEDUCED: log entry 39. -/
def mvExpd : Move :=
  ⟨false, false, true, fun _ a _ _ k => expand k a, fun op d a _ => a.count op == laneCount d op, fun _ => true⟩

/-- R262: `BCST`. -/
def execBcst (o : BitVec 2) (a d : BitVec 6) (s : State) : Out :=
  .next (s.issue (.bcst o a d) (moveLanes o 0 a d mvBcst))

/-- R262: `PERM`. -/
def execPerm (o : BitVec 2) (b a d : BitVec 6) (s : State) : Out :=
  .next (s.issue (.perm o b a d) (moveLanes o b a d mvPerm))

/-- R262: `SHFL`. -/
def execShfl (o : BitVec 2) (b a d : BitVec 6) (s : State) : Out :=
  .next (s.issue (.shfl o b a d) (moveLanes o b a d mvShfl))

/-- R262: `SLIDE`. -/
def execSlide (o : BitVec 2) (b a d : BitVec 6) (s : State) : Out :=
  .next (s.issue (.slide o b a d) (moveLanes o b a d mvSlide))

/-- R262: `ZIP`. -/
def execZip (o : BitVec 2) (b a d : BitVec 6) (s : State) : Out :=
  .next (s.issue (.zip o b a d) (moveLanes o b a d mvZip))

/-- R262: `UNZP`. -/
def execUnzp (o : BitVec 2) (b a d : BitVec 6) (s : State) : Out :=
  .next (s.issue (.unzp o b a d) (moveLanes o b a d mvUnzp))

/-- R262: `CMPR`. -/
def execCmpr (o : BitVec 2) (a d : BitVec 6) (s : State) : Out :=
  .next (s.issue (.cmpr o a d) (moveLanes o 0 a d mvCmpr))

/-- R262: `EXPD`. -/
def execExpd (o : BitVec 2) (a d : BitVec 6) (s : State) : Out :=
  .next (s.issue (.expd o a d) (moveLanes o 0 a d mvExpd))

/-! ## Reductions (R263, R110) -/

/-- R110: adjacent pairs added and rounded; an odd last one stands. -/
def treeLevel (add : XNum → XNum → XNum) (l : List XNum) : List XNum :=
  match l with
  | [] => []
  | [x] => [x]
  | x :: y :: rest => add x y :: treeLevel add rest

/-- R110: a lane value rounded to the operation type, as a number. -/
def roundNum (op : Ty) (rnd : Nat) (sat : Bool) (x : XNum) : XNum := op.num (roundFloat op rnd sat x)

/-- R110: the tree sum of 16 lanes, those beyond the view's length entering as −0. -/
def treeSum (op : Ty) (rnd : Nat) (sat : Bool) (l : List XNum) : Nat :=
  let add (x y : XNum) := roundNum op rnd sat (sumNum rnd [x, y])
  let l16 := l ++ List.replicate (16 - l.length) (.fin true 0 0)
  let r := treeLevel add (treeLevel add (treeLevel add (treeLevel add l16)))
  roundFloat op rnd sat (r.headD .nan)

/-- R110: the chain sums, each partial sum rounded; `acc` is the sum so far. -/
def chainSums (op : Ty) (rnd : Nat) (sat : Bool) (acc : Option XNum) (l : List XNum) : List Nat :=
  match l with
  | [] => []
  | x :: rest =>
    let r := roundFloat op rnd sat (match acc with | none => x | some y => sumNum rnd [y, x])
    r :: chainSums op rnd sat (some (op.num r)) rest

/-- R110: the exact prefix sums of integers, each fitted. -/
def intSums (op : Ty) (sat : Bool) (acc : Int) (l : List Int) : List Nat :=
  match l with
  | [] => []
  | x :: rest => op.fit sat (acc + x) :: intSums op sat (acc + x) rest

/-- R263: the sum of a list of integers. -/
def sumInt (l : List Int) : Int := l.foldl (· + ·) 0

/-- R263: the k-term products of lane i. -/
def dotTerms {α : Type} (k i : Nat) (mul : α → α → α) (a b : List α) : List α :=
  (((a.drop (k * i)).take k).zip ((b.drop (k * i)).take k)).map fun p => mul p.1 p.2

/-- A reduction or dot product: its sources beside a (b and d), the length a and b must have per destination lane (0:
any, `fixed`: exactly the lanes), and its results, one per written lane. -/
structure Reduce where
  dot  : Nat
  all  : Bool
  gi   : (op : Ty) → (sat : Bool) → (n : Nat) → (a b d : List Int) → List Nat
  gf   : (op : Ty) → (rnd : Nat) → (sat : Bool) → (n : Nat) → (a b d : List XNum) → List Nat

/-- Whether b and d are sources too: a dot product. -/
def Reduce.isDot (m : Reduce) : Bool := decide (0 < m.dot)

/-- The operation type of a reduction or dot product (R95). -/
def reduceTy (b a d : BitVec 6) (m : Reduce) (s : State) : Ty :=
  opType (s.view d.toNat) (if m.isDot then [s.view a.toNat, s.view b.toNat] else [s.view a.toNat])

/-- The access that writes its destination. -/
def reduceDst (o : BitVec 2) (a d : BitVec 6) (m : Reduce) (s : State) : Acc :=
  ⟨s.view d.toNat, (moveOffs o a d s).dst, true, if m.isDot || m.all then 0 else 1⟩

/-- Its accesses. -/
def reduceAccs (o : BitVec 2) (b a d : BitVec 6) (m : Reduce) (s : State) : List Acc :=
  [reduceDst o a d m s, moveA o a d s] ++ (if m.isDot then [wholeRd b s, wholeRd d s] else [])

/-- R55, R258: the handles whose type it does not admit. -/
def reduceMism (b a d : BitVec 6) (m : Reduce) (s : State) : List Nat :=
  ((if m.isDot then [s.view d.toNat, s.view a.toNat, s.view b.toNat] else [s.view d.toNat, s.view a.toNat]).filter
    fun v => v.ty == .i4x || v.ty == .e8m0 || v.ty.clash (reduceTy b a d m s)).map View.h

/-- R263: whether a source has not the elements that the destination's lanes need. -/
def Reduce.short (m : Reduce) (op : Ty) (d v : View) : Bool :=
  if m.isDot then v.count op != m.dot * laneCount d op else if m.all then v.count op != laneCount d op else false

/-- R202, R263: its operand traps. -/
def reduceOpnd (o : BitVec 2) (b a d : BitVec 6) (m : Reduce) (s : State) : List (Option Trap) :=
  let dv := s.view d.toNat
  let av := s.view a.toNat
  let bv := s.view b.toNat
  let op := reduceTy b a d m s
  [badOpnd dv.h (decide (2 ≤ dv.shape)), (moveOffs o a d s).bad, badOpnd av.h (decide (2 ≤ av.shape) || m.short op dv av),
    badOpnd bv.h (m.isDot && (decide (2 ≤ bv.shape) || m.short op dv bv))]

/-- Its results, one per written lane. -/
def reduceOuts (o : BitVec 2) (b a d : BitVec 6) (m : Reduce) (s : State) : List Nat :=
  let dv := s.view d.toNat
  let op := reduceTy b a d m s
  let as := (moveA o a d s).elems s op true
  let bs := if m.isDot then (wholeRd b s).elems s op true else []
  let ds := if m.isDot then (wholeRd d s).elems s op true else []
  if op.isFloat then
    m.gf op dv.rnd dv.sat (laneCount dv op) (as.map LVal.num') (bs.map LVal.num') (ds.map LVal.num')
  else m.gi op dv.sat (laneCount dv op) (as.map LVal.int) (bs.map LVal.int) (ds.map LVal.int)

/-- R263: a reduction or dot product. -/
def reduceLanes (o : BitVec 2) (b a d : BitVec 6) (m : Reduce) (s : State) : Verdict :=
  s.gated (reduceAccs o b a d m s) (reduceMism b a d m s) (reduceOpnd o b a d m s) [] fun _ =>
    .done ((reduceDst o a d m s).putLanes s (reduceTy b a d m s).bits (reduceOuts o b a d m s))

/-- R263: `REDADD`. -/
def rdAdd : Reduce :=
  ⟨0, false, fun op sat _ a _ _ => [op.fit sat (sumInt a)], fun op rnd sat _ a _ _ => [treeSum op rnd sat a]⟩

/-- R263, R101: `REDMAX` and `REDMIN`. -/
def rdPick (greater : Bool) : Reduce :=
  ⟨0, false,
    fun op sat _ a _ _ => [op.fit sat (match a with
      | [] => 0 | x :: r => r.foldl (fun y z => if greater then max y z else min y z) x)],
    fun op rnd sat _ a _ _ => [roundFloat op rnd sat (match a with
      | [] => .nan | x :: r => r.foldl (XNum.pick greater) x)]⟩

/-- R263, R110: `SCAN`. -/
def rdScan : Reduce :=
  ⟨0, true, fun op sat _ a _ _ => intSums op sat 0 a, fun op rnd sat _ a _ _ => chainSums op rnd sat none a⟩

/-- R263, R110: `DOT4` and `DOT2`: k products and the addend d, exact and rounded once. -/
def rdDot (k : Nat) : Reduce :=
  ⟨k, true,
    fun op sat n a b d => (List.range n).map fun i => op.fit sat (d.getD i 0 + sumInt (dotTerms k i (· * ·) a b)),
    fun op rnd sat n a b d => (List.range n).map fun i =>
      roundFloat op rnd sat (sumNum rnd (d.getD i .nan :: dotTerms k i XNum.mul a b))⟩

/-- R263: `REDADD`. -/
def execRedadd (o : BitVec 2) (a d : BitVec 6) (s : State) : Out :=
  .next (s.issue (.redadd o a d) (reduceLanes o 0 a d rdAdd))

/-- R263: `REDMAX`. -/
def execRedmax (o : BitVec 2) (a d : BitVec 6) (s : State) : Out :=
  .next (s.issue (.redmax o a d) (reduceLanes o 0 a d (rdPick true)))

/-- R263: `REDMIN`. -/
def execRedmin (o : BitVec 2) (a d : BitVec 6) (s : State) : Out :=
  .next (s.issue (.redmin o a d) (reduceLanes o 0 a d (rdPick false)))

/-- R263: `SCAN`. -/
def execScan (o : BitVec 2) (a d : BitVec 6) (s : State) : Out :=
  .next (s.issue (.scan o a d) (reduceLanes o 0 a d rdScan))

/-- R263: `DOT4`. -/
def execDot4 (o : BitVec 2) (b a d : BitVec 6) (s : State) : Out :=
  .next (s.issue (.dot4 o b a d) (reduceLanes o b a d (rdDot 4)))

/-- R263: `DOT2`. -/
def execDot2 (o : BitVec 2) (b a d : BitVec 6) (s : State) : Out :=
  .next (s.issue (.dot2 o b a d) (reduceLanes o b a d (rdDot 2)))

end Sys2Proof.Machine
end

