-- ==== Sys2Proof/Machine/View.lean ====
section
/-!
DEFINITION. View instructions, ring advances and the repetition buffer (R265 to R274).
-/

namespace Sys2Proof.Machine

/-- An operand trap of a handle, if a test holds. -/
def opTrap (h : Nat) (bad : Bool) : Option Trap := if bad then some { code := 5, handle := h } else none

/-- R265: a nonzero `o` of a view instruction is an operand trap. -/
def oTrap (o : BitVec 2) : Option Trap := if o = 0 then none else some { code := 5 }

/-- R266: a fixed handle is an operand trap of `VIEW`, `VGET` and `VSET`. -/
def fixTrap (v : View) : Option Trap := opTrap v.h v.fixed

/-- R266, R69: whether a mark stands on a byte of a handle's current view. -/
def State.viewPending (s : State) (v : View) : Bool :=
  s.markers.any fun k => (s.slot s.curCore k).pendOn ⟨v.core, v.slot, v.base⟩ v.extent

/-- R54: whether a descriptor names a port. -/
def View.isPort (v : View) : Bool := dF v.d 83 1 == 1

/-- R266: a descriptor written; the handle may no longer be one of a port. -/
def State.putDesc (s : State) (h : Nat) (d : BitVec 128) : State :=
  s.updCur fun x => { x with views := mput x.views h d }

/-- R266: `VIEW`: a descriptor copied with a moved base; `hb` may be `zero`, and an invalid `ha` is copied as it is. DEDUCED: log entries 30, 31. -/
def viewVerdict (o : BitVec 2) (b a d : BitVec 6) (s : State) : Verdict :=
  let dv := s.view d.toNat
  let av := s.view a.toNat
  let bv := s.view b.toNat
  let bq : Acc := ⟨bv, 0, false, 1⟩
  let bOk := bv.h == 54 || (!bv.fixed && bv.shape == 0 && !bv.ring && idxOk bv)
  s.gated [bq] [] [oTrap o, fixTrap dv, fixTrap av, opTrap bv.h (!bOk), opTrap dv.h dv.isPort, opTrap av.h av.isPort] [] fun _ =>
    let nb := (av.base : Int) + (if bv.h = 54 then 0 else bq.int s)
    if nb < 0 ∨ 0x7FFF < nb then .trap { code := 5, handle := bv.h }
    else if s.viewPending dv then .wait .pending [] false
    else .done (s.putDesc dv.h (dSet av.d 0 15 nb.toNat))

/-- R266: `VIEW`. -/
def execView (o : BitVec 2) (b a d : BitVec 6) (s : State) : Out :=
  .next (s.issue (.view o b a d) (viewVerdict o b a d))

/-- R266: a non-ring vector view of exactly 16 bytes. -/
def View.is16 (v : View) : Bool := !v.fixed && !v.ring && v.shape == 1 && v.len * v.ty.bits == 128

/-- R266: `VGET`: the descriptor, with the firing's own pointers for a port. -/
def vgetVerdict (o : BitVec 2) (a d : BitVec 6) (s : State) : Verdict :=
  let dv := s.view d.toNat
  let av := s.view a.toNat
  let dq : Acc := ⟨dv, 0, true, 0⟩
  s.gated [dq] [] [oTrap o, fixTrap dv, fixTrap av, opTrap dv.h (!dv.is16)] [] fun _ => .done (dq.putBytes s (toLe 16 av.d.toNat))

/-- R266: `VGET`. -/
def execVget (o : BitVec 2) (a d : BitVec 6) (s : State) : Out :=
  .next (s.issue (.vget o a d) (vgetVerdict o a d))

/-- R266: `VSET`: a descriptor from 16 bytes, RO fields and `port` kept. -/
def vsetVerdict (o : BitVec 2) (a d : BitVec 6) (s : State) : Verdict :=
  let dv := s.view d.toNat
  let av := s.view a.toNat
  let aq : Acc := ⟨av, 0, false, 0⟩
  s.gated [aq] [] [oTrap o, fixTrap dv, fixTrap av, opTrap av.h (!av.is16), opTrap dv.h dv.isPort] [] fun _ =>
    if s.viewPending dv then .wait .pending [] false
    else .done (s.putDesc dv.h (dWrite dv.d (BitVec.ofNat 128 (leNat (aq.rowBytesOf s 0)))))

/-- R266: `VSET`. -/
def execVset (o : BitVec 2) (a d : BitVec 6) (s : State) : Out :=
  .next (s.issue (.vset o a d) (vsetVerdict o a d))

/-- R267: the fill of a handle; `none` where it has none. -/
def State.fillOf (s : State) (v : View) : Option Nat :=
  match v.h with
  | 48 => if s.cur.hasReq then some (s.cur.reqWords.length - s.cur.reqPos) else none
  | 49 => some (match s.cur.rpl with | [] => 0 | m :: _ => m.words.length - s.cur.rplPos)
  | 50 => some s.cur.outMsg.length
  | 51 => some s.resRows.length
  | 52 => some s.curC.clop.length
  | 53 => some s.curC.kpscl.length
  | _ => if v.ring && !v.fixed then some v.fill else none

/-- R267: `RFIL`: the fill, fitted; it never waits for the ring. DEDUCED: log entry 30. -/
def rfilVerdict (o : BitVec 2) (a d : BitVec 6) (s : State) : Verdict :=
  let dv := s.view d.toNat
  let av := s.view a.toNat
  let dq : Acc := ⟨dv, 0, true, 1⟩
  let inv : Option Verdict :=
    if (⟨av, 0, false, 1⟩ : Acc).invalid s then some (.trap { code := 2, handle := av.h }) else none
  let opnd := [oTrap o, opTrap dv.h (dv.ty.isFloat || dv.ring || decide (2 ≤ dv.shape)), opTrap av.h (s.fillOf av).isNone]
  match s.gate [dq] [] opnd [] with
  | some (.trap t) => if t.code ≤ 2 then .trap t else inv.getD (.trap t)
  | some v => inv.getD v
  | none => inv.getD (.done (dq.putRaw s (dv.ty.fit dv.sat (((s.fillOf av).getD 0 : Nat) : Int))))

/-- R267: `RFIL`. -/
def execRfil (o : BitVec 2) (a d : BitVec 6) (s : State) : Out :=
  .next (s.issue (.rfil o a d) (rfilVerdict o a d))

/-! ## Ring advances (R269) -/

/-- R130, R123: the rows a fixed ring holds: 16 of `mx.res`, 32 of `cl.op`. -/
def fixedSlots (h : Nat) : Option Nat := if h = 51 then some 16 else if h = 52 then some 32 else none

/-- R269: the limits of `ADVR` and `ADVW` on their handle: a ring has `cntm1` + 1 slots, a fixed one the rows it can hold. -/
def advTrap (v : View) (write : Bool) (n : Nat) : Option Trap :=
  if v.fixed then opTrap v.h (write || v.h == 50 || decide (53 ≤ v.h) || (fixedSlots v.h).any (fun c => decide (c < n)))
  else opTrap v.h (!v.ring || decide (v.cnt < n) || (match v.entry with | some (_, out) => out != write | none => false))

/-- R269, R63: an advance of `in.req` or `in.rpl`. -/
def advMsg (v : View) (n left : Nat) (there : Bool) (s : State) : Verdict :=
  if v.h = 48 then (if left < n then .trap { code := 9, handle := 48 } else .done (s.advanceRead v n))
  else if !there || decide (left < n) then .trap { code := 5, handle := 49 }
  else .done (s.advanceRead v n)

/-- R59, R269: `ADVR` and `ADVW`. -/
def advVerdict (n : BitVec 13) (d : BitVec 6) (write : Bool) (s : State) : Verdict :=
  let v := s.view d.toNat
  let k := n.toNat
  let inv : Option Trap :=
    if !v.fixed && !v.valid (s.win v.core v.slot).2 then some { code := 2, handle := v.h } else none
  let notReq := opTrap v.h (v.h == 48 && !s.cur.hasReq)
  match firstTrap [inv, advTrap v write k, notReq] with
  | some t => .trap t
  | none =>
    if v.h = 48 ∨ v.h = 49 then advMsg v k ((s.fillOf v).getD 0) (v.h == 48 || !s.cur.rpl.isEmpty) s
    else
      let have_ := if write then v.cnt - v.fill else (s.fillOf v).getD 0
      if have_ < k then
        (if v.fixed || v.entry.any (fun e => s.otherEnd s.curCore s.curSlot e.1 write) then
          .wait (.ring v.h (k - 1) write) ((⟨v, 0, write, 0⟩ : Acc).waitsOn s) false
         else .trap { code := 6, handle := v.h })
      else if s.cur.holdWaits && v.entry.isSome then .wait .drain [] true
      else if write then .done (s.advance v true k)
      else .done (s.advanceRead v k)

/-- R269: `ADVR`. -/
def execAdvr (n : BitVec 13) (d : BitVec 6) (s : State) : Out :=
  .next (s.issue (.advr n d) (advVerdict n d false))

/-- R269: `ADVW`. -/
def execAdvw (n : BitVec 13) (d : BitVec 6) (s : State) : Out :=
  .next (s.issue (.advw n d) (advVerdict n d true))

/-! ## The repetition buffer (R270 to R274) -/

/-- R271: the instructions a repetition body may hold. -/
def bodyOk (i : Instr) : Bool :=
  match encode i with
  | [] => false
  | h :: rest =>
    let w := h.toNat
    let major := w / 2 % 64
    let minor := (rest.headD 0).toNat / 2 ^ 11
    if w % 2 = 0 then true
    else if major = 0x0D then decide (((rest.headD 0).toNat / 8) < 2)
    else if major = 0x1B then decide (minor < 4)
    else if major = 0x19 then minor == 0
    else decide (1 ≤ major ∧ major ≤ 0x15) || major == 0x1A || major == 0x1C || major == 0x1D || major == 0x1F
      || major == 0x23 || major == 0x3F

/-- R271, R272: what capturing a body finds: its instructions up to the first that cannot be read, whether one of them may not stand in
a body, whether the body passes the end of the code, and where its first reserved encoding stands. -/
structure Capture where
  body : List (Instr × BitVec 24 × Nat)
  bad  : Bool
  past : Bool
  resv : Option Nat
  deriving DecidableEq, Repr

/-- R222: the instructions of the engine profile alone, which are reserved encodings on a core. -/
def engineOnly (i : Instr) : Bool := match encode i with | [] => false | h :: _ => h.toNat / 2 % 64 == 0x22

/-- R271: a body captured from the code: `k` instructions from a halfword. DEDUCED: log entry 46. -/
def State.capture (s : State) (k pc : Nat) : Capture :=
  match k with
  | 0 => ⟨[], false, false, none⟩
  | k + 1 =>
    match s.fetchAt pc with
    | none => if pc < s.codeEnd then ⟨[], false, false, some pc⟩ else ⟨[], false, true, none⟩
    | some (i, n) =>
      let q := (i, BitVec.ofNat 24 pc, n)
      if s.codeEnd < pc + n then ⟨[q], !bodyOk i, true, none⟩
      else
        let r := s.capture k (pc + n)
        ⟨q :: r.body, !bodyOk i || r.bad, r.past, if engineOnly i then some pc else r.resv⟩

/-- R272: whether some staggered field of some pass leaves h0 to h47. -/
def staggerBad (count : Nat) (stag : Int) (body : List (Instr × BitVec 24 × Nat)) : Option Nat :=
  (body.flatMap fun q => handleFields q.1).find? fun h =>
    decide (h < 48) && (decide ((h : Int) + (count - 1 : Nat) * stag < 0) || decide (47 < (h : Int) + (count - 1 : Nat) * stag))

/-- R142: whether the halfwords of a body lie within one block of the signature table (R213, R214). -/
def State.bodyOneBlock (s : State) (start after : Nat) : Bool :=
  match (s.ctx s.cur.ctx).image with
  | none => false
  | some im => im.sigs.any fun e =>
      decide (bits e.toNat 40 24 ≤ start) && decide (after ≤ bits e.toNat 40 24 + bits e.toNat 32 8)

/-- R224: the trap that `REPB` takes for its body: repetition, then scrum block (in a scrum), then code range. -/
def State.bodyTrap (s : State) (count : Nat) (stag : Int) (start after : Nat) (b : Capture) : Option Trap :=
  firstTrap
    [if b.bad then some { code := 0x15 } else none,
      (staggerBad count stag b.body).map fun h => { code := 0x15, handle := h },
      if s.cur.scrum.isSome && !s.bodyOneBlock start after then some { code := 0x2B } else none,
      if b.past then some { code := 0xE } else none]

/-- R272, R209, R142: `REPB`: the body checked and captured; its passes follow, in the block of the body. A reserved encoding in the body
is met first, where it stands. -/
def repbVerdict (stag : BitVec 13) (c n : BitVec 6) (s : State) : Verdict :=
  let start := (s.cur.pc.toNat + 2) % 2 ^ 24
  let b := s.capture (n.toNat + 1) start
  let after := b.body.foldl (fun p q => p + q.2.2) start
  match b.resv, s.bodyTrap (c.toNat + 1) stag.toInt start after b with
  | some a, _ => .stay ((s.updCur fun y => { y with pc := BitVec.ofNat 24 a }).trapCur { code := 8 })
  | none, some t => .trap t
  | none, none =>
    .stay (((s.noteIssue s).count s.curCore 2).updCur fun y =>
      { y.atBlock s start false with
        rep := some ⟨b.body, c.toNat + 1, stag.toInt, 0, 0, true, BitVec.ofNat 24 after, false⟩
        pc := BitVec.ofNat 24 start
        wait := .none
        waitOn := [] })

/-- R272: `REPB`. -/
def execRepb (stag : BitVec 13) (c n : BitVec 6) (s : State) : Out :=
  .next (s.issue (.repb stag c n) (repbVerdict stag c n))

/-- R274: `REPX`: the captured body again; without one a repetition trap. -/
def repxVerdict (s : State) : Verdict :=
  match s.cur.rep with
  | none => .trap { code := 0x15 }
  | some r =>
    .stay (((s.noteIssue s).count s.curCore 2).updCur fun y =>
      { y with rep := some { r with k := 0, j := 0, active := true, after := y.pc + 2, susp := false },
               pc := match r.body with | [] => y.pc | q :: _ => q.2.1, wait := .none, waitOn := [] })

/-- R274: `REPX`. -/
def execRepx (s : State) : Out := .next (s.issue .repx repxVerdict)

end Sys2Proof.Machine
end

