-- ==== Sys2Proof/Machine/Control.lean ====
section
/-!
DEFINITION. Compares, guard operations and select (R236 to R239), branches, calls and loops (R240 to R243), and the
control instructions of major 0x19 (R247 to R253).
-/

namespace Sys2Proof.Machine

/-! ## Guards (R237, R238) -/

/-- R90: a source of a compare as it is captured at issue: its elements, and the marks on their bytes. -/
def Acc.capture (s : State) (q : Acc) (k : Nat) : GSrc :=
  { ty := if q.v.fixed then (if q.v.h = 55 then Ty.n32 else q.v.ty).code else q.v.ty.code,
    vec := q.v.h == 55 || (q.v.shape == 1 && decide (1 < k)),
    raws := if q.v.h = 54 then [0, 0] else (List.range k).map fun i => BitVec.ofNat 64 (q.elem s i),
    place := ⟨q.v.core, q.v.slot, if q.v.fixed then 0 else q.v.start q.o q.out⟩,
    waits := (q.marks s).map fun p => p.2.id }

/-- R279: a compare that reads bytes whose mark only a held effect can clear commits its firing as it issues. DEDUCED: log entry 144. -/
def State.readsHeld (s : State) (accs : List Acc) (f : State → Verdict) : Verdict :=
  if accs.any (fun q => (q.marks s).any fun p => p.1 == s.curSlot && p.2.held) then s.blocking f else f s

/-- R90: the wait of a guard write for the earlier one of its slot. -/
def State.guardBusy (s : State) (g : Nat) : Option Verdict :=
  if (s.cur.guard g).src.isSome then some (.wait .guard [] false) else none

/-- R91: an engine command that carries a guard slot keeps the outcome of the compare it was issued under. -/
def Cmd.fixGuard (c k fid g : Nat) (m : BitVec 16) (q : Cmd) : Cmd :=
  if q.core = c ∧ q.slot = k ∧ q.fid = fid then
    match q.guard with
    | some (g', n) => if g' = g then { q with guard := some (7, !((m != 0) != n)) } else q
    | none => q
  else q

/-- R91: the commands of the executing firing, held, on their way and queued, that carry a guard slot about to be written. -/
def State.fixGuards (s : State) (g : Nat) : State :=
  let x := s.cur
  let fix := Cmd.fixGuard s.curCore s.curSlot x.fid g (x.guard g).m
  let s1 : State :=
    { s.updCur (fun y => { y with cbuf := y.cbuf.map fun e => match e with | .cmd q => .cmd (fix q) | e => e }) with
      net := s.net.map fun p => match p with | .kick q => .kick (fix q) | p => p }
  if isEngine s.curCore then s1
  else s1.updEngine (clusterOf s.curCore) fun en => { en with queue := en.queue.map fix }

/-- R90, R237, R238: a guard slot written. -/
def State.setGuard (s : State) (g : Nat) (c : GCalc) : State :=
  let s1 := s.fixGuards g
  s1.updCur fun x => x.putGuard g c

/-- R237: the elements a compare captures of a source: element 0 (two words of a `b` vector under a 64-bit type), or every
lane. -/
def capLen (v : View) (op : Ty) (lanes : Bool) : Nat :=
  if v.h = 55 then (if lanes then 16 else 1)
  else if lanes ∧ v.shape = 1 then v.len
  else if v.ty = .b ∧ op.bits = 64 ∧ v.shape = 1 then Nat.min 2 v.len
  else 1

/-- R237: `CMP` and `CMPM`. DEDUCED: log entry 43. -/
def cmpVerdict (cond : Nat) (mask : Bool) (o : BitVec 2) (b a : BitVec 6) (g : Nat) (s : State) : Verdict :=
  let av := s.view a.toNat
  let bv := s.view b.toNat
  let offs := offsets o (some av) none
  let op := cmpType av.ty bv.ty
  let aq : Acc := ⟨av, offs.src, false, if mask then 0 else capLen av op false⟩
  let bq : Acc := ⟨bv, 0, false, if mask then 0 else capLen bv op false⟩
  let bad (v : View) : Bool := v.ty == .i4x || v.ty == .e8m0 || v.ty.clash op
  let vecs := [av, bv].filter fun v => v.shape == 1 && v.h != 55
  let lanes := match vecs with
    | v :: _ => v.count op
    | [] => if av.h = 55 ∨ bv.h = 55 then 16 else 1
  let opnd := [offs.bad, opTrap av.h (mask && decide (2 ≤ av.shape)), opTrap bv.h (mask && decide (2 ≤ bv.shape)),
    opTrap bv.h (mask && vecs.any (fun v => v.count op != lanes))]
  match s.gateWith [aq, bq] (([av, bv].filter bad).map View.h) opnd [] (s.guardBusy g) with
  | some v => v
  | none =>
    s.readsHeld [aq, bq] fun t =>
      .done (t.setGuard g (.cmp cond (if mask then lanes else 0) (aq.capture t (capLen av op mask))
        (bq.capture t (capLen bv op mask))))

/-- R237: `CMP`. -/
def execCmp (c : BitVec 3) (o : BitVec 2) (b a d : BitVec 6) (s : State) : Out :=
  .next (s.issueAny (.cmp c o b a d) (cmpVerdict c.toNat false o b a d.toNat))

/-- R237: `CMPM`. -/
def execCmpm (c : BitVec 3) (o : BitVec 2) (b a d : BitVec 6) (s : State) : Out :=
  .next (s.issueAny (.cmpm c o b a d) (cmpVerdict c.toNat true o b a d.toNat))

/-- R238: a guard operation on whole masks. -/
def guardVerdict (d : BitVec 6) (c : GCalc) (s : State) : Verdict :=
  match s.guardBusy d.toNat with
  | some v => v
  | none => .done (s.setGuard d.toNat c)

/-- R238: a guard source: its mask, or the guard it waits for. -/
def State.guardSrc (s : State) (g : BitVec 6) : GMask := GMask.settle s.cur (.idx g.toNat)

/-- R238: `GAND`. -/
def execGand (b a d : BitVec 6) (s : State) : Out :=
  .next (s.issueAny (.gand b a d) (fun t => guardVerdict d (.and (t.guardSrc a) (t.guardSrc b)) t))

/-- R238: `GOR`. -/
def execGor (b a d : BitVec 6) (s : State) : Out :=
  .next (s.issueAny (.gor b a d) (fun t => guardVerdict d (.or (t.guardSrc a) (t.guardSrc b)) t))

/-- R238: `GXOR`. -/
def execGxor (b a d : BitVec 6) (s : State) : Out :=
  .next (s.issueAny (.gxor b a d) (fun t => guardVerdict d (.xor (t.guardSrc a) (t.guardSrc b)) t))

/-- R238: `GNOT`. -/
def execGnot (a d : BitVec 6) (s : State) : Out :=
  .next (s.issueAny (.gnot a d) (fun t => guardVerdict d (.not (t.guardSrc a)) t))

/-- R238: `GMOV`: bits [15:0] of element 0. DEDUCED: log entry 42. -/
def gmovVerdict (o : BitVec 2) (a d : BitVec 6) (s : State) : Verdict :=
  let av := s.view a.toNat
  let offs := offsets o (some av) none
  let aq : Acc := ⟨av, offs.src, false, 1⟩
  let mism := if idxOk av then [] else [av.h]
  match s.gateWith [aq] mism [offs.bad] [] (s.guardBusy d.toNat) with
  | some v => v
  | none => s.readsHeld [aq] fun t => .done (t.setGuard d.toNat (.mov (aq.capture t 1)))

/-- R238: `GMOV`. -/
def execGmov (o : BitVec 2) (a d : BitVec 6) (s : State) : Out :=
  .next (s.issueAny (.gmov o a d) (gmovVerdict o a d))

/-- R79, R90: the tokens an unresolved guard waits for. -/
def GCalc.tokens (s : State) (c : GCalc) : List Obj :=
  let ofSrc (g : GSrc) : List Obj := tokenObjs s <| s.markers.flatMap fun k =>
    ((s.slot s.curCore k).pend.filter fun q => g.waits.contains q.id).map fun q => (k, q)
  match c with
  | .cmp _ _ a b => ofSrc a ++ ofSrc b
  | .mov a => ofSrc a
  | _ => []

/-- R91: the wait for an unresolved guard. -/
def State.guardWait (s : State) (g : BitVec 3) : Verdict :=
  .wait .guard (match (s.cur.guard g.toNat).src with | some c => c.tokens s | none => []) false

/-- R239, R91: `SEL` (one choice) and `SELM` (one per lane). -/
def selVerdict (mask : Bool) (b a d : BitVec 6) (n : Bool) (g : BitVec 3) (s : State) : Verdict :=
  let m := (s.cur.guard g.toNat).m
  let pick (i : Nat) : Bool := if mask then (bits m.toNat i 1 == 1) != n else s.cur.guardOn g n
  arith 0 d.toNat [.hnd a.toNat, .hnd b.toNat] semMov
    { odd := .mov, pick := some pick, hold := if s.cur.guardOpen g then some (s.guardWait g) else none } s

/-- R239: `SEL`. -/
def execSel (b a d : BitVec 6) (n : Bool) (g : BitVec 3) (s : State) : Out :=
  .next (s.issueAny (.sel b a d n g) (selVerdict false b a d n g))

/-- R239: `SELM`. -/
def execSelm (b a d : BitVec 6) (n : Bool) (g : BitVec 3) (s : State) : Out :=
  .next (s.issueAny (.selm b a d n g) (selVerdict true b a d n g))

/-! ## Branches, calls and loops (R240 to R243, R246) -/

/-- R246: the run-ahead entries of a slot after a branch retires. In its likely direction, the generation it opened is that of the slot from
then on; against it, every generation opened beyond it is flushed. DEDUCED: log entry 189. -/
def Slot.branched (x : Slot) (likely : Bool) : Slot :=
  let young (l : List (BitVec 24 × BitVec 3)) (e : RaEntry) : Bool := l.any fun q => q.2 == e.gen
  if likely then
    match x.opened with
    | (p, g) :: rest =>
      if p = x.pc then { x with opened := rest, ra := x.ra.map fun e => if young rest e then e else { e with gen := g } } else x
    | [] => x
  else { x with opened := [], ra := (x.ra.filter fun e => !young x.opened e).map fun e => { e with gen := x.gen } }

/-- R246, R408: a branch retires, in its likely direction or against it. -/
def State.branchDone (s : State) (likely : Bool) : State :=
  (if likely then s else s.count s.curCore 5).updCur (·.branched likely)

/-- R242, R142: a transfer of control to a halfword: it must lie within the code, and in a scrum start a block. -/
def State.transfer (s : State) (target : Int) (kind : Nat) (after : State → State) : Verdict :=
  if s.cur.scrum.isSome && (decide (target < 0) || !s.blockAt s.cur.ctx target.toNat) then .trap { code := 0x2B }
  else if target < 0 ∨ (s.codeEnd : Int) ≤ target then .trap { code := 0xE }
  else .jump ((after s).traceBranch s.curCore s.curSlot target.toNat kind) target.toNat

/-- R240, R241: `sys.lnk` takes the address after the executing instruction. -/
def State.link (s : State) : State := s.updCur fun x => { x with lnk := BitVec.ofNat 32 (x.pc.toNat + 2) }

/-- R240, R244: `BR` and `BRL`; an unguarded branch is followed taken. -/
def brVerdict (f : BitVec 20) (k n : Bool) (g : BitVec 3) (link : Bool) (s : State) : Verdict :=
  let likely := k || (g == 7 && !n)
  if s.cur.guardOpen g then s.guardWait g
  else if s.cur.guardOn g n then
    s.transfer (s.cur.pc.toNat + f.toInt) (if link then 1 else 0) fun t =>
      (if link then t.link else t).branchDone likely
  else .done (s.branchDone (!likely))

/-- R240: `BR`. -/
def execBr (f : BitVec 20) (k n : Bool) (g : BitVec 3) (s : State) : Out :=
  .next (s.issueAny (.br f k n g) (brVerdict f k n g false))

/-- R240: `BRL`. -/
def execBrl (f : BitVec 20) (k n : Bool) (g : BitVec 3) (s : State) : Out :=
  .next (s.issueAny (.brl f k n g) (brVerdict f k n g true))

/-- R241: `JR` and `JRL`: through an integer or `b` view. -/
def jrVerdict (o : BitVec 2) (a : BitVec 6) (link : Bool) (s : State) : Verdict :=
  let av := s.view a.toNat
  let offs := offsets o (some av) none
  let aq : Acc := ⟨av, offs.src, false, 1⟩
  s.gated [aq] (if idxOk av then [] else [av.h]) [offs.bad] [] fun _ => s.transfer (aq.int s) (if link then 4 else 3) fun t => if link then t.link else t

/-- R241: `JR`. -/
def execJr (o : BitVec 2) (a : BitVec 6) (s : State) : Out :=
  .next (s.issueAny (.jr o a) (jrVerdict o a false))

/-- R241: `JRL`. -/
def execJrl (o : BitVec 2) (a : BitVec 6) (s : State) : Out :=
  .next (s.issueAny (.jrl o a) (jrVerdict o a true))

/-- R241: `RET`. -/
def execRet (s : State) : Out :=
  .next (s.issueAny .ret (fun t => t.transfer t.cur.lnk.toNat 5 (fun u => u)))

/-- R243: `LOOP`: d − 1, wrapping; taken while it is not 0. -/
def loopVerdict (i : BitVec 13) (d : BitVec 6) (s : State) : Verdict :=
  let v := s.view d.toNat
  let rq : Acc := ⟨v, 0, false, 1⟩
  let wq : Acc := ⟨v, 0, true, 1⟩
  match s.gate [wq, rq] (if idxOk v then [] else [v.h]) [] [] with
  | some t => t
  | none =>
    let w := v.ty.bits
    let x := (rq.elem s 0 + 2 ^ w - 1) % 2 ^ w
    if x = 0 then .done ((wq.putRaw s x).branchDone false)
    else s.transfer (s.cur.pc.toNat + i.toInt) 2 fun t => (wq.putRaw t x).branchDone true

/-- R243: `LOOP`. -/
def execLoop (i : BitVec 13) (d : BitVec 6) (s : State) : Out :=
  .next (s.issueAny (.loop i d) (loopVerdict i d))

/-! ## No operation (R219, R251) -/

/-- `NOP`: no effect. -/
def execNop (s : State) : Out := .next (s.issueAny .nop (fun t => .done t))

/-- R219: the hint space: as `NOP`. -/
def execNopH (h : BitVec 3) (x : BitVec 20) (s : State) : Out := .next (s.issueAny (.nopH h x) (fun t => .done t))

/-! ## Ending, triggering, halting and yielding (R248 to R251) -/

/-- R15: the marks `END` waits for before the commit: near loads, and tokens that can land without a commit. -/
def Slot.endMarks (x : Slot) : Bool := x.pend.any fun p => !(x.restart && p.held)

/-- R248, steps 5 to 7: the release queue empties and every token lands, then the firing ends; `p` is the state in which `END` issued. -/
def endLast (p s : State) : Verdict :=
  if s.cur.pend.isEmpty && !s.writesOut s.curCore s.curSlot then
    .stay (((s.noteIssue p).count s.curCore 2).finish s.curCore s.curSlot)
  else .stay (s.updCur fun x => { x with ending := true, wait := .drain, waitOn := [] })

/-- R420, R217: the block that an `END` completes waits for its check, once: it has no successor. -/
def Slot.endBlock (x : Slot) : Slot :=
  match x.blk with
  | some b => { x with blk := none, checks := x.checks ++ [⟨b, none, x.bcore, x.here.toNat + 2⟩] }
  | none => x

/-- R248, R420: `END`: the waits, handback, rate check, commit and settlement. The block it completes is checked first, and no firing ends
while a check of it is outstanding. -/
def endVerdict (s : State) : Verdict :=
  let x := s.cur
  if x.ending then endLast s s
  else if x.endMarks then .wait .drain [] false
  else
    match rateTrap x.ports with
    | some t => .trap t
    | none =>
      let t := s.updCur Slot.endBlock
      if t.cur.canCommit then
        endLast s ((if x.scrum.isSome then t.handback s.curCore else t).commit s.curCore s.curSlot)
      else .stay (t.waitCur .drain [] false)

/-- R248: `END`. -/
def execEndFiring (s : State) : Out := .next (s.issue .endFiring endVerdict)

/-- R249: whether a `TRIG` of the firing has an effect. -/
def State.trigOpen (s : State) : Bool :=
  let x := s.cur
  !x.child && !x.trigd && !x.cbuf.contains .trig && (match s.launchOf x.launch with | some l => l.trig | none => false)

/-- R249: `TRIG`: a held release of the launch's trigger; a second one, or one without a trigger object, does nothing. -/
def trigVerdict (s : State) : Verdict :=
  if s.trigOpen then (if s.cur.holdWaits then .wait .drain [] true else .done (s.hold .trig)) else .done s

/-- R249: `TRIG`. -/
def execTrig (s : State) : Out := .next (s.issue .trig trigVerdict)

/-- R250: `HALT`: retires, then halts with cause 0x1; a copy engine's microcode halts with cause 0x9. -/
def haltVerdict (s : State) : Verdict :=
  let s1 := ((s.noteIssue s).count s.curCore 2).retire 2
  .stay (if isEngine s.curCore then s1.haltEngine (s.curCore - 0x4000) else s1.haltSlot s.curCore s.curSlot 1)

/-- R250: `HALT`. -/
def execHalt (s : State) : Out := .next (s.issueAny .halt haltVerdict)

/-- R251: `YLD`: the slot stands last in the round-robin of its level. -/
def yldVerdict (s : State) : Verdict :=
  .done (s.updCore s.curCore fun x => { x with issued := mput x.issued s.cur.pri s.curSlot })

/-- R251: `YLD`. -/
def execYld (s : State) : Out := .next (s.issue .yld yldVerdict)

/-! ## Events (R252, R253) -/

/-- R253, R254: `WFE`: the register sampled and cleared once it is set. -/
def wfeVerdict (s : State) : Verdict :=
  s.blocking fun t => if t.cur.ev then .done (t.updCur (·.sample t.now)) else .wait .event [] false

/-- R253: `WFE`. -/
def execWfe (s : State) : Out := .next (s.issue .wfe wfeVerdict)

/-- R252: the event registers of the context's slots on the cluster, and of its firings saved there. -/
def State.sev (s : State) (c ctx : Nat) : State :=
  (List.range 16).foldl (fun t i => t.signalOn (coreOfMember (clusterOf c) i) fun x => x.bound && x.ctx == ctx) s

/-- R253: `SEV`. -/
def execSev (s : State) : Out := .next (s.issue .sev (fun t => .done (t.sev t.curCore t.cur.ctx)))

/-- R253, R254: `EVCLR`: the register cleared, but for an event that arrives in the same cycle, which sets it after. -/
def execEvclr (s : State) : Out :=
  .next (s.issue .evclr (fun t => .done (t.updCur fun x => { x with ev := x.ev && x.evAt == some t.now })))

/-! ## Fetch realignment (R247) -/

/-- R247: the align set: the firings of the same context and actor entry that run on the cluster. -/
def State.alignSet (s : State) : List (Nat × Nat × Nat) :=
  let me := s.cur
  (List.range 16).flatMap fun i =>
    let m := coreOfMember (clusterOf s.curCore) i
    ((List.range 4).filter fun k =>
      let y := s.slot m k
      y.st == .running && !y.claimed && y.ctx == me.ctx
        && (s.actorOf y).map Actor.entry == (s.actorOf me).map Actor.entry).map fun k => (m, k, (s.slot m k).fid)

/-- R247: whether a member no longer holds an `ALGN` at an address. -/
def State.aligned (s : State) (pc : BitVec 24) (q : Nat × Nat × Nat) : Bool :=
  let y := s.slot q.1 q.2.1
  y.fid != q.2.2 || y.st != .running ||
    (match y.wait with
      | .align _ => y.pc == pc
      | .ring _ _ _ => true
      | .rings _ => true
      | .reply => true
      | .pending => true
      | .guard => true
      | .sent => true
      | .event => true
      | .drain => !y.pend.isEmpty
      | _ => false)

/-- R247: the members that wait at an `ALGN` and whose set has gathered too are let go with it; the executing one stands at its own. -/
def State.letGo (s : State) : State :=
  let mine (pc : BitVec 24) (q : Nat × Nat × Nat) : Bool := q == (s.curCore, s.curSlot, s.cur.fid) && s.cur.pc == pc
  let go (x : Slot) : Slot := match x.wait with
    | .align l => if l.all fun q => q.2.2 == x.fid || mine x.pc q || s.aligned x.pc q then { x with wait := .answer [] } else x
    | _ => x
  (List.range 16).foldl (fun t i =>
    (List.range 4).foldl (fun t k =>
      let m := coreOfMember (clusterOf s.curCore) i
      if (s.slot m k).st = .running then t.updSlot m k go else t) t) s

/-- R247: `ALGN`: it holds until its set has gathered, or its 256 cycles are over. DEDUCED: log entry 96. -/
def algnVerdict (s : State) : Verdict :=
  let x := s.cur
  let others (l : List (Nat × Nat × Nat)) := l.filter fun q => q != (s.curCore, s.curSlot, x.fid)
  if x.scrum.isSome then .done s
  else
    match x.wait with
    | .answer _ => .done s
    | .align l => if (others l).all (s.aligned x.pc) then .done s.letGo else .wait (.align l) [] false
    | _ =>
      let l := s.alignSet
      if (others l).all (s.aligned x.pc) then .done s.letGo else .wait (.align l) [] false

/-- R247: `ALGN`. -/
def execAlgn (s : State) : Out := .next (s.issue .algn algnVerdict)

end Sys2Proof.Machine
end

