-- ==== Sys2Proof/Machine/NearMem.lean ====
section
/-!
DEFINITION. Near memory (R283 to R287), atomics (R288 to R290), guarded execution (R210), watchpoints on core stores
(R411) and the run-ahead unit (R245).
-/

namespace Sys2Proof.Machine

/-! ## Guarded instructions (R91, R210) -/

/-- R91, R210: a guarded store or atomic: it waits for its guard; guarded off it waits for the pending bytes it names and
retires with no other effect. DEDUCED: log entry 52. -/
def State.guarded (s : State) (n : Bool) (g : BitVec 3) (accs : List Acc) (v : State → Verdict) : Verdict :=
  if s.cur.guardOpen g then s.guardWait g
  else if s.cur.guardOn g n then v s
  else match s.pendWait accs with | some w => w | none => .done s

/-! ## Near addresses (R283) -/

/-- R283: the trap of a base handle: an integer-class or `b` scalar. -/
def baseTrap (v : View) : Option Trap := opTrap v.h (!(idxOk v && v.shape == 0))

/-- R283, R65: the near address base + off, or `none` where the near-range trap is taken. -/
def nearForm (base off size : Nat) : Option Nat :=
  let a := base + off
  if 2 ^ 32 ≤ base ∨ 2 ^ 31 ≤ a ∨ numCores ≤ a / 2 ^ 17 ∨ 0x18000 < a % 2 ^ 17 + size then none else some a

/-- R283: the near-range trap of a base operand, once it can be read. -/
def nearTrap (s : State) (aq : Acc) (off size : Nat) : Option Trap :=
  aq.early s (if (nearForm (aq.nat s) off size).isNone then some { code := 0xB, handle := aq.v.h } else none)

/-- The slice that is the executing agent's own; a copy engine has none. -/
def State.ownSlice (s : State) (a : Nat) : Bool := !isEngine s.curCore && a / 2 ^ 17 == s.lcore

/-- R277: an access the firing waits for because its commit would wait (R279, R420). -/
def Slot.jrnWaits (x : Slot) (n : Nat) : Bool := x.restart && decide (512 < x.jrn.length + n) && !x.canCommit

/-! ## Watchpoints (R411) -/

/-- R411: the records of a core's write, written when the instruction retires. -/
def State.watchReports (s : State) (a n : Nat) (hits : List (Nat × Nat)) : State :=
  let x := s.cur
  if bits (s.ctx x.ctx).trace.toNat 28 1 = 0 then s
  else hits.foldl (fun t h =>
    t.trace x.ctx 5 s.curCore s.curSlot x.here.toNat
      (a % 2 ^ 31 + n * 2 ^ 31 + h.1 * 2 ^ 39 + (if h.2 = 1 then 2 ^ 41 else 0))) s

/-- R292, R411: whether a store to the own slice writes no byte, since it meets a live object block. -/
def State.discards (s : State) (a n : Nat) : Bool := s.ownSlice a && s.touchesLive a n

/-- R411: a store or atomic retires; a matching watchpoint of action 1 then halts the firing with cause 0x0. DESIGN CHOICE: log entry 130. -/
def State.storeDone (s : State) (a n : Nat) : Verdict :=
  if isEngine s.curCore then .done s
  else
    let hits := if s.discards a n then [] else s.watchHits s.cur.ctx a n false
    let s1 := s.watchReports a n hits
    if hits.any (fun h => h.2 == 1) then
      .stay ((((s1.noteIssue s).count s.curCore 2).retire 2).haltSlot s.curCore s.curSlot 0)
    else .done s1

/-- R411: `STS` retires: each of its elements is a write that a watchpoint may match; one of action 1 halts the firing. -/
def State.storesDone (s : State) (cells : List Nat) (n : Nat) : Verdict :=
  let hits := cells.map fun a => (a, if s.discards a n then [] else s.watchHits s.cur.ctx a n false)
  let s1 := hits.foldl (fun t p => if p.2.isEmpty then t else t.watchReports p.1 n p.2) s
  if hits.any (fun p => p.2.any fun h => h.2 == 1) then
    .stay ((((s1.noteIssue s).count s.curCore 2).retire 2).haltSlot s.curCore s.curSlot 0)
  else .done s1

/-! ## Loads (R284, R246) -/

/-- R284: the limits of a load's destination; true where it is admitted. -/
def ldOk (v : View) (size : Nat) : Bool :=
  if v.ty = .i4x then false
  else if v.ty = .b then
    (if size = 8 then v.shape == 1 && decide (2 ≤ v.len) else v.shape == 0)
  else v.shape == 0 && v.ty.bits == 8 * size

/-- R284: the bytes of a load written to its destination. -/
def Acc.putLoad (q : Acc) (s : State) (bs : List Byte) : State :=
  if q.v.ty = .b ∧ bs.length < 8 then q.putLanes s 32 [leNat bs] else q.putBytes s bs

/-- The bytes a load gives its destination: `.b` and `.h` zero-extend into a `b` element (R284). -/
def ldLen (v : View) (size : Nat) : Nat := if v.ty = .b ∧ size < 4 then 4 else size

/-- R175: entries that hold a word of n bytes are discarded. -/
def Slot.dropWords (x : Slot) (a n : Nat) : Slot :=
  if x.ra.isEmpty then x
  else { x with ra := x.ra.filter fun e => !decide (e.addr / 4 * 4 < a + n ∧ a < (e.addr + e.size + 3) / 4 * 4) }

/-- R155, R277: whether an atomic of the executing firing on a word of n bytes is held in its commit buffer. -/
def Slot.heldOn (x : Slot) (a n : Nat) : Bool :=
  x.cbuf.any fun e => match e with | .atomic q => decide (a / 4 * 4 < q.addr + (Ty.ofCode q.ty).bits / 8 ∧ q.addr / 4 * 4 < a + n) | _ => false

/-- R166: the target of a near access that the commit buffer holds. -/
def Held.near (e : Held) : Option Nat :=
  match e with
  | .atomic q => some q.addr
  | .ld q => some q.addr
  | .mdrp r => some (nearAddr r.core 0)
  | _ => none

/-- R166, R167: whether the executing firing, still restartable, has passed a fence that an access it holds has not. -/
def Slot.heldFence (x : Slot) : Bool := x.cbuf.any fun e => match e with | .fence _ _ => true | _ => false

/-- R166, R167: whether the executing firing has passed a fence that an older access of it has not. -/
def State.fenceOpen (s : State) : Bool := s.cur.heldFence || s.behindFence s.net.length s.curCore s.curSlot

/-- R166, R167: an access that is performed at once waits for what a fence before it covers; what is held leaves first. DEDUCED: log entry 53. -/
def State.fenceFirst (s : State) : Verdict := if s.cur.heldFence then s.commitFirst else .wait .drain [] false

/-- R284, R155: a load once its address is known: from the run-ahead buffer, the own slice, or by a request. One of a word that a held
atomic of its firing writes, or behind a fence that such an atomic has not passed (R167), is held. DEDUCED: log entry 171. -/
def State.load (s : State) (dq : Acc) (a size : Nat) : Verdict :=
  match (s.acquired s.cur).ra.find? (fun e => e.addr == a && e.size == size) with
  | some e => .done ((dq.putLoad s e.val).count s.curCore 0xB |>.updCur (·.dropWords a size))
  | none =>
    if s.ownSlice a then
      if s.fenceOpen then s.fenceFirst
      else if s.testing a size then .wait .drain [] false
      else if s.poisoned a size then
        .stay (s.consume s.curCore s.curSlot (poisonRec s.cur.ctx s.curCore s.curSlot a 0 0))
      else .done ((dq.putLoad s (s.bytesAt a size)).updCur (·.dropWords a size))
    else if dq.v.h = 54 then .done s
    else if s.cur.pendFull then .wait .pending [] false
    else if s.cur.heldOn a size || s.cur.heldFence then
      if s.cur.holdWaits then .wait .drain [] false
      else
        let r := s.mark dq (ldLen dq.v size) s.cur.restart true false
        .done ((r.2.updCur (·.dropWords a size)).hold (.ld ⟨s.cur.scrum.isSome, a, size, r.1⟩))
    else
      let r := s.mark dq (ldLen dq.v size) false true false
      .done ((r.2.updCur (·.dropWords a size)).push (.nearLd s.curCore s.curSlot s.cur.scrum.isSome a size r.1))

/-- A load whose reply would land in `out.msg` has no bytes to mark (R62). DEDUCED: log entry 51. -/
def msgDest (v : View) : Option Trap := opTrap v.h (v.h == 50)

/-- The same of a load, whose base operand shows whether its reply comes from another slice. -/
def State.msgLoad (s : State) (dv : View) (aq : Acc) (off size : Nat) : Option Trap :=
  if dv.h = 50 then aq.early s (opTrap 50 (match nearForm (aq.nat s) off size with | some n => !s.ownSlice n | none => false)) else none

/-- R284: `LD.x`. -/
def ldVerdict (sz o : BitVec 2) (f a d : BitVec 6) (s : State) : Verdict :=
  let size := 2 ^ sz.toNat
  let av := s.view a.toNat
  let dv := s.view d.toNat
  let offs := offsets o (some av) (some dv)
  let aq : Acc := ⟨av, offs.src, false, 1⟩
  let dq : Acc := ⟨dv, offs.dst, true, if size = 8 ∧ dv.ty = .b then 2 else 1⟩
  s.gated [dq, aq] [] [opTrap dv.h (!ldOk dv size), offs.bad, baseTrap av, s.msgLoad dv aq (f.toNat * size) size]
      [nearTrap s aq (f.toNat * size) size] fun _ =>
    match nearForm (aq.nat s) (f.toNat * size) size with
    | none => .trap { code := 0xB, handle := av.h }
    | some n => s.load dq n size

/-- R284: `LD`. -/
def execLd (sz o : BitVec 2) (f a d : BitVec 6) (s : State) : Out :=
  .next (s.issueAny (.ld sz o f a d) (ldVerdict sz o f a d))

/-! ## Stores (R285) -/

/-- R285: the limits of a store's source; true where it is admitted. -/
def stOk (v : View) (size : Nat) : Bool :=
  decide (v.shape ≤ 1) && v.ty != .i4x &&
    (if v.ty = .b ∧ size = 8 then v.shape == 1 && decide (2 ≤ v.len) else decide (8 * size ≤ v.ty.bits))

/-- The agent and the bytes of a near access on its way. -/
def Pkt.nearSpan (p : Pkt) : Option (Nat × Nat × Nat × Nat) :=
  match p with
  | .nearLd c k _ a n _ => some (c, k, a, n)
  | .nearSt c k _ _ a bs => some (c, k, a, bs.length)
  | .atomic q => some (q.core, q.slot, q.addr, (Ty.ofCode q.ty).bits / 8)
  | _ => none

/-- R146: the scrum, by its owner's core, slot and firing, that an access on its way was issued in. -/
def Pkt.scrumOf (p : Pkt) : Option (Nat × Nat × Nat) :=
  match p with
  | .nearLd c k true _ _ r => some (c, k, r.fid)
  | .nearSt c k fid true _ _ => some (c, k, fid)
  | .atomic q => if q.ord then some (q.core, q.slot, q.ret.fid) else none
  | .mdrp r => if r.ord then some (r.src, r.ret.slot, r.ret.fid) else none
  | _ => none

/-- R146: whether a write of a scrum to its own slice must wait for the older stores and requests of the scrum. -/
def State.scrumWaits (s : State) : Bool :=
  s.cur.scrum.isSome && s.net.any fun p => p.scrumOf == some (s.curCore, s.curSlot, s.cur.fid)

/-- R278, R292: bytes stored to the own slice by the executing firing, their pre-images journalled. -/
def State.storeOwn (s : State) (ws : List (Nat × List Byte)) : State :=
  let s1 := s.journal ((ws.filter fun w => !s.touchesLive w.1 w.2.length).map fun w => ⟨w.1, s.bytesAt w.1 w.2.length⟩)
  ws.foldl (fun t w => t.storeNear s.writerCur w.1 w.2) s1

/-- R285: a store once its address and bytes are known: performed at the own slice, or put in the release queue. -/
def State.store (s : State) (a : Nat) (bs : List Byte) : Verdict :=
  if s.ownSlice a then
    if s.cur.jrnWaits 1 || s.scrumWaits || s.testing a bs.length then .wait .drain [] false
    else (s.storeOwn [(a, bs)]).storeDone a bs.length
  else if 32 ≤ s.storesOut s.curCore s.curSlot then .wait .drain [] false
  else ((s.updCur (·.dropWords a bs.length)).push (.nearSt s.curCore s.curSlot s.cur.fid s.cur.scrum.isSome a bs)).storeDone a bs.length

/-- R285: `ST.x` with its guard on. -/
def stOn (size : Nat) (aq bq : Acc) (f : BitVec 6) (s : State) : Verdict :=
  s.gated [aq, bq] [] [baseTrap aq.v, opTrap bq.v.h (!stOk bq.v size)] [nearTrap s aq (f.toNat * size) size] fun _ =>
    match nearForm (aq.nat s) (f.toNat * size) size with
    | none => .trap { code := 0xB, handle := aq.v.h }
    | some n => s.store n (toLe size (if size = 8 then bq.nat64 s else bq.nat s))

/-- R285: `ST.x`. -/
def stVerdict (sz : BitVec 2) (b a f : BitVec 6) (n : Bool) (g : BitVec 3) (s : State) : Verdict :=
  let size := 2 ^ sz.toNat
  let bv := s.view b.toNat
  let aq : Acc := ⟨s.view a.toNat, 0, false, 1⟩
  let bq : Acc := ⟨bv, 0, false, if size = 8 ∧ bv.ty = .b then 2 else 1⟩
  s.guarded n g [aq, bq] (stOn size aq bq f)

/-- R285: `ST`. -/
def execSt (sz : BitVec 2) (b a f : BitVec 6) (n : Bool) (g : BitVec 3) (s : State) : Out :=
  .next (s.issueAny (.st sz b a f n g) (stVerdict sz b a f n g))

/-! ## Skew windows (R286, R67, R68) -/

/-- R67: the tile bases of the enabled skew windows of a slice. -/
def Core.tiles (x : Core) : List Nat :=
  ((List.range 4).filter fun i => bits (mget x.skew i 0).toNat 31 1 == 1 && decide (bits (mget x.skew i 0).toNat 12 5 < 0x18)).map
    fun i => bits (mget x.skew i 0).toNat 12 5 * 4096

/-- R286, R68: the sixteen byte addresses of an access at slice offset `off` of a tile. -/
def skewCells (core base off : Nat) (col : Bool) : List Nat :=
  let t := off - base
  let i := t / 128
  let j := t / 4 % 32
  (List.range 16).map fun k =>
    let r := if col then (i + k) % 32 else i
    let c := if col then j else (j + k) % 32
    nearAddr core (base + 4 * (32 * r + (r + c) % 32))

/-- R286: the element addresses of `LDS` and `STS`, or the operand trap. -/
def State.skewAt (s : State) (a : Nat) (col : Bool) : Option (List Nat) :=
  let off := a % 2 ^ 17
  match (s.core s.lcore).tiles.find? (fun b => decide (b ≤ off ∧ off < b + 4096)) with
  | some b => if s.ownSlice a ∧ (off - b) % 4 = 0 then some (skewCells s.lcore b off col) else none
  | none => none

/-- R286: the element addresses behind a base operand and an offset: of a base with bits above 31, those behind its low half (R283). -/
def State.skewOf (s : State) (base off : Nat) (col : Bool) : Option (List Nat) := s.skewAt (base % 2 ^ 32 + off) col

/-- R286, R224: the operand trap of a target outside every enabled window, once the base operand can be read: it ranks before the
near-range trap. -/
def skewTrap (s : State) (aq : Acc) (off : Nat) (col : Bool) : Option Trap :=
  aq.early s (opTrap aq.v.h (s.skewOf (aq.nat s) off col).isNone)

/-- R286: a vector view of 16 elements of a 32-bit type. -/
def skewOk (v : View) : Bool := v.shape == 1 && v.len == 16 && v.ty.bits == 32

/-- R286: `LDS`. -/
def ldsVerdict (m : Bool) (o : BitVec 2) (f a d : BitVec 6) (s : State) : Verdict :=
  let av := s.view a.toNat
  let dv := s.view d.toNat
  let offs := offsets o (some av) (some dv)
  let aq : Acc := ⟨av, offs.src, false, 1⟩
  let dq : Acc := ⟨dv, offs.dst, true, 0⟩
  s.gated [dq, aq] [] [opTrap dv.h (!skewOk dv), offs.bad, baseTrap av, skewTrap s aq (f.toNat * 4) m] [nearTrap s aq (f.toNat * 4) 4] fun _ =>
    match s.skewOf (aq.nat s) (f.toNat * 4) m with
    | none => .trap { code := 5, handle := av.h }
    | some cells =>
      if (nearForm (aq.nat s) (f.toNat * 4) 4).isNone then .trap { code := 0xB, handle := av.h }
      else if s.fenceOpen then s.fenceFirst
      else if cells.any (s.testing · 4) then .wait .drain [] false
      else match cells.find? (fun c => s.poisoned c 4) with
      | some c => .stay (s.consume s.curCore s.curSlot (poisonRec s.cur.ctx s.curCore s.curSlot c 0 0))
      | none => .done (dq.putBytes s (cells.flatMap fun c => s.bytesAt c 4))

/-- R286: `LDS`. -/
def execLds (m : Bool) (o : BitVec 2) (f a d : BitVec 6) (s : State) : Out :=
  .next (s.issue (.lds m o f a d) (ldsVerdict m o f a d))

/-- R286: `STS` with its guard on. -/
def stsOn (m : Bool) (aq bq : Acc) (f : BitVec 6) (s : State) : Verdict :=
  s.gated [aq, bq] [] [baseTrap aq.v, opTrap bq.v.h (!skewOk bq.v), skewTrap s aq (f.toNat * 4) m] [nearTrap s aq (f.toNat * 4) 4] fun _ =>
    match s.skewOf (aq.nat s) (f.toNat * 4) m with
    | none => .trap { code := 5, handle := aq.v.h }
    | some cells =>
      if (nearForm (aq.nat s) (f.toNat * 4) 4).isNone then .trap { code := 0xB, handle := aq.v.h }
      else if s.cur.jrnWaits 16 || s.scrumWaits || cells.any (s.testing · 4) then .wait .drain [] false
      else (s.storeOwn (cells.mapIdx fun k c => (c, toLe 4 (bq.elem s k)))).storesDone cells 4

/-- R286: `STS`. -/
def stsVerdict (m : Bool) (b a f : BitVec 6) (n : Bool) (g : BitVec 3) (s : State) : Verdict :=
  let aq : Acc := ⟨s.view a.toNat, 0, false, 1⟩
  let bq : Acc := ⟨s.view b.toNat, 0, false, 0⟩
  s.guarded n g [aq, bq] (stsOn m aq bq f)

/-- R286: `STS`. -/
def execSts (m : Bool) (b a f : BitVec 6) (n : Bool) (g : BitVec 3) (s : State) : Out :=
  .next (s.issue (.sts m b a f n g) (stsVerdict m b a f n g))

/-! ## Fences (R166, R287) -/

/-- R166: whether an older near access whose target a scope covers has not performed. -/
def State.nearOut (s : State) (sc : Nat) : Bool :=
  s.net.any fun p => match p.nearOf s.curCore s.curSlot with | some a => fenceScope s.curCore sc (a / 2 ^ 17) | none => false

/-- R166: whether an engine command of the firing has not landed its token, or a far access of the microcode is open. -/
def State.farOut (s : State) : Bool :=
  if isEngine s.curCore then (s.engine (s.curCore - 0x4000)).outst != 0
  else s.cur.pend.any fun p => p.eng && !p.held

/-- R166: whether the commit buffer holds an access that a fence covers, or, for `.f`, an engine command. -/
def Slot.fenceHolds (x : Slot) (c sc : Nat) : Bool :=
  x.cbuf.any fun e => match e, e.near with
    | .cmd _, _ => sc == 3
    | _, some a => fenceScope c sc (a / 2 ^ 17)
    | _, none => false

/-- R166, R167: a fence passed: run-ahead entries are gone, and what follows keeps behind the accesses that are held. DEDUCED: log entry 53. -/
def Slot.fencePassed (x : Slot) (c sc : Nat) : Slot :=
  let y := x.flushRun
  if x.fenceHolds c sc then
    { y with cbuf := y.cbuf ++ [.fence sc (if sc = 3 then (x.pend.filter fun p => p.eng && p.held).map Pend.id else [])] }
  else y

/-- R166: a fence over a scope. DEDUCED: log entry 53. -/
def fenceVerdict (sc : Nat) (s : State) : Verdict :=
  if s.nearOut sc || (sc == 3 && s.farOut) then .wait .drain [] false else .done (s.updCur (·.fencePassed s.curCore sc))

/-- R287: `FENCE.c`. -/
def execFenceC (s : State) : Out := .next (s.issueAny .fenceC (fenceVerdict 0))

/-- R287: `FENCE.d`. -/
def execFenceD (s : State) : Out := .next (s.issueAny .fenceD (fenceVerdict 1))

/-- R287: `FENCE.p`. -/
def execFenceP (s : State) : Out := .next (s.issueAny .fenceP (fenceVerdict 2))

/-- R287: `FENCE.f`. -/
def execFenceF (s : State) : Out := .next (s.issueAny .fenceF (fenceVerdict 3))

/-! ## Atomics (R288 to R290) -/

/-- R289: the new value of an atomic: operation 0 add, 1 min, 2 max, 3 and, 4 or, 5 xor, 6 swap, 7 cas, 8 inc. -/
def atomNew (op : Nat) (ty : Ty) (old b0 b1 : Nat) : Nat :=
  let w := ty.bits
  let t := if ty = .b then Ty.n32 else ty
  match op with
  | 0 => if t = .f32 then roundFloat .f32 0 false (sumNum 0 [t.num old, t.num b0]) else (old + b0) % 2 ^ w
  | 1 =>
    if t = .f32 then roundFloat .f32 0 false (XNum.pick false (t.num old) (t.num b0))
    else wrap w (min (t.intVal old) (t.intVal b0))
  | 2 =>
    if t = .f32 then roundFloat .f32 0 false (XNum.pick true (t.num old) (t.num b0))
    else wrap w (max (t.intVal old) (t.intVal b0))
  | 3 => old &&& b0
  | 4 => old ||| b0
  | 5 => old ^^^ b0
  | 6 => b0
  | 7 => if old = b0 then b1 else old
  | _ => if b0 ≤ old then 0 else (old + 1) % 2 ^ w

/-- R289: an atomic at its slice: the old value and the state after it, all in one step. -/
def State.atomAt (s : State) (w : Writer) (op : Nat) (ty : Ty) (a b0 b1 : Nat) : Nat × State :=
  let n := ty.bits / 8
  let old := leNat (s.bytesAt a n)
  (old, s.storeNear w a (toLe n (atomNew op ty old b0 b1)))

/-- R288: the types of an atomic. -/
def atomTy (v : View) : Bool := [Ty.i32, .n32, .f32, .b, .i64, .n64].contains v.ty

/-- R288: the limits on the operands of an atomic; true where they hold. DEDUCED: log entry 50. -/
def atomOk (op : Nat) (d b : View) : Bool :=
  atomTy d && atomTy b && d.ty.bits == b.ty.bits && (op != 7 || (b.shape == 1 && b.len == 2))
    && (d.ty != .f32 && b.ty != .f32 || [0, 1, 2, 6, 7].contains op)

/-- R288: a class mix of an atomic's operands. -/
def atomMix (d b : View) : List Nat :=
  if d.ty.clash b.ty then [b.h] else []

/-- R290: an atomic once its address is known: at the own slice at once and journalled, else held or sent. -/
def State.atomic (s : State) (op : Nat) (dq bq : Acc) (a : Nat) : Verdict :=
  let ty := dq.v.ty
  let n := ty.bits / 8
  let b0 := bq.elem s 0
  let b1 := if op = 7 then bq.elem s 1 else 0
  if s.ownSlice a then
    if s.fenceOpen then s.fenceFirst
    else if s.cur.jrnWaits 1 || s.scrumWaits || s.testing a n then .wait .drain [] false
    else if s.poisoned a n then
      .stay (s.consume s.curCore s.curSlot (poisonRec s.cur.ctx s.curCore s.curSlot a 0 0))
    else
      let s1 := if s.touchesLive a n then s else s.journal [⟨a, s.bytesAt a n⟩]
      let r := s1.atomAt s.writerCur op ty a b0 b1
      (dq.putRaw r.2 r.1).storeDone a n
  else if s.cur.holdWaits then .wait .drain [] false
  else if dq.v.h = 54 then
    let r : Ret := ⟨s.curCore, s.curSlot, s.cur.fid, 0, ⟨s.curCore, s.curSlot, 0⟩, 0⟩
    ((s.updCur (·.dropWords a n)).hold (.atomic ⟨s.curCore, s.curSlot, op, a, ty.code, BitVec.ofNat 64 b0, BitVec.ofNat 64 b1, r, s.cur.scrum.isSome⟩)).storeDone a n
  else if s.cur.pendFull then .wait .pending [] false
  else
    let m := s.mark dq n s.cur.restart true false
    ((m.2.updCur (·.dropWords a n)).hold (.atomic ⟨s.curCore, s.curSlot, op, a, ty.code, BitVec.ofNat 64 b0, BitVec.ofNat 64 b1, m.1, s.cur.scrum.isSome⟩)).storeDone a n

/-- R288 to R290: an atomic with its guard on. DEDUCED: log entry 49. -/
def atomOn (op : Nat) (dq aq bq : Acc) (s : State) : Verdict :=
  s.gated [dq, aq, bq] (atomMix dq.v bq.v)
      [baseTrap aq.v, opTrap dq.v.h (!atomOk op dq.v bq.v), msgDest dq.v,
        aq.early s (opTrap aq.v.h (aq.nat s % (dq.v.ty.bits / 8) != 0))] [nearTrap s aq 0 (dq.v.ty.bits / 8)] fun _ =>
    if aq.nat s % (dq.v.ty.bits / 8) ≠ 0 then .trap { code := 5, handle := aq.v.h }
    else
      match nearForm (aq.nat s) 0 (dq.v.ty.bits / 8) with
      | none => .trap { code := 0xB, handle := aq.v.h }
      | some a => s.atomic op dq bq a

/-- R288, R210: an atomic under its guard. -/
def atomVerdict (op : Nat) (b a d : BitVec 6) (n : Bool) (g : BitVec 3) (s : State) : Verdict :=
  let bv := s.view b.toNat
  let dq : Acc := ⟨s.view d.toNat, 0, true, 1⟩
  let aq : Acc := ⟨s.view a.toNat, 0, false, 1⟩
  let bq : Acc := ⟨bv, 0, false, if op = 7 ∧ bv.shape = 1 then 2 else 1⟩
  s.guarded n g [dq, aq, bq] (atomOn op dq aq bq)

/-- R289: `AADD`. -/
def execAadd (b a d : BitVec 6) (n : Bool) (g : BitVec 3) (s : State) : Out :=
  .next (s.issueAny (.aadd b a d n g) (atomVerdict 0 b a d n g))

/-- R289: `AMIN`. -/
def execAmin (b a d : BitVec 6) (n : Bool) (g : BitVec 3) (s : State) : Out :=
  .next (s.issueAny (.amin b a d n g) (atomVerdict 1 b a d n g))

/-- R289: `AMAX`. -/
def execAmax (b a d : BitVec 6) (n : Bool) (g : BitVec 3) (s : State) : Out :=
  .next (s.issueAny (.amax b a d n g) (atomVerdict 2 b a d n g))

/-- R289: `AAND`. -/
def execAand (b a d : BitVec 6) (n : Bool) (g : BitVec 3) (s : State) : Out :=
  .next (s.issueAny (.aand b a d n g) (atomVerdict 3 b a d n g))

/-- R289: `AOR`. -/
def execAor (b a d : BitVec 6) (n : Bool) (g : BitVec 3) (s : State) : Out :=
  .next (s.issueAny (.aor b a d n g) (atomVerdict 4 b a d n g))

/-- R289: `AXOR`. -/
def execAxor (b a d : BitVec 6) (n : Bool) (g : BitVec 3) (s : State) : Out :=
  .next (s.issueAny (.axor b a d n g) (atomVerdict 5 b a d n g))

/-- R289: `ASWP`. -/
def execAswp (b a d : BitVec 6) (n : Bool) (g : BitVec 3) (s : State) : Out :=
  .next (s.issueAny (.aswp b a d n g) (atomVerdict 6 b a d n g))

/-- R289: `ACAS`. -/
def execAcas (b a d : BitVec 6) (n : Bool) (g : BitVec 3) (s : State) : Out :=
  .next (s.issueAny (.acas b a d n g) (atomVerdict 7 b a d n g))

/-- R289: `AINC`. -/
def execAinc (b a d : BitVec 6) (n : Bool) (g : BitVec 3) (s : State) : Out :=
  .next (s.issueAny (.ainc b a d n g) (atomVerdict 8 b a d n g))

/-! ## The run-ahead unit (R245) -/

/-- R155, R156: whether an older access of the executing slot to a word of n bytes is on its way, or held. -/
def State.wordOut (s : State) (a n : Nat) : Bool :=
  let meets (b m : Nat) : Bool := decide (a / 4 * 4 < b + m ∧ b / 4 * 4 < a + n)
  (s.net.any fun p => match p with
    | .nearLd c k _ b m _ => c == s.curCore && k == s.curSlot && meets b m
    | .nearSt c k _ _ b bs => c == s.curCore && k == s.curSlot && meets b bs.length
    | .atomic q => q.core == s.curCore && q.slot == s.curSlot && meets q.addr ((Ty.ofCode q.ty).bits / 8)
    | _ => false)
  || s.cur.heldOn a n

/-- R245: the entries all slots of a core hold. -/
def Core.raHeld (x : Core) : Nat := (x.slots.map fun p => p.2.ra.length).sum

/-- R245: the entry of a load on the path, when its base is not pending and its address is valid. -/
def State.raLoad (s : State) (sz o : BitVec 2) (f a : BitVec 6) (gen : BitVec 3) : Option RaEntry :=
  let size := 2 ^ sz.toNat
  let av := s.view a.toNat
  let aq : Acc := ⟨av, (offsets o (some av) none).src, false, 1⟩
  if (baseTrap av).isSome || !(aq.marks s).isEmpty || (s.viewTraps [aq] [] []).isSome || !aq.ringOk s then none
  else
    match nearForm (aq.nat s) (f.toNat * size) size with
    | none => none
    | some n =>
      if (s.core (n / 2 ^ 17)).fenced || s.testing n size || s.poisoned n size || s.wordOut n size || s.cur.ra.any (fun e => e.addr == n && e.size == size)
          || decide (32 ≤ s.curC.raHeld) then none
      else some ⟨gen, n, size, s.bytesAt n size⟩

/-- R245: whether the scan stops at an instruction. -/
def raStops (i : Instr) : Bool :=
  match i with
  | .endFiring | .jr _ _ | .jrl _ _ | .ret | .halt | .wfe | .cmps _ | .acq _ _ | .trya _ _ _ | .bar _ _ | .barw _ _
  | .semw _ _ _ | .idle | .fenceC | .fenceD | .fenceP | .fenceF => true
  | _ => false

/-- R245, R170: whether an instruction names bytes of a token that has landed and was not read, or will land: its first read is an
acquire (R161). -/
def State.readsToken (s : State) (i : Instr) : Bool :=
  let ts := s.cur.acqs.map (fun p => (p.1, p.2)) ++ (s.cur.pend.filter (·.eng)).map fun p => (p.place, p.len)
  ts.any (s.namesToken i)

/-- R245: a branch opens a generation; an eighth live one stops the scan. DEDUCED: log entry 190. -/
def State.openGen (s : State) (pc next : Nat) : Option (State × Nat × BitVec 3 × List (BitVec 24 × BitVec 3)) :=
  if 7 ≤ s.cur.opened.length then none
  else
    let q := s.cur.gen + 1
    some (s.updCur fun x => { x with gen := q, opened := x.opened ++ [(BitVec.ofNat 24 pc, q)] }, next, q, [])

/-- R245: before a generation opened in front of younger ones the younger ones are given up, with their entries. -/
def State.reopen (s : State) (young : List (BitVec 24 × BitVec 3)) : State :=
  s.updCur fun x =>
    let kept := x.opened.take (x.opened.length - young.length)
    { x with opened := kept
             gen := match kept.getLast?, x.opened with | some q, _ => q.2 | none, q :: _ => q.2 - 1 | none, [] => x.gen
             ra := x.ra.filter fun e => !(young.any fun q => q.2 == e.gen) }

/-- R245: a branch on the path: the next halfword, and the generation it opens if its guard is not resolved. `open_` are the
generations already opened and not yet passed. -/
def State.raBranch (s : State) (pc : Nat) (f : BitVec 20) (k n : Bool) (g : BitVec 3) (gen : BitVec 3)
    (open_ : List (BitVec 24 × BitVec 3)) : Option (State × Nat × BitVec 3 × List (BitVec 24 × BitVec 3)) :=
  let likely := k || (g == 7 && !n)
  let next := if likely then (pc + f.toInt).toNat else pc + 2
  match open_ with
  | (p, q) :: rest =>
    if p.toNat = pc then some (s, next, q, rest)
    else if s.cur.guardOpen g then (s.reopen open_).openGen pc next
    else some (s, next, gen, open_)
  | [] => if s.cur.guardOpen g then s.openGen pc next else some (s, next, gen, [])

/-- R245: the scan of a path of at most k instructions. -/
def State.raScan (s : State) (k pc : Nat) (gen : BitVec 3) (open_ : List (BitVec 24 × BitVec 3)) : State :=
  match k with
  | 0 => s
  | k + 1 =>
    match s.fetchAt pc with
    | none => s
    | some (i, n) =>
      if raStops i || s.readsToken i then s
      else
        match i with
        | .ld sz o f a _ =>
          let s1 := match s.raLoad sz o f a gen with
            | some e => s.updCur fun x => { x with ra := x.ra ++ [e] }
            | none => s
          s1.raScan k (pc + n) gen open_
        | .br f l m g =>
          match s.raBranch pc f l m g gen open_ with
          | none => s
          | some (s1, p, q, r) => s1.raScan k p q r
        | .brl f l m g =>
          match s.raBranch pc f l m g gen open_ with
          | none => s
          | some (s1, p, q, r) => s1.raScan k p q r
        | .loop im _ => s.raScan k (pc + im.toInt).toNat gen open_
        | _ => s.raScan k (pc + n) gen open_

/-- R245: the run-ahead unit reads ahead of a running slot outside a scrum. DEDUCED: log entry 56. -/
def State.runAhead (s : State) (c k : Nat) : State :=
  let x := s.slot c k
  let t := { s with curCore := c, curSlot := k }
  if x.runs && x.scrum.isNone && !isEngine c && !(x.rep.any fun r => r.active) && !t.fenceOpen then
    { t.raScan 64 x.pc.toNat (if x.opened.isEmpty then x.gen else (x.opened.headD (0, 0)).2 - 1) x.opened with
      curCore := s.curCore, curSlot := s.curSlot }
  else s

end Sys2Proof.Machine
end

