-- ==== Sys2Proof/Machine/Sync.lean ====
section
/-!
DEFINITION. Synchronisation objects (R159 to R161, R291 to R296): their references and home blocks, the operations at
their home, and the instructions of major 0x20.
-/

namespace Sys2Proof.Machine

/-! ## References and home blocks (R291, R292) -/

/-- R291: a view that can hold an object reference: an `n64` scalar or a `b` vector of 2 elements. -/
def refOk (v : View) : Bool := (v.shape == 0 && v.ty == .n64) || (v.shape == 1 && v.ty == .b && v.len == 2)

/-- An `n32` scalar. -/
def View.isN32 (v : View) : Bool := v.shape == 0 && v.ty == .n32

/-- A `b` vector of n elements. -/
def View.isB (v : View) (n : Nat) : Bool := v.shape == 1 && v.ty == .b && v.len == n

/-- R291: the `peer` bit of a reference. -/
def refPeer (r : Nat) : Bool := bits r 36 1 == 1

/-- R291: the `home` field of a reference. -/
def refHome (r : Nat) : Nat := bits r 0 31

/-- R291: the trap of a reference's bits. -/
def refTrap (h r : Nat) : Option Trap :=
  if bits r 37 27 ≠ 0 ∨ (refPeer r = false ∧ bits r 31 5 ≠ 0) ∨ r % 64 ≠ 0 then some { code := 5, handle := h }
  else if numCores ≤ refHome r / 2 ^ 17 ∨ 0x18000 ≤ refHome r % 2 ^ 17 then some { code := 0xB, handle := h }
  else none

/-- R292: the kind of a block: 1 region lock, 2 barrier, 3 semaphore; 0 where bits [31:2] are not 0. -/
def State.objKind (s : State) (h : Nat) : Nat := let v := leNat (s.bytesAt h 4); if v < 4 then v else 0

/-- R292: a block's `parm`. -/
def State.objParm (s : State) (h : Nat) : Nat := leNat (s.bytesAt (h + 4) 4)

/-- R292: whether a block's kind and parm are valid. -/
def State.objValid (s : State) (h : Nat) : Bool :=
  match s.objKind h with
  | 1 => s.objParm h == 0
  | 2 => decide (1 ≤ s.objParm h ∧ s.objParm h ≤ 2 ^ 24)
  | 3 => decide (s.objParm h < 2 ^ 31)
  | _ => false

/-- R292, R294: the kind an operation needs; OBJQ takes any. -/
def ObjOp.kind (o : ObjOp) : Nat :=
  match o with
  | .acq => 1 | .rel => 1 | .trya => 1
  | .bara => 2 | .barw => 2 | .bar => 2
  | .semp => 3 | .semw => 3
  | .objq => 0

/-- R292: whether an operation suits a block. -/
def State.objSuits (s : State) (h : Nat) (o : ObjOp) : Bool :=
  s.objValid h && (o.kind == 0 || s.objKind h == o.kind)

/-- R292: the count, phase and holder words of a live block. -/
def State.objCnt (s : State) (h : Nat) : Nat := leNat (s.bytesAt (h + 8) 4)
/-- R292: the phase of a live barrier. -/
def State.objPhase (s : State) (h : Nat) : Nat := leNat (s.bytesAt (h + 12) 2)
/-- R292: the holder word of a live lock. -/
def State.objHold (s : State) (h : Nat) : Nat := leNat (s.bytesAt (h + 16) 4)
/-- R292: the holder word of a free lock. -/
def holdFree : Nat := 0x00003FFF
/-- R292: the holder word of the firing behind an operation. -/
def State.holdWord (s : State) (o : ObjReq) : Nat :=
  let dev := match o.peer with | some p => p.sdev | none => s.pos.toNat
  2 ^ 31 + o.ctx * 2 ^ 21 + dev * 2 ^ 16 + o.slot * 2 ^ 14 + o.core

/-- R292: count, phase and holder of a block written. -/
def State.setObj (s : State) (h cnt phase hold : Nat) : State :=
  ((s.setBytes (h + 8) (toLe 4 cnt ++ toLe 2 phase)).setBytes (h + 16) (toLe 4 hold)).flushRa (h + 8) 12

/-- R292, R175: the holder word of a lock written. -/
def State.setHold (s : State) (h hold : Nat) : State := (s.setBytes (h + 16) (toLe 4 hold)).flushRa (h + 16) 4

/-- R292, R78: the withhold count and the reported identifier as a live block shows them. -/
def State.syncHome (s : State) (h : Nat) : State :=
  if s.liveBlock h then
    let n := (s.marks.filter fun m => m.obj == Obj.home h).length
    ((s.setBytes (h + 14) (toLe 2 (s.reported (.home h)).toNat)).setBytes (h + 20) (toLe 2 (min n 0xFFFF))).flushRa (h + 14) 8
  else s

/-- R292: a block's first operation makes it live: bytes 8 to 63 take their initial state. -/
def State.makeLive (s : State) (h : Nat) : State :=
  if s.liveBlock h then s
  else
    let cnt := if s.objKind h = 3 then s.objParm h else 0
    ({ (s.setBytes (h + 8) (toLe 8 cnt ++ toLe 48 holdFree)).flushRa (h + 8) 56 with homes := mput s.homes h [] }).syncHome h

/-! ## Answers over the fabric (R382, R297) -/

/-- R382: a fabric header. -/
def fabHdr (op vc sdev ddev ctx tag gen seq nfl psn size addr : Nat) : BitVec 128 :=
  BitVec.ofNat 128 (op * 2 ^ 124 + vc * 2 ^ 122 + sdev * 2 ^ 117 + ddev * 2 ^ 112 + ctx * 2 ^ 104 + tag * 2 ^ 94
    + gen % 16 * 2 ^ 90 + seq % 256 * 2 ^ 82 + nfl * 2 ^ 78 + psn * 2 ^ 61 + size * 2 ^ 57 + addr % 2 ^ 57)

/-- R382: the flits after the first of a payload. -/
def fabFlits (n : Nat) : Nat := (n - 48 + 63) / 64

/-- R391: a peer-table entry. -/
def State.peerEntry (s : State) (ctx peer : Nat) : Nat := (mget (s.ctx ctx).peers peer 0).toNat

/-- R389: the classes a plane's link to a peer carries: 3 all, 2 without REQ1, 1 replies alone, 0 none. -/
def State.linkKept (s : State) (p peer : Nat) : Nat := mget (mget s.fab.planes p Plane.reset).kept peer 3

/-- R393, R385: whether a plane carries replies to a peer: its link is in the set, and `out` does not take it out of every set. -/
def State.replyPlane (s : State) (peer p : Nat) : Bool :=
  s.linkKept p peer != 0 && bits (mget s.fab.planes p Plane.reset).ctl.toNat 31 1 == 0

/-- R383, R386: a reply to a peer, on the first plane that reaches it. -/
def State.fabReply (s : State) (op ctx peer tag gen psn size : Nat) (body : List Byte) : State :=
  match (List.range 96).find? (s.replyPlane peer) with
  | none => s
  | some p =>
    let h := fabHdr op 2 s.pos.toNat peer (bits (s.peerEntry ctx peer) 0 8) tag gen 0 (fabFlits body.length) psn size 0
    { s with fabOut := s.fabOut ++ [(p, h, body)] }

/-- R174: the answer of an operation: a far release that lost a plane answers 0x40 for 0. -/
def lostCode (lost : Bool) (code : Nat) : Nat := if lost = true ∧ code = 0 then 0x40 else code

/-- R297: the answer to an operation of a peer: a fault code, or 0 and its values. -/
def State.peerAnswer (s : State) (o : ObjReq) (p : PeerRet) (code : Nat) (vals : List W32) : State :=
  s.fabReply 8 o.ctx p.sdev p.tag p.gen 0 0 (toLe 4 (lostCode p.lost code) ++ vals.flatMap fun v => toLe 4 v.toNat)

/-! ## Operations at the home (R294) -/

/-- The answer to a waiting firing. -/
def State.answer (s : State) (o : ObjReq) (vals : List W32) : State :=
  match o.peer with
  | some p => s.peerAnswer o p 0 vals
  | none => s.updFiring o.core o.slot o.fid fun x => if x.wait = .sent then { x with wait := .answer vals } else x

/-- An operation that ends its firing's wait in a trap. -/
def State.answerTrap (s : State) (o : ObjReq) (code : Nat) : State :=
  match o.peer with
  | some p => s.peerAnswer o p code []
  | none => s.updFiring o.core o.slot o.fid fun x => if x.wait = .sent then { x with wait := .trap code } else x

/-- R297: an operation that does not wait has been applied: a peer is told. -/
def State.applied (s : State) (o : ObjReq) (vals : List W32) : State := if o.peer.isSome then s.answer o vals else s

/-- R294, R297, R371: the fault message of an operation, which names its issuing core and slot; a peer reports for its own. -/
def State.reportObj (s : State) (o : ObjReq) (code : Nat) : State :=
  match o.peer with
  | some p => s.peerAnswer o p code []
  | none => s.faultMsg ⟨o.ctx, o.core, o.slot, false⟩ code 0

/-- R294: an operation joins those that wait at a home, in object order; its firing halts at once on a withheld object
(R79). -/
def State.queueAt (s : State) (h : Nat) (o : ObjReq) : State :=
  let s1 := { s with homes := mput s.homes h (mget s.homes h [] ++ [o]) }
  if o.peer.isNone ∧ (s1.slot o.core o.slot).fid = o.fid ∧ (s1.slot o.core o.slot).st = .running then s1.consumerHalt o.core o.slot else s1

/-- R294: a lock granted; the firing holds it, and its run-ahead entries are discarded. -/
def Slot.hasLock (key : Nat) (x : Slot) : Slot := { x with locks := key :: x.locks, ra := [], opened := [] }

/-- R294, R79: a firing becomes the holder of a lock; one that stands halted withholds it from then on. -/
def State.lockGiven (s : State) (key : Nat) (o : ObjReq) : State :=
  let x := s.firing o.core o.slot o.fid
  let t := s.updFiring o.core o.slot o.fid (·.hasLock key)
  if x.st = .halted then t.push (.notice x.hid x.ctx o.core (.home key)) else t

/-- R294: a lock granted. -/
def State.grant (s : State) (h : Nat) (o : ObjReq) : State :=
  let s1 := s.setHold h (s.holdWord o)
  (if o.peer.isNone then s1.lockGiven h o else s1).answer o [0]

/-- R294: the first waiting `ACQ` granted once the lock is free. -/
def State.serveLock (s : State) (h : Nat) : State :=
  match (mget s.homes h []).find? (fun o => o.op == .acq) with
  | none => s
  | some o => ({ s with homes := mput s.homes h ((mget s.homes h []).erase o) }).grant h o

/-- R294: `BARA` and `BAR` record the phase in which their firing arrived. -/
def State.notePhase (s : State) (h : Nat) (o : ObjReq) : State :=
  if o.peer.isNone then s.updFiring o.core o.slot o.fid fun x => { x with phases := mput x.phases h (s.objPhase h) } else s

/-- R294: a barrier arrival; the one that completes the phase answers every wait of an earlier phase. -/
def State.arriveBar (s : State) (h : Nat) : State :=
  let p := s.objPhase h
  if s.objCnt h + 1 = s.objParm h then
    let p' := (p + 1) % 2 ^ 16
    let s2 := s.setObj h 0 p' holdFree
    let ws := mget s2.homes h []
    let done := ws.filter fun w => w.op == .barw && w.arg != p'
    done.foldl (fun t w => t.answer w [BitVec.ofNat 32 w.arg])
      { s2 with homes := mput s2.homes h (ws.filter fun w => !(w.op == .barw && w.arg != p')) }
  else s.setObj h (s.objCnt h + 1) p holdFree

/-- R294: a wait for the end of phase p. -/
def State.waitPhase (s : State) (h : Nat) (o : ObjReq) (p : Nat) : State :=
  if s.objPhase h = p then s.queueAt h { o with op := .barw, arg := p } else s.answer o [BitVec.ofNat 32 p]

/-- R294: a barrier wait: on the phase of the firing's own arrival, else the one on arrival. A peer's operation carries
the phase its firing recorded. -/
def State.waitBar (s : State) (h : Nat) (o : ObjReq) : State :=
  let p := match o.peer with
    | some _ => if o.arg < 2 ^ 16 then o.arg else s.objPhase h
    | none => (mfind (s.firing o.core o.slot o.fid).phases h).getD (s.objPhase h)
  s.waitPhase h o p

/-- R294: the waiting `SEMW` of a list served in object order: what is left of them, and of the count. -/
def serveSem (ws : List ObjReq) (cnt : Nat) : List ObjReq × List ObjReq × Nat :=
  match ws with
  | [] => ([], [], cnt)
  | w :: rest =>
    if w.op = .semw ∧ w.arg ≤ cnt then
      let r := serveSem rest (cnt - w.arg)
      (w :: r.1, r.2.1, r.2.2)
    else
      let r := serveSem rest cnt
      (r.1, w :: r.2.1, r.2.2)

/-- R294: a post: a count above 2^31 − 1 is clamped and reported; the waiters it covers are served in order. -/
def State.postSem (s : State) (h : Nat) (o : ObjReq) : State :=
  let sum := s.objCnt h + o.arg
  let s1 := if 2 ^ 31 ≤ sum then s.reportObj o 0x3E else s.applied o []
  let r := serveSem (mget s1.homes h []) (min sum (2 ^ 31 - 1))
  r.1.foldl (fun t w => t.answer w []) { s1.setObj h r.2.2 0 holdFree with homes := mput s1.homes h r.2.1 }

/-- R294: the four words of `OBJQ`. -/
def State.queryObj (s : State) (h : Nat) : List W32 :=
  let k := s.objKind h
  [BitVec.ofNat 32 (k + (if s.withheld (.home h) then 2 ^ 31 else 0)),
   BitVec.ofNat 32 (if k = 1 then s.objHold h else s.objCnt h),
   BitVec.ofNat 32 (s.objPhase h), BitVec.ofNat 32 (s.reported (.home h)).toNat]

/-- R77, R343, R434: a barrier at which a firing arrives is withheld by the firings of its group that halted before they came; their halts
are known from then on. DEDUCED: log entry 60. -/
def State.lateNotices (s : State) (h : Nat) (o : ObjReq) : State :=
  let me := (o.core, o.slot, s.firing o.core o.slot o.fid)
  let late := s.firings.filter fun p => p.2.2.st == .halted && s.sameGroup h me p.2.2 && !s.hasArrived p.1 p.2.1 p.2.2 h
  let new := (late.map fun p => Mark.mk p.2.2.hid p.2.2.ctx (.home h)).filter fun m => !s.marks.contains m
  if new.isEmpty || o.peer.isSome then s else ({ s with marks := s.marks ++ new }).syncHome h

/-- R294: an operation applied at its home on this device, where it stands next in object order. One that no longer suits
the block (R292) has no effect: a waiting firing takes the object-kind trap, a release is reported. DEDUCED: log entry 58. -/
def State.applyObj (s : State) (o : ObjReq) : State :=
  let h := refHome o.ref.toNat
  if !s.objSuits h o.op then
    match o.op with
    | .rel | .bara | .semp => s.reportObj o 0x35
    | _ => s.answerTrap o 0x35
  else
    let s1 := s.makeLive h
    match o.op with
    | .acq => if s1.objHold h = holdFree then s1.grant h o else s1.queueAt h o
    | .trya =>
      -- the test ends its cycle: a notice of that cycle came before it (R326)
      if s1.objHold h = holdFree then (s1.grant h o).tick 1
      else (s1.answer o [if s1.withheld (.home h) then 2 else 1]).tick 1
    | .rel =>
      (if s1.objHold h = s1.holdWord o then (s1.setHold h holdFree).serveLock h else s1).applied o []
    | .bara => (((s1.lateNotices h o).notePhase h o).arriveBar h).applied o [BitVec.ofNat 32 (s1.objPhase h)]
    | .barw => (s1.lateNotices h o).waitBar h o
    | .bar => (((s1.lateNotices h o).notePhase h o).arriveBar h).waitPhase h o (s1.objPhase h)
    | .semp => s1.postSem h o
    | .semw =>
      if o.arg ≤ s1.objCnt h then (s1.setObj h (s1.objCnt h - o.arg) 0 holdFree).answer o [] else s1.queueAt h o
    | .objq => s1.answer o (s1.queryObj h)

/-! ## The instructions (R293) -/

/-- R295, R81: the executing firing sends an operation and waits for its answer, under its time-out where one counts: it stands still while
the object is withheld. -/
def State.sendObj (s : State) (op : ObjOp) (ref arg : Nat) (on : List Obj) (timed : Bool) : Verdict :=
  let x := s.cur
  let s1 := s.push (.obj ⟨op, BitVec.ofNat 64 ref, arg, x.ctx, s.curCore, s.curSlot, x.fid, none⟩)
  let left := if timed && x.wto != 0 then some x.wto else none
  let frozen := on.any s.withheld
  .stay ((s1.updCur fun y =>
    { y with waitExp := if frozen then none else left.map (s.now.toNat + ·), waitRem := if frozen then left else none }).waitCur .sent on false)

/-- The object behind a reference (R79): its home, or the reference to a peer. -/
def refObj (r : Nat) : List Obj := [Obj.home (lockKey r)]

/-- A waiting object instruction: its first issue, its wait, and what its answer does. -/
def State.objWait (s : State) (h : Nat) (first : State → Verdict) (fin : List W32 → State → Verdict) : Verdict :=
  match s.cur.wait with
  | .sent => .wait .sent s.cur.waitOn false
  | .answer vals => fin vals s
  | .trap c => .trap { code := c, handle := h }
  | _ => first s

/-- R291, R292, R224: the traps of a reference once it is read: its bits, the instruction's own check of its state, then
the object-kind trap of a home on this device. -/
def State.refTraps (s : State) (h r : Nat) (op : ObjOp) (own : Option Trap := none) : Option Trap :=
  firstTrap [refTrap h r, own, if !refPeer r && !s.objSuits (refHome r) op then some { code := 0x35, handle := h } else none]

/-- The access that reads a reference. -/
def refAcc (v : View) (o : Nat) : Acc := ⟨v, o, false, if v.ty = .b then 2 else 1⟩

/-- R294: `ACQ`, `BAR`, `BARW`: a blocking wait on one object. -/
def objVerdict (op : ObjOp) (o : BitVec 2) (a : BitVec 6) (s : State) : Verdict :=
  let av := s.view a.toNat
  let offs := offsets o (some av) none
  let aq := refAcc av offs.src
  s.objWait av.h
    (fun s =>
      s.gated [aq] [] [offs.bad, opTrap av.h (!refOk av)] [] fun _ =>
        let r := aq.nat64 s
        match s.refTraps av.h r op with
        | some t => .trap t
        | none =>
          if op = .acq ∧ 8 ≤ s.cur.locks.length then .trap { code := 5, handle := av.h }
          else s.blocking fun t => t.sendObj op r 0 (refObj r) true)
    (fun _ s => .done (s.updCur Slot.flushRun))

/-- R294: `ACQ`. -/
def execAcq (o : BitVec 2) (a : BitVec 6) (s : State) : Out := .next (s.issue (.acq o a) (objVerdict .acq o a))

/-- R294: `BAR`. -/
def execBar (o : BitVec 2) (a : BitVec 6) (s : State) : Out := .next (s.issue (.bar o a) (objVerdict .bar o a))

/-- R294: `BARW`. -/
def execBarw (o : BitVec 2) (a : BitVec 6) (s : State) : Out := .next (s.issue (.barw o a) (objVerdict .barw o a))

/-- R294: a held release: `REL`, `BARA` or `SEMP`. -/
def State.releaseObj (s : State) (op : ObjOp) (r arg : Nat) : State :=
  let x := s.cur
  (s.updCur fun y =>
    { y with locks := if op = .rel then y.locks.erase (lockKey r) else y.locks
             posts := if op = .semp ∧ y.posts.contains (lockKey r) = false then lockKey r :: y.posts else y.posts }).hold
    (.obj ⟨op, BitVec.ofNat 64 r, arg, x.ctx, s.curCore, s.curSlot, x.fid, none⟩)

/-- R294: `REL` (whose lock the firing must hold) and `BARA`. -/
def heldVerdict (op : ObjOp) (o : BitVec 2) (a : BitVec 6) (s : State) : Verdict :=
  let av := s.view a.toNat
  let offs := offsets o (some av) none
  let aq := refAcc av offs.src
  s.gated [aq] [] [offs.bad, opTrap av.h (!refOk av)] [] fun _ =>
    let r := aq.nat64 s
    let own : Option Trap :=
      if op = .rel ∧ s.cur.locks.contains (lockKey r) = false then some { code := 0x34, handle := av.h } else none
    match s.refTraps av.h r op own with
    | some t => .trap t
    | none =>
      if s.cur.holdWaits then .wait .drain [] true
      else .done (s.releaseObj op r 0)

/-- R294: `REL`. -/
def execRel (o : BitVec 2) (a : BitVec 6) (s : State) : Out := .next (s.issue (.rel o a) (heldVerdict .rel o a))

/-- R294: `BARA`. -/
def execBara (o : BitVec 2) (a : BitVec 6) (s : State) : Out := .next (s.issue (.bara o a) (heldVerdict .bara o a))

/-- R294: `TRYA`: 0 acquired, 1 held, 2 held and withheld. -/
def tryaVerdict (o : BitVec 2) (a d : BitVec 6) (s : State) : Verdict :=
  let av := s.view a.toNat
  let dv := s.view d.toNat
  let offs := offsets o (some av) (some dv)
  let aq := refAcc av offs.src
  let dq : Acc := ⟨dv, offs.dst, true, 1⟩
  s.objWait av.h
    (fun s =>
      s.gated [dq, aq] [] [opTrap dv.h (!(dv.isN32 || dv.h == 54)), offs.bad, opTrap av.h (!refOk av)] [] fun _ =>
        let r := aq.nat64 s
        match s.refTraps av.h r .trya with
        | some t => .trap t
        | none =>
          if 8 ≤ s.cur.locks.length then .trap { code := 5, handle := av.h }
          else s.blocking fun t => t.sendObj .trya r 0 [] false)
    (fun vals s => .done ((dq.putRaw s (vals.headD 0).toNat).updCur Slot.flushRun))

/-- R294: `TRYA`. -/
def execTrya (o : BitVec 2) (a d : BitVec 6) (s : State) : Out := .next (s.issue (.trya o a d) (tryaVerdict o a d))

/-- R294: the operand trap of a semaphore amount. -/
def semTrap (h n : Nat) : Option Trap := opTrap h (n == 0 || decide (65535 < n))

/-- R294: `SEMP`. -/
def sempVerdict (o : BitVec 2) (b a : BitVec 6) (s : State) : Verdict :=
  let av := s.view a.toNat
  let bv := s.view b.toNat
  let offs := offsets o (some av) none
  let aq := refAcc av offs.src
  let bq : Acc := ⟨bv, 0, false, 1⟩
  s.gated [aq, bq] [] [offs.bad, opTrap av.h (!refOk av), opTrap bv.h (!bv.isN32)] [] fun _ =>
    let r := aq.nat64 s
    match firstTrap [semTrap bv.h (bq.nat s), s.refTraps av.h r .semp] with
    | some t => .trap t
    | none => if s.cur.holdWaits then .wait .drain [] true else .done (s.releaseObj .semp r (bq.nat s))

/-- R294: `SEMP`. -/
def execSemp (o : BitVec 2) (b a : BitVec 6) (s : State) : Out := .next (s.issue (.semp o b a) (sempVerdict o b a))

/-- R294: `SEMW`. -/
def semwVerdict (o : BitVec 2) (b a : BitVec 6) (s : State) : Verdict :=
  let av := s.view a.toNat
  let bv := s.view b.toNat
  let offs := offsets o (some av) none
  let aq := refAcc av offs.src
  let bq : Acc := ⟨bv, 0, false, 1⟩
  s.objWait av.h
    (fun s =>
      s.gated [aq, bq] [] [offs.bad, opTrap av.h (!refOk av), opTrap bv.h (!bv.isN32)] [] fun _ =>
        let r := aq.nat64 s
        match firstTrap [semTrap bv.h (bq.nat s), s.refTraps av.h r .semw] with
        | some t => .trap t
        | none => s.blocking fun t => t.sendObj .semw r (bq.nat s) (refObj r) true)
    (fun _ s => .done (s.updCur Slot.flushRun))

/-- R294: `SEMW`. -/
def execSemw (o : BitVec 2) (b a : BitVec 6) (s : State) : Out := .next (s.issue (.semw o b a) (semwVerdict o b a))

/-- R294: `OBJQ`: four words; an ordinary wait for the reply. -/
def objqVerdict (o : BitVec 2) (a d : BitVec 6) (s : State) : Verdict :=
  let av := s.view a.toNat
  let dv := s.view d.toNat
  let offs := offsets o (some av) (some dv)
  let aq := refAcc av offs.src
  let dq : Acc := ⟨dv, offs.dst, true, 0⟩
  s.objWait av.h
    (fun s =>
      s.gated [dq, aq] [] [opTrap dv.h (!dv.isB 4), offs.bad, opTrap av.h (!refOk av)] [] fun _ =>
        let r := aq.nat64 s
        match s.refTraps av.h r .objq with
        | some t => .trap t
        | none => s.sendObj .objq r 0 [] false)
    (fun vals s => .done (dq.putBytes s (vals.flatMap fun w => toLe 4 w.toNat)))

/-- R294: `OBJQ`. -/
def execObjq (o : BitVec 2) (a d : BitVec 6) (s : State) : Out := .next (s.issue (.objq o a d) (objqVerdict o a d))

/-! ## Bindings (R160) -/

/-- R294: a region as `BIND` and `UNBD` name it: start, length, far. -/
def regionOf (ws : List W32) : Nat × Nat × Bool :=
  ((ws.getD 0 0).toNat + 2 ^ 32 * (ws.getD 1 0).toNat, (ws.getD 2 0).toNat, bits (ws.getD 3 0).toNat 0 1 == 1)

/-- R160: the region-range trap. -/
def regionBad (r : Nat × Nat × Bool) : Bool :=
  r.1 % 64 != 0 || r.2.1 % 64 != 0 || decide (r.2.1 < 64) ||
    (if r.2.2 then decide (2 ^ 34 < r.2.1) || decide (2 ^ 57 < r.1 + r.2.1)
     else decide (0x18000 < r.2.1) || decide (2 ^ 32 ≤ r.1) || decide (2 ^ 31 ≤ r.1) || decide (numCores ≤ r.1 / 2 ^ 17)
       || decide (0x18000 < r.1 % 2 ^ 17 + r.2.1))

/-- R160, R224: the bindings of a context after `BIND`, or its trap. -/
def Ctx.bind (c : Ctx) (ref : W64) (r : Nat × Nat × Bool) : Except Nat Ctx :=
  if c.binds.any (fun b => b.far == r.2.2 && decide (b.start < r.1 + r.2.1 ∧ r.1 < b.start + b.len)) then .error 0x30
  else if 1024 ≤ c.binds.length ∨ 16 ≤ (c.binds.filter fun b => b.ref == ref).length then .error 0x31
  else if regionBad r then .error 0x32
  else .ok { c with binds := c.binds ++ [⟨ref, r.1, r.2.1, r.2.2⟩] }

/-- R160, R224: the bindings of a context after `UNBD`, or its trap. -/
def Ctx.unbind (c : Ctx) (ref : W64) (r : Nat × Nat × Bool) : Except Nat Ctx :=
  let b : Binding := ⟨ref, r.1, r.2.1, r.2.2⟩
  if regionBad r then .error 0x32
  else if c.binds.contains b then .ok { c with binds := c.binds.erase b }
  else .error 0x33

/-- R294: the accesses of `BIND` and `UNBD`: the region, and the reference. -/
def State.bindAccs (s : State) (o : BitVec 2) (b a : BitVec 6) : Acc × Acc :=
  let av := s.view a.toNat
  (⟨av, (offsets o (some av) none).src, false, 0⟩, refAcc (s.view b.toNat) 0)

/-- R160: the bindings after a `BIND` or `UNBD` of the executing firing, or its trap. -/
def State.rebind (s : State) (unbind : Bool) (q : Acc × Acc) : Except Nat Ctx :=
  let r := regionOf (q.1.words s 4)
  let ref := BitVec.ofNat 64 (q.2.nat64 s)
  if unbind then (s.ctx s.cur.ctx).unbind ref r else (s.ctx s.cur.ctx).bind ref r

/-- R160, R294: `BIND` and `UNBD`: blocking waits that retire once every interface and engine applies the change
(BIND_COMPLETE). -/
def bindVerdict (unbind : Bool) (o : BitVec 2) (b a : BitVec 6) (s : State) : Verdict :=
  let q := s.bindAccs o b a
  let av := q.1.v
  let bv := q.2.v
  s.objWait av.h
    (fun s =>
      s.gated [q.1, q.2] [] [(offsets o (some av) none).bad, opTrap av.h (!av.isB 4), opTrap bv.h (!refOk bv)] [] fun _ =>
        let own : Option Trap := match s.rebind unbind q with
          | .error c => some { code := c, handle := av.h }
          | .ok _ => none
        match firstTrap [opTrap av.h (decide (2 ≤ (((q.1.words s 4).getD 3 0)).toNat)),
            s.refTraps bv.h (q.2.nat64 s) .acq own] with
        | some t => .trap t
        | none => s.blocking fun _ => .wait .sent [] false)
    (fun _ s => .done s)

/-- R160: `BIND`. -/
def execBind (o : BitVec 2) (b a : BitVec 6) (s : State) : Out := .next (s.issue (.bind o b a) (bindVerdict false o b a))

/-- R160: `UNBD`. -/
def execUnbd (o : BitVec 2) (b a : BitVec 6) (s : State) : Out := .next (s.issue (.unbd o b a) (bindVerdict true o b a))

end Sys2Proof.Machine
end

