-- ==== Sys2Proof/Machine/Msg.lean ====
section
/-!
DEFINITION. Messages (R298 to R304): `SEND`, `SENDI`, `SPWN`, `MSGQ` and `CEQ`.
-/

namespace Sys2Proof.Machine

/-! ## Building a message (R33, R63) -/

/-- R33: a header. -/
def mkHdr (spn tkh tks stamp sdev score pri kind flits hix orig ctx : Nat) : BitVec 128 :=
  BitVec.ofNat 128 (spn * 2 ^ 112 + tkh % 64 * 2 ^ 106 + tks % 4 * 2 ^ 104 + stamp % 2 ^ 32 * 2 ^ 64 + sdev * 2 ^ 59
    + score * 2 ^ 32 + pri % 8 * 2 ^ 29 + kind % 4 * 2 ^ 27 + flits % 8 * 2 ^ 24 + hix % 2 ^ 12 * 2 ^ 12 + orig * 2 ^ 8
    + ctx)

/-- R63: the flits of a message of n argument words. -/
def flitsOf (n : Nat) : Nat := (4 + n + 15) / 16

/-- The words a message carries beyond those that were written: the manual gives them no value (free values). DESIGN CHOICE: log entry 23. -/
def State.padWords (s : State) (k : Nat) : List W32 × State :=
  match k with
  | 0 => ([], s)
  | k + 1 =>
    let r := s.free
    let t := State.padWords r.2 k
    (BitVec.ofNat 32 r.1 :: t.1, t.2)

/-- R63: `out.msg` closed: its words, filled up to the last flit, and the write position reset. -/
def State.closeMsg (s : State) : List W32 × State :=
  let ws := s.cur.outMsg
  let p := s.padWords (flitsOf ws.length * 16 - 4 - ws.length)
  (ws ++ p.1, p.2.updCur fun x => { x with outMsg := [] })

/-- The target code of a reply to the host (R351). -/
def toHost : Nat := 2 ^ 16

/-- The target code of a message for a core of a peer (R301, R307). -/
def toPeer (peer core : Nat) : Nat := 2 ^ 17 + peer * 2 ^ 14 + core

/-! ## The send queue (R39, R302) -/

/-- R300: whether a held effect is a message. -/
def Held.isSend (e : Held) : Bool := match e with | .send .. => true | _ => false

/-- R300, R302: whether the instruction that waits has its send-queue entry: the firing has reserved one more than it holds messages. -/
def State.sendOwn (s : State) : Bool :=
  decide ((s.cur.cbuf.filter Held.isSend).length < (s.curC.sendQ.filter fun e => e.fid == s.cur.fid && e.msg.isNone).length)

/-- R300: a send-queue entry reserved for the instruction, if it has none. -/
def State.reserveSend (s : State) : State :=
  if s.sendOwn then s else s.updCore s.curCore fun x => { x with sendQ := x.sendQ ++ [⟨s.curSlot, s.cur.fid, none⟩] }

/-- R302, R326: what a full send queue makes of an instruction: the firing commits and waits if one of the entries is a held
entry of its own, else the trap. One that waits goes on waiting. The check ends its cycle, in which a freed entry was free. DESIGN CHOICE: log entry 146. -/
def State.sendFull (s : State) : Option Verdict :=
  if s.curC.sendQ.length < 16 ∨ s.sendOwn then none
  else if s.cur.wait = .space then some (.wait .space [] false)
  else if s.cur.restart && s.curC.sendQ.any (fun e => e.fid == s.cur.fid && e.msg.isNone) then
    some (s.blocking fun _ => .wait .space [] false)
  else some (.stay (((s.count s.curCore 0xC).trapCur { code := 0xD }).tick 1))

/-- R302: an entry reserved, and the message held or sent. -/
def State.sendHeld (s : State) (m : Msg) (core : Nat) (ret : Option Ret) (rq : Bool) : State := s.reserveSend.hold (.send m core ret rq)

/-- R300: a wait of an instruction that keeps its send-queue entry. -/
def State.waitSend (s : State) (w : Wait) (commits : Bool) : Verdict := .stay (s.reserveSend.waitCur w [] commits)

/-- R300: the reply entries of a slot that are reserved, those of its saved firings included (R366). -/
def State.replyReserved (s : State) (c k : Nat) : Nat :=
  (s.slot c k).rplRes.length
    + ((s.saved.filter fun v => v.core == c && v.slot == k).map fun v => v.body.rplRes.length).sum

/-! ## SEND and SENDI (R299 to R302) -/

/-- R299: whether a control and a target word are admitted. -/
def sendOk (invoke : Bool) (ctl tgt : Nat) (x : Slot) : Bool :=
  let kind := bits ctl 27 2
  bits ctl 24 3 == 0 && bits ctl 1 11 == 0 &&
    (if invoke then kind == 1 && (decide (tgt < numCores) || tgt == 0x3FFF)
     else bits ctl 12 12 == 0 &&
      (if kind = 2 then bits ctl 0 1 == 0 && tgt == 0 && x.hasReq && !x.replied else kind == 0 && decide (tgt < numCores)))

/-- R301: where a reply goes, by the header of the claimed message. -/
def replyTarget (m : Msg) : Nat :=
  if m.orig = 1 then toHost else if m.orig = 2 then toPeer (bits m.hdr.toNat 59 5) m.sender.1 else m.sender.1

/-- R300: a message built, its token marked, held or sent. -/
def State.sendMsg (s : State) (dq : Acc) (ctl tgt : Nat) : State :=
  let x := s.cur
  let kind := bits ctl 27 2
  let reply := decide (kind = 2)
  let p := s.closeMsg
  let s1 := p.2
  let flits := flitsOf x.outMsg.length - 1
  let hdr (tkh tks : Nat) := mkHdr 0 tkh tks s.now.toNat s.pos.toNat s.curCore (bits ctl 29 3) kind flits (bits ctl 12 12) 0 x.ctx
  let dst := if reply then (match x.req with | some m => replyTarget m | none => 0) else tgt
  let h := if reply then (match x.req with | some m => hdr m.sender.2.2 m.sender.2.1 | none => hdr 0 0) else hdr dq.v.h s.curSlot
  let s2 := s1.updCur fun y =>
    { y with replied := y.replied || reply, rplRes := if bits ctl 0 1 = 1 then dq.v.h :: y.rplRes else y.rplRes }
  let r := s2.mark dq 4 x.restart false false
  let of_ := if reply then (match x.req with | some m => m.launch | none => 0) else 0
  r.2.sendHeld ⟨h, p.1, 0, 0, 0, of_⟩ dst (some r.1) (bits ctl 0 1 == 1)

/-- R299 to R302: `SEND` and `SENDI`. -/
def sendVerdict (invoke : Bool) (o : BitVec 2) (b a d : BitVec 6) (s : State) : Verdict :=
  let av := s.view a.toNat
  let bv := s.view b.toNat
  let dv := s.view d.toNat
  let offs := offsets o (some av) (some dv)
  let aq : Acc := ⟨av, offs.src, false, 1⟩
  let bq : Acc := ⟨bv, 0, false, 1⟩
  let dq : Acc := ⟨dv, offs.dst, true, 1⟩
  s.gated [dq, aq, bq] [] [opTrap dv.h (!dv.isN32), offs.bad, opTrap av.h (!(av.isN32 || av.h == 54)),
      opTrap bv.h (!bv.isN32)] [] fun _ =>
    let ctl := bq.nat s
    let tgt := if av.h = 54 then 0 else aq.nat s
    if !sendOk invoke ctl tgt s.cur then .trap { code := 5, handle := bv.h }
    else
      match s.sendFull with
      | some v => v
      | none =>
        if bits ctl 0 1 = 1 ∧ 8 ≤ s.replyReserved s.curCore s.curSlot then s.waitSend .space false
        else if s.cur.pendFull then s.waitSend .pending false
        else if s.cur.holdWaits then s.waitSend .drain true
        else .done (s.sendMsg dq ctl tgt)

/-- R300: `SEND`. -/
def execSend (o : BitVec 2) (b a d : BitVec 6) (s : State) : Out :=
  .next (s.issue (.send o b a d) (sendVerdict false o b a d))

/-- R300: `SENDI`. -/
def execSendi (o : BitVec 2) (b a d : BitVec 6) (s : State) : Out :=
  .next (s.issue (.sendi o b a d) (sendVerdict true o b a d))

/-! ## SPWN (R30, R303) -/

/-- A 64-bit scalar, or `zero`. -/
def View.is64 (v : View) : Bool := (v.shape == 0 && (v.ty == .n64 || v.ty == .i64)) || v.h == 54

/-- R303, R30: the length, destination and source fields of a spawn word, in bytes. -/
def spawnLen (w : Nat) : Nat := bits w 27 5 * 16
/-- R303: the source offset of a spawn word. -/
def spawnSrc (w : Nat) : Nat := bits w 0 11 * 16

/-- R30: the spawn message. -/
def State.spawnMsg (s : State) (wid w lit : Nat) : Msg :=
  let x := s.cur
  let n := spawnLen w
  let bs := s.winGet ⟨s.curCore, s.curSlot, spawnSrc w⟩ n
  let data := (List.range (n / 4)).map fun i => BitVec.ofNat 32 (leNat ((bs.drop (4 * i)).take 4))
  let head : List W32 := [BitVec.ofNat 32 wid, BitVec.ofNat 32 (wid / 2 ^ 32), BitVec.ofNat 32 (lit % 2 ^ 24),
    BitVec.ofNat 32 (bits w 16 11 + bits w 27 5 * 2 ^ 16)]
  ⟨mkHdr 1 0 s.curSlot s.now.toNat s.pos.toNat s.curCore x.bpri 1 ((32 + n + 63) / 64 - 1) x.act.toNat 0 x.ctx,
    head ++ data, 0, 0, 0, x.launch⟩

/-- R303: `SPWN`. -/
def spwnVerdict (b a d : BitVec 6) (lit : BitVec 32) (s : State) : Verdict :=
  let av := s.view a.toNat
  let bv := s.view b.toNat
  let dv := s.view d.toNat
  let aq : Acc := ⟨av, 0, false, 1⟩
  let bq : Acc := ⟨bv, 0, false, 1⟩
  let dq : Acc := ⟨dv, 0, false, 1⟩
  s.gated [dq, aq, bq] [] [opTrap dv.h (!(dv.isN32 || dv.h == 54)), opTrap av.h (!av.is64), opTrap bv.h (!bv.isN32)]
      [] fun _ =>
    let tgt := if dv.h = 54 then 0 else dq.nat s
    let w := bq.nat s
    let wid := if av.h = 54 then 0 else aq.nat s
    if numCores ≤ tgt then .trap { code := 5, handle := dv.h }
    else if bits w 11 5 ≠ 0 ∨ 448 < spawnLen w ∨ (s.win s.curCore s.curSlot).2 < spawnSrc w + spawnLen w then
      .trap { code := 5, handle := bv.h }
    else
      match (s.rawGate (spawnSrc w) (spawnLen w)).orElse fun _ => s.sendFull with
      | some v => v
      | none =>
        if s.cur.holdWaits then s.waitSend .drain true
        else .done (s.sendHeld (s.spawnMsg wid w lit.toNat) tgt none false)

/-- R303: `SPWN`. -/
def execSpwn (b a d : BitVec 6) (lit : BitVec 32) (s : State) : Out :=
  .next (s.issue (.spwn b a d lit) (spwnVerdict b a d lit))

/-! ## MSGQ and CEQ (R304) -/

/-- R304: an instruction that writes a count chosen by a selector; `none`: an operand trap. DEDUCED: log entry 44. -/
def countVerdict (o : BitVec 2) (a d : BitVec 6) (f : State → Nat → Option Nat) (s : State) : Verdict :=
  let av := s.view a.toNat
  let dv := s.view d.toNat
  let offs := offsets o (some av) (some dv)
  let aq : Acc := ⟨av, offs.src, false, 1⟩
  let dq : Acc := ⟨dv, offs.dst, true, 1⟩
  s.gated [dq, aq] [] [opTrap dv.h (!(idxOk dv && dv.shape == 0)), offs.bad, opTrap av.h (!(idxOk av && av.shape == 0))]
      [] fun _ =>
    match f s (aq.nat s) with
    | none => .trap { code := 5, handle := av.h }
    | some n => .done (dq.putRaw s (dv.ty.fit dv.sat (n : Int)))

/-- R304: the counts of `MSGQ`. -/
def msgqCount (s : State) (sel : Nat) : Option Nat :=
  let of_ (l : List QEntry) : Nat := (l.filter fun q => q.m.ctx == s.cur.ctx).length
  match sel with
  | 0 => some (of_ s.curC.hiQ)
  | 1 => some (of_ s.curC.loQ)
  | 2 => some (16 - s.curC.sendQ.length)
  | 3 => some (8 - s.replyReserved s.curCore s.curSlot)
  | _ => none

/-- R304: the counts of `CEQ`. -/
def ceqCount (s : State) (sel : Nat) : Option Nat :=
  let q := (s.engine (clusterOf s.curCore)).queue
  match sel with
  | 0 => some (q.filter fun x => x.core == s.curCore && x.slot == s.curSlot).length
  | 1 => some (32 - q.length)
  | 2 => some s.cur.pend.length
  | _ => none

/-- R304: `MSGQ`. -/
def execMsgq (o : BitVec 2) (a d : BitVec 6) (s : State) : Out :=
  .next (s.issue (.msgq o a d) (countVerdict o a d msgqCount))

/-- R304: `CEQ`. -/
def execCeq (o : BitVec 2) (a d : BitVec 6) (s : State) : Out :=
  .next (s.issue (.ceq o a d) (countVerdict o a d ceqCount))

end Sys2Proof.Machine
end

