-- ==== Sys2Proof/Machine/Fabric.lean ====
section
/-!
DEFINITION. What a copy engine does beyond its own device (R171 to R174, R380 to R392): translation with its cache (R375,
R376), planes and spraying, tags, and the requests it sends; and its reads and writes of near and far bytes (R357, R418,
R422).
-/

namespace Sys2Proof.Machine

/-- What a request comes to: done, it must wait for a tag (R384) or a plane (R390), or its command ends with a token value. -/
inductive Sent where
  | ok (s : State)
  | wait
  | fail (s : State) (status : Nat)
  deriving DecidableEq, Repr

/-! ## Translation (R374 to R376) -/

/-- R375: a translation kept by an engine. -/
def Tlb.frame (t : Tlb) (va : Nat) : Frame := ⟨t.tgt, t.peer, t.pa + va % t.size, t.va, t.size, t.w⟩

/-- R375: the cached translation of an address for an access. -/
def Engine.hit (en : Engine) (ctx va : Nat) (write : Bool) : Option Frame :=
  (en.tlb.find? fun t => t.ctx == ctx && t.va == va / t.size * t.size && (!write || t.w)).map (·.frame va)

/-- R375: a translation entered in an engine's cache of 32. -/
def State.cacheFrame (s : State) (e ctx : Nat) (f : Frame) : State :=
  s.updEngine e fun en =>
    let t : Tlb := ⟨ctx, f.base, f.size, f.tgt, f.peer, f.pa - f.pa % f.size, f.w⟩
    let l := en.tlb.filter (fun u => !(u.ctx == ctx && u.va == f.base)) ++ [t]
    { en with tlb := l.drop (l.length - 32) }

/-- R376, R370: the trap message of a translation fault, in the die row of the issuing core. -/
def State.walkFault (s : State) (core slot ctx va reason : Nat) : State :=
  s.push (.trap (s.trapMsg core slot ctx 0x50 1 va (va / 2 ^ 19) (BitVec.ofNat 128 (reason * 2 ^ 64 + 0x50))))

/-! ## HBM (R417, R422) -/

/-- R422: a sector whose tag is bad is read: a security event that fences the reading context. -/
def State.integrity (s : State) (ctx a : Nat) : State :=
  let pa := a / 256 * 256 - 2 ^ 52
  let s1 := s.updDie (sectorDie pa) fun d => { d with hiv := bump d.hiv }
  (s1.record (hbmRec 0x62 pa 5 (some ctx))).fenceCtx ctx

/-- R418: bytes written with their poison mark; bytes that are good clear the mark of every unit they cover. -/
def State.putPoison (s : State) (a : Nat) (bs : List Byte) (psn : Bool) : State :=
  let s1 := s.setBytes a bs
  if psn then s1.addPoison a bs.length else s1.clearPoison a bs.length

/-! ## Translation for a command (R374 to R376) -/

/-- R374 to R376: a far address translated for an engine's command: its frame, or the token value its command ends with. -/
def State.xlat (s : State) (e : Nat) (q : Cmd) (va : Nat) (write : Bool) : Except Nat Frame × State :=
  if 2 ^ 57 ≤ va then (.error 9, s)
  else
    match (s.engine e).hit q.ctx va write with
    | some f => (.ok f, s)
    | none =>
      match s.walk q.ctx va write with
      | .ok f => (.ok f, s.cacheFrame e q.ctx f)
      | .fault r => (.error 5, s.walkFault q.core q.slot q.ctx va r)
      | .media => (.error 6, s)
      | .integ a => (.error 6, s.integrity q.ctx a)

/-! ## Planes (R385, R389) -/

/-- R385: how often the link of a plane to a peer has left the plane set. -/
def State.linkLosses (s : State) (p peer : Nat) : Nat := mget (mget s.fab.planes p Plane.reset).losses peer 0

/-- The key of an engine's tables, and of a plane's, of peer and class. -/
def peerKey (peer cls : Nat) : Nat := 2 * peer + cls

/-- R390: how often a class has been shed on the link of a plane to a peer. -/
def State.linkSheds (s : State) (p peer cls : Nat) : Nat := mget (mget s.fab.planes p Plane.reset).sheds (peerKey peer cls) 0

/-- R389: whether the link of a plane to a peer carries a request class. -/
def State.linkCarries (s : State) (p peer cls : Nat) : Bool := decide (2 + cls ≤ s.linkKept p peer)

/-- R385, R394: whether a plane is in the plane set of a peer and request class. -/
def State.planeUp (s : State) (p peer cls : Nat) : Bool :=
  bits (mget s.fab.planes p Plane.reset).ctl.toNat 31 1 == 0 && s.linkCarries p peer cls

/-- R385: the plane list of a peer and class as it is rebuilt. -/
def State.planeList (s : State) (peer cls : Nat) : List Listed :=
  ((List.range 96).filter fun p => s.planeUp p peer cls).map fun p => ⟨p, s.linkLosses p peer, s.linkSheds p peer cls⟩

/-- R385: the plane list an engine uses: the one built at its last far release to the peer. -/
def State.planesOf (s : State) (e peer cls : Nat) : List Listed :=
  (mfind (s.engine e).lists (peerKey peer cls)).getD (s.planeList peer cls)

/-- R385: a 64-bit key folded into 16 bits. -/
def foldKey (key : Nat) : Nat := bits key 0 16 ^^^ bits key 16 16 ^^^ bits key 32 16 ^^^ bits key 48 16

/-- R385: whether a plane of a list has stayed in the set since the list was built. -/
def State.planeStays (s : State) (peer : Nat) (q : Listed) : Bool := s.linkKept q.plane peer != 0 && s.linkLosses q.plane peer == q.losses

/-- R389, R390: whether a plane of a list still carries the list's class, which has not been shed on its link since. -/
def State.classStays (s : State) (peer cls : Nat) (q : Listed) : Bool :=
  s.planeStays peer q && s.linkCarries q.plane peer cls && s.linkSheds q.plane peer cls == q.sheds

/-- R385, R389: the plane of a key: L[h mod n], or the next plane of L that still carries the class; one that has left, or shed it, comes
back with the next list. DEDUCED: log entry 181. -/
def State.pickPlane (s : State) (l : List Listed) (peer cls key : Nat) : Option Nat :=
  let i := if l.length = 0 then 0 else foldKey key % l.length
  ((l.drop i ++ l.take i).find? (s.classStays peer cls)).map Listed.plane

/-- R385, R174: whether a plane of an engine's lists for a peer has left the set since its last far release there. -/
def State.planeLost (s : State) (e peer : Nat) : Bool :=
  [0, 1].any fun cls => ((mfind (s.engine e).lists (peerKey peer cls)).getD []).any fun q => !s.planeStays peer q

/-- R390: whether a request of an engine to a peer waits for those of its class that are outstanding on a link that is up but carries the
class no longer. -/
def State.shedWaits (s : State) (e peer cls : Nat) (l : List Listed) : Bool :=
  (s.engine e).tags.any fun t => t.2.busy && t.2.peer == peer && t.2.cls == cls && s.linkKept t.2.plane peer != 0
    && !l.any fun q => q.plane == t.2.plane && s.classStays peer cls q

/-! ## Requests (R382, R384, R391) -/

/-- R391: whether a context may send to a peer: its entry is valid and the position answers in the pod. -/
def State.peerOk (s : State) (ctx peer : Nat) : Bool :=
  bits (s.peerEntry ctx peer) 15 1 == 1 && bits s.fab.pod.toNat peer 1 == 1 && decide (peer ≠ s.pos.toNat)

/-- What a request carries: operation, class, key, size code, address, payload, poison, release sequence, and what its
reply does. A request of operation 3 has size code 1 where its payload begins with the masks of a far release (R172); its
address then names the sending engine above the core. `pre` counts the bytes of the payload that stand for such masks, which are no flits. -/
structure Req where
  op   : Nat
  cls  : Nat
  key  : Nat
  size : Nat
  addr : Nat
  body : List Byte := []
  psn  : Bool := false
  seq  : Nat := 0
  cont : Cont
  pre  : Nat := 0
  deriving DecidableEq, Repr

/-- Whether a reply belongs to the engine's command in progress. -/
def Cont.counts (c : Cont) : Bool := match c with | .tok _ => false | .obj _ => false | _ => true

/-- R382 to R391: a request sent to a peer. -/
def State.sendReq (s : State) (e ctx peer : Nat) (r : Req) : Sent :=
  let en := s.engine e
  let pe := s.peerEntry ctx peer
  let l := s.planesOf e peer r.cls
  if !s.peerOk ctx peer then .fail s 7
  else if r.psn && bits pe 14 1 == 0 then .fail s 6
  else
    match s.pickPlane l peer r.cls r.key with
    | none => .fail s 7
    | some p =>
      if s.shedWaits e peer r.cls l then .wait
      else
        match (List.range 1024).find? fun t => !(mget en.tags t Tag.reset).busy && !(mget en.tags t Tag.reset).hold with
        | none => .wait
        | some t =>
          let old := mget en.tags t Tag.reset
          let h := fabHdr r.op r.cls s.pos.toNat peer (bits pe 0 8) t old.gen.toNat r.seq (fabFlits (r.body.length - r.pre))
            (if r.psn then 1 else 0) r.size r.addr
          let key := peerKey peer r.cls
          let s1 := s.updEngine e fun en =>
            { en with
              tags := mput en.tags t { old with busy := true, sent := s.now.toNat, peer := peer, plane := p, cls := r.cls, cont := r.cont }
              masks := mput en.masks key (mget en.masks key 0 ||| BitVec.ofNat 96 (2 ^ p))
              lists := mput en.lists key l
              marked := if r.cls = 0 then mdel en.marked peer else en.marked
              outst := if r.cont.counts then en.outst + 1 else en.outst }
          .ok { s1 with fabOut := s1.fabOut ++ [(p, h, r.body)] }

/-- R382: the code of a request's size. -/
def sizeCode (n : Nat) : Nat := if n = 1 then 0 else if n = 2 then 1 else if n = 4 then 2 else if n = 8 then 3 else 4

/-- R172: an engine's plane masks with those of a peer clear. -/
def Engine.unmasked (en : Engine) (peer : Nat) : SMap (BitVec 96) := mdel (mdel en.masks (peerKey peer 0)) (peerKey peer 1)

/-- R172: the flush markers of a release sequence sent to a peer, plane by plane in every class used on it since the
last far release; the masks clear. -/
def State.sendMarkers (s : State) (e ctx peer seq : Nat) : State :=
  let en := s.engine e
  let one (p cls : Nat) (m : BitVec 96) : List (Nat × BitVec 128 × List Byte) :=
    if bits m.toNat p 1 = 1 then [(p, fabHdr 4 cls s.pos.toNat peer (bits (s.peerEntry ctx peer) 0 8) 0 0 seq 0 0 0 e, [])] else []
  let losses (cls : Nat) : List Byte := (List.range 96).map fun p =>
    BitVec.ofNat 8 ((((mfind en.lists (peerKey peer cls)).getD []).find? fun q => q.plane == p).map Listed.losses |>.getD 0)
  let m0 := mget en.masks (peerKey peer 0) 0
  let m1 := mget en.masks (peerKey peer 1) 0
  let s1 := { s with fabOut := s.fabOut ++ (List.range 96).flatMap fun p => one p 0 m0 ++ one p 1 m1 }
  s1.updEngine e fun en =>
    { en with
      masks := en.unmasked peer
      seqs := mput en.seqs peer ((mget en.seqs peer 0 + 1) % 256)
      marked := mput en.marked peer ⟨seq, m0, m1, losses 0, losses 1, s.planeLost e peer⟩ }

/-- R172, R173: what a far release carries before its image: its masks with the losses counted for each plane, and the sequence of its
engine's release before it to the peer, 1 more (0: none). DESIGN CHOICE: log entry 119. -/
def relBytes (m : FarMask) (prev : Nat) : List Byte := toLe 12 m.m0.toNat ++ toLe 12 m.m1.toNat ++ m.c0 ++ m.c1 ++ toLe 2 prev

/-- The bytes of `relBytes`. -/
def relPre : Nat := 218

/-- R385: an engine's plane lists for a peer rebuilt, as at a far release. -/
def State.relist (s : State) (e peer : Nat) : State :=
  s.updEngine e fun en =>
    { en with lists := mput (mput en.lists (peerKey peer 0) (s.planeList peer 0)) (peerKey peer 1) (s.planeList peer 1) }

/-- R172, R385: the operation of a far release sent with its sequence and masks, by the plane lists as they are rebuilt; the peer's masks are
then 0. -/
def State.sendRelease (s : State) (e ctx peer : Nat) (m : FarMask) (r : Req) : Sent :=
  match (s.relist e peer).sendReq e ctx peer
      { r with seq := m.seq, size := 1, addr := r.addr + e * 2 ^ 14, pre := relPre, body := relBytes m (mget (s.engine e).lastRel peer 0) ++ r.body } with
  | .ok t => .ok (t.updEngine e fun en =>
      { en with masks := en.unmasked peer, marked := mdel en.marked peer, lastRel := mput en.lastRel peer (m.seq + 1) })
  | x => x

/-- R172, R174: a far release: markers, then the operation with the sequence and the masks. Whether a plane of its lists
was lost since the last release is answered beside it. -/
def State.farRelease (s : State) (e ctx peer : Nat) (r : Req) : Sent × Bool :=
  let seq := mget (s.engine e).seqs peer 0
  let s1 := s.sendMarkers e ctx peer seq
  let m := mget (s1.engine e).marked peer ⟨seq, 0, 0, [], [], false⟩
  match s1.sendRelease e ctx peer m r with
  | .ok s2 => (.ok s2, m.lost)
  | .wait => (.wait, m.lost)
  | .fail _ v => (.fail s v, m.lost)

/-- R294: the code of an object operation in an image, in the order of R293. -/
def ObjOp.code (o : ObjOp) : Nat :=
  match o with
  | .acq => 2 | .rel => 3 | .trya => 4 | .bar => 5 | .bara => 6 | .barw => 7 | .semp => 8 | .semw => 9 | .objq => 10

/-- R294: the object operation of a code. -/
def ObjOp.ofCode (n : Nat) : Option ObjOp :=
  [ObjOp.acq, .rel, .trya, .bar, .bara, .barw, .semp, .semw, .objq].find? fun o => o.code == n

/-- R297, R314: the image of an object operation: a header of kind 3 that names the issuing core and slot, and four words:
the operation, the reference, and its argument. -/
def State.objImage (s : State) (o : ObjReq) : List Byte :=
  toLe 16 (mkHdr 0 0 o.slot s.now.toNat s.pos.toNat o.core 0 3 0 0 0 o.ctx).toNat
    ++ toLe 4 o.op.code ++ toLe 8 o.ref.toNat ++ toLe 4 (min o.arg (2 ^ 32 - 1))

/-! ## Near and far bytes of an engine command -/

/-- R307, R379: whether n near bytes lie in one slice that can be reached. -/
def State.nearOk (s : State) (a n : Nat) : Bool :=
  decide (a / 2 ^ 17 < numCores) && decide (a < 2 ^ 31) && decide (a % 2 ^ 17 + n ≤ 0x18000) && !(s.core (a / 2 ^ 17)).fenced

/-- R418, R292: near bytes written by an engine, their poison carried. -/
def State.engineNear (s : State) (e : Nat) (q : Cmd) (a : Nat) (bs : List Byte) (psn : Bool) : State :=
  let s1 := s.storeNear q.writer a bs
  if s.touchesLive a bs.length then s1
  else (if psn then s1.addPoison a bs.length else s1).watchEngine e q a bs.length false

/-- R418: near bytes of the device copied to near bytes by an engine: each word that takes a byte of a poisoned word takes its mark. -/
def State.copyNear (s : State) (e : Nat) (q : Cmd) (src dst n : Nat) : State :=
  let t := s.engineNear e q dst (s.bytesAt src n) false
  if !s.poisoned src n || s.touchesLive dst n then t
  else ((List.range n).filter fun i => s.poisoned (src + i) 1).foldl (fun u i => u.addPoison (dst + i) 1) t

/-- R412: a far write that has been performed, or sent to its peer, as a far watchpoint sees it. -/
def Sent.watched (r : Sent) (e : Nat) (q : Cmd) (va n : Nat) : Sent :=
  match r with
  | .ok t => .ok (t.watchEngine e q va n true)
  | r => r

/-- R357, R370: poison that may not leave the device by a write at a far address: the token value, and the fault message for the supervisor. -/
def State.poisonStop (s : State) (q : Cmd) (va : Nat) : Sent :=
  .fail (s.faultMsg q.writer 6 va) 6

/-- R357: a request that carries bytes to a peer: poisoned ones leave only with the peer's flag. -/
def State.sendData (s : State) (e : Nat) (q : Cmd) (peer : Nat) (r : Req) : Sent :=
  if r.psn && s.peerOk q.ctx peer && bits (s.peerEntry q.ctx peer) 14 1 == 0 then s.poisonStop q r.addr else s.sendReq e q.ctx peer r

/-- R357, R418, R422, R391: far bytes of one page written by an engine. -/
def State.pageFar (s : State) (e : Nat) (q : Cmd) (va : Nat) (bs : List Byte) (psn : Bool) : Sent :=
  match s.xlat e q va true with
  | (.error v, s1) => .fail s1 v
  | (.ok f, s1) =>
    Sent.watched (match f.tgt with
      | 0 =>
        let a := hbmAddr f.pa
        if s1.tamperedAt a bs.length && decide (bs.length < 256) then .fail (s1.integrity q.ctx a) 6
        else .ok (s1.putPoison a bs psn)
      | 1 => if psn && !(s.ctx q.ctx).pfwd then s1.poisonStop q va else .ok (s1.putPoison (hostAddr f.pa) bs psn)
      | _ => s1.sendData e q f.peer
          { op := 1, cls := 0, key := va / 64, size := sizeCode bs.length, addr := va, body := bs, psn := psn, cont := .ack })
      e q va bs.length

/-- The largest access that starts here: a line, or 8, 4, 2 or 1 bytes, aligned on its far sides. -/
def pieceLen (n src dst : Nat) (fs fd : Bool) : Nat :=
  let ok (w : Nat) : Bool := decide (w ≤ n) && (!fs || src % w == 0) && (!fd || dst % w == 0)
  if ok 64 then 64 else if ok 8 then 8 else if ok 4 then 4 else if ok 2 then 2 else 1

/-- The accesses of n bytes, at most k of them: start of either side, and length. -/
def cuts (k n src dst : Nat) (fs fd : Bool) : List (Nat × Nat × Nat) :=
  match k with
  | 0 => []
  | k + 1 =>
    if n = 0 then []
    else
      let w := pieceLen n src dst fs fd
      (src, dst, w) :: cuts k (n - w) (src + w) (dst + w) fs fd

/-- R374: whether n far bytes lie on one page of the smallest size. -/
def onePage (va n : Nat) : Bool := va / 2 ^ 19 == (va + n - 1) / 2 ^ 19

/-- R313, R374: far bytes written by an engine; those that pass from one page to the next go in aligned pieces, each translated where it
lies. -/
def State.engineFar (s : State) (e : Nat) (q : Cmd) (va : Nat) (bs : List Byte) (psn : Bool) : Sent :=
  if onePage va bs.length then s.pageFar e q va bs psn
  else
    (cuts bs.length bs.length 0 va false true).foldl
      (fun r p => match r with | .ok t => t.pageFar e q p.2.1 ((bs.drop p.1).take p.2.2) psn | r => r) (.ok s)

/-- An end of a copy written. -/
def State.endPut (s : State) (e : Nat) (q : Cmd) (d : End) (bs : List Byte) (psn : Bool) : Sent :=
  match d with
  | .near a => .ok (s.engineNear e q a bs psn)
  | .far va => s.engineFar e q va bs psn

/-- R307, R418: one piece of a copy. A peer's bytes come with its reply. DEDUCED: log entry 71. -/
def State.copyPiece (s : State) (e : Nat) (q : Cmd) (src dst : End) (n : Nat) : Sent :=
  match src with
  | .near a =>
    match dst with
    | .near b => .ok (s.copyNear e q a b n)
    | .far w => s.engineFar e q w (s.bytesAt a n) (s.poisoned a n)
  | .far va =>
    match s.xlat e q va false with
    | (.error v, s1) => .fail s1 v
    | (.ok f, s1) =>
      match f.addr with
      | some a =>
        if f.tgt == 0 && s1.tamperedAt a n then .fail (s1.integrity q.ctx a) 6
        else
          match dst with
          | .near b => .ok (s1.copyNear e q a b n)
          | .far w => s1.engineFar e q w (s1.bytesAt a n) (s1.poisoned a n)
      | none => s1.sendReq e q.ctx f.peer
          { op := 0, cls := 0, key := va / 64, size := sizeCode n, addr := va,
            cont := match dst with | .near a => .near a n | .far w => .far q.ctx w n }

/-- R289: the payload of an atomic request: operation, type and operands. -/
def atomBody (op ty : Nat) (b0 b1 : W64) : List Byte := toLe 8 (op + ty * 256) ++ toLe 8 b0.toNat ++ toLe 8 b1.toNat

/-- R289: an atomic on far bytes of this device: the old value. -/
def State.atomFar (s : State) (a op : Nat) (ty : Ty) (b0 b1 : Nat) : Nat × State :=
  let n := ty.bits / 8
  let old := leNat (s.bytesAt a n)
  (old, s.putPoison a (toLe n (atomNew op ty old b0 b1)) (s.poisoned a n))

/-- R116, R307: one element added into its destination, rounded to nearest even, integers wrapping. -/
def addElem (ty : Ty) (x y : Nat) : Nat :=
  if ty.isFloat then roundFloat ty 0 false (sumNum 0 [ty.num x, ty.num y]) else (x + y) % 2 ^ ty.bits

/-- R374: n far bytes cut at the edge of the smallest page. -/
def pageParts (va n : Nat) : List (Nat × Nat) :=
  if onePage va n then [(va, n)] else let m := 2 ^ 19 - va % 2 ^ 19; [(va, m), (va + m, n - m)]

/-- R374: far bytes translated part by part for a write: the frame of each with its length, or the value with which the command ends. -/
def State.xlatParts (s : State) (e : Nat) (q : Cmd) (ps : List (Nat × Nat)) : Except Nat (List (Frame × Nat)) × State :=
  match ps with
  | [] => (.ok [], s)
  | (va, n) :: rest =>
    match s.xlat e q va true with
    | (.error v, t) => (.error v, t)
    | (.ok f, t) =>
      match t.xlatParts e q rest with
      | (.ok fs, u) => (.ok ((f, n) :: fs), u)
      | r => r

/-- The bytes of some places of the device, one after another. -/
def State.bytesOf (s : State) (ps : List (Nat × Nat)) : List Byte := ps.flatMap fun p => s.bytesAt p.1 p.2

/-- Whether a byte of some places is poisoned. -/
def State.poisonIn (s : State) (ps : List (Nat × Nat)) : Bool := ps.any fun p => s.poisoned p.1 p.2

/-- R422: the first of some places, in HBM, whose sector has a bad tag. -/
def State.tamperedIn (s : State) (ps : List (Nat × Nat)) : Option Nat :=
  (ps.find? fun p => decide (2 ^ 52 ≤ p.1) && s.tamperedAt p.1 p.2).map Prod.fst

/-- R418: bytes written to some places, one after another, with their poison mark. -/
def State.putParts (s : State) (ps : List (Nat × Nat)) (bs : List Byte) (psn : Bool) : State :=
  match ps with
  | [] => s
  | (a, n) :: rest => (s.putPoison a (bs.take n) psn).putParts rest (bs.drop n) psn

/-- R308, R357, R418, R422: far bytes at some places of this device replaced as a whole: a bad tag or poison that may not leave ends the
command before any of them is written. `new` gives the bytes from the old ones, and `psn` tells whether what it adds is poisoned. -/
def State.alter (s : State) (e : Nat) (q : Cmd) (va : Nat) (ps : List (Nat × Nat)) (host psn : Bool) (new : List Byte → List Byte) : Sent :=
  match s.tamperedIn ps with
  | some a => .fail (s.integrity q.ctx a) 6
  | none =>
    let bad := psn || s.poisonIn ps
    if bad && host && !(s.ctx q.ctx).pfwd then s.poisonStop q va
    else
      let bs := new (s.bytesOf ps)
      .ok ((s.putParts ps bs bad).watchEngine e q va bs.length true)

/-- R307, R116, R308: one element added into a far destination, which may pass from one page to the next. One of which a part lies at a peer
the peer adds. DESIGN CHOICE: log entry 182. -/
def State.addFar (s : State) (e : Nat) (q : Cmd) (va tc src : Nat) : Sent :=
  let ty := Ty.ofCode tc
  let n := ty.bits / 8
  let x := leNat (s.bytesAt src n)
  match s.xlatParts e q (pageParts va n) with
  | (.error v, s1) => .fail s1 v
  | (.ok fs, s1) =>
    match fs.find? fun f => f.1.addr.isNone with
    | none =>
      s1.alter e q va (fs.filterMap fun f => f.1.addr.map fun a => (a, f.2)) (fs.any fun f => f.1.tgt == 1) (s1.poisoned src n)
        fun old => toLe n (addElem ty (leNat old) x)
    | some f => (s1.sendData e q f.1.peer
        { op := 2, cls := 0, key := va / 64, size := sizeCode n, addr := va,
          body := atomBody 0 tc (BitVec.ofNat 64 x) 0, psn := s1.poisoned src n, cont := .ack }).watched e q va n

/-- One step of a command. -/
def State.micro (s : State) (e : Nat) (q : Cmd) (m : Micro) : Sent :=
  match m with
  | .copy src dst n => s.copyPiece e q src dst n
  | .put dst bs psn => s.endPut e q dst bs psn
  | .add src dst tc =>
    let ty := Ty.ofCode tc
    let n := ty.bits / 8
    match dst with
    | .near a =>
      .ok (s.engineNear e q a (toLe n (addElem ty (leNat (s.bytesAt a n)) (leNat (s.bytesAt src n)))) (s.poisoned a n || s.poisoned src n))
    | .far va => s.addFar e q va tc src
  | .atom va op tc b0 b1 dst =>
    let ty := Ty.ofCode tc
    match s.xlat e q va true with
    | (.error v, s1) => .fail s1 v
    | (.ok f, s1) =>
      match f.addr with
      | some a =>
        let n := ty.bits / 8
        match s1.alter e q va [(a, n)] (f.tgt == 1) false fun old => toLe n (atomNew op ty (leNat old) b0.toNat b1.toNat) with
        | .ok t => .ok (t.engineNear e q dst (toLe 8 (leNat (s1.bytesAt a n))) (s1.poisoned a n))
        | r => r
      | none => (s1.sendReq e q.ctx f.peer
          { op := 2, cls := 0, key := va / 64, size := sizeCode (ty.bits / 8), addr := va, body := atomBody op tc b0 b1,
            cont := .near dst 8 }).watched e q va (ty.bits / 8)

end Sys2Proof.Machine
end

