-- ==== Sys2Proof/Machine/EngineCmd.lean ====
section
/-!
DEFINITION. Engine commands (R305 to R311, R91, R92, R169): their issue, and what a copy engine with the shipped
microcode makes of them.
-/

namespace Sys2Proof.Machine

/-! ## Operands (R306) -/

/-- R306: the elements of a vector operand that reach a command: those of its first 16 bytes. -/
def View.cmdLen (v : View) : Nat := if v.shape = 0 then 1 else min v.len ((128 + v.ty.bits - 1) / v.ty.bits)

/-- R306: the access of a command's operand. -/
def cmdAcc (v : View) : Acc := ⟨v, 0, false, v.cmdLen⟩

/-- R306: an operand extended to 128 bits. -/
def Acc.cmdVal (s : State) (q : Acc) : BitVec 128 :=
  if q.v.h = 54 then 0
  else if q.v.shape = 0 then
    BitVec.ofNat 128 (if q.v.ty.isSigned then wrap 128 (q.v.ty.intVal (q.elem s 0)) else q.elem s 0)
  else BitVec.ofNat 128 (((List.range q.v.cmdLen).map fun i => q.elem s i * 2 ^ (i * q.v.ty.bits)).sum)

/-! ## Issue (R305) -/

/-- R155, R146, R166: whether a store of a slot that waits in its release queue stands behind another access, so that a kick cannot perform it
yet. -/
def State.storeStuck (s : State) (c k : Nat) : Bool :=
  (List.range s.net.length).any fun i => match s.net[i]? with
    | some (.nearSt c' k' fid ord a bs) => c' == c && k' == k &&
        (s.moving (a / 2 ^ 17) || s.testing a bs.length || s.behindFence i c k || s.earlier i fun o => match o with
          | .nearSt _ _ _ _ _ _ => false
          | o => ord && o.scrumOf == some (c, k, fid) || (match o.nearSpan with | some u => sameWords u (c, k, a, bs.length) | none => false))
    | _ => false

/-- R169, R92: a kick waits for the near writes of the issuing firing that have not performed, and for an earlier kick of its slot;
the stores in a release queue the kick itself performs, once they can be. DEDUCED: log entry 68. -/
def State.kickWaits (s : State) : Bool :=
  s.storeStuck s.curCore s.curSlot || s.net.any fun p => match p with
    | .nearSt _ _ _ _ _ _ => false
    | .kick q => q.core == s.curCore && q.slot == s.curSlot
    | p => p.writes s.curCore s.curSlot

/-- R311: a firing bound as a feeder of a counter. -/
def State.feed (s : State) (c k fid key : Nat) : State :=
  if (s.firing c k fid).feeds.contains key then s
  else
    let p := mget s.pitch key Pitch.reset
    ({ s with pitch := mput s.pitch key { p with feeders := p.feeders + 1 } }).updFiring c k fid fun x =>
      { x with feeds := key :: x.feeds }

/-- R311: the counter an extension binds its firing to. -/
def Cmd.feedKey (q : Cmd) : Option Nat :=
  if q.code = 9 ∧ q.op = 1 ∧ q.b.toNat ≤ 63 then some (pitchKey (dieOf q.core) q.ctx q.b.toNat) else none

/-- R277, R92: whether a command is held in the commit buffer of a restartable firing: `RED`, `RATM`, `BSIG`, `RINV` and `WQRY`, and one that
would pass an older held command or write of its slot (R169). DEDUCED: log entry 147. -/
def Slot.holdsCmd (x : Slot) (code : Nat) : Bool :=
  decide (5 ≤ code) || x.cbuf.any fun e => match e with | .cmd _ | .atomic _ | .mdrp _ => true | _ => false

/-- R305, R310: a command packed and delivered: held, or kicked at once. -/
def State.sendCmd (s : State) (code : Nat) (op : BitVec 8) (dq : Acc) (a b c e : Option Acc) (n : Bool) (g : BitVec 3) :
    State :=
  let x := s.cur
  let val (q : Option Acc) : BitVec 128 := match q with | some q => q.cmdVal s | none => 0
  let m := s.mark dq 4 (x.holdsCmd code && x.restart) false true
  let w := if code = 8 then m.2.closeMsg else ([], m.2)
  let q : Cmd := ⟨x.ctx, s.curCore, s.curSlot, x.fid, dq.v.h, code, op, val a, val b, val c, val e,
    if x.guardOpen g then some (g.toNat, n) else none, m.1, w.1⟩
  let t := match q.guard, q.feedKey with
    | none, some key => w.2.feed s.curCore s.curSlot x.fid key
    | _, _ => w.2
  if x.holdsCmd code then t.hold (.cmd q) else (t.drainStores s.curCore s.curSlot).enqueueCmd q

/-- R305: an engine command at issue. -/
def cmdVerdict (code : Nat) (op : BitVec 8) (opBad : Bool) (d : BitVec 6) (a b c e : Option (BitVec 6)) (n : Bool)
    (g : BitVec 3) (s : State) : Verdict :=
  let dv := s.view d.toNat
  let acc (h : Option (BitVec 6)) : Option Acc := h.map fun h => cmdAcc (s.view h.toNat)
  let dq : Acc := ⟨dv, 0, true, 1⟩
  let srcs := [acc a, acc b, acc c, acc e].filterMap id
  if opBad then .trap { code := 8 }
  else
    let go : State → Verdict := fun s =>
      s.gated (dq :: srcs) [] [opTrap dv.h (!(dv.isN32 && !dv.ring && !dv.fixed))] [] fun _ =>
        if s.cur.pendFull then .wait .pending [] false
        else if 32 ≤ (s.engine (clusterOf s.curCore)).queue.length then .wait .drain [] false
        else if s.kickWaits then .wait .drain [] false
        else if s.cur.holdsCmd code ∧ s.cur.holdWaits = true then .wait .drain [] true
        else .done (s.sendCmd code op dq (acc a) (acc b) (acc c) (acc e) n g)
    if s.cur.guardOpen g then go s else s.guarded n g (dq :: srcs) go

/-- R307: the `op` values of a copy. -/
def copyOpBad (op : BitVec 8) : Bool := decide (4 ≤ op.toNat)

/-- R307: the element types of `RED`. -/
def redTypes : List Nat := [2, 3, 6, 7, 8, 9, 10]

/-- R307: an `op` value that `RED` does not list. -/
def redOpBad (op : BitVec 8) : Bool := !redTypes.contains (op.toNat % 16) || decide (32 ≤ op.toNat)

/-- R307: an `op` value that `RATM` does not list. -/
def ratmOpBad (op : BitVec 8) : Bool :=
  let o := op.toNat / 16
  let t := op.toNat % 16
  decide (9 ≤ o) || !([2, 3, 6, 7].contains t || (t == 8 && [0, 1, 2, 6, 7].contains o))

/-- R307: `CPY`. -/
def execCpy (c b a d : BitVec 6) (n : Bool) (g : BitVec 3) (op : BitVec 8) (s : State) : Out :=
  .next (s.issue (.cpy c b a d n g op) (cmdVerdict 0 op (copyOpBad op) d (some a) (some b) (some c) none n g))

/-- R307: `CPYS`. -/
def execCpys (c b a d : BitVec 6) (n : Bool) (g : BitVec 3) (op : BitVec 8) (s : State) : Out :=
  .next (s.issue (.cpys c b a d n g op) (cmdVerdict 1 op (copyOpBad op) d (some a) (some b) (some c) none n g))

/-- R307: `GATH`. -/
def execGath (e c b a d : BitVec 6) (n : Bool) (g : BitVec 3) (s : State) : Out :=
  .next (s.issue (.gath e c b a d n g) (cmdVerdict 2 0 false d (some a) (some b) (some c) (some e) n g))

/-- R307: `SCAT`. -/
def execScat (e c b a d : BitVec 6) (n : Bool) (g : BitVec 3) (s : State) : Out :=
  .next (s.issue (.scat e c b a d n g) (cmdVerdict 3 0 false d (some a) (some b) (some c) (some e) n g))

/-- R307: `FILL`. -/
def execFill (c b a d : BitVec 6) (n : Bool) (g : BitVec 3) (op : BitVec 8) (s : State) : Out :=
  .next (s.issue (.fill c b a d n g op) (cmdVerdict 4 op (decide (2 ≤ op.toNat)) d (some a) (some b) (some c) none n g))

/-- R307: `RED`. -/
def execRed (c b a d : BitVec 6) (n : Bool) (g : BitVec 3) (op : BitVec 8) (s : State) : Out :=
  .next (s.issue (.red c b a d n g op) (cmdVerdict 5 op (redOpBad op) d (some a) (some b) (some c) none n g))

/-- R307: `RATM`; its fifth operand is read by `cas` alone. -/
def execRatm (e c b a d : BitVec 6) (n : Bool) (g : BitVec 3) (op : BitVec 8) (s : State) : Out :=
  .next (s.issue (.ratm e c b a d n g op)
    (cmdVerdict 6 op (ratmOpBad op) d (some a) (some b) (some c) (if op.toNat / 16 = 7 then some e else none) n g))

/-- R307: `BSIG`. -/
def execBsig (a d : BitVec 6) (n : Bool) (g : BitVec 3) (s : State) : Out :=
  .next (s.issue (.bsig a d n g) (cmdVerdict 7 0 false d (some a) none none none n g))

/-- R307: `RINV`. DEDUCED: log entry 70. -/
def execRinv (b a d : BitVec 6) (n : Bool) (g : BitVec 3) (s : State) : Out :=
  .next (s.issue (.rinv b a d n g) (cmdVerdict 8 0 false d (some a) (some b) none none n g))

/-- R311: `WQRY`, the query. -/
def execWqryQuery (b a d : BitVec 6) (n : Bool) (g : BitVec 3) (s : State) : Out :=
  .next (s.issue (.wqryQuery b a d n g) (cmdVerdict 9 0 false d (some a) (some b) none none n g))

/-- R311: `WQRY`, the extension. -/
def execWqryExtend (b a d : BitVec 6) (n : Bool) (g : BitVec 3) (s : State) : Out :=
  .next (s.issue (.wqryExtend b a d n g) (cmdVerdict 9 1 false d (some a) (some b) none none n g))

/-! ## What a command does (R307) -/

/-- R71: whether n far bytes lie in the 57-bit form. -/
def farOk (v n : Nat) : Bool := decide (v + n ≤ 2 ^ 57)

/-- An end of a copy. -/
def mkEnd (far : Bool) (a : Nat) : End := if far then .far a else .near a

/-- R307: the accesses of one run of n bytes copied. -/
def copies (n src dst : Nat) (fs fd : Bool) : List Micro :=
  (cuts n n src dst fs fd).map fun p => .copy (mkEnd fs p.1) (mkEnd fd p.2.1) p.2.2

/-- R307: the reads and writes of a copy's two sides. -/
def copySides (op : BitVec 8) : Bool × Bool := (op == 0 || op == 2, op == 1 || op == 2)

/-- Word i of a 128-bit operand. -/
def wordOf (v : BitVec 128) (i : Nat) : Nat := bits v.toNat (32 * i) 32

/-- R307: `GATH` and `SCAT`: count and element size, if admitted. -/
def gathShape (e : BitVec 128) : Option (Nat × Nat) :=
  let n := bits e.toNat 16 16
  let z := bits e.toNat 0 8
  if bits e.toNat 8 8 = 0 ∧ bits e.toNat 32 96 = 0 ∧ 1 ≤ n ∧ n ≤ 4096 ∧ [1, 2, 4, 8, 16, 32, 64].contains z = true then some (n, z)
  else none

/-- R307: the near ranges of a command: each lies within one slice. -/
def Cmd.nears (q : Cmd) : List (Nat × Nat) :=
  let a := q.a.toNat
  let b := q.b.toNat
  let c := q.c.toNat
  let sd := copySides q.op
  match q.code with
  | 0 => (if sd.1 then [] else [(b, c)]) ++ (if sd.2 then [] else [(a, c)])
  | 1 =>
    let span (pitch : Nat) := (wordOf q.c 1 - 1) * pitch + wordOf q.c 0
    (if sd.1 then [] else [(b, span (wordOf q.c 3))]) ++ (if sd.2 then [] else [(a, span (wordOf q.c 2))])
  | 2 => match gathShape q.e with | some (n, z) => [(c, 4 * n), (a, n * z)] | none => []
  | 3 => match gathShape q.e with | some (n, z) => [(c, 4 * n), (b, n * z)] | none => []
  | 4 => if q.op = 1 then [(a, c)] else []
  | 5 =>
    let n := c * ((Ty.ofCode (q.op.toNat % 16)).bits / 8)
    (b, n) :: (if 16 ≤ q.op.toNat then [(a, n)] else [])
  | 6 => [(c, 8)]
  | 7 => if refPeer a || decide (2 ^ 64 ≤ a) || (refTrap 0 a).isSome then [] else [(refHome a, 64)]
  | 9 => if q.op = 0 then [(a, 8)] else []
  | _ => []

/-- R307, R308: the steps of `CPY`, or 9. -/
def planCpy (q : Cmd) : Except Nat (List Micro) :=
  let sd := copySides q.op
  let n := q.c.toNat
  if 2 ^ 30 < n ∨ (sd.1 && !farOk q.b.toNat n) ∨ (sd.2 && !farOk q.a.toNat n) then .error 9
  else .ok (copies n q.b.toNat q.a.toNat sd.1 sd.2)

/-- R307: the steps of `CPYS`, or 9. -/
def planCpys (q : Cmd) : Except Nat (List Micro) :=
  let sd := copySides q.op
  let rb := wordOf q.c 0
  let rows := wordOf q.c 1
  let far (v pitch : Nat) : Bool := farOk v ((rows - 1) * pitch + rb)
  if rb = 0 ∨ 2 ^ 20 < rb ∨ rows = 0 ∨ 65536 < rows ∨ (sd.1 && !far q.b.toNat (wordOf q.c 3))
      ∨ (sd.2 && !far q.a.toNat (wordOf q.c 2)) then .error 9
  else .ok ((List.range rows).flatMap fun r =>
    copies rb (q.b.toNat + r * wordOf q.c 3) (q.a.toNat + r * wordOf q.c 2) sd.1 sd.2)

/-- R307: the steps of `GATH` (and of `SCAT`, in list order), or the value its token takes. -/
def State.planGath (s : State) (q : Cmd) (scat : Bool) : Except Nat (List Micro) :=
  match gathShape q.e with
  | none => .error 9
  | some (n, z) =>
    let idx (i : Nat) := leNat (s.bytesAt (q.c.toNat + 4 * i) 4) * z
    let base := if scat then q.a.toNat else q.b.toNat
    if (List.range n).all fun i => farOk (base + idx i) z then
      .ok ((List.range n).flatMap fun i =>
        if scat then copies z (q.b.toNat + i * z) (q.a.toNat + idx i) false true
        else copies z (q.b.toNat + idx i) (q.a.toNat + i * z) true false)
    else .error 9

/-- R418: whether the shipped microcode meets poison in the indices that it loads for a command. -/
def State.badIndex (s : State) (q : Cmd) : Bool :=
  (q.code == 2 || q.code == 3) && (match gathShape q.e with | some (n, _) => s.poisoned q.c.toNat (4 * n) | none => false)

/-- R307: the steps of `FILL`, or 9. DEDUCED: log entry 69. -/
def planFill (q : Cmd) : Except Nat (List Micro) :=
  let far := q.op == 0
  let n := q.c.toNat
  if far && !farOk q.a.toNat n then .error 9
  else
    let byte (j : Nat) : Byte := BitVec.ofNat 8 (bits q.b.toNat (8 * (j % 8)) 8)
    .ok ((cuts n n 0 q.a.toNat false far).map fun p =>
      .put (mkEnd far p.2.1) ((List.range p.2.2).map fun i => byte (p.1 + i)) false)

/-- R307: the steps of `RED`, or 9. -/
def planRed (q : Cmd) : Except Nat (List Micro) :=
  let t := q.op.toNat % 16
  let z := (Ty.ofCode t).bits / 8
  let far := decide (q.op.toNat < 16)
  let n := q.c.toNat
  if n = 0 ∨ 2 ^ 24 < n ∨ (far && !farOk q.a.toNat (n * z)) then .error 9
  else .ok ((List.range n).map fun i => .add (q.b.toNat + i * z) (mkEnd far (q.a.toNat + i * z)) t)

/-- R307, R289: the one step of `RATM`, or 9. For `cas` the operand of R289 is the compare value and then b. -/
def planRatm (q : Cmd) : Except Nat (List Micro) :=
  let t := q.op.toNat % 16
  let o := q.op.toNat / 16
  let z := (Ty.ofCode t).bits / 8
  let low (v : BitVec 128) : W64 := BitVec.ofNat 64 (bits v.toNat 0 (8 * z))
  if farOk q.a.toNat z = false ∨ q.a.toNat % z ≠ 0 then .error 9
  else .ok [.atom q.a.toNat o t (if o = 7 then low q.e else low q.b) (if o = 7 then low q.b else 0) q.c.toNat]

/-- The steps of a command of codes 0 to 6, or the value its token takes. -/
def State.plan (s : State) (q : Cmd) : Except Nat (List Micro) :=
  match q.code with
  | 0 => planCpy q
  | 1 => planCpys q
  | 2 => s.planGath q false
  | 3 => s.planGath q true
  | 4 => planFill q
  | 5 => planRed q
  | _ => planRatm q

/-! ## Running a command -/

/-- R170: the command ends once every access has performed: its token is released. One that loaded microcode still works
on does not end here. -/
def State.endCmd (s : State) (e : Nat) : State :=
  let en := s.engine e
  let st := (s.slot (engineKey e) 0).st
  match en.cur with
  | none => s
  | some q =>
    if en.todo.isEmpty && en.outst == 0 && st != .running && st != .halted then
      (s.updEngine e fun en => { en with cur := none, status := 0 }).push (.token q.ret en.status)
    else s

/-- R308: the command will end with a value, and does nothing more. -/
def State.failCmd (s : State) (e v : Nat) : State :=
  (s.updEngine e fun en => { en with todo := [], status := BitVec.ofNat 32 v }).endCmd e

/-- The near bytes a step of a command reads or writes. -/
def Micro.nears (m : Micro) : List (Nat × Nat) :=
  let near (e : End) (n : Nat) : List (Nat × Nat) := match e with | .near a => [(a, n)] | .far _ => []
  match m with
  | .copy src dst n => near src n ++ near dst n
  | .put dst bs _ => near dst bs.length
  | .add src dst tc => (src, (Ty.ofCode tc).bits / 8) :: near dst ((Ty.ofCode tc).bits / 8)
  | .atom _ _ _ _ _ dst => [(dst, 8)]

/-- The steps of the command in progress, until one must wait (for a tag, a plane, or a block under test, R426) or the command ends. DESIGN CHOICE: log entry 157. -/
def State.runTodo (s : State) (e k : Nat) : State :=
  match k with
  | 0 => s.endCmd e
  | k + 1 =>
    match (s.engine e).cur, (s.engine e).todo with
    | some q, m :: rest =>
      if m.nears.any fun p => s.testing p.1 p.2 then s
      else
      match s.micro e q m with
      | .ok t => State.runTodo (t.updEngine e fun en => { en with todo := rest }) e k
      | .wait => s
      | .fail t v => t.failCmd e v
    | _, _ => s.endCmd e

/-- R77, R307: the phase in which a `BSIG` of a firing arrives at a barrier. -/
def State.noteSignal (s : State) (h : Nat) (q : Cmd) : State :=
  s.updFiring q.core q.slot q.fid fun x => { x with sigs := mput x.sigs h (s.objPhase h) }

/-- R307, R172: an arrival of `BSIG` at its barrier: here, or as a far release. -/
def State.signal (s : State) (e : Nat) (q : Cmd) : State :=
  let r := q.a.toNat
  let h := refHome r
  let o : ObjReq := ⟨.bara, BitVec.ofNat 64 r, 0, q.ctx, q.core, q.slot, q.fid, none⟩
  if 2 ^ 64 ≤ r ∨ (refTrap 0 r).isSome then s.failCmd e 9
  else if refPeer r then
    let req : Req := ⟨3, 1, h / 64, 0, h / 2 ^ 17, s.objImage o, false, 0, .value, 0⟩
    match s.farRelease e q.ctx (bits r 31 5) req with
    | (.ok t, lost) =>
      let u := t.updFiring q.core q.slot q.fid fun x => { x with sigs := mput x.sigs (lockKey r) 0 }
      if lost then u.updEngine e (fun en => { en with status := 0x40 }) else u
    | (.wait, _) => s.updEngine e fun en => { en with cur := none, parked := q :: en.parked }
    | (.fail t v, _) => t.failCmd e v
  else if s.net.any (fun p => match p with | .clear _ ctx src (.home u) => ctx == q.ctx && src == q.core && u == h | _ => false) then
    s.updEngine e fun en => { en with cur := none, parked := q :: en.parked }
  else if !s.nearOk h 64 || !s.objSuits h .bara then s.failCmd e 9
  else ((((s.makeLive h).lateNotices h o).noteSignal h q).arriveBar h).endCmd e

/-- R307, R392: `RINV` sent across the fabric: its token lands with the peer's answer. -/
def State.invoke (s : State) (e : Nat) (q : Cmd) : State :=
  let core := bits q.a.toNat 0 14
  let peer := bits q.a.toNat 16 5
  let ctl := q.b.toNat
  if bits q.a.toNat 14 2 ≠ 0 ∨ 2 ^ 21 ≤ q.a.toNat ∨ numCores ≤ core ∨ 2 ^ 32 ≤ ctl ∨ bits ctl 27 2 ≠ 1 ∨ bits ctl 24 3 ≠ 0
      ∨ bits ctl 0 12 ≠ 0 then s.failCmd e 9
  else
    let hdr := mkHdr 0 q.handle q.slot s.now.toNat s.pos.toNat q.core (bits ctl 29 3) 1 (flitsOf q.words.length - 1)
      (bits ctl 12 12) 0 q.ctx
    let body := toLe 16 hdr.toNat ++ q.words.flatMap (fun w => toLe 4 w.toNat)
    match s.sendReq e q.ctx peer ⟨3, 1, q.core * 2 ^ 14 + core, 0, core, body, false, 0, .tok q.ret, 0⟩ with
    | .ok t => t.updEngine e fun en => { en with cur := none, status := 0 }
    | .wait => s.updEngine e fun en => { en with cur := none, queue := q :: en.queue }
    | .fail t v => t.failCmd e v

/-- R311: a query, or an extension. -/
def State.wqry (s : State) (e : Nat) (q : Cmd) : State :=
  let key := pitchKey (dieOf q.core) q.ctx q.b.toNat
  if 63 < q.b.toNat then s.failCmd e 9
  else
    let p := mget s.pitch key Pitch.reset
    if q.op = 1 then
      if q.a.toNat = 0 ∨ 65535 < q.a.toNat ∨ 65536 < p.y + q.a.toNat then s.failCmd e 9
      else (({ s with pitch := mput s.pitch key { p with y := p.y + q.a.toNat } }).servePitch key p.waiting.length).endCmd e
    else if q.a.toNat % 8 ≠ 0 then s.failCmd e 9
    else
      (({ s with pitch := mput s.pitch key { p with waiting := p.waiting ++ [q] } }).updEngine e fun en =>
        { en with cur := none }).servePitch key (p.waiting.length + 1)

/-- R307: the shipped microcode takes a command. -/
def State.runCmd (s : State) (e : Nat) (q : Cmd) : State :=
  let s1 := s.updEngine e fun en => { en with cur := some q, todo := [], outst := 0, status := 0 }
  if !q.nears.all fun p => s1.nearOk p.1 p.2 then s1.failCmd e 9
  else
    match q.code with
    | 7 => s1.signal e q
    | 8 => s1.invoke e q
    | 9 => s1.wqry e q
    | _ =>
      if s1.badIndex q then s1.microPoison e
      else
      match s1.plan q with
      | .error v => s1.failCmd e v
      | .ok l => State.runTodo (s1.updEngine e fun en => { en with todo := l }) e (l.length + 1)

/-- R307: whether a parked `BSIG`'s older commands have completed: none of its slot waits for the fabric or for a pitch
counter, and none stands parked before it. DEDUCED: log entry 72. -/
def State.olderDone (s : State) (e : Nat) (q : Cmd) : Bool :=
  let en := s.engine e
  let older (r : Ret) : Bool := r.core == q.core && r.slot == q.slot && decide (r.id < q.ret.id)
  !(en.tags.any fun t => t.2.busy && (match t.2.cont with | .tok r => older r | _ => false))
    && !(s.pitch.any fun p => p.2.waiting.any fun w => older w.ret)
    && !en.parked.any fun w => older w.ret

/-- R91: what a queued command's guard says: `none` while it is unresolved. -/
def State.cmdGuard (s : State) (q : Cmd) : Option Bool :=
  match q.guard with
  | none => some true
  | some (g, n) =>
    let x := s.firing q.core q.slot q.fid
    if x.guardOpen (BitVec.ofNat 3 g) then none else some (x.guardOn (BitVec.ofNat 3 g) n)

/-- R379, R426: whether a near operand of a command, or the barrier of a `BSIG`, lies in a slice that is being copied to a spare, or in a
block under test. -/
def State.cmdMoves (s : State) (q : Cmd) : Bool :=
  (q.nears ++ if q.code = 7 ∧ refPeer q.a.toNat = false then [(refHome q.a.toNat, 64)] else []).any fun p => let c := s.core (p.1 / 2 ^ 17); (c.fenced && c.remap) || s.testing p.1 p.2

/-- R306: the 72-byte record. -/
def Cmd.record (q : Cmd) : List Byte :=
  toLe 4 (q.ctx * 2 ^ 24 + q.slot * 2 ^ 22 + q.handle % 64 * 2 ^ 16 + q.core)
    ++ toLe 4 (q.op.toNat * 2 ^ 24 + q.code / 8 * 8 + q.code % 8)
    ++ toLe 16 q.a.toNat ++ toLe 16 q.b.toNat ++ toLe 16 q.c.toNat ++ toLe 16 q.e.toNat

/-- R306: a command handed to loaded microcode: its record, and the thread started at its entry. -/
def State.handCmd (s : State) (e : Nat) (q : Cmd) : State :=
  let en := s.engine e
  let s1 := s.updEngine e fun en => { en with cur := some q, todo := [], outst := 0, status := 0 }
  (s1.setBytes (rsAddr (engineKey e) 0) q.record).updSlot (engineKey e) 0 fun x =>
    { x with st := .running, pc := en.uentry, restart := false, wait := .none, outMsg := q.words, pend := [] }

/-- R306, R91, R92: the engine takes the command at the head of its queue. A parked `BSIG` goes first, and a `BSIG` whose
slot's older commands are still open is parked. -/
def State.takeCmd (s : State) (e : Nat) : State :=
  let en := s.engine e
  match en.parked.find? fun q => s.olderDone e q && !s.cmdMoves q with
  | some q => State.runCmd (s.updEngine e fun en => { en with parked := en.parked.erase q }) e q
  | none =>
    match en.queue with
    | [] => s
    | q :: rest =>
      match s.cmdGuard q with
      | none => s
      | some false => (s.updEngine e fun en => { en with queue := rest }).unmark q.ret
      | some true =>
        if s.cmdMoves q then s
        else
          let s1 := s.updEngine e fun en => { en with queue := rest }
          let s2 := match q.guard, q.feedKey with
            | some _, some key => s1.feed q.core q.slot q.fid key
            | _, _ => s1
          if en.ucode then s2.handCmd e q
          else if q.code = 7 ∧ !s2.olderDone e q then
            s2.updEngine e fun en => { en with parked := en.parked ++ [q] }
          else s2.runCmd e q

/-- R169, R305: the first kick on its way to an engine whose firing's earlier writes, and earlier kicks, have gone before it; it waits
for a free entry of the queue. -/
def State.nextKick (s : State) (e : Nat) : Option Nat :=
  if 32 ≤ (s.engine e).queue.length then none
  else
    (List.range s.net.length).find? fun k => match s.net[k]? with
      | some (.kick q) => clusterOf q.core == e && !(s.earlier k fun p => p.writes q.core q.slot ||
          (match p with | .kick u => u.core == q.core && u.slot == q.slot | _ => false))
      | _ => false

/-- R169: the kicks that can go enter the engine's queue; k bounds their number. -/
def State.takeKicks (s : State) (e k : Nat) : State :=
  match k with
  | 0 => s
  | k + 1 =>
    match s.nextKick e with
    | none => s
    | some j =>
      match s.net[j]? with
      | some (.kick q) => State.takeKicks ((s.taken j).enqueueCmd q) e k
      | _ => s

/-- R306, R91, R92: ENGINE_COMMAND_START: the kicks under way reach their queue, and an engine that is not halted goes on with its command, or takes the next. -/
def execEngineCommandStart (cluster : Nat) (s₀ : State) : Out :=
  let s := s₀.takeKicks cluster s₀.net.length
  let en := s.engine cluster
  .next (if en.hid ≠ 0 then s
    else match en.cur with
      | some _ => if en.ucode then s else s.runTodo cluster en.todo.length
      | none => s.takeCmd cluster)

end Sys2Proof.Machine
end

