-- ==== Sys2Proof/Machine/Turns.lean ====
section
/-!
DEFINITION. What a turn of the agenda uses beside the meanings: which slot of a core issues (R12, R20), the next
instruction of a repetition (R272), and soft errors as they strike (R417, R422).
-/

namespace Sys2Proof.Machine

/-- R272: the instruction a running repetition issues next. -/
def Slot.nextBody (x : Slot) : Option Instr :=
  match x.rep with
  | some r => if r.active then (r.body[r.j]?).map Prod.fst else none
  | none => none

/-- R144: whether a slot of a core issues there at a level: its own firing, or that of the scrum it is a member of, whose block runs on
the core. -/
def State.issuesAt (s : State) (c p k : Nat) : Bool :=
  let q := s.ownerOf c k
  let x := s.slot q.1 q.2
  x.runs && x.pri == p && s.seatOf q.1 q.2 == c

/-- R12, R20: the running slots of one level, round-robin after the slot that issued last there; before any has issued, from slot 0 on.
DESIGN CHOICE: log entry 168. -/
def State.levelOrder (s : State) (c p : Nat) : List Nat :=
  let last := mget (s.core c).issued p 3
  ((List.range 4).map fun i => (last + 1 + i) % 4).filter (s.issuesAt c p)

/-- R12, R20: the running slots of a core in the order in which they may issue; none issues on a fenced core (R378). -/
def State.issueOrder (s : State) (c : Nat) : List Nat :=
  if (s.core c).fenced then [] else (List.range 8).reverse.flatMap (s.levelOrder c)

/-- Whether the firing of a slot was left waiting, so that the next slot may issue in its place. -/
def State.slotWaits (s : State) (c k : Nat) : Bool :=
  let x := s.slot (s.ownerOf c k).1 (s.ownerOf c k).2
  x.st == .running && x.wait != .none

/-- R127: the trap of a keeper's reserved scale, taken at an instruction boundary. -/
def State.keeperTrap (s : State) (b : Nat) : State :=
  (s.updCur fun x => { x with kfault := none }).trapCur { code := 0x10, handle := 52, elem := b }

/-- Free values for n bytes: what a soft error leaves in bytes whose parity then fails. -/
def State.scramble (s : State) (a n : Nat) : State :=
  match n with
  | 0 => s
  | n + 1 => let r := s.free; State.scramble (r.2.setBytes a [BitVec.ofNat 8 r.1]) (a + 1) n

/-- R321, R175: private contents written to a save area: free values; run-ahead entries of their words are discarded. -/
def State.scrambleArea (s : State) (a n : Nat) : State := (s.scramble a n).flushRa a n

/-- R419: entry i of the replay queue of a core loses the parity of its captured sources. -/
def State.spoiled (s : State) (c i : Nat) : State :=
  if c < numCores then s.updCore c fun x => { x with replay := x.replay.modify i fun r => { r with bad := true } } else s

/-- R417: an uncorrectable error in n bytes: register bytes lose their parity, slice words and HBM sectors are poisoned
and recorded; a sector that was stored poisoned raises no new record (R422). DESIGN CHOICE: log entry 25. DEDUCED: log entry 131. -/
def State.upset (s : State) (a n : Nat) : State :=
  if a < 2 ^ 31 then
    let r : ErrRec := { code := 0x60, ctx := none, src := 1, fate := 0, lcore := a / 2 ^ 17, slot := 0, addr := a }
    (s.addPoison a n).record r
  else if 2 ^ 32 ≤ a ∧ a < 2 ^ 52 then
    let s1 := s.scramble a n
    { s1 with parity := s1.parity ++ ((List.range n).map (a + ·)).filter fun b => !s1.parity.contains b }
  else if 2 ^ 52 ≤ a ∧ a < hbmAddr hbmBytes then
    let us := (List.range ((a + n - 1) / 256 - a / 256 + 1)).map fun i => (a / 256 + i) * 256
    match us.find? fun u => !s.poison.contains u with
    | none => s
    | some u =>
      let pa := u - 2 ^ 52
      ((s.addPoison a n).updDie (sectorDie pa) fun d => { d with hue := bump d.hue }).record (hbmRec 0x61 pa 0 none)
  else s

/-- R417: a corrected error: counted for a slice word and for an HBM sector. -/
def State.corrected (s : State) (a : Nat) : State :=
  if a < 2 ^ 31 then s.updCore (a / 2 ^ 17) fun x => { x with ce := bump x.ce }
  else if 2 ^ 52 ≤ a ∧ a < hbmAddr hbmBytes then s.updDie (sectorDie (a - 2 ^ 52)) fun d => { d with hce := bump d.hce }
  else s

/-- R422: a sector of HBM whose tag no longer fits. -/
def State.tamper (s : State) (a : Nat) : State :=
  let u := a / 256 * 256
  if 2 ^ 52 ≤ a ∧ a < hbmAddr hbmBytes ∧ s.tampered.contains u = false then { s with tampered := s.tampered ++ [u] } else s

/-- R393: what the receiver of a plane reports: light on the fibre, and codewords corrected and uncorrectable, which saturate. DESIGN CHOICE: log entry 161. -/
def State.line (s : State) (p : Nat) (lit : Bool) (cor unc : Nat) : State :=
  if p < 96 then
    let x := mget s.fab.planes p Plane.reset
    let add (v : W32) (n : Nat) : W32 := BitVec.ofNat 32 (min (v.toNat + n) (2 ^ 32 - 1))
    let y := { x with stat := BitVec.ofNat 32 (setBits x.stat.toNat 31 1 (if lit then 1 else 0)), cor := add x.cor cor, unc := add x.unc unc }
    { s with fab := { s.fab with planes := mput s.fab.planes p y } }
  else s

/-- R408: merged fetches of a core counted. DESIGN CHOICE: log entry 162. -/
def State.merged (s : State) (c n : Nat) : State := if c < numCores then s.updCore c (·.count 6 n) else s

end Sys2Proof.Machine
end

