-- ==== Sys2Proof/Machine/Matrix.lean ====
section
/-!
DEFINITION. Matrix work (R111 to R136, R275, R276): weight tiles, activation streams, teams, accumulators and drains. A
matrix instruction takes its effect as it issues; `MLW.c` and `MMA` wait there for their rows, and the rows of an `MDR` move on as
`mx.res` has room (R130).
-/

namespace Sys2Proof.Machine

/-! ## Ownership of the array (R133, R134) -/

/-- R134, R321: the matrix region of a firing's save area. -/
def State.arrayArea (s : State) (k fid : Nat) : Nat :=
  nearAddr s.curCore ((match s.saved.find? (fun v => v.body.fid == fid) with | some v => v.area | none => (s.slot s.curCore k).save) + 0x2F00)

/-- R134, R321: the array state of the firing that held the claim moves to the matrix region of its save area, and with what `SVS` saved of
it. -/
def State.evictArray (s : State) (k fid : Nat) : State :=
  let c := s.curCore
  let keep (y : Slot) : Slot := { y with marr := some s.curC.arr }
  let t := s.updFiring c k fid keep
  ({ t with saves := t.saves.map fun (p : Nat × Saved) => if p.2.body.fid = fid then (p.1, { p.2 with body := keep p.2.body }) else p }).scrambleArea
    (s.arrayArea k fid) 4096

/-- R133, R120: the executing firing takes the array: what was saved of it is restored; a firing that held none finds the
tile and the overflow bit that the array holds, its own format word at reset, and no rows. DEDUCED: log entry 75. -/
def State.takeArray (s : State) : State :=
  let x := s.cur
  let me := some (s.curSlot, x.fid)
  (s.updCore s.curCore fun y =>
    { y with arr := match x.marr with
        | some a => { a with claim := me, last := y.arr.last }
        | none => { y.arr with claim := me, afmt := MArr.reset.afmt, shadow := none, res := [], drain := [] } }).updCur fun y => { y with marr := none }

/-- R133, R134, R426: the claim of the array by the firing whose matrix instruction issues; none while another's firing runs, or while the
region its state goes to is under test. -/
def State.claimArray (s : State) : Option State :=
  match s.curC.arr.claim with
  | none => some s.takeArray
  | some (k, fid) =>
    if k = s.curSlot ∧ fid = s.cur.fid then some s
    else if (s.slot s.curCore k).fid = fid ∧ (s.slot s.curCore k).st = .running then none
    else if s.testing (s.arrayArea k fid) 4096 then none
    else some (s.evictArray k fid).takeArray

/-- R132, R133, R275: a matrix instruction: the array claimed, then its own effect. One that traps fills no shadow tile. -/
def State.matrix (s : State) (f : State → Verdict) : Verdict :=
  match s.claimArray with
  | none => .wait .array [] false
  | some t =>
    match f t with
    | .trap x => .stay ((t.updCore t.curCore fun y => { y with arr := { y.arr with shadow := none } }).trapCur x)
    | .wait w on c => .stay (t.waitCur w on c)
    | v => v

/-- R134: a rolled-back or abandoned firing releases the array and its state is discarded. -/
def State.discardArray (s : State) (c k fid : Nat) : State :=
  match (s.core c).arr.claim with
  | some (k', f) =>
    if k' = k ∧ f = fid then
      s.updCore c fun x => { x with arr := { MArr.reset with last := some (k, fid, (s.firing c k fid).ctx) } }
    else s
  | none => s

/-! ## Formats (R112, R117) -/

/-- R118: the weight and activation formats. -/
def mxFormat (t : Ty) : Bool := t == .i8 || t == .f16 || t == .bf16 || t == .e4m3 || t == .e5m2 || t == .i4x

/-- R111: the block-scaled formats. -/
def blockScaled (t : Ty) : Bool := t == .e4m3 || t == .e5m2 || t == .i4x

/-- R117: the depth of the array for a weight format. -/
def kMax (t : Ty) : Nat := if t = .i4x then 128 else if t = .f16 ∨ t = .bf16 then 32 else 64

/-- R112: the permitted pairings. -/
def pairOk (w a acc : Ty) : Bool := if w = .i8 ∨ a = .i8 then w == a && acc == .i32 else acc == .f32

/-- The first k chunks of n bytes of a list. -/
def chunksOf (n k : Nat) (bs : List Byte) : List W64 :=
  (List.range k).map fun i => BitVec.ofNat 64 (leNat ((bs.drop (n * i)).take n))

/-- R112, R108: k elements of a run of bytes as values, or the fault code of a reserved code. -/
def runVals (t : Ty) (k : Nat) (bs : List Byte) : List (Except Nat XNum) :=
  if t = .i4x then (i4xRow (bs.map BitVec.toNat)).take k |>.map fun v => match v with | .val x => .ok x | .bad c => .error c
  else (chunksOf (t.bits / 8) k bs).map fun v => .ok (t.num v.toNat)

/-- R107: an e8m0 scale byte. -/
def scaleVal (v : Byte) : Except Nat XNum := if v = 0xFF then .error 0x10 else .ok (e8m0Of v.toNat)

/-- R108: the trap of the lowest reserved code of a list of elements, counted over all rows and blocks that an instruction reads; a code among
values is named before one among scales. DESIGN CHOICE: log entry 174. -/
def badTrap (h : Nat) (l : List (Except Nat XNum)) : Option Trap :=
  match l.findIdx? (fun v => match v with | .error _ => true | .ok _ => false) with
  | none => none
  | some i => match l[i]? with | some (.error c) => some { code := c, handle := h, elem := i } | _ => none

/-- The values of a run, a reserved code counting as zero (it has trapped before). -/
def okVals (l : List (Except Nat XNum)) : List XNum := l.map fun v => match v with | .ok x => x | .error _ => .fin false 0 0

/-! ## Weight tiles (R118, R119, R127) -/

/-- R118: the columns of a tile view, K_t elements each. -/
def Acc.columns (s : State) (q : Acc) : List (List Byte) := (List.range 16).map (q.rowBytesOf s)

/-- R118: the columns of an `MLW.c`: the first bytes of the next 16 rows of `cl.op`. -/
def State.clopColumns (s : State) (n : Nat) : List (List Byte) :=
  (s.curC.clop.take 16).map fun r => toLe n r.toNat

/-- R118: the scales of each block and column. -/
def Acc.scales (s : State) (q : Acc) (form blocks : Nat) : List (List Byte) :=
  (List.range blocks).map fun b =>
    match form with
    | 0 => List.replicate 16 127
    | 1 => List.replicate 16 (BitVec.ofNat 8 (q.elem s b))
    | _ => q.rowBytesOf s b

/-- R118: the scale form a view gives. -/
def scaleForm (v : View) : Nat := if v.h = 54 then 0 else if v.shape = 1 then 1 else 2

/-- R118: the operand traps of a weight view. -/
def tileBad (v : View) : Bool :=
  v.fixed || v.ring || v.shape != 2 || v.rows != 16 || !mxFormat v.ty || decide (kMax v.ty < v.len)
    || (v.ty == .i4x && v.len % 2 == 1)

/-- R118: a scale view of a block-scaled format. -/
def scaleBad (v : View) : Bool := v.h != 54 && (v.fixed || v.ring || v.ty != .e8m0 || !(v.shape == 1 || v.shape == 2))

/-- R111, R118: whether the scale count fits: `zero` for an unscaled format, else ceil(K_t ÷ 32) scales (rows of 16). DEDUCED: log entry 77. -/
def scaleCountOk (w v : View) : Bool :=
  if blockScaled w.ty then
    (match scaleForm v with
      | 0 => false
      | 1 => v.len == (w.len + 31) / 32
      | _ => v.rows == (w.len + 31) / 32 && v.len == 16)
  else v.h == 54

/-- R125: whether the core is a team member. -/
def Core.teamOn (x : Core) : Bool := bits x.team.toNat 31 1 == 1

/-- R127: in keeper mode the epoch advances and the scales go to the keeper; 127 for every block of a tile that is not
scaled per tile. -/
def State.postTile (s : State) (t : Tile) : State :=
  if s.curC.teamOn then
    let ep := s.curC.epoch + 1
    let sw := if t.sform = 1 then t.scales.map (·.headD 127) else []
    let s1 := s.updCore s.curCore fun x => { x with epoch := ep, arr := { x.arr with tile := some { t with epoch := ep } } }
    let kp := coreOfMember (clusterOf s.curCore) (bits s.curC.team.toNat 16 4)
    s1.push (.kpost kp (memberOf s.curCore) ep ((sw ++ List.replicate 4 127).take 4))
  else s.updCore s.curCore fun x => { x with arr := { x.arr with tile := some { t with epoch := x.epoch } } }

/-- R118: the accesses of the tile and of its scales; `cl.op` and `zero` are no window, and the `.c` form touches no byte of its
tile view. -/
def tileAccs (cl : Bool) (wv sv : View) : List Acc :=
  (if cl || wv.fixed then [] else [⟨wv, 0, false, 0⟩]) ++ (if sv.fixed then [] else [⟨sv, 0, false, 0⟩])

/-- R118: the tile that an `MLW` (or `MLW.c`) reads. -/
def State.readTile (s : State) (cl : Bool) (wv sv : View) : Tile :=
  let form := scaleForm sv
  ⟨wv.ty.code, wv.len, if cl then s.clopColumns ((wv.len * wv.ty.bits + 7) / 8) else (⟨wv, 0, false, 0⟩ : Acc).columns s, form,
    (⟨sv, 0, false, 0⟩ : Acc).scales s form ((wv.len + 31) / 32), 0⟩

/-- R107, R108: the values and the scales of a tile, each list with what a reserved code makes of it. -/
def Tile.codes (t : Tile) : List (List (Except Nat XNum)) :=
  [t.cols.flatMap (runVals (Ty.ofCode t.fmt) t.kt),
   if t.sform = 1 then t.scales.map (fun r => scaleVal (r.headD 0)) else t.scales.flatten.map scaleVal]

/-- R119: the tile becomes active, posted where the core is a team member, and the shadow is empty. -/
def State.latch (s : State) (t : Tile) : State :=
  (s.postTile t).updCore s.curCore fun x => { x with arr := { x.arr with shadow := none } }

/-- R118, R119, R276: an `MLW.c` that has issued: it fills the shadow with the rows of `cl.op` as they come, and retires on the
sixteenth. -/
def State.fillShadow (s : State) (wv sv : View) : Verdict :=
  if s.curC.clop.length < 16 then
    let n := (wv.len * wv.ty.bits + 7) / 8
    .stay ((s.updCore s.curCore fun x => { x with arr := { x.arr with shadow := some (s.clopColumns n) } }).waitCur (.ring 119 15 false)
      [.clop s.curCore] false)
  else
    let t := s.readTile true wv sv
    match firstTrap (List.zipWith badTrap [wv.h, sv.h] t.codes) with
    | some e => .trap e
    | none => .done ((s.updCore s.curCore fun x => { x with clop := x.clop.drop 16 }).latch t)

/-- R56: the view-invalid trap of a view that an instruction names and does not access. -/
def State.namedTrap (s : State) (v : View) : Option Trap :=
  if (⟨v, 0, false, 0⟩ : Acc).invalid s then some { code := 2, handle := v.h } else none

/-- R118, R119: `MLW` and `MLW.c`. DESIGN CHOICE: log entry 76. -/
def mlwVerdict (cl : Bool) (o : BitVec 2) (b a : BitVec 6) (s : State) : Verdict :=
  let wv := s.view a.toNat
  let sv := s.view b.toNat
  let opnd := [oTrap o, opTrap wv.h (tileBad wv), opTrap sv.h (blockScaled wv.ty && scaleBad sv)]
  let late : List (Option Trap) := [if scaleCountOk wv sv then none else some { code := 0x18, handle := sv.h }]
  let accs := tileAccs cl wv sv
  match firstTrap [s.oneOf (accTraps 1 (·.outside s) accs), if cl then s.namedTrap wv else none] with
  | some e => .trap e
  | none =>
    s.gated accs [] opnd late fun _ =>
      if cl then s.blocking fun u => u.fillShadow wv sv
      else
        let t := s.readTile false wv sv
        match firstTrap (List.zipWith badTrap [wv.h, sv.h] t.codes) with
        | some e => .trap e
        | none => .done (s.latch t)

/-- R118: `MLW`. -/
def execMlw (o : BitVec 2) (b a : BitVec 6) (s : State) : Out :=
  .next (s.issue (.mlw o b a) (·.matrix (mlwVerdict false o b a)))

/-- R118: `MLW.c`. -/
def execMlwC (o : BitVec 2) (b a : BitVec 6) (s : State) : Out :=
  .next (s.issue (.mlwC o b a) (·.matrix (mlwVerdict true o b a)))

/-! ## Activation format (R120) -/

/-- R275: an integer-class or `b` scalar. -/
def View.isInt1 (v : View) : Bool := v.shape == 0 && (v.ty.isInt || v.ty == .b)

/-- Element 0 of a scalar as a 32-bit word. -/
def Acc.word (s : State) (q : Acc) : Nat := wrap 32 (q.int s)

/-- R120: whether a format word holds no reserved value. -/
def afmtOk (v : Nat) : Bool :=
  bits v 10 22 == 0 && bits v 7 1 == 0 && decide (bits v 8 2 ≤ 1) && decide (bits v 4 3 ≤ 4) && mxFormat (Ty.ofCode (bits v 0 4))

/-- R120: `MFMT`. -/
def mfmtVerdict (o : BitVec 2) (a : BitVec 6) (s : State) : Verdict :=
  let av := s.view a.toNat
  let aq : Acc := ⟨av, 0, false, 1⟩
  s.gated [aq] [] [oTrap o, opTrap av.h (!av.isInt1)] [] fun _ =>
    let w := aq.word s
    if afmtOk w then .done (s.updCore s.curCore fun x => { x with arr := { x.arr with afmt := BitVec.ofNat 32 w } })
    else .trap { code := 5, handle := av.h }

/-- R120: `MFMT`. -/
def execMfmt (o : BitVec 2) (a : BitVec 6) (s : State) : Out :=
  .next (s.issue (.mfmt o a) (·.matrix (mfmtVerdict o a)))

/-! ## Accumulation (R113 to R115) -/

/-- R114: the e8m0 sum of two scales, saturated. -/
def scaleSum (sa sw : Nat) : Nat := min (sa + sw - 127) 0xFE

/-- One f32 addition that rounds to nearest even. -/
def addNe (x y : XNum) : XNum := floatOf .f32 (roundFloat .f32 0 false (sumNum 0 [x, y]))

/-- R113: the chain of one column. -/
def chainCol (acc : XNum) (ws as : List XNum) : XNum := (List.zipWith XNum.mul ws as).foldl addNe acc

/-- R114: the groups of 16 of one column: the exact sum of each, scaled by c of its block, enters with one rounding; a
partial last group is filled with zeros. -/
def groupCol (k : Nat) (acc : XNum) (ps : List XNum) (cs : List Nat) (g : Nat) : XNum :=
  match k with
  | 0 => acc
  | k + 1 =>
    let now := ps.take 16
    let full := if now.length < 16 then now ++ [.fin false 0 0] else now
    let term := (sumNum 0 full).scale ((cs.getD (g / 2) 127 : Int) - 127)
    groupCol k (addNe acc term) (ps.drop 16) cs (g + 1)

/-- R115: the exact chain of one column into i32, and whether an addition left its range. -/
def intCol (acc : Int) (ovf : Bool) (l : List (Int × Int)) : Int × Bool :=
  match l with
  | [] => (acc, ovf)
  | p :: rest =>
    let v := acc + p.1 * p.2
    intCol (intOf true 32 (wrap 32 v)) (ovf || decide (v < Ty.i32.minInt ∨ Ty.i32.maxInt < v)) rest

/-- The integer of an exact value. -/
def XNum.toInt (x : XNum) : Int := x.signedAt 0

/-- R113 to R115: one accumulator element from its old bits, a column and a row: the new bits, and overflow. -/
def mmaElem (wt at_ : Ty) (raw : Nat) (ws as : List XNum) (cs : List Nat) : Nat × Bool :=
  if wt = .i8 then
    let r := intCol (intOf true 32 raw) false (List.zip (ws.map XNum.toInt) (as.map XNum.toInt))
    (wrap 32 r.1, r.2)
  else
    let acc := floatOf .f32 raw
    let ps := List.zipWith XNum.mul ws as
    let r := if blockScaled wt || blockScaled at_ then groupCol ((ps.length + 15) / 16) acc ps cs 0 else chainCol acc ws as
    (roundFloat .f32 0 false r, false)

/-- R111, R114: the sums of the blocks for column n: the activation scales with the weight scales. -/
def blockSums (t : Tile) (sa : List Nat) (n : Nat) : List Nat :=
  t.scales.mapIdx fun b r => scaleSum (sa.getD b 127) (r.getD n 127).toNat

/-! ## MMA (R121, R128) -/

/-- R117: the bytes of an activation row, and of a row with its scales in a ring slot. -/
def rowLen (kt : Nat) (at_ : Ty) : Nat := (kt * at_.bits + 7) / 8

/-- R121: the rows of `cl.op` that one activation row takes. -/
def clopPer (kt : Nat) (at_ : Ty) (nsc : Nat) : Nat := (kt * at_.bits + 511) / 512 + (if nsc = 0 then 0 else 1)

/-- A view as one row of n bytes (at most 256). -/
def View.asRow (v : View) (n : Nat) : View := { v with d := dSet (dSet (dSet (dSet v.d 42 2 2) 44 4 4) 64 8 (n - 1)) 72 8 0 }

/-- R121: the access to the n bytes (at most 256) of the row in slot j of a ring source. -/
def rowAcc (v : View) (n j : Nat) : Acc := ⟨v.asRow n, j, false, 0⟩

/-- R121: the access to n bytes at an offset of slot j of a ring source, beside its row. -/
def besideAcc (v : View) (n off j : Nat) : Acc :=
  ⟨({ v with d := dSet (dSet v.d 0 15 (v.start j false + off)) 84 1 0, entry := none } : View).asRow n, 0, false, 0⟩

/-- R121: where the scales stand in a ring slot: at the next 4-byte boundary after the row. -/
def scaleOff (kt : Nat) (at_ : Ty) : Nat := (rowLen kt at_ + 3) / 4 * 4

/-- R121: the bytes of an activation row and of its scales, from a ring slot. -/
def State.ringRow (s : State) (v : View) (kt : Nat) (at_ : Ty) (nsc j : Nat) : List Byte × List Byte :=
  let st := v.start j false
  (s.winGet ⟨v.core, v.slot, st⟩ (rowLen kt at_), s.winGet ⟨v.core, v.slot, st + scaleOff kt at_⟩ nsc)

/-- R121: the bytes of an activation row and of its scales, from `cl.op`. -/
def State.clopRow (s : State) (kt : Nat) (at_ : Ty) (nsc j : Nat) : List Byte × List Byte :=
  let per := clopPer kt at_ nsc
  let rows := (s.curC.clop.drop (per * j)).take per
  ((rows.flatMap fun r => toLe 64 r.toNat).take (rowLen kt at_), toLe nsc ((rows.getLastD 0).toNat))

/-- R127: whether a member's tile or format differs from those its keeper cut a row by. -/
def KSum.differs (r : KSum) (kt afmt : Nat) : Bool := r.kt != kt || r.fmt != bits afmt 0 8

/-- R128: the epoch of a member in a sum row, and its sum of block b. -/
def sumEpoch (r : BitVec 576) (m : Nat) : Nat := bits r.toNat (512 + 4 * m) 4
/-- R127: the sum of block b of a member in a sum row. -/
def sumByte (r : BitVec 576) (m b : Nat) : Nat := bits r.toNat (128 * b + 8 * m) 8

/-- R121: the accumulator rows after an `MMA`, and whether an i32 addition overflowed. `sums` gives, per row, the sums of
the keeper link where they are used. -/
def mmaRows (t : Tile) (at_ : Ty) (accs : List (List Nat)) (rows : List (List XNum × List Nat)) (sums : Option (List (List Nat))) :
    List (List (Nat × Bool)) :=
  let wt := Ty.ofCode t.fmt
  let cols := t.cols.map fun c => okVals (runVals wt t.kt c)
  (List.range accs.length).map fun j =>
    let r := rows.getD j ([], [])
    (List.range 16).map fun n =>
      let cs := match sums with | some l => l.getD j [] | none => blockSums t r.2 n
      mmaElem wt at_ ((accs.getD j []).getD n 0) (cols.getD n []) r.1 cs

/-- R121: the trap of a ring source whose type is neither the activation type nor `b`. -/
def mmaMism (hv : View) (at_ : Ty) : List Nat := if hv.fixed || hv.ty == .b || hv.ty == at_ then [] else [hv.h]

/-- R120: the activation type of the format word of the executing core's array. -/
def State.actTy (s : State) : Ty := Ty.ofCode (bits s.curC.arr.afmt.toNat 0 4)

/-- R120: the scales of a row that the format word gives. -/
def State.actScales (s : State) : Nat := bits s.curC.arr.afmt.toNat 4 3

/-- R120: whether the format word takes its scales from the keeper. -/
def State.keepMode (s : State) : Bool := bits s.curC.arr.afmt.toNat 8 2 == 1

/-- R121: the rows of `cl.op` that one activation row takes for a tile. -/
def State.actPer (s : State) (t : Tile) : Nat := clopPer t.kt s.actTy s.actScales

/-- R121: the bytes and scales of the m activation rows that an `MMA` reads. -/
def State.mmaRaw (s : State) (t : Tile) (hv : View) (m : Nat) : List (List Byte × List Byte) :=
  (List.range m).map fun j =>
    if hv.h == 52 then s.clopRow t.kt s.actTy s.actScales j
    else s.ringRow hv t.kt s.actTy (if s.keepMode then 0 else s.actScales) j

/-- R108, R107: the values and scales that an `MMA` reads, each list with what a reserved code makes of it. DEDUCED: log entry 187. -/
def State.mmaCodes (s : State) (t : Tile) (hv : View) (m : Nat) : List (List (Except Nat XNum)) :=
  let raw := s.mmaRaw t hv m
  [(raw.map fun r => runVals s.actTy t.kt r.1).flatten, if s.keepMode then [] else raw.flatMap fun r => r.2.map scaleVal]

/-- R121, R127: what the accumulator rows of an `MMA` become, and which of their i32 additions overflowed. -/
def State.mmaOuts (s : State) (t : Tile) (dq : Acc) (hv : View) : List (List (Nat × Bool)) :=
  let m := dq.v.rows
  let raw := s.mmaRaw t hv m
  let accs := (List.range m).map fun j => (chunksOf 4 16 (dq.rowBytesOf s j)).map BitVec.toNat
  let sums := if s.keepMode then some ((s.curC.kpscl.take m).map fun r => (List.range 4).map (sumByte r.row (memberOf s.curCore)))
    else none
  mmaRows t s.actTy accs (List.zip (raw.map fun r => okVals (runVals s.actTy t.kt r.1)) (raw.map fun r => r.2.map BitVec.toNat))
    sums

/-- R121: words written to the accumulator rows of a destination. -/
def Acc.putAcc (q : Acc) (s : State) (ws : List Nat) : State :=
  { q with out := true }.wrote (s.regPuts q.v.core q.v.slot ((List.range q.v.rows).map fun j =>
    (q.v.start 0 true + j * q.v.pitch, ((ws.drop (16 * j)).take 16).flatMap (rawBytes 32))))

/-- R127: the rows of an `MMA` whose keeper sums are unspecified, its tile or format being other than the keeper's. -/
def State.rowsOpen (s : State) (t : Tile) (m : Nat) : List Bool :=
  if s.keepMode then (s.curC.kpscl.take m).map fun r => r.differs t.kt s.curC.arr.afmt.toNat else List.replicate m false

/-- R121, R127: the words of the accumulator rows: free ones in the rows that are open. DESIGN CHOICE: log entry 21. -/
def State.mmaWords (s : State) (opens : List Bool) (outs : List (List (Nat × Bool))) : List Nat × State :=
  if opens.any id then
    let f := s.padWords (16 * outs.length)
    ((outs.mapIdx fun j r => if opens.getD j false then ((f.1.drop (16 * j)).take 16).map BitVec.toNat else r.map Prod.fst).flatten, f.2)
  else (outs.flatten.map Prod.fst, s)

/-- R115: whether an i32 addition of a row that is not open overflowed. -/
def rowsOverflow (opens : List Bool) (outs : List (List (Nat × Bool))) : Bool :=
  ((outs.zip opens).filter fun p => !p.2).any fun p => p.1.any Prod.snd

/-- R121, R127, R408: the end of an `MMA` in s: its rows written, its overflow noted, its sum rows taken, its work counted, and its
activation rows passed. -/
def State.mmaFinish (s : State) (t : Tile) (dq : Acc) (hv : View) (outs : List (List (Nat × Bool))) : State :=
  let m := dq.v.rows
  let opens := s.rowsOpen t m
  let w := s.mmaWords opens outs
  let s1 := dq.putAcc w.2 w.1
  let s2 := s1.updCore s1.curCore fun x =>
    { x with arr := { x.arr with ovf := x.arr.ovf || rowsOverflow opens outs }, kpscl := if s.keepMode then x.kpscl.drop m else x.kpscl }
  let s3 := s2.updCore s2.curCore fun x =>
    if x.pmSet.isEmpty then x else x.count 7 (m * max 1 ((t.kt * s.actTy.bits + 511) / 512))
  s3.advanceRead hv (if hv.h == 52 then m * s.actPer t else m)

/-- R121, R127, R79: the activation rows and the sums that an `MMA` of m rows still lacks, as the objects it waits on. -/
def State.mmaLacks (s : State) (acts sums : Nat) : List Obj :=
  (if s.curC.clop.length < acts then [Obj.clop s.curCore] else [])
    ++ (if s.curC.kpscl.length < sums then [.klink (coreOfMember (clusterOf s.curCore) (bits s.curC.team.toNat 16 4))] else [])

/-- R121, R128: `MMA` on a tile, once its views have passed. -/
def State.mmaRun (s : State) (t : Tile) (dq : Acc) (hv : View) : Verdict :=
  let m := dq.v.rows
  let acts := if hv.h = 52 then m * s.actPer t else 0
  let sums := if s.keepMode then m else 0
  let lacks := s.mmaLacks acts sums
  if s.keepMode && (s.curC.kpscl.take m).any (fun r => sumEpoch r.row (memberOf s.curCore) != t.epoch.toNat) then
    .trap { code := 0x1A }
  else if !lacks.isEmpty then .wait (.mma acts sums) lacks false
  else
    match firstTrap ((s.mmaCodes t hv m).map (badTrap hv.h)) with
    | some e => .trap e
    | none =>
      if hv.entry.isSome && s.cur.holdWaits then .wait .drain [] true
      else .done (s.mmaFinish t dq hv (s.mmaOuts t dq hv))

/-- R121: the scales that stand in the ring slots of an `MMA`. -/
def State.ringScales (s : State) : Nat := if s.keepMode then 0 else s.actScales

/-- R121: the accesses to the activation rows of a ring source and to their scales; `cl.op` is no window. -/
def State.mmaReads (s : State) (t : Tile) (hv : View) (m : Nat) : List Acc :=
  if hv.fixed || !hv.ring || s.curC.arr.tile.isNone then []
  else (List.range m).flatMap fun j =>
    rowAcc hv (rowLen t.kt s.actTy) j
      :: (if s.ringScales = 0 then [] else [besideAcc hv s.ringScales (scaleOff t.kt s.actTy) j])

/-- R121: the bytes a row of a ring source takes in its slot. -/
def State.slotNeed (s : State) (t : Tile) : Nat :=
  if s.ringScales = 0 then rowLen t.kt s.actTy else scaleOff t.kt s.actTy + s.ringScales

/-- R121, R48: whether the rows of a ring source, with their scales, leave the window they lie in. -/
def State.rowsOutside (s : State) (t : Tile) (hv : View) (m : Nat) : Bool :=
  !(s.mmaReads t hv m).isEmpty && (List.range m).any fun j => decide ((s.win hv.core hv.slot).2 < hv.start j false + s.slotNeed t)

/-- R121, R56: the view-invalid trap of a ring source: an invalid view, or a slot too small for a row and its scales. -/
def State.ringInvalid (s : State) (t : Tile) (hv : View) (m : Nat) : Option Trap :=
  if (⟨hv, 0, false, 0⟩ : Acc).invalid s || (!(s.mmaReads t hv m).isEmpty && decide (hv.slotBytes < s.slotNeed t)) then
    some { code := 2, handle := hv.h }
  else none

/-- R121: the operand traps of `MMA`. -/
def State.mmaOpnd (s : State) (o : BitVec 2) (dv hv : View) : List (Option Trap) :=
  [oTrap o, opTrap dv.h (dv.fixed || dv.shape != 3), opTrap hv.h (!(hv.h == 52 || (!hv.fixed && hv.ring))),
    opTrap dv.h s.curC.arr.tile.isNone]

/-- R112, R121, R128: the later traps of `MMA`: the pairing, the scale count, and the keeper. -/
def State.mmaLate (s : State) (t : Tile) (dv hv : View) : List (Option Trap) :=
  [if pairOk (Ty.ofCode t.fmt) s.actTy dv.ty then none else some { code := 0x19, handle := dv.h },
   if s.actScales = (if blockScaled s.actTy then (t.kt + 31) / 32 else 0) then none else some { code := 0x18, handle := hv.h },
   if s.keepMode && (!s.curC.teamOn || t.sform == 2) then some { code := 0x1A } else none]

/-- R118: the tile of the executing core's array; with none the operand trap comes before it is used. -/
def State.ownTile (s : State) : Tile := s.curC.arr.tile.getD ⟨15, 1, [], 0, [], 0⟩

/-- R276: whether an `MMA` ends restartability: it takes rows of `cl.op`, or sum rows. -/
def State.mmaCommits (s : State) (hv : View) : Bool := hv.h == 52 || s.keepMode

/-- R125, R276: an `MMA` that waits for the rows of its ring has issued: it is in flight, and one that ends restartability commits. -/
def State.rowsWait (s : State) (hv : View) (v : Verdict) : Verdict :=
  let flight (o : Nat) (on : List Obj) (c : Bool) : Verdict :=
    if s.mmaCommits hv then s.blocking fun _ => .wait (.ring (128 + hv.h) o false) on false else .wait (.ring (128 + hv.h) o false) on c
  match v with
  | .wait (.ring h o false) on c => if h = hv.h then flight o on c else .wait (.ring h o false) on c
  | .wait (.rings l) on c =>
    match (l.filter fun q => q.1 == hv.h && !q.2.2).getLast? with
    | some q => flight q.2.1 on c
    | none => .wait (.rings l) on c
  | v => v

/-- R121, R276: `MMA`. -/
def mmaVerdict (o : BitVec 2) (a d : BitVec 6) (s : State) : Verdict :=
  let dv := s.view d.toNat
  let hv := s.view a.toNat
  let t := s.ownTile
  let own : List Acc := [⟨dv, 0, false, 0⟩, ⟨dv, 0, true, 0⟩]
  match firstTrap [s.oneOf (accTraps 1 (·.outside s) own ++ [if s.rowsOutside t hv dv.rows then some { code := 1, handle := hv.h } else none]),
      s.oneOf (accTraps 2 (·.invalid s) own ++ [s.ringInvalid t hv dv.rows])] with
  | some e => .trap e
  | none =>
    s.rowsWait hv <| s.gated (own ++ s.mmaReads t hv dv.rows) (mmaMism hv s.actTy) (s.mmaOpnd o dv hv) (s.mmaLate t dv hv) fun _ =>
      if s.mmaCommits hv then s.blocking fun u => u.mmaRun t ⟨dv, 0, false, 0⟩ hv else s.mmaRun t ⟨dv, 0, false, 0⟩ hv

/-- R121: `MMA`. -/
def execMma (o : BitVec 2) (a d : BitVec 6) (s : State) : Out :=
  .next (s.issue (.mma o a d) (·.matrix (mmaVerdict o a d)))

/-! ## The cluster operand network (R123, R124) -/

/-- R26, R123: whether a mask stays within the firing's same-cluster level group. -/
def State.placed (s : State) (mask : Nat) : Bool :=
  mask == 2 ^ memberOf s.curCore ||
    (!s.cur.child && (match s.launchOf s.cur.launch with
      | none => false
      | some l => l.levels.any fun v => v.width != 0 && v.cls == 1))

/-- R123: one row of an `MSC` put on the network, to every member of the mask. -/
def State.sendRow (s : State) (mask : Nat) (row : BitVec 512) : State :=
  let n := s.newId
  { n.2 with net := n.2.net ++ ((List.range 16).filter fun m => bits mask m 1 == 1).map fun m =>
      Pkt.clRow (coreOfMember (clusterOf s.curCore) m) n.1 row }

/-- Whether a row of the operand network is still on its way. -/
def State.rowOut (s : State) (id : Nat) : Bool :=
  s.net.any fun p => match p with | .clRow _ i _ => i == id | _ => false

/-- R123: the rows of an `MSC` sent; it waits until the last has been taken. -/
def State.multicast (s : State) (mask : Nat) (sq : Acc) : Verdict :=
  s.blocking fun u =>
    let t := (List.range sq.v.rows).foldl (fun w r => w.sendRow mask (BitVec.ofNat 512 (leNat (sq.rowBytesOf s r)))) u
    .stay (t.waitCur (.ring 118 (t.nextId - 1) true) [] false)

/-- R123: `MSC`. -/
def mscVerdict (o : BitVec 2) (b a : BitVec 6) (s : State) : Verdict :=
  let mv := s.view a.toNat
  let sv := s.view b.toNat
  let mq : Acc := ⟨mv, 0, false, 1⟩
  let sq : Acc := ⟨sv, 0, false, 0⟩
  match s.cur.wait with
  | .ring 118 id true => if s.rowOut id then .wait (.ring 118 id true) [] false else .done s
  | _ =>
    s.gated [mq, sq] [] [oTrap o, opTrap mv.h (!mv.isInt1),
        opTrap sv.h (sv.fixed || sv.ring || !(sv.shape == 1 || sv.shape == 2) || decide (64 < sv.rowBytes))] [] fun _ =>
      let mask := bits (mq.word s) 0 16
      if mask = 0 then .trap { code := 5, handle := mv.h }
      else if !s.placed mask then .trap { code := 0x1B, handle := mv.h }
      else s.multicast mask sq

/-- R123: `MSC`. -/
def execMsc (o : BitVec 2) (b a : BitVec 6) (s : State) : Out :=
  .next (s.issue (.msc o b a) (·.matrix (mscVerdict o b a)))

/-! ## Drains (R129 to R132) -/

/-- R129: the accumulator rows set to +0. -/
def Acc.clear (q : Acc) (s : State) : State :=
  q.wrote (s.regPuts q.v.core q.v.slot ((List.range q.v.rows).map fun r =>
    (q.v.start q.o true + r * q.v.pitch, List.replicate 64 0)))

/-- R129: `MCLR`. -/
def mclrVerdict (o : BitVec 2) (d : BitVec 6) (s : State) : Verdict :=
  let dv := s.view d.toNat
  let dq : Acc := ⟨dv, 0, true, 0⟩
  s.gated [dq] [] [oTrap o, opTrap dv.h (dv.fixed || dv.shape != 3)] [] fun _ => .done (dq.clear s)

/-- R129: `MCLR`. -/
def execMclr (o : BitVec 2) (d : BitVec 6) (s : State) : Out :=
  .next (s.issue (.mclr o d) (·.matrix (mclrVerdict o d)))

/-- The rows of an accumulator view. -/
def Acc.accRows (s : State) (q : Acc) : List (BitVec 512) :=
  (List.range q.v.rows).map fun r => BitVec.ofNat 512 (leNat (q.rowBytesOf s r))

/-- R130: rows drained into `mx.res`, those that find no room there behind it. DEDUCED: log entry 148. -/
def MArr.drainRows (a : MArr) (rows : List (BitVec 512)) (ty : Nat) : MArr := ({ a with drain := a.drain ++ rows, resTy := ty } : MArr).show

/-- R130: `MDR` and `MDR.z`. -/
def mdrVerdict (z : Bool) (o : BitVec 2) (a : BitVec 6) (s : State) : Verdict :=
  let av := s.view a.toNat
  let aq : Acc := ⟨av, 0, false, 0⟩
  let dq : Acc := ⟨av, 0, true, 0⟩
  s.gated (aq :: (if z then [dq] else [])) [] [oTrap o, opTrap av.h (av.fixed || av.shape != 3)] [] fun _ =>
    let s1 := s.updCore s.curCore fun x => { x with arr := x.arr.drainRows (aq.accRows s) av.ty.code }
    .done (if z then dq.clear s1 else s1)

/-- R130: `MDR`. -/
def execMdr (o : BitVec 2) (a : BitVec 6) (s : State) : Out :=
  .next (s.issue (.mdr o a) (·.matrix (mdrVerdict false o a)))

/-- R130: `MDR.z`. -/
def execMdrZ (o : BitVec 2) (a : BitVec 6) (s : State) : Out :=
  .next (s.issue (.mdrZ o a) (·.matrix (mdrVerdict true o a)))

/-- R131: whether a target word is admitted. DEDUCED: log entry 79. -/
def mdrpOk (w : Nat) : Bool := bits w 30 2 == 0 && bits w 15 1 == 0 && bits w 0 6 == 0 && decide (bits w 16 14 < numCores)

/-- R131: `MDRP`. -/
def mdrpVerdict (o : BitVec 2) (b a d : BitVec 6) (s : State) : Verdict :=
  let kv := s.view d.toNat
  let av := s.view a.toNat
  let bv := s.view b.toNat
  let kq : Acc := ⟨kv, 0, true, 1⟩
  let aq : Acc := ⟨av, 0, false, 0⟩
  let bq : Acc := ⟨bv, 0, false, 1⟩
  s.gated [kq, aq, bq] [] [oTrap o, opTrap kv.h (kv.fixed || !kv.isN32),
      opTrap av.h (av.fixed || av.shape != 3 || decide (16 < av.rows)), opTrap bv.h (!bv.isInt1)] [] fun _ =>
    let w := bq.word s
    if !mdrpOk w then .trap { code := 5, handle := bv.h }
    else if s.cur.pendFull then .wait .pending [] false
    else if s.cur.holdWaits then .wait .drain [] true
    else
      let r := s.mark kq 4 s.cur.restart false false
      .done (r.2.hold (.mdrp ⟨s.cur.ctx, bits w 16 14, bits w 0 15, av.ty.code, aq.accRows s, r.1, s.curCore, s.cur.scrum.isSome⟩))

/-- R131: `MDRP`. -/
def execMdrp (o : BitVec 2) (b a d : BitVec 6) (s : State) : Out :=
  .next (s.issue (.mdrp o b a d) (·.matrix (mdrpVerdict o b a d)))

/-- R132: `mx.stat` of a core. -/
def Core.mxStat (x : Core) : Nat :=
  (match x.arr.tile with
    | none => 0xF * 2 ^ 20
    | some t => t.fmt * 2 ^ 20 + (t.kt - 1) * 2 ^ 12 + t.sform * 2 ^ 10 + t.epoch.toNat * 2 ^ 4)
  + (if x.teamOn then 2 ^ 9 else 0) + (if x.arr.shadow.isSome then 2 ^ 8 else 0) + (if x.arr.ovf then 1 else 0)

/-- R132: `MSTA`. -/
def mstaVerdict (o : BitVec 2) (d : BitVec 6) (s : State) : Verdict :=
  let dv := s.view d.toNat
  let dq : Acc := ⟨dv, 0, true, 1⟩
  s.gated [dq] [] [oTrap o, opTrap dv.h (!dv.isInt1)] [] fun _ => .done ((dq.putRaw s s.curC.mxStat).updCore s.curCore fun x => { x with arr := { x.arr with ovf := false } })

/-- R132: `MSTA`. -/
def execMsta (o : BitVec 2) (d : BitVec 6) (s : State) : Out :=
  .next (s.issue (.msta o d) (·.matrix (mstaVerdict o d)))

end Sys2Proof.Machine
end

