-- ==== Sys2Proof/Machine/Compose.lean ====
section
/-!
DEFINITION. Composed cores (R137 to R152, R316): a scrum runs as the one firing of its owner, whose window bytes stand with
the members (R141, R145); each block issues on the member that its start names (R140, R144). Its blocks issue in program order, so that
none is ever squashed: what a squashed block did has no effect but time (R144, R145).
-/

namespace Sys2Proof.Machine

/-- R137: the other members of the aligned group of k cores around a core. -/
def scrumOthers (c k : Nat) : List Nat :=
  let i := memberOf c
  ((List.range k).map fun j => coreOfMember (clusterOf c) (k * (i / k) + j)).filter fun m => m != c

/-- R138: the k of the `CMPS` in which a core's slot 0 waits; 0 where it waits in none. -/
def State.composeK (s : State) (c : Nat) : Nat :=
  if (s.slot c 0).st = .running then (match (s.slot c 0).wait with | .compose k => k | _ => 0) else 0

/-- R138: whether a core's slot 0 waits in a `CMPS`. -/
def State.composing (s : State) (c : Nat) : Bool := s.composeK c != 0

/-- R138: the waiting owner of lowest member index whose group covers a core. DEDUCED: log entry 82. -/
def State.reservedFor (s : State) (c : Nat) : Option Nat :=
  ((List.range 16).map (coreOfMember (clusterOf c))).find? fun o => s.composing o && (scrumOthers o (s.composeK o)).contains c

/-- R138: whether the compose arbiter can claim the slots 0 of the group now. A fenced core gives its slot up once its spare has taken its
place. DESIGN CHOICE: log entry 150. -/
def State.canCompose (s : State) (c k : Nat) : Bool :=
  (scrumOthers c k).all fun m =>
    (s.slot m 0).st == .idle && !(s.slot m 0).zeroing && !(s.core m).fenced &&
      (match s.reservedFor m with | none => true | some o => decide (memberOf c ≤ memberOf o))

/-- R138, R139, R141: the claim of the members' slots 0: they take the owner's descriptors and guard slots, and the window is
spread over them. -/
def State.compose (s : State) (c k : Nat) : State :=
  let x := s.slot c 0
  s.moveWindow c fun s =>
    ((scrumOthers c k).foldl (fun t m =>
      t.updSlot m 0 fun y => { y with st := .running, claimed := true, member := some c, ran := 0, views := x.views, guards := x.guards }) s).updSlot
        c 0 fun y => { y with scrum := some ⟨k, k * (memberOf c / k), (s.win c 0).2⟩, ra := [], opened := [] }

/-- R137: the compose operand trap. -/
def State.composeBad (s : State) (k : Nat) : Bool :=
  s.curSlot != 0 || s.cur.scrum.isSome || s.cur.wlen % (64 * k) != 0

/-- R137: the compose placement trap. -/
def State.misplaced (s : State) (k : Nat) : Bool :=
  let x := s.cur
  (match s.launchOf x.launch with
    | none => false
    | some l => l.levels.any fun v => v.width != 0 && decide (1 < v.cls))
  || (scrumOthers s.curCore k).any fun m =>
    let y := s.slot m 0
    !(y.bound && y.ctx == x.ctx && y.smem) || decide (y.wlen < x.wlen / k)

/-- R138: the waiting: on the halted scrums that hold a member's slot 0, under the compose bound. -/
def State.composeWait (s : State) (k : Nat) : Verdict :=
  let x := s.cur
  let on := (scrumOthers s.curCore k).filterMap fun m => (s.slot m 0).member.map Obj.scrum
  let exp := match x.waitExp with
    | some e => some e
    | none =>
      match x.waitRem with
      | some r => some (s.now.toNat + r)
      | none => if x.cbnd = 0 then none else some (s.now.toNat + x.cbnd)
  .stay ((s.updCur fun y => { y with waitExp := exp, waitRem := none }).waitCur (.compose k) on false)

/-! ## Which firings are to be pre-empted (R365, R366) -/

/-- R34, R38: a queue with the messages of its resume entries that a rollback set free, in order. -/
def insertByArrival (e : QEntry) (l : List QEntry) : List QEntry :=
  match l with
  | [] => [e]
  | x :: rest =>
    if x.m.pri < e.m.pri ∨ (x.m.pri = e.m.pri ∧ e.m.arr.toNat < x.m.arr.toNat) then e :: x :: rest
    else x :: insertByArrival e rest

/-- R38: what may be claimed on a core, the high queue first. -/
def Core.claimable (x : Core) : List QEntry :=
  let freed := (x.resume.map Prod.snd).filter fun q => q.claimed.isNone
  let of_ (hi : Bool) : List QEntry :=
    (freed.filter fun q => q.m.high == hi).foldl (fun l q => insertByArrival q l) (x.queue hi)
  (of_ true ++ of_ false).filter fun q => q.claimed.isNone

/-- R365: the message of the highest priority that waits for a context on a core whose handler slots of it are all busy. -/
def State.claimant (s : State) (c ctx : Nat) : Option Msg :=
  if (List.range 4).any fun k => (s.slot c k).bound && (s.slot c k).hdl && (s.slot c k).ctx == ctx && (s.slot c k).st == .idle then none
  else ((s.core c).claimable.find? fun q => q.m.ctx == ctx && !q.m.spn).map QEntry.m

/-- R365: its priority. -/
def State.claimantPri (s : State) (c ctx : Nat) : Option Nat := (s.claimant c ctx).map Msg.pri

/-- R149: the firing that a pre-emption of a slot saves: its own, or that of the scrum which holds the slot. -/
def State.seated (s : State) (c k : Nat) : Slot := s.slot (s.ownerOf c k).1 (s.ownerOf c k).2

/-- R365, case 1: whether a slot's firing is the one that gives way to a waiting message of higher priority. -/
def State.givesWay (s : State) (c k : Nat) : Bool :=
  let x := s.slot c k
  let f := s.seated c k
  f.st == .running && x.bound && x.hdl &&
    (match s.claimantPri c x.ctx with
    | none => false
    | some p =>
      decide (f.pri < p) && (List.range 4).all fun j =>
        let y := s.slot c j
        let g := s.seated c j
        j == k || !(g.st == .running && y.bound && y.hdl && y.ctx == x.ctx) || decide (f.pri < g.pri ∨ (f.pri = g.pri ∧ g.fid < f.fid)))

/-- R368: whether a saved firing waits to come back to a slot, under the record it has. -/
def State.returns (s : State) (core k : Nat) (v : Saved) : Bool :=
  v.core == core && v.slot == k && v.body.st == .running && v.body.bind == (s.slot core k).bind

/-- R365, case 2: the claimants of a slot at a priority or above. -/
def State.sliceClaimed (s : State) (c k : Nat) : Bool :=
  let x := s.slot c k
  let p := (s.seated c k).pri
  (x.hdl && (match s.claimantPri c x.ctx with | some q => decide (p ≤ q) | none => false))
    || s.saved.any fun v => s.returns c k v && decide (p ≤ v.body.pri)

/-- R366: whether the overflow area has room for the items of a pre-empted firing. -/
def State.canHold (s : State) (x : Slot) : Bool :=
  decide ((if x.claim.isSome then 1 else 0) + x.rpl.length ≤ s.spillRoom x.ctx)

/-- R134: a firing whose `MSC` has rows under way stops after them. DEDUCED: log entry 86. -/
def Slot.midMatrix (x : Slot) : Bool := match x.wait with | .ring 118 _ true => true | _ => false

/-- R366, R426: whether a firing of a core can be saved now. -/
def State.canSave (s : State) (c : Nat) (x : Slot) : Bool :=
  s.canHold x && !x.midMatrix && !(x.wait == .rollback && x.st == .running) && !s.testing (nearAddr c x.save) (0x3F00 + x.wlen)

/-- R365, R366: whether the firing of a slot is to be pre-empted now, by request, by priority or by its slice, and can be. -/
def State.preemptDue (s : State) (c k : Nat) : Bool :=
  !(s.core c).fenced && s.canSave (s.ownerOf c k).1 (s.seated c k) &&
    (bits (s.core c).preq.toNat k 1 == 1 || s.givesWay c k
      || ((s.slot c k).sliceLen != 0 && decide ((s.slot c k).sliceLen ≤ (s.slot c k).ran) && s.sliceClaimed c k))

/-! ## CMPS and DCMP -/

/-- R152: whether the owner of a waiting `CMPS` is pre-empted now, which comes before a grant of the same cycle. -/
def State.preemptFirst (s : State) (c : Nat) : Bool := s.preemptDue c 0

/-- R137, R138: `CMPS`. DEDUCED: log entry 81. -/
def cmpsVerdict (kk : BitVec 2) (s : State) : Verdict :=
  let k := 2 ^ (kk.toNat + 1)
  if !s.cur.pend.isEmpty then .wait .pending (tokenObjs s s.ownMarks) false
  else if s.composeBad k then .trap { code := 0x28 }
  else if s.misplaced k then .trap { code := 0x2A }
  else if (scrumOthers s.curCore k).any (fun m => s.composing m && decide (memberOf m < memberOf s.curCore)) then .done s
  else if s.canCompose s.curCore k && !s.preemptFirst s.curCore then .done (s.compose s.curCore k)
  else s.composeWait k

/-- R137: `CMPS`. -/
def execCmps (k : BitVec 2) (s : State) : Out := .next (s.issue (.cmps k) (cmpsVerdict k))

/-- R148, R142: `DCMP`: outside a scrum nothing; else, once every pending mark has cleared, the handback. -/
def dcmpVerdict (s : State) : Verdict :=
  if s.cur.scrum.isNone then .done s
  else if !s.cur.pend.isEmpty then .wait .pending (tokenObjs s s.ownMarks) false
  else .done (s.handback s.curCore)

/-- R148: `DCMP`. -/
def execDcmp (s : State) : Out := .next (s.issue .dcmp dcmpVerdict)

/-- R139: the word of `CMPQ`. -/
def State.composeWord (s : State) : Nat :=
  let i := memberOf s.curCore
  match s.cur.scrum with
  | none => i * 2 ^ 12 + i * 2 ^ 8 + 1
  | some q => i * 2 ^ 12 + q.base * 2 ^ 8 + q.k

/-- R139, R316: `CMPQ`. -/
def cmpqVerdict (o : BitVec 2) (d : BitVec 6) (s : State) : Verdict :=
  let dv := s.view d.toNat
  let offs := offsets o none (some dv)
  let dq : Acc := ⟨dv, offs.dst, true, 1⟩
  s.gated [dq] [] [opTrap dv.h (!dv.isN32), offs.bad] [] fun _ => .done (dq.putRaw s s.composeWord)

/-- R139: `CMPQ`. -/
def execCmpq (o : BitVec 2) (d : BitVec 6) (s : State) : Out :=
  .next (s.issue (.cmpq o d) (cmpqVerdict o d))

/-- R138, R152: COMPOSE_GRANT: the arbiter claims the slots 0 for a waiting `CMPS`, which retires. DEDUCED: log entry 151. -/
def execComposeGrant (core : Nat) (s : State) : Out :=
  .next (
    let k := s.composeK core
    if s.composing core && s.canCompose core k && !s.preemptFirst core then
      let t := { s with curCore := core, curSlot := 0 }
      let u := (((t.compose core k).noteIssue t).count core 2).retire 2
      { u with curCore := s.curCore, curSlot := s.curSlot }
    else s)

/-- R137: COMPOSE_WAIT_BOUND: the bound of a waiting `CMPS` has passed: its trap. -/
def execComposeWaitBound (core : Nat) (s : State) : Out :=
  .next (
    if s.composing core && (match (s.slot core 0).waitExp with | some e => decide (e ≤ s.now.toNat) | none => false) then
      s.takeTrap core 0 { code := 0x29 }
    else s)

end Sys2Proof.Machine
end

