-- ==== Sys2Proof/Machine/EngineProfile.lean ====
section
/-!
DEFINITION. The engine profile (R312 to R315): `FLD`, `FST`, `FATM`, `FXM`, `FMRK` and `CEND`, which only the microcode
of a copy engine executes.
-/

namespace Sys2Proof.Machine

/-- The cluster of the executing engine. -/
def State.curEngine (s : State) : Nat := s.curCore - 0x4000

/-- R313: the command in progress ends with a value: its older stores perform, and the engine performs `CEND` on its
behalf. -/
def State.farEnd (s : State) (v : Nat) : Verdict :=
  .stay (((s.drainStores s.curCore s.curSlot).updCur fun x => { x with st := .idle, wait := .none, pend := [] }).failCmd
    s.curEngine v)

/-- R315: an instruction that needs the command in progress; with none, the microcode halts with cause 0x9. -/
def State.withCmd (s : State) (f : Cmd → Verdict) : Verdict :=
  match (s.engine s.curEngine).cur with
  | none => .stay (s.haltEngine s.curEngine)
  | some q => f q

/-- R313: a view that can hold a far address. -/
def farView (v : View) : Bool := (v.ty.isInt && v.ty.bits == 64) || v.isB 2

/-- The access that reads a far address. -/
def farAcc (v : View) (o : Nat) : Acc := ⟨v, o, false, if v.ty = .b then 2 else 1⟩

/-- A request sent by the microcode: the state it leaves, a wait for a tag, or the end of the command. -/
def Sent.then (r : Sent) (f : State → Verdict) : Verdict :=
  match r with
  | .ok t => f t
  | .wait => .wait .drain [] false
  | .fail t v => t.farEnd v

/-- R313: a part of a destination, n bytes from byte o of it, marked for one of the requests that fetch it. -/
def State.markPart (s : State) (q : Acc) (o n : Nat) : Ret × State :=
  let r := s.mark q n false false true
  let p : Place := { r.1.place with off := r.1.place.off + o }
  ({ r.1 with place := p }, r.2.updCur fun x => { x with pend := x.pend.map fun m => if m.id = r.1.id then { m with place := p } else m })

/-- R313, R374: one aligned piece of far bytes that pass from one page to the next, read into bytes of a destination from byte o on; `len`
counts those it fills. -/
def State.fldPart (s : State) (q : Cmd) (dq : Acc) (o va n len : Nat) : Sent :=
  match s.xlat s.curEngine q va false with
  | (.error v, t) => .fail t v
  | (.ok f, t) =>
    match f.addr with
    | some a =>
      if f.tgt == 0 && t.tamperedAt a n then .fail (t.integrity q.ctx a) 6
      else if t.poisoned a n then .fail t 6
      else .ok (if dq.v.h = 54 then t else dq.wrote (t.regPuts dq.v.core dq.v.slot [(dq.v.start dq.o true + o, toLe len (leNat (t.bytesAt a n)))]))
    | none =>
      let m := if dq.v.h = 54 then ((⟨t.curCore, t.curSlot, 0, 0, ⟨t.curCore, t.curSlot, 0⟩, 0⟩ : Ret), t) else t.markPart dq o len
      m.2.sendReq t.curEngine q.ctx f.peer ⟨0, 0, va / 64, sizeCode n, va, [], false, 0, .reg m.1, 0⟩

/-- R313, R374: the bytes of aligned far pieces, none of them a peer's; else the value with which the command ends, or `none` for a peer's. -/
def State.farBytes (s : State) (q : Cmd) (ps : List (Nat × Nat × Nat)) : Except (Option Nat × State) (List Byte × State) :=
  match ps with
  | [] => .ok ([], s)
  | p :: rest =>
    match s.xlat s.curEngine q p.2.1 false with
    | (.error v, t) => .error (some v, t)
    | (.ok f, t) =>
      match f.addr with
      | none => .error (none, t)
      | some a =>
        if f.tgt == 0 && t.tamperedAt a p.2.2 then .error (some 6, t.integrity q.ctx a)
        else if t.poisoned a p.2.2 then .error (some 6, t)
        else
          match t.farBytes q rest with
          | .ok (bs, u) => .ok (t.bytesAt a p.2.2 ++ bs, u)
          | .error e => .error e

/-- R313, R374: far bytes that pass from one page to the next, read in aligned pieces. -/
def State.fldPieces (s : State) (q : Cmd) (dq : Acc) (va n : Nat) : Verdict :=
  let ps := cuts n n 0 va false true
  match s.farBytes q ps with
  | .ok (bs, t) => .done (dq.putLoad t bs)
  | .error (some v, t) => t.farEnd v
  | .error (none, _) =>
    if dq.v.h = 50 then .trap { code := 5, handle := 50 }
    else if 16 < s.cur.pend.length + ps.length then .wait .pending [] false
    else
      (ps.foldl (fun r p => match r with
        | .ok t => t.fldPart q dq p.1 p.2.1 p.2.2 (if p.1 + p.2.2 = n then p.2.2 + (ldLen dq.v n - n) else p.2.2)
        | r => r) (Sent.ok s)).then .done

/-- R313: n far bytes on one page read by the microcode for a destination. -/
def State.fldAt (s : State) (q : Cmd) (dq : Acc) (va n : Nat) : Verdict :=
  match s.xlat s.curEngine q va false with
  | (.error v, t) => t.farEnd v
  | (.ok f, t) =>
    match f.addr with
    | some a =>
      if f.tgt == 0 && t.tamperedAt a n then (t.integrity q.ctx a).farEnd 6
      else if t.poisoned a n then t.farEnd 6
      else .done (dq.putLoad t (t.bytesAt a n))
    | none =>
      if dq.v.h = 50 then .trap { code := 5, handle := 50 }
      else
        let m := if dq.v.h = 54 then ((⟨t.curCore, t.curSlot, 0, 0, ⟨t.curCore, t.curSlot, 0⟩, 0⟩ : Ret), t)
          else t.mark dq (ldLen dq.v n) false false true
        (m.2.sendReq t.curEngine q.ctx f.peer ⟨0, 0, va / 64, sizeCode n, va, [], false, 0, .reg m.1, 0⟩).then .done

/-- R313: `FLD`. -/
def fldVerdict (sz o : BitVec 2) (f a d : BitVec 6) (s : State) : Verdict :=
  let n := 2 ^ sz.toNat
  let av := s.view a.toNat
  let dv := s.view d.toNat
  let offs := offsets o (some av) (some dv)
  let aq := farAcc av offs.src
  let dq : Acc := ⟨dv, offs.dst, true, if n = 8 ∧ dv.ty = .b then 2 else 1⟩
  s.gated [dq, aq] [] [opTrap dv.h (!ldOk dv n), offs.bad, opTrap av.h (!farView av)] [] fun _ =>
    s.withCmd fun q =>
      let va := aq.nat64 s + f.toNat * n
      if 2 ^ 57 < va + n then s.farEnd 9
      else if s.cur.pendFull then .wait .pending [] false
      else if onePage va n then s.fldAt q dq va n
      else s.fldPieces q dq va n

/-- R313: `FLD`. -/
def execFld (sz o : BitVec 2) (f a d : BitVec 6) (s : State) : Out :=
  .next (s.issueAs (.fld sz o f a d) true false (fldVerdict sz o f a d))

/-- R313: `FST`. -/
def fstVerdict (sz o : BitVec 2) (b a f : BitVec 6) (s : State) : Verdict :=
  let n := 2 ^ sz.toNat
  let av := s.view a.toNat
  let bv := s.view b.toNat
  let offs := offsets o (some av) none
  let aq := farAcc av offs.src
  let bq : Acc := ⟨bv, 0, false, if n = 8 ∧ bv.ty = .b then 2 else 1⟩
  s.gated [aq, bq] [] [offs.bad, opTrap av.h (!farView av), opTrap bv.h (!stOk bv n)] [] fun _ =>
    s.withCmd fun q =>
      let va := aq.nat64 s + f.toNat * n
      if 2 ^ 57 < va + n then s.farEnd 9
      else
        (s.engineFar s.curEngine q va (toLe n (if n = 8 then bq.nat64 s else bq.nat s)) false).then .done

/-- R313: `FST`. -/
def execFst (sz o : BitVec 2) (b a f : BitVec 6) (s : State) : Out :=
  .next (s.issueAs (.fst sz o b a f) true false (fstVerdict sz o b a f))

/-- R313, R289: an atomic on an aligned far word. -/
def State.fatmAt (s : State) (q : Cmd) (op : Nat) (dq bq : Acc) (va : Nat) : Verdict :=
  let n := dq.v.ty.bits / 8
  let b0 := bq.elem s 0
  let b1 := if op = 7 then bq.elem s 1 else 0
  match s.xlat s.curEngine q va true with
  | (.error v, t) => t.farEnd v
  | (.ok f, t) =>
    match f.addr with
    | some a =>
      if f.tgt == 0 && t.tamperedAt a n then (t.integrity q.ctx a).farEnd 6
      else if t.poisoned a n then t.farEnd 6
      else
        let r := t.atomFar a op dq.v.ty b0 b1
        .done (dq.putRaw (r.2.watchEngine t.curEngine q va n true) r.1)
    | none =>
      if dq.v.h = 50 then .trap { code := 5, handle := 50 }
      else
        let m := if dq.v.h = 54 then ((⟨t.curCore, t.curSlot, 0, 0, ⟨t.curCore, t.curSlot, 0⟩, 0⟩ : Ret), t)
          else t.mark dq n false false true
        let body := atomBody op dq.v.ty.code (BitVec.ofNat 64 b0) (BitVec.ofNat 64 b1)
        ((m.2.sendReq t.curEngine q.ctx f.peer ⟨2, 0, va / 64, sizeCode n, va, body, false, 0, .reg m.1, 0⟩).watched t.curEngine q va n).then
          fun u => .stay (u.waitCur .sent [] false)

/-- R313: `FATM`: it waits for its reply. -/
def fatmVerdict (op : Nat) (o : BitVec 2) (b a d : BitVec 6) (s : State) : Verdict :=
  if s.cur.wait = .sent then
    (if (s.engine s.curEngine).outst = 0 then .done s else .wait .sent [] false)
  else
    let av := s.view a.toNat
    let bv := s.view b.toNat
    let dv := s.view d.toNat
    let offs := offsets o (some av) (some dv)
    let aq := farAcc av offs.src
    let bq : Acc := ⟨bv, 0, false, if op = 7 ∧ bv.shape = 1 then 2 else 1⟩
    let dq : Acc := ⟨dv, offs.dst, true, 1⟩
    s.gated [dq, aq, bq] (atomMix dv bv)
        [offs.bad, opTrap av.h (!farView av), opTrap dv.h (!atomOk op dv bv)] [] fun _ =>
      s.withCmd fun q =>
        let va := aq.nat64 s
        let n := dv.ty.bits / 8
        if 2 ^ 57 < va + n then s.farEnd 9
        else if va % n ≠ 0 then .trap { code := 5, handle := av.h }
        else if s.cur.pendFull then .wait .pending [] false
        else s.fatmAt q op dq bq va

/-- R313: `FATM.add`. -/
def execFatmAdd (o : BitVec 2) (b a d : BitVec 6) (s : State) : Out :=
  .next (s.issueAs (.fatmAdd o b a d) true false (fatmVerdict 0 o b a d))

/-- R313: `FATM.min`. -/
def execFatmMin (o : BitVec 2) (b a d : BitVec 6) (s : State) : Out :=
  .next (s.issueAs (.fatmMin o b a d) true false (fatmVerdict 1 o b a d))

/-- R313: `FATM.max`. -/
def execFatmMax (o : BitVec 2) (b a d : BitVec 6) (s : State) : Out :=
  .next (s.issueAs (.fatmMax o b a d) true false (fatmVerdict 2 o b a d))

/-- R313: `FATM.and`. -/
def execFatmAnd (o : BitVec 2) (b a d : BitVec 6) (s : State) : Out :=
  .next (s.issueAs (.fatmAnd o b a d) true false (fatmVerdict 3 o b a d))

/-- R313: `FATM.or`. -/
def execFatmOr (o : BitVec 2) (b a d : BitVec 6) (s : State) : Out :=
  .next (s.issueAs (.fatmOr o b a d) true false (fatmVerdict 4 o b a d))

/-- R313: `FATM.xor`. -/
def execFatmXor (o : BitVec 2) (b a d : BitVec 6) (s : State) : Out :=
  .next (s.issueAs (.fatmXor o b a d) true false (fatmVerdict 5 o b a d))

/-- R313: `FATM.swp`. -/
def execFatmSwp (o : BitVec 2) (b a d : BitVec 6) (s : State) : Out :=
  .next (s.issueAs (.fatmSwp o b a d) true false (fatmVerdict 6 o b a d))

/-- R313: `FATM.cas`. -/
def execFatmCas (o : BitVec 2) (b a d : BitVec 6) (s : State) : Out :=
  .next (s.issueAs (.fatmCas o b a d) true false (fatmVerdict 7 o b a d))

/-- R313: `FATM.inc`. -/
def execFatmInc (o : BitVec 2) (b a d : BitVec 6) (s : State) : Out :=
  .next (s.issueAs (.fatmInc o b a d) true false (fatmVerdict 8 o b a d))

/-- R314: an image sent to a peer. It carries the masks of an `FMRK` to that peer that no far access has followed, and is
then a far release (R173). -/
def State.sendImage (s : State) (q : Cmd) (peer core : Nat) (img : List Byte) (psn : Bool) (ret : Ret) : Sent :=
  let e := s.curEngine
  let h := leNat (img.take 16)
  let key := if bits h 27 2 = 3 then bits (leNat ((img.drop 20).take 8)) 6 25 else q.core * 2 ^ 14 + core
  let r : Req := ⟨3, 1, key, 0, core, img, psn, 0, .reg ret, 0⟩
  if psn && s.peerOk q.ctx peer && bits (s.peerEntry q.ctx peer) 14 1 == 0 then s.poisonStop q 0
  else
    match mfind (s.engine e).marked peer with
    | none => s.sendReq e q.ctx peer r
    | some m => s.sendRelease e q.ctx peer m (if m.lost || s.planeLost e peer then { r with cont := .rel ret } else r)

/-- R314, R164: `FXM`: the microcode's older stores perform first. -/
def fxmVerdict (o : BitVec 2) (b a d : BitVec 6) (s : State) : Verdict :=
  let av := s.view a.toNat
  let bv := s.view b.toNat
  let dv := s.view d.toNat
  let offs := offsets o (some av) (some dv)
  let aq : Acc := ⟨av, offs.src, false, 1⟩
  let bq : Acc := ⟨bv, 0, false, 1⟩
  let dq : Acc := ⟨dv, offs.dst, true, 1⟩
  s.gated [dq, aq, bq] []
      [opTrap dv.h (!(dv.isN32 && !dv.fixed)), offs.bad, baseTrap av, baseTrap bv] [] fun _ =>
    s.withCmd fun q =>
      let base := bq.nat s
      match nearForm base 0 16 with
      | none => .trap { code := 0xB, handle := bv.h }
      | some p =>
        let n := 64 * (bits (leNat (s.bytesAt p 16)) 24 3 + 1)
        if (nearForm base 0 n).isNone then .trap { code := 0xB, handle := bv.h }
        else if s.cur.pendFull then .wait .pending [] false
        else if s.writesOut s.curCore s.curSlot then .wait .drain [] false
        else
          let t := aq.nat s
          let m := s.mark dq 4 false false true
          (m.2.sendImage q (bits t 16 5) (bits t 0 14) (s.bytesAt p n) (s.poisoned p n) m.1).then .done

/-- R314: `FXM`. -/
def execFxm (o : BitVec 2) (b a d : BitVec 6) (s : State) : Out :=
  .next (s.issueAs (.fxm o b a d) true false (fxmVerdict o b a d))

/-- R314, R164: `FMRK`: the microcode's older stores perform first. -/
def fmrkVerdict (o : BitVec 2) (a : BitVec 6) (s : State) : Verdict :=
  let av := s.view a.toNat
  let offs := offsets o (some av) none
  let aq : Acc := ⟨av, offs.src, false, 1⟩
  s.gated [aq] [] [offs.bad, baseTrap av] [] fun _ =>
    s.withCmd fun q =>
      let peer := bits (aq.nat s) 0 5
      if s.writesOut s.curCore s.curSlot then .wait .drain [] false
      else .done (s.sendMarkers s.curEngine q.ctx peer (mget (s.engine s.curEngine).seqs peer 0))

/-- R314: `FMRK`. -/
def execFmrk (o : BitVec 2) (a : BitVec 6) (s : State) : Out :=
  .next (s.issueAs (.fmrk o a) true false (fmrkVerdict o a))

/-- R315, R170: `CEND`. -/
def cendVerdict (o : BitVec 2) (a : BitVec 6) (s : State) : Verdict :=
  let av := s.view a.toNat
  let offs := offsets o (some av) none
  let aq : Acc := ⟨av, offs.src, false, 1⟩
  s.gated [aq] [] [offs.bad, opTrap av.h (!av.isN32)] [] fun _ =>
    s.withCmd fun q =>
      if (s.engine s.curEngine).outst ≠ 0 ∨ s.nearOut 3 = true then .wait .drain [] false
      else
        let t := (s.push (.token q.ret (BitVec.ofNat 32 (aq.nat s)))).updEngine s.curEngine fun en =>
          { en with cur := none, status := 0 }
        .done (t.updCur fun x => { x with st := .idle })

/-- R315: `CEND`. -/
def execCend (o : BitVec 2) (a : BitVec 6) (s : State) : Out :=
  .next (s.issueAs (.cend o a) true false (cendVerdict o a))

end Sys2Proof.Machine
end

