-- ==== Sys2Proof/Machine/Save.lean ====
section
/-!
DEFINITION. Save areas (R321, R366, R368, R70): what `SVS` and a pre-emption write, and what `RSS` and a resume bring back. The
private contents of an area have no stated form: they are free values in memory, and `State.saves` and `State.saved` hold what
they stand for.
-/

namespace Sys2Proof.Machine

/-! ## CRC-16 (R216) -/

/-- R216: one bit of the CRC. -/
def crcBit (crc : Nat) : Nat := if 0x8000 ≤ crc then (2 * crc % 2 ^ 16) ^^^ 0x1021 else 2 * crc

/-- R216: k bits of the CRC. -/
def crcBits (k crc : Nat) : Nat :=
  match k with
  | 0 => crc
  | k + 1 => crcBits k (crcBit crc)

/-- R216: the CRC of some bytes. -/
def crc16 (bs : List Byte) : Nat := bs.foldl (fun crc v => crcBits 8 (crc ^^^ (v.toNat * 2 ^ 8))) 0xFFFF

/-! ## Areas (R321) -/

/-- R321: the bytes of an area with a window of L bytes. -/
def areaLen (l : Nat) : Nat := 0x3F00 + l

/-- Bytes of an area written; whole words lose their poison (R418). -/
def State.putArea (s : State) (a : Nat) (bs : List Byte) : State := ((s.setBytes a bs).clearPoison a bs.length).flushRa a bs.length

/-- R419: the words of a saved window that hold a byte whose parity fails are stored poisoned. DEDUCED: log entry 98. -/
def State.savePoison (s : State) (v : Saved) : State :=
  if s.parity.isEmpty then s
  else
    ((List.range v.body.wlen).filter fun i => s.parity.contains (s.winAddr ⟨v.core, v.slot, i⟩)).foldl
      (fun t i => t.addPoison (v.winAddr i) 1) s

/-- R321: the 64 descriptors of a slot. -/
def Slot.descBytes (x : Slot) : List Byte :=
  (List.range 64).flatMap fun h => toLe 16 (if 48 ≤ h then fixedDesc h 8 else mget x.views h 0).toNat

/-- R321: the bytes of `out.msg` in an area: its words, those not yet written 0, and the write position. DEDUCED: log entry 145. -/
def outMsgBytes (l : List W32) : List Byte :=
  ((List.range 124).flatMap fun i => toLe 4 (l.getD i 0).toNat) ++ toLe 16 l.length

/-- R321: `out.msg` as an area holds it. -/
def State.areaOutMsg (s : State) (a : Nat) : List W32 :=
  (List.range (min 124 (leNat (s.bytesAt (a + 0x6F0) 16)))).map fun i => BitVec.ofNat 32 (leNat (s.bytesAt (a + 0x500 + 4 * i) 4))

/-- R321: a slot written to its area: header with its CRC, descriptors, `out.msg`, the used entries of the commit buffer and
the journal, and the window. DESIGN CHOICE: log entry 22. -/
def State.saveArea (s : State) (v : Saved) : State :=
  let a := nearAddr v.core v.area
  let win := s.winGet ⟨v.core, v.slot, 0⟩ v.body.wlen
  let s1 := s.scrambleArea a 256
  let s2 := s1.putArea (a + 0xFC) (toLe 2 (crc16 (s1.bytesAt a 252)))
  let s3 := (s2.putArea (a + 0x100) v.body.descBytes).putArea (a + 0x500) (outMsgBytes v.body.outMsg)
  let s4 := (s3.scrambleArea (a + 0x700) (32 * v.body.heldLen)).scrambleArea (a + 0xF00) (16 * v.body.jrn.length)
  ((s4.putArea (a + 0x3F00) win).savePoison v).wakeBanks [v.core] (s.winAddrs ⟨v.core, v.slot, 0⟩ v.body.wlen)

/-- R321: whether the header CRC of an area holds. -/
def State.areaOk (s : State) (a : Nat) : Bool := crc16 (s.bytesAt a 252) == leNat (s.bytesAt (a + 0xFC) 2)

/-- R321, R54: the descriptors `h0` to `h47` of an area; reserved fields read as 0, and `port` is as it was saved. -/
def State.areaViews (s : State) (a : Nat) (old : SMap (BitVec 128)) : SMap (BitVec 128) :=
  (List.range 48).map fun h =>
    let d := BitVec.ofNat 128 (dF (mget old h 0) 83 1 * 2 ^ 83)
    (h, dWrite d (BitVec.ofNat 128 (leNat (s.bytesAt (a + 0x100 + 16 * h) 16))))

/-! ## A firing taken back into another slot (R368) -/

/-- R368: a firing of a core that moves from its slot to another one. -/
structure Rehome where
  core : Nat
  fid  : Nat
  src  : Nat
  dst  : Nat
  deriving DecidableEq, Repr

/-- Whether a core, slot and identity name the firing that moves. -/
def Rehome.names (m : Rehome) (c k f : Nat) : Bool := c == m.core && k == m.src && f == m.fid

/-- The slot of what belongs to a firing, after the move. -/
def Rehome.seat (m : Rehome) (c k f : Nat) : Nat := if m.names c k f then m.dst else k

/-- A place in the window that moves. -/
def Rehome.place (m : Rehome) (p : Place) : Place := if p.core = m.core ∧ p.slot = m.src then { p with slot := m.dst } else p

/-- Where a result lands, after the move. -/
def Rehome.ret (m : Rehome) (r : Ret) : Ret :=
  if m.names r.core r.slot r.fid then { r with slot := m.dst, place := m.place r.place } else r

/-- An object, after the move. -/
def Rehome.obj (m : Rehome) (o : Obj) : Obj :=
  match o with
  | .token c k f i => .token c (m.seat c k f) f i
  | .rplq c k f => .rplq c (m.seat c k f) f
  | _ => o

/-- An object operation, after the move. -/
def Rehome.req (m : Rehome) (o : ObjReq) : ObjReq := if o.peer.isSome then o else { o with slot := m.seat o.core o.slot o.fid }

/-- An engine command, after the move. -/
def Rehome.cmd (m : Rehome) (q : Cmd) : Cmd := { q with slot := m.seat q.core q.slot q.fid, ret := m.ret q.ret }

/-- An atomic on its way, after the move. -/
def Rehome.atom (m : Rehome) (a : AtomReq) : AtomReq := { a with slot := (m.ret a.ret).slot, ret := m.ret a.ret }

/-- What the network carries for the firing, after the move. -/
def Rehome.pkt (m : Rehome) (p : Pkt) : Pkt :=
  match p with
  | .nearLd c _ q a n r => .nearLd c (m.ret r).slot q a n (m.ret r)
  | .nearSt c k f q a bs => .nearSt c (m.seat c k f) f q a bs
  | .ldReply r bs b => .ldReply (m.ret r) bs b
  | .token r v => .token (m.ret r) v
  | .atomic a => .atomic (m.atom a)
  | .obj o => .obj (m.req o)
  | .msg g c r => .msg g c (r.map m.ret)
  | .notice h c e o => .notice h c e (m.obj o)
  | .clear h c e o => .clear h c e (m.obj o)
  | .mdrp r => .mdrp { r with ret := m.ret r.ret }
  | .sysReq x c k f ws => .sysReq x c (m.seat c k f) f ws
  | .kick q => .kick (m.cmd q)
  | .trig c k f l => .trig c (m.seat c k f) f l
  | .fence c k f sc ids => .fence c (m.seat c k f) f sc ids
  | .kpost _ _ _ _ | .clRow _ _ _ | .trap _ => p

/-- What waits for a tag's reply, after the move. -/
def Rehome.cont (m : Rehome) (t : Cont) : Cont :=
  match t with
  | .reg r => .reg (m.ret r)
  | .tok r => .tok (m.ret r)
  | .obj o => .obj (m.req o)
  | _ => t

/-- An engine, after the move. -/
def Rehome.engine (m : Rehome) (e : Engine) : Engine :=
  { e with queue := e.queue.map m.cmd, parked := e.parked.map m.cmd, cur := e.cur.map m.cmd,
           tags := e.tags.map fun t => (t.1, { t.2 with cont := m.cont t.2.cont }) }

/-- An entry of the commit buffer, after the move. -/
def Rehome.held (m : Rehome) (e : Held) : Held :=
  match e with
  | .send g c r q => .send g c (r.map m.ret) q
  | .cmd q => .cmd (m.cmd q)
  | .atomic a => .atomic (m.atom a)
  | .obj o => .obj (m.req o)
  | .mdrp r => .mdrp { r with ret := m.ret r.ret }
  | .ld q => .ld { q with ret := m.ret q.ret }
  | .trig | .adv _ _ _ | .fence _ _ => e

/-- A guard's source, after the move. -/
def Rehome.gsrc (m : Rehome) (g : GSrc) : GSrc := { g with place := m.place g.place }

/-- A guard's computation, after the move. -/
def Rehome.gcalc (m : Rehome) (g : GCalc) : GCalc :=
  match g with
  | .cmp c l a b => .cmp c l (m.gsrc a) (m.gsrc b)
  | .mov a => .mov (m.gsrc a)
  | .and _ _ | .or _ _ | .xor _ _ | .not _ => g

/-- The firing itself, after the move. -/
def Rehome.body (m : Rehome) (x : Slot) : Slot :=
  { x with pend := x.pend.map fun p => { p with place := m.place p.place },
           guards := x.guards.map fun g => (g.1, { g.2 with src := g.2.src.map m.gcalc }),
           cbuf := x.cbuf.map m.held, acqs := x.acqs.map fun p => (m.place p.1, p.2) }

/-- The array's record of the firing that holds it, after the move. -/
def Rehome.arr (m : Rehome) (c : Nat) (a : MArr) : MArr :=
  { a with claim := a.claim.map fun p => (m.seat c p.1 p.2, p.2), last := a.last.map fun p => (m.seat c p.1 p.2.1, p.2) }

/-- R368: all that the device still holds for a firing follows it to its new slot. DEDUCED: log entry 140. -/
def State.rehome (s : State) (m : Rehome) : State :=
  { (s.updSlot m.core m.dst m.body).updCore m.core (fun x =>
        { x with arr := m.arr m.core x.arr,
                 sendQ := x.sendQ.map fun e => if m.names m.core e.slot e.fid then { e with slot := m.dst } else e }) with
    net := s.net.map m.pkt, homes := s.homes.map fun p => (p.1, p.2.map m.req), engines := s.engines.map fun p => (p.1, m.engine p.2)
    pitch := s.pitch.map fun p => (p.1, { p.2 with waiting := p.2.waiting.map m.cmd })
    marks := s.marks.map fun k => { k with obj := m.obj k.obj } }

/-- A saved firing with the header that stands in its area. -/
def State.headed (s : State) (v : Saved) : Saved := { v with head := s.areaHead (nearAddr v.core v.area) }

/-- R321, R368: a slot brought back from an area: its registers, descriptors, `out.msg` and window. What landed while the area stood elsewhere is
written over them (R70). A poisoned word of the window is consumed (R419); the slot's reply entries are not in an area. -/
def State.loadArea (s : State) (v : Saved) (a k : Nat) : State :=
  let x := s.slot v.core k
  let body : Slot :=
    { v.body with bind := x.bind, views := s.areaViews a v.body.views, outMsg := s.areaOutMsg a, rpl := x.rpl, rplPos := x.rplPos,
                  rplRes := x.rplRes }
  let s0 := s.updSlot v.core k fun _ => body
  let s1 := if k = v.slot then s0 else s0.rehome ⟨v.core, v.body.fid, v.slot, k⟩
  let s2 := v.late.foldl (fun t w => t.landWrite ⟨v.core, k, w.1⟩ w.2) (s1.landWrite ⟨v.core, k, 0⟩ (s.bytesAt (a + 0x3F00) v.body.wlen))
  match (List.range (v.body.wlen / 8)).find? fun i => s.poisoned (a + 0x3F00 + 8 * i) 8 with
  | some i => s2.consume v.core k (poisonRec x.ctx v.core k (a + 0x3F00 + 8 * i) 0 v.body.reqHdr)
  | none => s2

/-- R321: what `SVS` or a pre-emption saved under the header an area shows: an area keeps what it stands for when Ouva moves it as a
whole, and its contents are private to the core that wrote it. DEDUCED: log entry 140. -/
def State.areaOf (s : State) (a : Nat) : Option (Bool × Saved) :=
  let h := s.areaHead a
  let at_ (v : Saved) : Bool := nearAddr v.core v.area == a
  let all := (s.saved.map fun v => (true, v)) ++ s.saves.map fun p => (false, p.2)
  let same := all.filter fun p => p.2.head == h && p.2.core == s.curCore
  (same.find? fun p => at_ p.2).orElse fun _ => same.head?

/-- R34, R35: a message that leaves the resume entry of a slot unclaimed: to its queue, or to the overflow area, whatever room is there. DESIGN CHOICE: log entry 180. -/
def State.refile (s : State) (c : Nat) (m : Msg) : State :=
  let f := s.fileMsg c m
  if f.1 = 2 then s.updCtx m.ctx fun x => { x with spills := x.spills ++ [⟨c, m⟩] } else f.2

/-- R368, R366: the claimed message of a firing that is brought back takes the resume entry of its slot; one that a rollback left there
unclaimed makes room. -/
def State.returnClaim (s : State) (c k : Nat) : State :=
  let x := s.slot c k
  match x.claim with
  | some m =>
    let t := match mfind (s.core c).resume k with
      | some q => if q.claimed.isNone then s.refile c q.m else s
      | none => s
    t.updCore c fun y => { y with resume := mput y.resume k ⟨m, some x.fid⟩ }
  | none => s

/-- R368, R301: the replies held apart for a firing, and its reserved entries, beside those the slot holds. -/
def Slot.withReplies (y x : Slot) : Slot :=
  { x with rpl := y.rpl ++ x.rpl, rplPos := if y.rpl.isEmpty then x.rplPos else y.rplPos, rplRes := y.rplRes ++ x.rplRes }

/-- R368: a pre-empted firing brought back from an area into a slot, with the items held apart for it. DEDUCED: log entry 140. -/
def State.bringBack (s : State) (v : Saved) (a k : Nat) : State :=
  let s1 := { s with saved := s.saved.filter fun w => w.body.fid != v.body.fid }
  ((s1.loadArea v a k).updSlot v.core k fun x => v.body.withReplies { x with ran := 0 }).returnClaim v.core k

end Sys2Proof.Machine
end

