-- ==== Sys2Proof/Machine/System.lean ====
section
/-!
DEFINITION. System instructions (R317 to R325, R426) and the special registers (R198, R407, R425): their reads, their writes, and
the rows of the table that are such a write on its own.
-/

namespace Sys2Proof.Machine

/-! ## Special registers: which there are (R198, R407, R425) -/

/-- How a special register may be accessed: read by every firing, written by every firing, or by system firings alone. -/
inductive SrAcc where
  | ro | rw | rwSys
  deriving DecidableEq, Repr

/-- R198, R407, R425: the access of a special register; none for a reserved number. -/
def srAcc (n : Nat) : Option SrAcc :=
  if n ≤ 3 ∨ (6 ≤ n ∧ n ≤ 0xB) ∨ n = 0x42 ∨ n = 0x80 ∨ n = 0xC0 ∨ (0x111 ≤ n ∧ n ≤ 0x115) ∨ (0x200 ≤ n ∧ n ≤ 0x204)
      ∨ (0x208 ≤ n ∧ n ≤ 0x20A) ∨ n = 0x214 ∨ n = 0x215 ∨ n = 0x220 then some .ro
  else if n = 4 ∨ n = 5 ∨ (0x20 ≤ n ∧ n ≤ 0x23) ∨ n = 0x40 ∨ n = 0x41 ∨ n = 0x110 then some .rw
  else if n = 0x10 ∨ (0x100 ≤ n ∧ n ≤ 0x108) ∨ (0x210 ≤ n ∧ n ≤ 0x213) then some .rwSys
  else none

/-- R425: registers that only system firings read. -/
def srPrivate (n : Nat) : Bool := decide (0x200 ≤ n ∧ n ≤ 0x2FF)

/-- R198: the registers of 64 bits. -/
def srWide (n : Nat) : Bool := n == 0 || n == 3 || n == 4 || decide (6 ≤ n ∧ n ≤ 0xB)

/-- R409, R407: the scorecard entry a slot reads: that of its own context for the sender it selected. DEDUCED: log entry 128. -/
def State.scoreOf (s : State) (c k : Nat) : Option Score :=
  (s.core c).score.find? fun e => e.ctx == (s.slot c k).ctx && e.sender == (s.slot c k).scSel.toNat

/-- R28: the reference of a firing's own level-i barrier instance. DEDUCED: log entry 64. -/
def State.bobj (s : State) (x : Slot) (i : Nat) : Nat :=
  match s.launchOf x.launch with
  | none => 0
  | some l => if x.child then 0 else ((barrierHomes l.levels 0 x.wid.toNat).getD i none).getD 0

/-- R120, R134: `mx.afmt` as a slot reads it. -/
def State.afmtOf (s : State) (c k : Nat) : W32 :=
  let x := s.slot c k
  if (s.core c).arr.claim = some (k, x.fid) then (s.core c).arr.afmt
  else match x.marr with | some a => a.afmt | none => MArr.reset.afmt

/-- R364: `sched.clamp`. -/
def Core.clampWord (x : Core) : Nat := x.clamp.toNat

/-- R322, R198: the value of a special register as a slot reads it; `sys.lcore` of a copy engine names a core of its cluster. DESIGN CHOICE:
log entry 165. -/
def State.readSr (s : State) (c k n : Nat) : Nat :=
  let x := s.slot c k
  let y := s.core c
  let d := s.die (dieOf c)
  match n with
  | 0x000 => x.wid.toNat
  | 0x001 => agentCore c
  | 0x002 => k
  | 0x003 => s.now.toNat
  | 0x004 => x.dl.toNat
  | 0x005 => x.lnk.toNat
  | 0x010 => y.pwr.toNat
  | 0x040 => y.mxStat
  | 0x041 => y.team.toNat
  | 0x042 => (s.afmtOf c k).toNat
  | 0x080 => y.clampWord
  | 0x0C0 => min (mget (s.ctx x.ctx).stale (dieOf c) 0) 0xFFFFFFFF
  | 0x100 => y.pmRot.toNat
  | 0x110 => x.scSel.toNat
  | 0x111 => match s.scoreOf c k with | some e => e.tr.toNat | none => 0
  | 0x112 => match s.scoreOf c k with | some e => e.qw.toNat | none => 0
  | 0x113 => match s.scoreOf c k with | some e => e.run.toNat | none => 0
  | 0x114 => match s.scoreOf c k with | some e => e.wh.toNat | none => 0
  | 0x115 => match s.scoreOf c k with | some e => e.n.toNat | none => 0
  | 0x200 => y.ce.toNat
  | 0x201 => y.repl.toNat
  | 0x202 => y.rb.toNat
  | 0x203 => y.kill.toNat
  | 0x204 => y.ump.toNat
  | 0x208 => d.hce.toNat
  | 0x209 => d.hue.toNat
  | 0x20A => d.hiv.toNat
  | 0x214 => d.vstat.toNat
  | 0x215 => d.temp.toNat % 2 ^ 16
  | 0x220 => y.biRes.toNat
  | n =>
    if 6 ≤ n ∧ n ≤ 0xB then s.bobj x (n - 6)
    else if 0x20 ≤ n ∧ n ≤ 0x23 then (mget y.skew (n - 0x20) 0).toNat
    else if 0x101 ≤ n ∧ n ≤ 0x108 then (mget y.pmSet (n - 0x101) 0).toNat
    else if 0x210 ≤ n ∧ n ≤ 0x213 then (mget d.mv (n - 0x210) 0).toNat
    else 0

/-! ## Writes of special registers -/

/-- R52: whether a bound slot's window overlaps a bank. -/
def Core.bankBound (x : Core) (b : Nat) : Bool :=
  x.slots.any fun p => p.2.bound && decide (p.2.wbase < (b + 1) * 0x2000 ∧ b * 0x2000 < p.2.wbase + p.2.wlen)

/-- R52: one field of a write to `rs.pwr`: 0b11 keeps it, off is refused under a bound window, and a bank that leaves the off state
reads as zero and, switched on, is ready 200 cycles later. From off to retention it reads as zero too, and waits for no 200 cycles; nor does a bank that goes into retention
before its 200 cycles are over wait for the rest of them. DESIGN CHOICE: log entry 155. -/
def State.writeBank (s : State) (c b v : Nat) : State :=
  let x := s.core c
  let old := x.bank b
  if v = 3 ∨ v = old ∨ (v = 2 ∧ x.bankBound b) then s
  else
    let s1 := s.updCore c fun y =>
      { y with pwr := BitVec.ofNat 32 (setBits y.pwr.toNat (2 * b) 2 v),
               bankAt := if old = 2 ∧ v = 0 then mput y.bankAt b (s.now.toNat + 200) else mdel y.bankAt b }
    if old = 2 then
      { s1 with mem := s1.mem.filter fun p => !decide (rsAddr c (b * 0x2000) ≤ p.1 ∧ p.1 < rsAddr c ((b + 1) * 0x2000)) }
    else s1

/-- R51, R52: a write to `rs.pwr`. -/
def State.writePwr (s : State) (c v : Nat) : State := (List.range 4).foldl (fun t b => t.writeBank c b (bits v (2 * b) 2)) s

/-- R125: whether a write of the team word by the executing firing is refused. -/
def State.teamRefused (s : State) (v : Nat) : Bool :=
  let mask := bits v 0 16
  bits v 31 1 == 1 && (bits mask (memberOf s.curCore) 1 == 0 || bits mask (bits v 20 4) 1 == 0 || bits mask (bits v 16 4) 1 == 0
    || !s.placed mask)

/-- R125: whether a matrix instruction of a core's array is in flight: an `MMA`, `MLW.c` or `MSC` that has issued, or an `MDR` whose rows
wait for room. -/
def Core.arrayBusy (x : Core) : Bool :=
  !x.arr.drain.isEmpty
    || x.slots.any fun p => p.2.st == .running && (match p.2.wait with | .ring h _ _ => decide (116 ≤ h) | .mma _ _ => true | _ => false)

/-- R125, R127: the team word written: the member's epoch returns to 0, and a keeper's held rows are discarded, after a fault and without
one; a fault of either kind stands until then. DESIGN CHOICE: log entry 175. -/
def State.writeTeam (s : State) (c v : Nat) : State :=
  s.updCore c fun x =>
    { x with team := BitVec.ofNat 32 (bits v 31 1 * 2 ^ 31 + bits v 0 24), epoch := 0,
             keeper := { x.keeper with part := [], snap := [], queue := [], stall := false } }

/-- R428: the offset of a margin word, in steps of 5 mV. -/
def marginOff (v : Nat) : Int := intOf true 8 (bits v 0 8)

/-- R428: the target of a rail. -/
def marginTarget (v : Nat) : Int := if bits v 31 1 = 1 then marginOff v else 0

/-- R428: a margin written, clamped to ±20 steps, and the rail's move begun where its target changes. -/
def State.writeMargin (s : State) (die rail v : Nat) : State :=
  s.updDie die fun d =>
    let off := max (-20) (min 20 (marginOff v))
    let w := bits v 31 1 * 2 ^ 31 + wrap 8 off
    let old := (mget d.mv rail 0).toNat
    let st := setBits d.vstat.toNat (4 + rail) 1 (if off = marginOff v then 0 else 1)
    { d with mv := mput d.mv rail (BitVec.ofNat 32 w),
             vstat := BitVec.ofNat 32 (if marginTarget w = marginTarget old then st else setBits st rail 1 0) }

/-- R407: `pm.rot` written; an active set that is no longer one of the sets gives way to set 0. DEDUCED: log entry 135. -/
def State.writeRot (s : State) (c v : Nat) : State :=
  s.updCore c fun x =>
    { x with pmRot := BitVec.ofNat 32 (bits v 0 19), pmAct := if x.pmAct ≤ bits v 16 3 then x.pmAct else 0, pmAt := s.now.toNat }

/-- R322, R198: a special register written for a slot; a register that is not writable keeps its value. -/
def State.writeSr (s : State) (c k n v : Nat) : State :=
  match n with
  | 0x004 => s.updSlot c k fun x => { x with dl := BitVec.ofNat 64 v }
  | 0x005 => s.updSlot c k fun x => { x with lnk := BitVec.ofNat 32 v }
  | 0x010 => s.writePwr c v
  | 0x040 => s.updCore c fun x => { x with arr := { x.arr with ovf := v % 2 == 1 } }
  | 0x041 => s.writeTeam c v
  | 0x100 => s.writeRot c v
  | 0x110 => s.updSlot c k fun x => { x with scSel := BitVec.ofNat 14 v }
  | n =>
    if 0x20 ≤ n ∧ n ≤ 0x23 then
      s.updCore c fun x => { x with skew := mput x.skew (n - 0x20) (BitVec.ofNat 32 (bits v 31 1 * 2 ^ 31 + bits v 12 5 * 2 ^ 12)) }
    else if 0x101 ≤ n ∧ n ≤ 0x108 then s.updCore c fun x => { x with pmSet := mput x.pmSet (n - 0x101) (BitVec.ofNat 32 v) }
    else if 0x210 ≤ n ∧ n ≤ 0x213 then s.writeMargin (dieOf c) (n - 0x210) v
    else s

/-! ## RDS and WRS (R322) -/

/-- R322: raw bits written to element 0 of a destination: a 64-bit register fills elements 0 and 1 of a `b` vector. DEDUCED: log entry 45. -/
def Acc.putReg (q : Acc) (s : State) (v : Nat) : State :=
  if q.v.ty = .i4x then
    let old := leNat (s.winGet ⟨q.v.core, q.v.slot, q.v.start q.o true⟩ 1)
    q.putBytes s [BitVec.ofNat 8 (v % 16 + old / 16 * 16)]
  else if q.n = 2 then q.putLanes s 32 [v % 2 ^ 32, v / 2 ^ 32]
  else q.putRaw s (v % 2 ^ q.v.ty.bits)

/-- The access of a destination that takes a register. -/
def regAcc (v : View) (wide : Bool) (o : Nat) : Acc :=
  ⟨v, o, true, if wide && v.ty == .b && v.shape == 1 && decide (2 ≤ v.len) then 2 else 1⟩

/-- R322: `RDS`. -/
def rdsVerdict (r : BitVec 12) (d : BitVec 6) (s : State) : Verdict :=
  let n := r.toNat
  let dv := s.view d.toNat
  let dq := regAcc dv (srWide n) 0
  if (srAcc n).isNone then .trap { code := 8 }
  else if srPrivate n && !s.cur.sysFlag then .trap { code := 0x39 }
  else
    s.gated [dq] [] [] [] fun _ => .done (dq.putReg s (s.readSr s.curCore s.curSlot n))

/-- R322: `RDS`. -/
def execRds (r : BitVec 12) (d : BitVec 6) (s : State) : Out := .next (s.issueAny (.rds r d) (rdsVerdict r d))

/-- R322, R425: whether a write of a special register by a firing is a privileged trap. -/
def srLocked (n : Nat) (sys : Bool) : Bool :=
  match srAcc n with
  | some .ro => true
  | some .rwSys => !sys
  | _ => srPrivate n && !sys

/-- R322: `WRS`. -/
def wrsVerdict (r : BitVec 12) (a : BitVec 6) (s : State) : Verdict :=
  let n := r.toNat
  let av := s.view a.toNat
  let aq : Acc := ⟨av, 0, false, 1⟩
  if (srAcc n).isNone then .trap { code := 8 }
  else if srLocked n s.cur.sysFlag then .trap { code := 0x39 }
  else
    s.gated [aq] [] [] [] fun _ =>
      let v := aq.nat s
      if n = 0x41 then
        if s.teamRefused v then .trap { code := 0x1B, handle := av.h }
        else if s.curC.arrayBusy then .wait .array [] false
        else .done (s.writeTeam s.curCore v)
      else .done (s.writeSr s.curCore s.curSlot n v)

/-- R322: `WRS`. -/
def execWrs (r : BitVec 12) (a : BitVec 6) (s : State) : Out := .next (s.issueAny (.wrs r a) (wrsVerdict r a))

/-! ## TRAP and ERET (R319) -/

/-- R319: `TRAP`. -/
def trapVerdict (o : BitVec 2) (a : BitVec 6) (s : State) : Verdict :=
  let av := s.view a.toNat
  let offs := offsets o (some av) none
  let aq : Acc := ⟨av, offs.src, false, 1⟩
  s.gated [aq] [] [offs.bad, opTrap av.h (!av.isN32)] [] fun _ => .trap { code := 0x38, handle := av.h, operand := some (BitVec.ofNat 32 (aq.nat s)) }

/-- R319: `TRAP`. -/
def execTrap (o : BitVec 2) (a : BitVec 6) (s : State) : Out := .next (s.issue (.trap o a) (trapVerdict o a))

/-- R319, R242, R142: `ERET`. -/
def eretVerdict (s : State) : Verdict :=
  let r := s.resumeWord s.curCore s.curSlot
  if !s.cur.trapAct then .trap { code := 5 }
  else
    match s.rawGate ((s.win s.curCore s.curSlot).2 - 12) 4 with
    | some v => v
    | none =>
      if s.cur.scrum.isSome && !s.blockAt s.cur.ctx r then .trap { code := 0x2B }
      else if s.codeLen s.cur.ctx ≤ r then .trap { code := 0xE }
      else .stay (((s.noteIssue s).count s.curCore 2).trapReturn s.curCore s.curSlot)

/-- R319: `ERET`. -/
def execEret (s : State) : Out := .next (s.issue .eret eretVerdict)

/-! ## SYS (R320) -/

/-- R320, R16, R53: words written back to the vector of a `SYS`, whose banks are on after it as after a landing. -/
def State.sysBack (s : State) (q : Acc) (vals : List W32) : State :=
  let st := q.v.start q.o false
  (({ q with n := vals.length } : Acc).wrote (s.regPuts q.v.core q.v.slot [(st, vals.flatMap fun v => toLe 4 v.toNat)])).wakeBanks [q.v.core]
    (s.winAddrs ⟨q.v.core, q.v.slot, st⟩ (4 * vals.length))

/-- R320, R295: `SYS`. DEDUCED: log entry 88. -/
def sysVerdict (o : BitVec 2) (a : BitVec 6) (s : State) : Verdict :=
  let av := s.view a.toNat
  let offs := offsets o (some av) none
  let aq : Acc := ⟨av, offs.src, false, 4⟩
  s.objWait av.h
    (fun s =>
      s.gated [aq] [] [offs.bad, opTrap av.h (!av.isB 4)] [] fun _ =>
        s.blocking fun t =>
          let x := t.cur
          let t1 := t.push (.sysReq x.ctx t.curCore t.curSlot x.fid (aq.words t 4))
          let exp := if x.wto = 0 then none else some (t.now.toNat + x.wto)
          .stay ((t1.updCur fun y => { y with waitExp := exp }).waitCur .sent [] false))
    (fun vals s => .done (s.sysBack aq vals))

/-- R320: `SYS`. -/
def execSys (o : BitVec 2) (a : BitVec 6) (s : State) : Out := .next (s.issue (.sys o a) (sysVerdict o a))

/-! ## SVS and RSS (R321) -/

/-- R321: a slot that is stopped. -/
def Slot.stopped (x : Slot) : Bool := x.st == .idle || x.st == .halted

/-- R321, R224: the operand and the near-range trap of a save area's address and slot word; `bad`: whether the area cannot be restored. -/
def State.areaTrap (s : State) (h addr w : Nat) (bad : State → Nat → Bool) : Option Trap :=
  if addr % 256 ≠ 0 ∨ s.ownSlice addr = false ∨ 4 ≤ w ∨ (s.slot s.curCore w).stopped = false ∨ bad s addr = true then
    some { code := 5, handle := h }
  else if 0x18000 < addr % 2 ^ 17 + areaLen (s.slot s.curCore w).wlen then some { code := 0xB, handle := h }
  else none

/-- R321, R426: an `SVS` or `RSS`, by what it does with the area's address and the slot; one whose area lies in a block under test waits. -/
def areaVerdict (o : BitVec 2) (a : BitVec 6) (bad : State → Nat → Bool) (f : Nat → Nat → State → Verdict) (s : State) : Verdict :=
  let av := s.view a.toNat
  let offs := offsets o (some av) none
  let aq : Acc := ⟨av, offs.src, false, 2⟩
  if !s.cur.sysFlag then .trap { code := 0x39 }
  else
    s.gated [aq] [] [offs.bad, opTrap av.h (!av.isB 2)] [] fun _ =>
      let addr := aq.elem s 0
      let w := aq.elem s 1
      match s.areaTrap av.h addr w bad with
      | some t => .trap t
      | none => if s.testing addr (areaLen (s.slot s.curCore w).wlen) then .wait .drain [] false else f addr w s

/-- R321: a stopped slot saved. What earlier saves stand for is kept: their areas may have been moved (R366). -/
def svsDo (addr w : Nat) (s : State) : Verdict :=
  let v : Saved := ⟨s.curCore, w, addr % 2 ^ 17, [], s.slot s.curCore w, none, []⟩
  let s1 := s.saveArea v
  .done { s1 with saves := (addr, s1.headed v) :: s1.saves }

/-- R321: `SVS`. -/
def execSvs (o : BitVec 2) (a : BitVec 6) (s : State) : Out := .next (s.issue (.svs o a) (areaVerdict o a (fun _ _ => false) svsDo))

/-- R321: whether an area cannot be restored: its header's CRC fails, or nothing was saved under its header. -/
def State.areaBad (s : State) (addr : Nat) : Bool := !s.areaOk addr || (s.areaOf addr).isNone

/-- R321, R81: a stopped slot restored from an area: what `SVS` or a pre-emption saved there. A time-out that stood still counts on where its
object is clear. -/
def rssDo (addr w : Nat) (s : State) : Verdict :=
  match s.areaOf addr with
  | some (true, v) => .done (s.bringBack v addr w).thawHalted
  | some (false, v) => .done (s.loadArea v addr w).thawHalted
  | none => .done s

/-- R321: `RSS`. -/
def execRss (o : BitVec 2) (a : BitVec 6) (s : State) : Out := .next (s.issue (.rss o a) (areaVerdict o a State.areaBad rssDo))

/-! ## TS, PMC, SIGQ, CKPT, IDLE (R322 to R325) -/

/-- R322: `TS`: every older instruction has retired when it issues. -/
def tsVerdict (o : BitVec 2) (d : BitVec 6) (s : State) : Verdict :=
  let dv := s.view d.toNat
  let offs := offsets o none (some dv)
  let dq := regAcc dv true offs.dst
  s.gated [dq] [] [offs.bad] [] fun _ => .done (dq.putReg s s.now.toNat)

/-- R322: `TS`. -/
def execTs (o : BitVec 2) (d : BitVec 6) (s : State) : Out := .next (s.issue (.ts o d) (tsVerdict o d))

/-- R323, R408: `PMC`. -/
def pmcVerdict (o : BitVec 2) (a d : BitVec 6) (s : State) : Verdict :=
  let av := s.view a.toNat
  let dv := s.view d.toNat
  let offs := offsets o (some av) (some dv)
  let aq : Acc := ⟨av, offs.src, false, 1⟩
  let dq : Acc := ⟨dv, offs.dst, true, 6⟩
  s.gated [dq, aq] [] [opTrap dv.h (dv.fixed || dv.ty != .b || dv.shape != 1 || decide (dv.len < 6)), offs.bad,
      opTrap av.h (!av.isInt1)] [] fun _ =>
    let w := aq.nat s
    if w / 32 ≠ 0 ∨ bits w 2 2 ≠ 0 then .trap { code := 5, handle := av.h }
    else
      let j := w % 4
      let c := mget s.curC.ctrs j Counter.reset
      let s1 := dq.putLanes s 64 [c.count.toNat, (s.now - c.rstAt).toNat, (s.now - c.runAt).toNat]
      .done (if bits w 4 1 = 1 then
        s1.updCore s1.curCore fun x => { x with ctrs := mput x.ctrs j ⟨0, s.now, s.now⟩ } else s1)

/-- R323: `PMC`. -/
def execPmc (o : BitVec 2) (a d : BitVec 6) (s : State) : Out := .next (s.issue (.pmc o a d) (pmcVerdict o a d))

/-- R324: `SIGQ`. -/
def sigqVerdict (o : BitVec 2) (a d : BitVec 6) (s : State) : Verdict :=
  let av := s.view a.toNat
  let dv := s.view d.toNat
  let offs := offsets o (some av) (some dv)
  let aq : Acc := ⟨av, offs.src, false, 1⟩
  let dq : Acc := ⟨dv, offs.dst, true, if dv.ty = .b then 2 else 1⟩
  s.gated [dq, aq] [] [opTrap dv.h (dv.fixed || !((dv.shape == 0 && dv.ty == .n64) || dv.isB 2)), offs.bad,
      opTrap av.h (!av.isInt1)] [] fun _ =>
    let w := aq.nat s
    if w / 2 ^ 24 ≠ 0 then .trap { code := 5, handle := av.h }
    else .done (dq.putReg s (match s.sigAt s.cur.ctx w with | some e => e.toNat | none => 0))

/-- R324: `SIGQ`. -/
def execSigq (o : BitVec 2) (a d : BitVec 6) (s : State) : Out := .next (s.issue (.sigq o a d) (sigqVerdict o a d))

/-- R325: `CKPT`. -/
def ckptVerdict (s : State) : Verdict := s.blocking fun t => .done t

/-- R325: `CKPT`. -/
def execCkpt (s : State) : Out := .next (s.issue .ckpt ckptVerdict)

/-- R325, R253: `IDLE` acts as `WFE`; the clocks it may stop are no state. -/
def execIdle (s : State) : Out := .next (s.issue .idle wfeVerdict)

/-! ## BIST (R426, R427) -/

/-- R426: why a test is refused: 1 unknown, 2 unit busy, 3 bank bound or off. -/
def State.bistWhy (s : State) (test inst : Nat) : Option Nat :=
  let limit := match test with | 1 => 4 | 2 => 24 | 3 => 1 | 4 => 1 | 5 => 1 | 6 => 4 | 7 => 1 | 8 => 1 | _ => 0
  if limit ≤ inst then some 1
  else
    match test with
    | 1 => if s.curC.bankBound inst || s.curC.bank inst == 2 then some 3 else none
    | 2 => if s.homes.any (fun p => decide (p.1 / 0x1000 * 0x1000 = nearAddr s.curCore (inst * 0x1000))) then some 2 else none
    | 4 => (match s.curC.arr.claim with
        | some q => if q = (s.curSlot, s.cur.fid) then none else some 2
        | none => none)
    | 7 => if (s.engine (clusterOf s.curCore)).queue.isEmpty then none else some 2
    | _ => none

/-- R426, R427: a test started, or refused. -/
def State.startBist (s : State) (dq : Acc) (test inst : Nat) : State :=
  let r := s.mark dq 4 false false false
  match s.bistWhy test inst with
  | none => r.2.updCore s.curCore fun x => { x with bist := x.bist ++ [(test, inst, r.1)] }
  | some w =>
    (r.2.landToken r.1 2).updCore s.curCore fun x => { x with biRes := BitVec.ofNat 32 (2 * 2 ^ 30 + w * 2 ^ 26) }

/-- R426: `BIST`. -/
def bistVerdict (o : BitVec 2) (a d : BitVec 6) (s : State) : Verdict :=
  let av := s.view a.toNat
  let dv := s.view d.toNat
  let offs := offsets o (some av) (some dv)
  let aq : Acc := ⟨av, offs.src, false, 1⟩
  let dq : Acc := ⟨dv, 0, true, 1⟩
  if !s.cur.sysFlag then .trap { code := 0x39 }
  else
    s.gated [dq, aq] [] [opTrap dv.h (dv.fixed || dv.ring || !dv.isN32), offs.bad, opTrap av.h (!av.isInt1)] [] fun _ =>
      let w := aq.nat s
      if s.cur.pendFull then .wait .pending [] false
      else s.blocking fun t => .done (t.startBist dq (bits w 0 16) (bits w 16 8))

/-- R426: `BIST`. -/
def execBist (o : BitVec 2) (a d : BitVec 6) (s : State) : Out := .next (s.issue (.bist o a d) (bistVerdict o a d))

/-! ## Rows that are a register write of their own (R52, R125, R198, R428) -/

/-- R52: RS_PWR_WRITE: a write of `rs.pwr` by Ouva. -/
def execRsPwrWrite (core : Nat) (v : BitVec 32) (s : State) : Out :=
  .next (if core < numCores then s.writePwr core v.toNat else s)

/-- R125: MX_TEAM_WRITE: a write of the team word for a slot; one that is refused, or that has to wait, changes nothing. -/
def execMxTeamWrite (core slot : Nat) (v : BitVec 32) (s : State) : Out :=
  .next (
    let t := { s with curCore := core, curSlot := slot }
    if core < numCores ∧ t.teamRefused v.toNat = false ∧ (s.core core).arrayBusy = false then s.writeTeam core v.toNat else s)

/-- R428: MG_V_WRITE: a write of a rail margin of a core's die. -/
def execMgVWrite (core rail : Nat) (v : BitVec 32) (s : State) : Out :=
  .next (if core < numCores ∧ rail < 4 then s.writeMargin (dieOf core) rail v.toNat else s)

/-- R360, R61: a port-table entry written: `port` reads 1. -/
def State.writePort (s : State) (core entry : Nat) (v : BitVec 128) : State :=
  s.updCore core fun x => { x with ports := mput x.ports entry (dSet (dWrite (mget x.ports entry 0) v) 83 1 1) }

/-- R198, R360: REGISTER_WRITE: a write of a writable register that has no row of its own. -/
def execRegisterWrite (core slot : Nat) (t : RegTarget) (v : BitVec 128) (s : State) : Out :=
  .next (
    if core < numCores then
      match t with
      | .special n =>
        if slot < 4 ∧ srLocked n.toNat true = false ∧ (srAcc n.toNat).isSome ∧ n.toNat ≠ 0x10 ∧ n.toNat ≠ 0x41 ∧
            ¬(0x210 ≤ n.toNat ∧ n.toNat ≤ 0x213) then
          s.writeSr core slot n.toNat v.toNat
        else s
      | .wdog => s.updCore core fun x => { x with wdog := BitVec.ofNat 32 v.toNat }
      | .port e => if e < 64 then s.writePort core e v else s
    else s)

end Sys2Proof.Machine
end

