-- ==== Sys2Proof/Machine/Network.lean ====
section
/-!
DEFINITION. Deliveries inside the device: messages, tokens, near accesses, object operations, the operand network and the
keeper, trap messages, the completion of a binding, and the releases of peers that the device holds. An event whose item is not in flight, or may not go yet, changes
nothing.
-/

namespace Sys2Proof.Machine

/-! ## Messages (R34, R37, R300 to R302) -/

/-- R33: the send time written as a message is injected. -/
def Msg.stamped (m : Msg) (now : W64) : Msg :=
  { m with hdr := BitVec.ofNat 128 (setBits m.hdr.toNat 64 32 now.toNat) }

/-- The next choice the manual leaves to timing (R371, R396). DESIGN CHOICE: log entry 17. -/
def State.meets (s : State) : Bool × State := (Config.trapsMeet s.fresh, { s with fresh := s.fresh + 1 })

/-- R396: whether a message travels on the RPL channel of the mesh. -/
def Msg.onRpl (m : Msg) : Bool := m.kind == 2

/-- R396: the entry of a send queue that stands first among those for one channel of the mesh and has its words. -/
def Core.sendHead (x : Core) (rpl : Bool) : Option SendEntry := x.sendQ.find? fun e => e.msg.any fun p => p.1.onRpl == rpl

/-- R300, R39: a message goes onto the mesh, and its send-queue entry frees. -/
def State.injectEntry (s : State) (core : Nat) (e : SendEntry) : State :=
  match e.msg with
  | none => s
  | some (m, tgt, r) => (s.updCore core fun x => { x with sendQ := dropOne e x.sendQ }).push (.msg (m.stamped s.now) tgt r)

/-- R300, R39, R396: MESSAGE_INJECTION: the first message of a channel whose words have left the commit buffer goes onto the mesh; where
both channels have one, timing decides which goes. -/
def State.inject (s : State) (core : Nat) : State :=
  match (s.core core).sendHead false, (s.core core).sendHead true with
  | none, none => s
  | some e, none => s.injectEntry core e
  | none, some e => s.injectEntry core e
  | some d, some e => let w := s.meets; w.2.injectEntry core (if w.1 then d else e)

/-- R300: MESSAGE_INJECTION. -/
def execMessageInjection (core : Nat) (s : State) : Out := .next (s.inject core)

/-- R351: a reply to the host: words 0 to 11 in the status entry, which an invocation's moves to 0x8; a launch's entry keeps its
state. An entry that waits for no reply drops it (R301). -/
def State.hostReply (s : State) (m : Msg) : Nat × State :=
  let fn := m.ctx
  let i := m.sender.2.2
  let v := s.status fn i
  let w := leNat ((m.words.take 12).flatMap fun x => toLe 4 x.toNat)
  if m.launch ≠ 0 then
    (if statusSt v = 0 then (2, s.msgFault fn 0x3FFF 0x3B m.hdr)
     else (0, { s with funcs := mput s.funcs fn
                         { mget s.funcs fn Func.reset with
                           status := mput (mget s.funcs fn Func.reset).status i
                             (BitVec.ofNat 512 (w * 2 ^ 128 + v.toNat % 2 ^ 128)) } }))
  else if statusSt v = 1 ∨ statusSt v = 2 then (0, s.setStatus fn i 8 0 0 w)
  else (2, s.msgFault fn 0x3FFF 0x3B m.hdr)

/-- R37: the value of a message's token on its way to the sender. -/
def State.tokenTo (s : State) (r : Option Ret) (v : Nat) : State :=
  match r with
  | none => s
  | some r => s.push (.token r (BitVec.ofNat 32 v))

/-- R301: a reply for a core of a peer leaves through the sender's copy engine; its token lands with the peer's answer. `none` while
it must wait there (R384). -/
def State.peerReply (s : State) (m : Msg) (tgt : Nat) (r : Option Ret) : Option State :=
  let e := clusterOf m.sender.1
  let core := tgt % 2 ^ 14
  let body := toLe 16 m.hdr.toNat ++ m.words.flatMap fun w => toLe 4 w.toNat
  let cont := match r with | some r => Cont.tok r | none => .tok ⟨0, 0, 0, 0, ⟨0, 0, 0⟩, 0⟩
  let from_ := bits m.hdr.toNat 32 14
  match s.sendReq e m.ctx ((tgt - toPeer 0 0) / 2 ^ 14) ⟨3, 1, from_ * 2 ^ 14 + core, 0, core, body, false, 0, cont, 0⟩ with
  | .ok t => some t
  | .wait => none
  | .fail t v => some (t.tokenTo r v)

/-- R33: the core that sent a message. -/
def Msg.source (m : Msg) : Nat := bits m.hdr.toNat 32 14

/-- R34, R396, R87: whether an item in flight is a message of the same sender, target, priority and channel as one, or, for a reply, the
clearing of a mark of its sender on the reply queue. -/
def Pkt.sameRoute (m : Msg) (tgt : Nat) (p : Pkt) : Bool :=
  match p with
  | .msg n u _ => n.source == m.source && u == tgt && n.pri == m.pri && n.onRpl == m.onRpl
  | .clear _ _ src (.rplq c _ _) => m.kind == 2 && src == m.source && c == tgt
  | _ => false

/-- R34: MESSAGE_ARRIVAL: message k at its target; those of one sender to one target of one priority arrive in order. -/
def execMessageArrival (k : Nat) (s : State) : Out :=
  .next (
    match s.net[k]? with
    | some (.msg m tgt r) =>
      if s.earlier k (·.sameRoute m tgt) then s
      else if tgt = toHost then
        let d := (s.taken k).hostReply m
        d.2.tokenTo r d.1
      else if toHost < tgt then ((s.taken k).peerReply m tgt r).getD s
      else if s.moving tgt || (tgt == 0x3FFF && s.launchTests m.ctx m.hix) then s
      else
        let d := (s.taken k).arrive tgt m
        d.2.tokenTo r d.1
    | _ => s)

/-- R69: TOKEN_LANDING: token k lands. -/
def execTokenLanding (k : Nat) (s : State) : Out :=
  .next (
    match s.net[k]? with
    | some (.token r v) => if s.moving r.core then s else (s.taken k).landToken r v
    | _ => s)

/-! ## Near accesses at another slice (R66, R155, R289) -/

/-- R146: whether access k of a scrum stands behind an earlier one of it. -/
def State.scrumBehind (s : State) (k : Nat) (p : Pkt) : Bool := p.scrumOf.isSome && s.earlier k fun o => o.scrumOf == p.scrumOf

/-- R155, R146, R66: whether near access k must wait: for an earlier one of its agent to the same word, or of its scrum to any, for what a fence before it
covers (R166), or for the copy of its target to a spare or a self-test of its block (R426). DESIGN CHOICE: log entry 54. -/
def State.nearWaits (s : State) (k : Nat) (p : Pkt) : Bool :=
  match p.nearSpan with
  | none => true
  | some q =>
    s.moving (q.2.2.1 / 2 ^ 17) || s.testing q.2.2.1 q.2.2.2 || s.scrumBehind k p
      || s.behindFence k q.1 q.2.1 || s.earlier k fun o => match o.nearSpan with | some u => sameWords u q | none => false

/-- R66: NEAR_REQUEST: load or store k served at its slice. -/
def execNearRequest (k : Nat) (s : State) : Out :=
  .next (
    match s.net[k]? with
    | some (.nearLd c j o a n r) =>
      if s.nearWaits k (.nearLd c j o a n r) then s
      else ((s.taken k).updFiring r.core r.slot r.fid (·.dropWords a n)).push
        (.ldReply r (toLe r.len (leNat (s.bytesAt a n))) (if s.poisoned a n then some a else none))
    | some (.nearSt c j f o a bs) => if s.nearWaits k (.nearSt c j f o a bs) then s else (s.taken k).storeBy c j f a bs
    | _ => s)

/-- R289, R290, R418: REMOTE_ATOMIC: atomic k performs; its reply carries the old value, or the poison of its word. -/
def execRemoteAtomic (k : Nat) (s : State) : Out :=
  .next (
    match s.net[k]? with
    | some (.atomic q) =>
      let ty := Ty.ofCode q.ty
      let n := ty.bits / 8
      if s.nearWaits k (.atomic q) then s
      else if s.poisoned q.addr n then (s.taken k).push (.ldReply q.ret (s.bytesAt q.addr n) (some q.addr))
      else
        let d := (s.taken k).atomAt (s.writer q.core q.slot q.ret.fid) q.op ty q.addr q.b0.toNat q.b1.toNat
        let t := if s.touchesLive q.addr n then d.2 else d.2.watchAgent q.core q.addr n
        if q.ret.id = 0 then t else t.push (.ldReply q.ret (toLe n d.1) none)
    | _ => s)

/-- R418, R281: the firing of an identity consumes an uncorrectable error, wherever it stands: a running one at once; of a halted or
saved one the event is recorded and what follows from it waits for the firing to run on (ROLLBACK), which the objects it halted on still
hold back (R86). DEDUCED: log entry 66. -/
def State.consumeAt (s : State) (c k fid : Nat) (r : ErrRec) : State :=
  let x := s.firing c k fid
  if (s.slot c k).fid = fid ∧ (s.slot c k).st = .running then s.consume c k r
  else if x.fid = fid ∧ fid ≠ 0 ∧ x.st ≠ .idle then
    (s.record { r with fate := if x.restart then 1 else 3, hdr := x.reqHdr, retry := x.reqRetry }).updFiring
      c k fid fun y => { y with wait := .rollback, waitOn := if y.st = .halted then y.waitOn else [], ra := [] }
  else s

/-- R66, R69, R418, R72: REMOTE_LOAD_REPLY: reply k lands; a poisoned word is consumed, and halts a copy engine's microcode. -/
def execRemoteLoadReply (k : Nat) (s : State) : Out :=
  .next (
    match s.net[k]? with
    | some (.ldReply r bs poison) =>
      if s.moving r.core then s
      else
        let s1 := (s.taken k).land r bs
        match poison with
        | none => s1
        | some a =>
          if isEngine r.core then s1.microPoison (r.core - 0x4000)
          else s1.consumeAt r.core r.slot r.fid (poisonRec (s.firing r.core r.slot r.fid).ctx r.core r.slot a 0 0)
    | _ => s)

/-! ## Object operations (R294, R297) -/

/-- R294: an operation that nobody waits for. -/
def ObjOp.releases (o : ObjOp) : Bool := match o with | .rel => true | .bara => true | .semp => true | _ => false

/-- R162, R164: whether n near bytes hold a byte of a region that a context has bound to an object. -/
def Ctx.bound (x : Ctx) (ref : W64) (a n : Nat) : Bool :=
  x.binds.any fun b => !b.far && b.ref == ref && decide (b.start < a + n ∧ a < b.start + b.len)

/-- R161, R162, R164: whether an item in flight is a write of a slot to a byte that is bound to the object of a release. A write to any
other byte has no promise, but the rows of an `MDRP` are made visible by any release (R131). What counts is the binding as the release is applied. DESIGN CHOICE: log entry 176. -/
def State.carries (s : State) (o : ObjReq) (p : Pkt) : Bool :=
  match p with
  | .nearSt c j _ _ a bs => c == o.core && j == o.slot && (s.ctx o.ctx).bound o.ref a bs.length
  | .atomic q => q.core == o.core && q.slot == o.slot && (s.ctx o.ctx).bound o.ref q.addr ((Ty.ofCode q.ty).bits / 8)
  | .mdrp r => r.src == o.core && r.ret.slot == o.slot
  | _ => false

/-- R161: whether an operation is a release: one that nobody waits for, or the arrival of a `BAR`. -/
def ObjOp.isRelease (o : ObjOp) : Bool := o.releases || o == .bar

/-- R294: whether an engine still waits for a peer's answer to a `BARA` of the same firing at the same barrier, with the phase it arrived in. -/
def Engine.awaitsPhase (en : Engine) (o : ObjReq) : Bool :=
  (o.op == .barw || o.op == .bar) && en.tags.any fun t => t.2.busy && (match t.2.cont with
    | .obj q => q.op == .bara && q.core == o.core && q.slot == o.slot && q.fid == o.fid && q.ref == o.ref
    | _ => false)

/-- R161, R294, R87: whether an object operation stays behind an item that is on its way before it: an earlier one of its slot to the same
home, the clearing of a mark of its own core there (of any core, for the post of a launch's completion), or, for a release, an earlier write
of the slot that it carries. -/
def State.objBehind (s : State) (o : ObjReq) (p : Pkt) : Bool :=
  match p with
  | .obj q => q.core == o.core && q.slot == o.slot && q.ref == o.ref && q.peer == o.peer
  | .clear _ ctx src (.home h) => (src == o.core || o.fid == 0) && ctx == o.ctx && h == lockKey o.ref.toNat
  | p => o.op.isRelease && s.carries o p

/-- R161, R294, R87: whether operation k must wait: for an item before it, or for the phase of its firing's arrival. -/
def State.objWaits (s : State) (k : Nat) (o : ObjReq) : Bool :=
  (s.engine (clusterOf o.core)).awaitsPhase o || s.earlier k (s.objBehind o)

/-- R297, R392, R172: an operation on an object of a peer, a release among them with its markers, sent by the issuing core's copy engine. `none` while it must wait there. -/
def State.peerObj (s : State) (o : ObjReq) : Option State :=
  let r := o.ref.toNat
  let e := clusterOf o.core
  let h := refHome r
  let q := if o.op = .barw then
      { o with arg := (mfind (s.firing o.core o.slot o.fid).phases (lockKey r)).getD (2 ^ 32 - 1) } else o
  let req : Req := ⟨3, 1, h / 64, 0, h / 2 ^ 17, s.objImage q, false, 0, .obj o, 0⟩
  let sent := if o.op.isRelease then (s.farRelease e o.ctx (bits r 31 5) req).1 else s.sendReq e o.ctx (bits r 31 5) req
  match sent with
  | .ok t => some t
  | .wait => none
  | .fail t _ => some (if o.op.releases then t.reportObj o 0x3D else t.answerTrap o 0x3D)

/-- R294, R176: OBJECT_OPERATION: operation k applied at its home, or sent to the peer that holds it; a `TRIG` is counted once its
firing's earlier writes have performed. -/
def execObjectOperation (k : Nat) (s : State) : Out :=
  .next (
    match s.net[k]? with
    | some (.obj o) =>
      if s.objWaits k o then s
      else if refPeer o.ref.toNat then ((s.taken k).peerObj o).getD s
      else if s.moving (refHome o.ref.toNat / 2 ^ 17) || s.testing (refHome o.ref.toNat) 64 then s
      else (s.taken k).applyObj o
    | some (.trig c j _ id) => if s.earlier k (·.writes c j) then s else (s.taken k).countTrig id
    | _ => s)

/-! ## The operand network and the keeper (R124, R127) -/

/-- R127: whether an item in flight is a post of a member to a keeper. -/
def Pkt.postOf (kc m : Nat) (p : Pkt) : Bool := match p with | .kpost c n _ _ => c == kc && n == m | _ => false

/-- R127: KEEPER_POST: post k reaches the keeper. -/
def execKeeperPost (k : Nat) (s : State) : Out :=
  .next (
    match s.net[k]? with
    | some (.kpost kc m ep sc) =>
      if s.earlier k (·.postOf kc m) then s
      else (s.taken k).updCore kc fun x => { x with keeper := { x.keeper with posts := mput x.keeper.posts m (ep, sc) } }
    | _ => s)

/-- R127, R121: a row that reached the keeper's `cl.op`, cut into the activation row it completes. `kt` is the depth it cuts by,
`tile` that of the active tile. -/
def Core.gather (x : Core) (kt tile : Nat) (row : BitVec 512) : Core :=
  let f := x.arr.afmt.toNat
  let at_ := Ty.ofCode (bits f 0 4)
  let nsc := bits f 4 3
  let kp := x.keeper
  let snap := if kp.part.isEmpty then kp.posts else kp.snap
  let part := kp.part ++ [row]
  if part.length < clopPer kt at_ nsc then { x with keeper := { kp with part := part, snap := snap } }
  else
    let scales := if nsc = 0 then [] else toLe nsc row.toNat
    { x with keeper := { kp with part := [], snap := [], queue := kp.queue ++ [⟨scales, (kt + 31) / 32, tile, bits f 0 8, snap⟩] } }

/-- R127: a core whose hardware keeps the sums of its team; without an active tile its depth is a free value. -/
def State.keeperRow (s : State) (c : Nat) (row : BitVec 512) : State :=
  if (s.core c).isKeeper (memberOf c) then
    match (s.core c).arr.tile with
    | some t => s.updCore c fun x => x.gather t.kt t.kt row
    | none => let r := s.free; r.2.updCore c fun x => x.gather (r.1 % 128 + 1) 0 row
  else s

/-- R121, R124: the rows that an `MMA` in flight needs (of `cl.op`, and of sums), which stream out of their rings as they come. -/
def Core.streamed (x : Core) : Nat × Nat :=
  x.slots.foldl (fun m p => match p.2.wait with | .mma a n => (max m.1 a, max m.2 n) | _ => m) (0, 0)

/-- R62: whether a core's `cl.op`, of 32 rows, has room. -/
def Core.clopRoom (x : Core) : Bool := decide (x.clop.length < 32 + min x.clop.length x.streamed.1)

/-- R127: whether a core's `kp.scl`, of 8 rows, has room. -/
def Core.kpRoom (x : Core) : Bool := decide (x.kpscl.length < 8 + min x.kpscl.length x.streamed.2)

/-- R124: a row reaches every member it is for. -/
def State.deliverRow (s : State) (id : Nat) (row : BitVec 512) : State :=
  let mine (p : Pkt) : Option Nat := match p with | .clRow c i _ => if i = id then some c else none | _ => none
  (s.net.filterMap mine).foldl (fun t c => (t.updCore c fun x => { x with clop := x.clop ++ [row] }).keeperRow c row)
    { s with net := s.net.filter fun p => (mine p).isNone }

/-- R124: whether an item in flight is another row on the operand network of a core's cluster. -/
def Pkt.otherRow (c id : Nat) (p : Pkt) : Bool :=
  match p with | .clRow d i _ => clusterOf d == clusterOf c && i != id | _ => false

/-- R124: whether the member an item in flight brings a row to has room, for a row; true of every other item. -/
def State.rowFits (s : State) (id : Nat) (p : Pkt) : Bool := match p with | .clRow d i _ => i != id || (s.core d).clopRoom | _ => true

/-- R127, R128: whether a row of the operand network stands behind a post to a core that it is for: an `MLW` that has completed before the
row was sent has posted before it. DEDUCED: log entry 177. -/
def postFirst (id : Nat) (kps : List Nat) (l : List Pkt) : Bool :=
  match l with
  | [] => false
  | .kpost c _ _ _ :: rest => postFirst id (c :: kps) rest
  | .clRow c i _ :: rest => (i == id && kps.contains c) || postFirst id kps rest
  | _ :: rest => postFirst id kps rest

/-- R124: CL_OP_ROW: the row that stands first on its cluster's operand network arrives, once every member has room. -/
def execClOpRow (k : Nat) (s : State) : Out :=
  .next (
    match s.net[k]? with
    | some (.clRow c id row) =>
      if s.earlier k (·.otherRow c id) || postFirst id [] s.net then s
      else if s.net.all (s.rowFits id) then
        s.deliverRow id row
      else s
    | _ => s)

/-- R127: a scale byte of an activation row: 127 where the stream carries none. -/
def KRow.scale (r : KRow) (b : Nat) : Nat := match r.scales[b]? with | some v => v.toNat | none => 127

/-- R127: the 72 bytes of a sum row for a mask of members. DEDUCED: log entry 188. -/
def KRow.sumRow (r : KRow) (posts : SMap (BitVec 4 × List Byte)) (mask : Nat) : BitVec 576 :=
  let post (m : Nat) : BitVec 4 × List Byte := (mfind r.posts m).getD (mget posts m (0, []))
  let c (b m : Nat) : Nat :=
    if bits mask m 1 = 1 ∧ b < r.blocks then min (r.scale b + ((post m).2.getD b 127).toNat - 127) 0xFE else 0x7F
  BitVec.ofNat 576 (
    ((List.range 4).map fun b => ((List.range 16).map fun m => c b m * 2 ^ (128 * b + 8 * m)).sum).sum
      + ((List.range 16).map fun m => if bits mask m 1 = 1 then (post m).1.toNat * 2 ^ (512 + 4 * m) else 0).sum)

/-- R127, R108: the reserved scale of a block stops the keeper: the firing that holds the keeper core's array takes the trap at its next
instruction boundary (a saved or halted one once it runs on, one whose `MSC` has rows under way after them); with none, the fault message
goes to the mailbox of the context of the firing that held it. The link is stalled until the team word is written, in either case. DESIGN CHOICE: log entry 175. DEDUCED: log entry 78. -/
def State.keeperFault (s : State) (c b : Nat) : State :=
  let s1 := s.updCore c fun x => { x with keeper := { x.keeper with stall := true } }
  let t : Trap := { code := 0x10, handle := 52, elem := b }
  match (s.core c).arr.claim, (s.core c).arr.last with
  | some (k, fid), _ =>
    if (s.slot c k).fid = fid ∧ (s.slot c k).st = .running ∧ (s.slot c k).midMatrix = false then s1.takeTrap c k t
    else s1.updFiring c k fid fun x => { x with kfault := some b }
  | none, some (k, _, ctx) => s1.push (.trap (s.trapMsg c k ctx 0x10 0 0 0 (BitVec.ofNat 128 (t.detail 0 * 2 ^ 64 + 0x10))))
  | none, none => s1

/-- R127: the members of a team. -/
def teamCores (c mask : Nat) : List Nat :=
  ((List.range 16).filter fun m => bits mask m 1 == 1).map (coreOfMember (clusterOf c))

/-- R127: KEEPER_SUM_ROW: the sum row of the oldest activation row, broadcast once every member has posted and has room. -/
def execKeeperSumRow (core : Nat) (s : State) : Out :=
  .next (
    let x := s.core core
    let mask := bits x.team.toNat 0 16
    let ms := (List.range 16).filter fun m => bits mask m 1 == 1
    match x.keeper.queue with
    | [] => s
    | r :: rest =>
      if x.keeper.stall ∨ x.isKeeper (memberOf core) = false then s
      else if let some b := (List.range (max r.blocks r.scales.length)).find? fun b => r.scale b == 0xFF then s.keeperFault core b
      else if ms.any (fun m => (mfind r.posts m).isNone && (mfind x.keeper.posts m).isNone) then s
      else if (teamCores core mask).any fun c => !(s.core c).kpRoom then s
      else
        let row := r.sumRow x.keeper.posts mask
        let s1 := s.updCore core fun x => { x with keeper := { x.keeper with queue := rest } }
        (teamCores core mask).foldl (fun t c => t.updCore c fun x => { x with kpscl := x.kpscl ++ [⟨row, r.kt, r.fmt⟩], kpLast := some row }) s1)

/-! ## Accumulator rows of another core (R131) -/

/-- R131: whether n bytes of a register space lie in a window of a slot bound to a context. -/
def Core.windowOf (x : Core) (ctx off n : Nat) : Bool :=
  x.slots.any fun p => p.2.bound && p.2.ctx == ctx && decide (p.2.wbase ≤ off ∧ off + n ≤ p.2.wbase + p.2.wlen)

/-- R131, R116: the elements of one row added. -/
def addRow (ty : Ty) (old new : List (BitVec 32)) : List Byte :=
  (List.zipWith (fun x y => toLe 4 (addElem ty x.toNat y.toNat)) old new).flatten

/-- R131: whether an i32 addition leaves its range. -/
def rowOverflows (ty : Ty) (old new : List (BitVec 32)) : Bool :=
  ty == .i32 && (List.zipWith (fun x y => decide (x.toInt + y.toInt < -(2 : Int) ^ 31 ∨ (2 : Int) ^ 31 ≤ x.toInt + y.toInt)) old new).any id

/-- The sixteen words of a row. -/
def rowWords (r : BitVec 512) : List (BitVec 32) := (List.range 16).map fun i => BitVec.ofNat 32 (bits r.toNat (32 * i) 32)

/-- R131, R141: where the byte at a register-space offset of a core stands: in the window of a slot, at its current place. -/
def State.rsPlace (s : State) (c off : Nat) : Nat :=
  match (s.core c).slots.find? fun p => p.2.bound && decide (p.2.wbase ≤ off ∧ off < p.2.wbase + p.2.wlen) with
  | some p => s.winAddr ⟨c, p.1, off - p.2.wbase⟩
  | none => rsAddr c off

/-- R419: the parity of words into which something was added: one that held a byte whose parity fails fails as a whole. -/
def State.spreadParity (s : State) (as : List Nat) : State :=
  if s.parity.isEmpty then s
  else { s with parity := s.parity ++ as.filter fun b => !s.parity.contains b && s.parity.any fun p => p / 4 == b / 4 }

/-- R131: one row added at a register-space offset of a core. -/
def State.addRowAt (s : State) (c off : Nat) (ty : Ty) (row : BitVec 512) : State :=
  let a := s.rsPlace c off
  let old := rowWords (BitVec.ofNat 512 (leNat (s.bytesAt a 64)))
  let as := (List.range 64).map (a + ·)
  let s1 := ((s.setBytes a (addRow ty old (rowWords row))).spreadParity as).updCore c fun x =>
    { x with arr := { x.arr with ovf := x.arr.ovf || rowOverflows ty old (rowWords row) } }
  (s1.updCore ((a - 2 ^ 32) / 2 ^ 15) (·.forget as)).wakeBank a

/-- R131, R419, R418: the bytes that an addition reads where they stand: those whose parity fails are repaired by replay, or the firing that
issued the `MDRP` consumes the error. DEDUCED: log entry 178. -/
def State.readTarget (s : State) (r : MdrpReq) : State :=
  if s.parity.isEmpty then s
  else
    let as := (List.range r.rows.length).flatMap fun i => let a := s.rsPlace r.core (r.off + 64 * i); (List.range 64).map (a + ·)
    match as.filter s.parity.contains with
    | [] => s
    | b :: bad => (s.repair r.core (b :: bad)).getD (s.consumeAt r.ret.core r.ret.slot r.ret.fid (parityRec r.ctx r.core r.ret.slot b))

/-- R131: MDRP_ADD: the rows of item k added at their target, or none where they miss every window of the context. -/
def execMdrpAdd (k : Nat) (s : State) : Out :=
  .next (
    match s.net[k]? with
    | some (.mdrp r) =>
      if s.moving r.core || s.scrumBehind k (.mdrp r) then s
      else if (s.core r.core).windowOf r.ctx r.off (64 * r.rows.length) then
        let s1 := (List.range r.rows.length).foldl
          (fun t i => t.addRowAt r.core (r.off + 64 * i) (Ty.ofCode r.ty) (r.rows.getD i 0)) ((s.taken k).readTarget r)
        s1.push (.token r.ret 0)
      else (s.taken k).push (.token r.ret 0x20)
    | _ => s)

/-! ## Trap messages (R370 to R372) -/

/-- R371: a trap message without the fields in which merged ones differ. -/
def trapKey (m : BitVec 512) : BitVec 512 :=
  m &&& ~~~(BitVec.ofNat 512 ((2 ^ 48 - 1) * 2 ^ 464 + (2 ^ 16 - 1) * 2 ^ 432 + (2 ^ 64 - 1) * 2 ^ 256))

/-- R371: two matching messages merged. -/
def mergeTraps (a b : BitVec 512) : BitVec 512 :=
  BitVec.ofNat 512 ((trapKey a).toNat + (bits a.toNat 464 48 ||| bits b.toNat 464 48) * 2 ^ 464
    + min (bits a.toNat 432 16 + bits b.toNat 432 16) 0xFFFF * 2 ^ 432
    + min (bits a.toNat 256 64) (bits b.toNat 256 64) * 2 ^ 256)

/-- R371: a message put in a backstop's queue of 64: merged with a matching one, or queued; `none` while it is full. -/
def queueTrap (m : BitVec 512) (l : List (BitVec 512)) : Option (List (BitVec 512)) :=
  if l.any fun q => trapKey q == trapKey m then some (l.map fun q => if trapKey q = trapKey m then mergeTraps q m else q)
  else if 64 ≤ l.length then none
  else some (l ++ [m])

/-- R370: the logical core of the lowest bit of a trap message. DEDUCED: log entry 141. -/
def trapCore (m : BitVec 512) : Nat :=
  let row := bits m.toNat 456 8
  let i := ((List.range 48).find? fun i => bits m.toNat (464 + i) 1 == 1).getD 0
  (row / 128 * 64 + row % 64) * 96 + (row / 64 % 2 * 48 + i)

/-- R372: a fault record of a trap message. -/
def State.faultRecord (s : State) (m : BitVec 512) : State :=
  s.post { type := 1, ctx := bits m.toNat 448 8, lcore := trapCore m, code := bits m.toNat 384 32, body := m.toNat }

/-- R372: Ouva takes every message a backstop holds. -/
def State.serveBackstop (s : State) (row : Nat) : State :=
  (mget s.backstop row []).foldl State.faultRecord { s with backstop := mdel s.backstop row }

/-- R371: a trap message at its backstop; whether Ouva takes the queue before another message comes is left to timing. -/
def State.backstopTakes (s : State) (m : BitVec 512) : Option State :=
  let row := bits m.toNat 456 8
  match queueTrap m (mget s.backstop row []) with
  | none => none
  | some l =>
    let w := { s with backstop := mput s.backstop row l }.meets
    some (if w.1 then w.2 else w.2.serveBackstop row)

/-- R371: whether an item in flight is a trap message that matches one. -/
def Pkt.sameTrap (m : BitVec 512) (p : Pkt) : Bool := match p with | .trap q => trapKey q == trapKey m | _ => false

/-- R371, R372: TRAP_MESSAGE: trap message k meets a matching one on its way and merges with it, or reaches its backstop, from which
Ouva makes fault records. Any other item number lets Ouva take what the backstops hold. DEDUCED: log entry 133. -/
def execTrapMessage (k : Nat) (s : State) : Out :=
  .next (
    match s.net[k]? with
    | some (.trap m) =>
      let t := s.taken k
      let w := t.meets
      match t.net.findIdx? (·.sameTrap m) with
      | some j =>
        if w.1 then
          { w.2 with net := w.2.net.modify j fun p => match p with | .trap q => .trap (mergeTraps q m) | p => p }
        else (w.2.backstopTakes m).getD s
      | none => (t.backstopTakes m).getD s
    | _ => s.backstop.foldl (fun t p => t.serveBackstop p.1) s)

/-! ## Bindings (R160) -/

/-- R160: an `UNBD` by the holder of the lock first releases it. -/
def State.unbindRelease (s : State) (ref : Nat) : State :=
  let x := s.cur
  if x.locks.contains (lockKey ref) then
    let o : ObjReq := ⟨.rel, BitVec.ofNat 64 ref, 0, x.ctx, s.curCore, s.curSlot, x.fid, none⟩
    let s1 := s.updCur fun y => { y with locks := y.locks.erase (lockKey ref) }
    if refPeer ref then s1.push (.obj o) else s1.applyObj o
  else s

/-- R162, R164, R87: whether the release of an `UNBD` still waits: for writes of its firing that it carries, or for the clearing of a mark of
its core on the lock, or for a test of its block (R426). -/
def State.unbindWaits (s : State) (ref : Nat) : Bool :=
  s.cur.locks.contains (lockKey ref) &&
    ((!refPeer ref && s.testing (refHome ref) 64)
      || s.net.any (s.objBehind ⟨.rel, BitVec.ofNat 64 ref, 0, s.cur.ctx, s.curCore, s.curSlot, s.cur.fid, none⟩))

/-- R160: a waiting `BIND` or `UNBD` of the executing slot is applied everywhere. -/
def State.bindDone (s : State) (unbind : Bool) (q : Acc × Acc) : State :=
  if unbind && s.unbindWaits (q.2.nat64 s) then s
  else
  let s1 := if unbind then s.unbindRelease (q.2.nat64 s) else s
  match s1.rebind unbind q with
  | .ok c => (s1.updCtx s1.cur.ctx fun _ => c).updCur fun y => { y with wait := .answer [] }
  | .error c => s1.updCur fun y => { y with wait := .trap c }

/-- R160: BIND_COMPLETE: every interface and engine of the context applies the binding for which a slot waits. -/
def execBindComplete (core slot : Nat) (s : State) : Out :=
  .next (
    if (s.slot core slot).st = .running ∧ (s.slot core slot).wait = .sent then
      let t := { s with curCore := core, curSlot := slot }
      let u := match t.fetchAt (s.slot core slot).here.toNat with
        | some (.bind o b a, _) => t.bindDone false (t.bindAccs o b a)
        | some (.unbd o b a, _) => t.bindDone true (t.bindAccs o b a)
        | _ => t
      { u with curCore := s.curCore, curSlot := s.curSlot }
    else s)

/-! ## Held releases (R173, R174) -/

/-- R173: the planes that a marker of a class clears in a mask. -/
def clearPlane (m : BitVec 96) (p : Nat) : BitVec 96 := m &&& ~~~(BitVec.ofNat 96 (2 ^ p))

/-- R173: a release that the marker of a plane and class of an engine reaches. -/
def FarRel.reached (sdev src p cls seq : Nat) (r : FarRel) : FarRel :=
  if r.sdev = sdev ∧ r.src = src ∧ r.seq = seq then
    (if cls = 0 then { r with m0 := clearPlane r.m0 p } else { r with m1 := clearPlane r.m1 p })
  else r

/-- R174: whether a plane of a sender was lost after its plane list was built with c losses counted: n notices have come. Both counts are
modulo 256. -/
def lostSince (n c : Nat) : Bool := let d := (n + 256 - c % 256) % 256; decide (1 ≤ d ∧ d < 128)

/-- R174: the planes of a mask that were lost since. -/
def FarRel.lostOf (notices : SMap Nat) (r : FarRel) (m : BitVec 96) (c : List Byte) : List Nat :=
  (List.range 96).filter fun p => bits m.toNat p 1 == 1 && lostSince (mget notices (r.sdev * 96 + p) 0) (c.getD p 0).toNat

/-- R174: a release without the planes its sender has lost. DESIGN CHOICE: log entry 119. -/
def FarRel.without (notices : SMap Nat) (r : FarRel) : FarRel :=
  let l0 := r.lostOf notices r.m0 r.c0
  let l1 := r.lostOf notices r.m1 r.c1
  { r with m0 := l0.foldl clearPlane r.m0, m1 := l1.foldl clearPlane r.m1, lost := r.lost || !l0.isEmpty || !l1.isEmpty }

/-- The key of an engine of a peer. -/
def FarRel.key (r : FarRel) : Nat := r.sdev * 1024 + r.src

/-- R382, R391: whether a held release has no object to reach: its context does not exist, or has no entry for the sender. -/
def State.relVoid (s : State) (r : FarRel) : Bool :=
  let ctx := dF r.hdr 104 8
  !(s.ctx ctx).live || bits (s.peerEntry ctx r.sdev) 15 1 == 0

/-- R378, R426: whether an image of a peer waits: for the copy of its target to a spare, or for a test of a block that it would write. -/
def State.imageWaits (s : State) (h : BitVec 128) (img : List Byte) : Bool :=
  let m := leNat (img.take 16)
  s.moving (dF h 0 14)
    || (bits m 27 2 == 3 && s.testing (refHome (leNat ((img.drop 20).take 8))) 64)
    || (dF h 0 14 == 0x3FFF && bits m 27 2 != 3 && s.launchTests (dF h 104 8) (bits m 12 12))

/-- R173: whether a held release may be applied: every marker has come, the release of its engine before it has been applied, and its home is
not being copied to a spare (R378) or tested (R426). -/
def State.relReady (s : State) (r : FarRel) : Bool :=
  r.prev == mget s.fab.relSeq r.key 0 && (s.relVoid r || (r.m0 == 0 && r.m1 == 0 && !s.imageWaits r.hdr r.body))

/-- R173: a held release that may be applied, with the engine that holds it. -/
def State.nextRel (s : State) : Option (Nat × FarRel) :=
  s.engines.findSome? fun p => (p.2.holding.find? s.relReady).map fun r => (p.1, r)

/-- R173: the release of a sequence has been applied, or discarded. -/
def State.settledRel (s : State) (r : FarRel) : State :=
  { s with fab := { s.fab with relSeq := mput s.fab.relSeq r.key (r.seq + 1) } }

/-- R382, R392: an answer to a request of a peer. DEDUCED: log entry 120. -/
def State.answerPeer (s : State) (h : BitVec 128) (code : Nat) : State :=
  s.fabReply 8 (dF h 104 8) (dF h 117 5) (dF h 94 10) (dF h 90 4) 0 0 (toLe 4 code)

/-- R392, R34, R297, R174: an image of a peer: an object operation at its home, or a message at its target's network interface; `lost` for a
far release that had lost a plane. -/
def State.takeImage (s : State) (e : Nat) (h : BitVec 128) (img : List Byte) (lost : Bool) : State :=
  let ctx := dF h 104 8
  let m := leNat (img.take 16)
  let words := (List.range ((img.length - 16) / 4)).map fun i => BitVec.ofNat 32 (leNat ((img.drop (16 + 4 * i)).take 4))
  if bits m 27 2 = 3 then
    let w (i : Nat) : Nat := (words.getD i 0).toNat
    let ref := w 1 + w 2 * 2 ^ 32
    match ObjOp.ofCode (w 0) with
    | none => s.answerPeer h 0x3A
    | some op =>
      if !s.nearOk (refHome ref) 64 || ref % 64 != 0 then s.answerPeer h 0x3D
      else s.applyObj ⟨op, BitVec.ofNat 64 ref, w 3, ctx, bits m 32 14, bits m 104 2, 0,
        some ⟨dF h 117 5, dF h 94 10, dF h 90 4, e, lost⟩⟩
  else
    let hdr := setBits (setBits (setBits m 0 8 ctx) 8 4 2) 59 5 (dF h 117 5)
    let r := s.arrive (dF h 0 14) ⟨BitVec.ofNat 128 hdr, words, 0, 0, 0, 0⟩
    r.2.answerPeer h (lostCode lost r.1)

/-- R382, R391: a held release leaves its engine: applied at its object, answered with 7, or, its context being gone, discarded. -/
def State.applyRel (s : State) (e : Nat) (r : FarRel) : State :=
  let ctx := dF r.hdr 104 8
  let t := (s.updEngine e fun en => { en with holding := en.holding.erase r }).settledRel r
  if !(s.ctx ctx).live then t
  else if s.relVoid r then t.answerPeer r.hdr 7
  else t.takeImage e r.hdr r.body r.lost

/-- R173, R174: held releases applied in order, as many as can be; k bounds them. -/
def State.applyRels (s : State) (k : Nat) : State :=
  match k with
  | 0 => s
  | k + 1 =>
    match s.nextRel with
    | none => s
    | some (e, r) => State.applyRels (s.applyRel e r) k

/-- R173: the releases that the device holds, applied as far as they can be now. -/
def State.applyHeld (s : State) : State := s.applyRels (s.engines.map fun p => p.2.holding.length).sum

/-- R173: a marker reaches an engine: it is for a release held there, or waits for one. -/
def State.marker (s : State) (e src sdev plane cls seq : Nat) : State :=
  let held := (s.engine e).holding.any fun r => r.sdev == sdev && r.src == src && r.seq == seq
  let t := s.updEngine e fun en =>
    if held then { en with holding := en.holding.map fun r => r.reached sdev src plane cls seq }
    else { en with seen := en.seen ++ [(sdev, src, plane, cls, seq)] }
  t.applyHeld

end Sys2Proof.Machine
end

