-- ==== Sys2Proof/Machine/Halts.lean ====
section
/-!
DEFINITION. Halts after they are recorded: notices (R78, R87), rollback and abandon (R281, R85), release (R84 to R86), the debugger's
halt and release (R74), the requests of `SYS` (R320), time-outs (R295) and deadlines (R82).
-/

namespace Sys2Proof.Machine

/-! ## Answers of the management mailbox (R346, R400) -/

/-- R346, R400: the last answer of a function's mailbox: a status word and the bytes that go with it. -/
def State.mboxAnswer (s : State) (fn code : Nat) (data : List Byte := []) : State :=
  { s with funcs := mput s.funcs fn { mget s.funcs fn Func.reset with mbox := BitVec.ofNat 32 code, data := data } }

/-- R346: whether a function may name a context: the PF any, a VF its own. -/
def mayName (fn ctx : Nat) : Bool := fn == 0 || fn == ctx

/-- R346, R401, R423: why a debug command for a context is refused. -/
def State.debugRefusal (s : State) (fn ctx : Nat) : Option Nat :=
  if !mayName fn ctx then some 0x48
  else if !(s.ctx ctx).live || (s.ctx ctx).fenced then some 0x43
  else if !(s.ctx ctx).debug then some 0x49
  else none

/-- R346, R359: a command of a function: functions 0 to 255 have a mailbox. Where Ouva's image fails its verification no command runs, and the
mailbox goes on reporting that. DESIGN CHOICE: log entry 104. -/
def mailbox (fn : Nat) (refusal : Option Nat) (s : State) (f : State → State) : State :=
  if 256 ≤ fn then s
  else if s.ouvaBad then s.mboxAnswer fn 0x46
  else match refusal with
    | some c => s.mboxAnswer fn c
    | none => f s

/-! ## Waits that reach a withheld object (R79) -/

/-- R58, R79: whether what a waiting slot waits for has come since it waited. -/
def State.waitMet (s : State) (c k : Nat) : Bool :=
  let x := s.slot c k
  let t := { s with curCore := c, curSlot := k }
  match x.wait with
  | .ring 119 o false => decide (o < (s.core c).clop.length)
  | .mma a n => decide (a ≤ (s.core c).clop.length ∧ n ≤ (s.core c).kpscl.length)
  | .ring h o out => (⟨t.view (h % 128), o, out, 0⟩ : Acc).ringOk t
  | .reply => !x.rpl.isEmpty
  | .compose j => s.canCompose c j
  | _ => false

/-- R79: whether an object of a waiting slot is still unmet: a token until it lands, one of several rings until each read of it finds its
slot, another until the wait's condition holds. -/
def State.unmet (s : State) (c k : Nat) (o : Obj) : Bool :=
  let t := { s with curCore := c, curSlot := k }
  match o, (s.slot c k).wait with
  | .token _ _ _ id, _ => (s.slot c k).pend.any fun p => p.id == id
  | .clop _, .mma a _ => decide ((s.core c).clop.length < a)
  | .klink _, .mma _ n => decide ((s.core c).kpscl.length < n)
  | _, .rings l => l.any fun q => let a : Acc := ⟨t.view q.1, q.2.1, q.2.2, 0⟩; (a.waitsOn t).contains o && !a.ringOk t
  | _, _ => !s.waitMet c k

/-- R79: a waiting slot halts if its wait has reached a withheld object. -/
def State.reachHalt (s : State) (c k : Nat) : State :=
  let x := s.slot c k
  let on := x.waitOn.filter (s.unmet c k)
  if x.st = .running ∧ on.any s.withheld = true then (s.updSlot c k fun y => { y with waitOn := on }).consumerHalt c k else s

/-- R79: every wait tests its objects. -/
def State.reachHalts (s : State) : State := s.allSlots.foldl (fun t p => t.reachHalt p.1 p.2) s

/-- R292, R351: what shows an object's marks brought up to date: its block, and the status entries. -/
def State.showMarks (s : State) (o : Obj) : State :=
  match o with
  | .home h => (s.syncHome h).syncStatus
  | _ => s.syncStatus

/-- R78: whether a command publishes into an object: an arrival of `BSIG` at a barrier, an extension of a pitch counter. -/
def Cmd.publishes (q : Cmd) (o : Obj) : Bool :=
  match o with
  | .home h => q.code == 7 && lockKey q.a.toNat == h
  | .pitch key => q.feedKey == some key
  | _ => false

/-- R78: whether an item in flight is an update of an object by a core. -/
def Pkt.updates (p : Pkt) (src : Nat) (o : Obj) : Bool :=
  match p, o with
  | .obj q, .home h => q.core == src && q.peer.isNone && lockKey q.ref.toNat == h
  | .msg m tgt _, .rplq c _ _ => m.source == src && m.kind == 2 && tgt == c
  | .clRow c _ _, .clop d => c == d
  | .kick q, o => q.core == src && q.publishes o
  | .trig c _ _ l, .trigger l' => c == src && l == l'
  | _, _ => false

/-- R78: whether commands a core has kicked, and its engine has not performed, publish into an object. A halted engine publishes
nothing. -/
def State.enginePublishes (s : State) (src : Nat) (o : Obj) : Bool :=
  let en := s.engine (clusterOf src)
  en.hid == 0 && ((match en.cur with | some q => [q] | none => []) ++ en.parked ++ en.queue).any fun q =>
    q.core == src && q.publishes o

/-- R78: WITHHOLD_NOTICE: notice k reaches its object, behind the updates of the halted firing's core; the waits that reach the object
halt. -/
def execWithholdNotice (k : Nat) (s : State) : Out :=
  .next (
    match s.net[k]? with
    | some (.notice hid ctx src o) =>
      if s.earlier k (·.updates src o) || s.enginePublishes src o then s
      else
        let t := s.taken k
        if t.halts.any (fun h => h.hid == hid && h.ctx == ctx) then
          (({ t with marks := if t.marks.contains (Mark.mk hid ctx o) then t.marks else t.marks ++ [Mark.mk hid ctx o] }).showMarks o).reachHalts.freezeHalted
        else t
    | _ => s)

/-! ## Rollback and abandon (R281, R85) -/

/-- R281, step 3: a journal undone, newest entry first. -/
def State.undoJournal (s : State) (j : List Jrn) : State :=
  j.reverse.foldl (fun t e => (t.setBytes e.addr e.bytes).flushRa e.addr e.bytes.length) s

/-- R409: a message redelivered after an attempt that stood withheld for some cycles. -/
def Msg.waited (m : Msg) (n : Nat) : Msg := { m with whq := m.whq + n }

/-- R281, step 6: a queue in which what a firing claimed stands unclaimed again. -/
def unclaim (x : Slot) (l : List QEntry) : List QEntry :=
  l.map fun q => if q.claimed = some x.fid then { q with claimed := none, m := q.m.waited x.whc } else q

/-- R421: the retry count of a firing's message. -/
def Slot.retryOf (x : Slot) : Nat := match x.req with | some m => m.retry | none => 0

/-- R281, step 6, R421: a launch's firing that will be dispatched again; one that is not redelivered has ended, a spawned child too. -/
def State.relaunch (s : State) (x : Slot) : State :=
  if 3 ≤ x.retryOf then s.countEnd x.launch x.child
  else if x.launch = 0 ∨ x.child = true then s
  else s.updLaunch x.launch fun l =>
    { l with started := l.started.filter fun p => p.1 != x.wid.toNat }

/-- R281, step 4: a rolled-back firing without the reply entries that its held messages reserved. -/
def Slot.unreserve (x : Slot) : Slot :=
  { x with rplRes := x.cbuf.foldl (fun l e => match e with | .send m _ _ true => l.erase m.sender.2.2 | _ => l) x.rplRes }

/-- R281: a restartable firing in a slot rolled back; the pending marks that no held effect owned stay until they land. -/
def State.undo (s : State) (c k : Nat) : State :=
  let x := s.slot c k
  let s1 := s.undoJournal x.jrn
  let s2 := if k = 0 then s1.dissolve c else s1
  let s3 := (s2.discardArray c k x.fid).unfeed x.feeds
  let s4 := s3.updCore c fun y =>
    { y with sendQ := y.sendQ.filter fun e => !(e.fid == x.fid && e.msg.isNone)
             hiQ := unclaim x y.hiQ, loQ := unclaim x y.loQ
             resume := y.resume.map fun p => (p.1, (unclaim x [p.2]).headD p.2)
             rb := bump y.rb }
  let s5 := s4.updSlot c k fun y => { y.unreserve.idle with fid := 0, pend := y.pend.filter fun p => !p.held }
  ((s5.applyDbg c k).relaunch x).count c 9

/-- R281, step 1: a firing that has stopped for its rollback. -/
def Slot.rollingBack (x : Slot) : Slot :=
  { x with st := .running, hid := 0, wait := .rollback, waitOn := [], waitExp := none, waitRem := none, ra := [], opened := [] }

/-- R281, R310: a restartable firing rolled back, once every token, load and reply of it has landed. -/
def State.rollBack (s : State) (c k : Nat) : State :=
  if (s.slot c k).pend.all (·.held) then s.undo c k else s.updSlot c k Slot.rollingBack

/-- R295: an operation at a peer whose firing waits for it no longer: an arrival stands, what comes back otherwise has no effect. -/
def ObjReq.detached (o : ObjReq) : ObjReq := if o.op = .bar then { o with op := .bara } else { o with fid := 0 }

/-- The operations and requests by which a firing still waits, forgotten: they have no effect (R85, R295). -/
def State.dropWaits (s : State) (c k fid : Nat) : State :=
  let mine (o : ObjReq) : Bool := o.peer.isNone && o.core == c && o.slot == k && o.fid == fid && !o.op.releases
  { s with homes := s.homes.map fun p => (p.1, p.2.filter fun o => !mine o)
           engines := s.engines.map fun p => (p.1, { p.2 with tags := p.2.tags.map fun q => (q.1, { q.2 with cont := match q.2.cont with
             | .obj o => .obj (if mine o then o.detached else o)
             | x => x }) })
           net := s.net.filter fun p => match p with
             | .obj o => !mine o
             | .sysReq _ c' k' f _ => !(c' == c && k' == k && f == fid)
             | _ => true }

/-- R85, R40: a claimed message freed by an abandon: the fault message with its header. A firing of a launch has claimed none (R350). -/
def State.freedMessage (s : State) (c : Nat) (x : Slot) : State :=
  match x.req with
  | some m => if x.launch = 0 ∨ x.child = true then s.msgFault x.ctx c 0x3C m.hdr else s
  | none => s

/-- R72: the causes of a kill. -/
def killCause (cause : Nat) : Bool := cause == 3 || cause == 7 || cause == 8

/-- R85: a committed firing in a slot ends without settlement; `killed` where the kill has counted it in the scorecard (R409). -/
def State.endUnsettled (s : State) (c k : Nat) (killed : Bool) : State :=
  let x := s.slot c k
  let s1 := if k = 0 then s.handback c else s
  let s2 := ((if killed then s1 else s1.scoreEnd c k).freedMessage c x).dropLocks c k
  let s3 := ((s2.unfeed x.feeds).discardArray c k x.fid).freeClaim c k x.fid
  (s3.updSlot c k fun y => { y.idle with fid := 0 }).countEnd x.launch x.child

/-- R85, R150: the abandon of the firing in a slot; a scrum is collapsed with handback. DEDUCED: log entry 65. -/
def State.abandon (s : State) (c k : Nat) (killed : Bool) : State :=
  let x := s.slot c k
  let t := s.dropWaits c k x.fid
  if x.restart then (if k = 0 then t.handback c else t).rollBack c k else t.endUnsettled c k killed

/-- R409: the scorecard takes a saved firing's message as it would from its slot. -/
def State.scoreSaved (s : State) (v : Saved) : State :=
  let t := (s.updSlot v.core v.slot fun _ => v.body).scoreEnd v.core v.slot
  t.setSlot v.core v.slot (s.slot v.core v.slot)

/-- R301, R366: the replies held apart for a saved firing that is given up, and its reservations, return to its slot while that is still its
context's. -/
def State.returnReplies (s : State) (v : Saved) : State :=
  if (s.slot v.core v.slot).bound = true ∧ (s.slot v.core v.slot).ctx = v.body.ctx then
    s.updSlot v.core v.slot (v.body.unreserve.withReplies ·)
  else s

/-- R85, R281: the abandon of a saved firing; what was held apart for it is filed again, or freed (R35). A restartable one waits for its
tokens first. -/
def State.abandonSaved (s : State) (v : Saved) (killed : Bool) : State :=
  let x := v.body
  if x.restart && !x.pend.all (·.held) then
    let t := s.dropWaits v.core v.slot x.fid
    { t with saved := t.saved.map fun w => if w.body.fid = x.fid then { w with body := w.body.rollingBack } else w }
  else
  let s1 := ({ (s.dropWaits v.core v.slot x.fid).discardArray v.core v.slot x.fid with
              saved := s.saved.filter fun w => w.body.fid != x.fid } : State).returnReplies v
  if x.restart then
    let s2 := ((s1.undoJournal x.jrn).unfeed x.feeds).relaunch x
    let s3 := s2.updCore v.core fun y => { y with sendQ := y.sendQ.filter fun e => !(e.fid == x.fid && e.msg.isNone), rb := bump y.rb }
    let s4 := s3.count v.core 9
    match x.req with
    | some m =>
      if (x.hdl || x.child) && decide (x.retryOf < 3) then
        let f := s4.fileMsg v.core (m.waited x.whc)
        if f.1 = 2 then s4.updCtx x.ctx fun c => { c with spills := c.spills ++ [⟨v.core, m.waited x.whc⟩] } else f.2
      else s4
    | none => s4
  else
    let locks := x.locks.map fun h => Pkt.obj ⟨.rel, BitVec.ofNat 64 h, 0, x.ctx, v.core, v.slot, x.fid, none⟩
    let s2 := (if killed then s1 else s1.scoreSaved v).freedMessage v.core x
    (({ s2 with net := s2.net ++ locks }).unfeed x.feeds).countEnd x.launch x.child

/-- R309: the abandon of a copy engine's halt: its commands end with token 0x0000_0009. -/
def State.abandonEngine (s : State) (e : Nat) : State :=
  let en := s.engine e
  let qs := (match en.cur with | some q => [q] | none => []) ++ en.parked ++ en.queue
  let s1 := (s.updEngine e fun en =>
    { en with queue := [], parked := [], cur := none, todo := [], outst := 0, status := 0, hid := 0 }).updSlot (engineKey e) 0
      fun x => { x.idle with pend := [] }
  qs.foldl (fun t q => t.push (.token q.ret 9)) s1

/-! ## Release (R84 to R87) -/

/-- R87: objects whose updates act at once in this model: their marks clear in the step of the release; the marks of the others are
cleared by notices, behind which later updates travel. DEDUCED: log entry 87. -/
def Obj.prompt (o : Obj) : Bool := match o with | .home _ => false | .rplq _ _ _ => false | _ => true

/-- The object of a notice of a halt. -/
def Pkt.noticeOf (hid : BitVec 16) (ctx : Nat) (p : Pkt) : Option Obj :=
  match p with
  | .notice h c _ o => if h = hid ∧ c = ctx then some o else none
  | _ => none

/-- R86, R87: the marks placed under a halt cleared, or their clearing sent. -/
def State.clearMarks (s : State) (h : Halt) : State :=
  let mine (m : Mark) : Bool := m.hid == h.hid && m.ctx == h.ctx
  let far := ((s.marks.filter mine).map Mark.obj ++ s.net.filterMap (Pkt.noticeOf h.hid h.ctx)).filter fun o => !o.prompt
  { s with
    marks := s.marks.filter fun m => !(mine m && m.obj.prompt)
    net := (s.net.filter fun p => match p.noticeOf h.hid h.ctx with | some o => !o.prompt | none => true)
      ++ far.map (Pkt.clear h.hid h.ctx h.core) }

/-- R81: a wait goes on under what was left of its time-out. -/
def Slot.thaw (now : Nat) (x : Slot) : Slot :=
  { x with waitExp := match x.waitRem with | some r => some (now + r) | none => x.waitExp, waitRem := none }

/-- R420: the block of a firing that runs on where it was stopped: one at whose start it stands is entered there, a partial one is not
checked. -/
def Slot.keepBlock (x : Slot) : Option (BitVec 24) := if x.blk = some x.pc then x.blk else none

/-- R86, R420: a halted firing runs on: its wait is tested again. -/
def Slot.goesOn (x : Slot) : Slot :=
  { x with st := .running, hid := 0, blk := x.keepBlock, waitOn := if x.wait = .rollback then [] else x.waitOn }

/-- R86, R81: the same in a slot, where the time-out of its wait counts on. -/
def Slot.resumed (now : Nat) (x : Slot) : Slot := (x.thaw now).goesOn

/-- R421, R418: whether a committed firing was killed while it stood halted or saved. -/
def Slot.doomed (x : Slot) : Bool := x.wait == .rollback && !x.restart

/-- Whether a firing is halted under a halt. -/
def Slot.haltedBy (h : Halt) (x : Slot) : Bool := x.st == .halted && x.hid == h.hid && x.ctx == h.ctx

/-- R368: the slot in which the firing of a halt stands: the one it halted in, or the one it was brought back into. -/
def State.haltSeat (s : State) (h : Halt) : Nat :=
  ((List.range 4).find? fun k => (s.slot h.core k).haltedBy h).getD h.slot

/-- R84, R86, R81: the firing of a halt runs on, in its slot, or, while it is saved, once it comes back. -/
def State.runOn (s : State) (h : Halt) : State :=
  if (s.slot h.core (s.haltSeat h)).haltedBy h then s.updSlot h.core (s.haltSeat h) (·.resumed s.now.toNat)
  else { s with saved := s.saved.map fun v => if v.body.haltedBy h then { v with body := v.body.goesOn } else v }

/-- The firing of a halt, while it stands halted. -/
def State.haltedFiring (s : State) (h : Halt) : Option Slot :=
  if (s.slot h.core (s.haltSeat h)).haltedBy h then some (s.slot h.core (s.haltSeat h))
  else (s.saved.find? fun v => v.body.haltedBy h).map Saved.body

/-- R75: a halt is live until its firing runs on and its marks are cleared. -/
def State.pruneHalts (s : State) : State :=
  { s with halts := s.halts.filter fun h =>
      (s.haltedFiring h).isSome || s.engines.any (fun p => p.2.hid == h.hid && h.cause == 9)
        || s.marks.any (fun m => m.hid == h.hid && m.ctx == h.ctx)
        || s.net.any (fun p => match p with
            | .notice i c _ _ => i == h.hid && c == h.ctx
            | .clear i c _ _ => i == h.hid && c == h.ctx
            | _ => false) }

/-- R86: one consumer halt in record order: it resumes when every object it waits on is clear; one that stays takes as `reached` the
halt that withholds its object now. -/
def State.tryResume (s : State) (h : Halt) : State :=
  if h.cause ≠ 4 then s
  else
    match s.haltedFiring h with
    | none => s
    | some x =>
      match x.waitOn.find? s.withheld with
      | none => (s.runOn h).clearMarks h
      | some o =>
        let stands := s.marks.any fun m => m.hid == h.reached && m.ctx == h.ctx && x.waitOn.any fun u => (s.behind u).contains m.obj
        if stands then s
        else
          let h' : Halt := { h with reached := s.reported o, okind := s.okind o }
          { s with halts := insertHalt h' (s.halts.filter fun g => g != h) }

/-- R86: the consumer halts that can go on, in record order, until none is left; k bounds the passes. -/
def State.resumeAll (s : State) (k : Nat) : State :=
  match k with
  | 0 => s
  | k + 1 => State.resumeAll (s.halts.foldl State.tryResume s) k

/-- R86, R87: what follows once marks have cleared: blocks and status entries show it, consumers go on, and halts that are over are
forgotten. -/
def State.afterClear (s : State) : State :=
  (((((s.homes.foldl (fun t p => t.syncHome p.1) s).resumeAll (s.halts.length + 1)).syncStatus).pruneHalts).thawHalted).freezeHalted

/-- R72: the causes from which a firing can resume. -/
def resumable (cause : Nat) : Bool := cause == 0 || cause == 1

/-- R84 to R86: the release of a halt of a context, and its status: action 0 resumes, 1 abandons. -/
def State.releaseHalt (s : State) (ctx : Nat) (hid : BitVec 16) (act : Nat) : Nat × State :=
  match s.halts.find? fun h => h.hid == hid && h.ctx == ctx with
  | none => (3, s)
  | some h =>
    let e := clusterOf h.core
    let eng := h.cause == 9 && (s.engine e).hid == hid
    if !eng && (s.haltedFiring h).isNone then (3, s)
    else if h.cause = 4 then (1, s)
    else if act = 0 ∧ (resumable h.cause = false ∨ (s.haltedFiring h).any Slot.doomed = true) then (2, s)
    else
      let t :=
        if act = 0 then s.runOn h
        else if eng then s.abandonEngine e
        else if (s.slot h.core (s.haltSeat h)).haltedBy h then s.abandon h.core (s.haltSeat h) (killCause h.cause)
        else match s.saved.find? fun v => v.body.haltedBy h with
          | some v => s.abandonSaved v (killCause h.cause)
          | none => s
      (0, (t.clearMarks h).afterClear)

/-- R87: CLEARING_NOTICE: notice k reaches its object, behind the notice that placed the mark. -/
def execClearingNotice (k : Nat) (s : State) : Out :=
  .next (
    match s.net[k]? with
    | some (.clear hid ctx _ o) =>
      if s.earlier k (fun p => p.noticeOf hid ctx == some o) then s
      else
        let t := s.taken k
        let i := t.marks.findIdx? fun m => m.hid == hid && m.ctx == ctx && m.obj == o
        (match i with | some j => { t with marks := t.marks.eraseIdx j } | none => t).afterClear
    | _ => s)

/-! ## The debugger's halt and release (R74, R84, R400) -/

/-- R74: DEBUG_HALT: command 0x09. A firing whose matrix instruction must still retire (R134) halts in a later event. -/
def execDebugHalt (fn ctx core slot : Nat) (s : State) : Out :=
  .next (mailbox fn (s.debugRefusal fn ctx) s fun s =>
    let p := s.ownerOf core slot
    let x := s.slot p.1 p.2
    if slot < 4 ∧ core < numCores ∧ x.ctx = ctx ∧ x.bound = true then
      match x.st with
      | .running =>
        if x.midMatrix then s
        else
          let t := s.haltSlot p.1 p.2 0
          t.mboxAnswer fn 0 (toLe 2 (t.slot p.1 p.2).hid.toNat)
      | .halted => s.mboxAnswer fn 2 (toLe 2 x.hid.toNat)
      | _ => s.mboxAnswer fn 1
    else s.mboxAnswer fn 1)

/-- R84, R400: DEBUG_RELEASE: command 0x0A. -/
def execDebugRelease (fn ctx : Nat) (hid : BitVec 16) (act : Nat) (s : State) : Out :=
  .next (mailbox fn (s.debugRefusal fn ctx) s fun s =>
    if 2 ≤ act then s.mboxAnswer fn 0x4A
    else
      let r := s.releaseHalt ctx hid act
      r.2.mboxAnswer fn r.1)

/-! ## The requests of SYS (R320) -/

/-- R320: whether an earlier request waits at the management core of a die. -/
def State.sysWaits (s : State) (k core : Nat) : Bool :=
  s.earlier k fun p => match p with | .sysReq _ c _ _ _ => dieOf c == dieOf core | _ => false

/-- R320: the answer of the management core to a waiting `SYS`. -/
def State.sysAnswer (s : State) (core slot fid status : Nat) : State :=
  s.updFiring core slot fid fun x =>
    if x.wait = .sent then { x with wait := .answer [BitVec.ofNat 32 status], waitExp := none, waitRem := none } else x

/-- R320: SYS_RELEASE: request k of function 1. -/
def execSysRelease (k : Nat) (s : State) : Out :=
  .next (
    match s.net[k]? with
    | some (.sysReq ctx core slot fid ws) =>
      if s.sysWaits k core ∨ ws.headD 0 ≠ 1 then s
      else
        let t := s.taken k
        if (s.ctx ctx).sup ≠ core then t.sysAnswer core slot fid 0xFFFFFFFE
        else if 2 ≤ (ws.getD 2 0).toNat then t.sysAnswer core slot fid 0xFFFFFFFD
        else
          let r := if 2 ^ 16 ≤ (ws.getD 1 0).toNat then (3, t)
            else t.releaseHalt ctx (BitVec.ofNat 16 (ws.getD 1 0).toNat) (ws.getD 2 0).toNat
          r.2.sysAnswer core slot fid r.1
    | _ => s)

/-- R320: SYS_POST: request k of function 2: its three words go to the supervisor mailbox. A function the manual does not list is
answered here too. -/
def execSysPost (k : Nat) (s : State) : Out :=
  .next (
    match s.net[k]? with
    | some (.sysReq ctx core slot fid ws) =>
      if s.sysWaits k core ∨ ws.headD 0 = 1 then s
      else if ws.headD 0 = 2 then
        ((s.taken k).post
          { type := 4, ctx := ctx, lcore := core, code := 0,
            body := (ws.getD 1 0).toNat + (ws.getD 2 0).toNat * 2 ^ 32 + (ws.getD 3 0).toNat * 2 ^ 64 + slot * 2 ^ 96 }).sysAnswer
              core slot fid 0
      else (s.taken k).sysAnswer core slot fid 0xFFFFFFFF
    | _ => s)

/-! ## Time-outs and deadlines (R295, R82) -/

/-- R295: WAIT_TIME_OUT: the wait of a slot ends in the wait time-out trap; what it asked for has no effect. DEDUCED: log entry 59. -/
def execWaitTimeOut (core slot : Nat) (s : State) : Out :=
  .next (
    let x := s.slot core slot
    match x.wait, x.waitExp with
    | .sent, some e =>
      if x.st = .running ∧ e ≤ s.now.toNat then
        (s.dropWaits core slot x.fid).updSlot core slot fun y => { y with wait := .trap 0x37, waitOn := [], waitExp := none }
      else s
    | _, _ => s)

/-- R82: the root halt behind a halt identifier: its `reached` fields followed back; k bounds the chain. -/
def haltRoot (l : List Halt) (ctx k : Nat) (hid : BitVec 16) : BitVec 16 :=
  match k with
  | 0 => hid
  | k + 1 =>
    match l.find? fun h => h.hid == hid && h.ctx == ctx with
    | some h => if h.cause = 4 then haltRoot l ctx k h.reached else hid
    | none => hid

/-- R82: the state code and root identifier of a firing that misses its deadline. DEDUCED: log entry 84. -/
def State.missState (s : State) (x : Slot) (saved : Bool) : Nat × BitVec 16 :=
  let root := haltRoot s.halts x.ctx s.halts.length
  if x.st = .halted then
    (if s.halts.any (fun h => h.hid == x.hid && h.ctx == x.ctx && h.cause == 4) then 2 else 3, root x.hid)
  else if saved then (4, 0)
  else
    match x.waitOn.find? s.withheld with
    | some o => (2, root (s.reported o))
    | none => (if x.wait = .none then 0 else 1, 0)

/-- R82: whether a firing has missed its deadline. -/
def Slot.missed (now : W64) (x : Slot) : Bool :=
  (x.st == .running || x.st == .halted) && x.dl != 0 && decide (x.dl.toNat ≤ now.toNat)

/-- R82: the deadline record of a firing. -/
def State.postMiss (s : State) (core slot : Nat) (x : Slot) (saved : Bool) : State :=
  let m := s.missState x saved
  s.post { type := 3, ctx := x.ctx, lcore := core, code := 0,
           body := x.dl.toNat + slot * 2 ^ 64 + m.1 * 2 ^ 72 + m.2.toNat * 2 ^ 80 }

/-- R82: DEADLINE_MISS: a firing of a slot, running, halted or saved, has passed its deadline: a record is sent and `sys.dl` cleared. -/
def execDeadlineMiss (core slot : Nat) (s : State) : Out :=
  .next (
    let x := s.slot core slot
    if x.missed s.now && !x.claimed then (s.postMiss core slot x false).updSlot core slot fun y => { y with dl := 0 }
    else
      match s.saved.find? fun v => v.core == core && v.slot == slot && v.body.missed s.now with
      | some v =>
        let t := s.postMiss core slot v.body true
        { t with saved := t.saved.map fun w => if w.body.fid = v.body.fid then { w with body := { w.body with dl := 0 } } else w }
      | none => s)

end Sys2Proof.Machine
end

