-- ==== Sys2Proof/Machine/Sched.lean ====
section
/-!
DEFINITION. Scheduling: dispatch (R11 to R14, R38, R430), pre-emption and resume (R365 to R368), rollback (R281), bind records (R362,
R363, R50), the fencing of a core and its remap (R378, R379), and what happens to a bank of register space as time passes.
-/

namespace Sys2Proof.Machine

/-! ## Readiness (R11) -/

/-- R38: the message that a slot claims next: for its context, spawns only where it accepts them, others only if it is a handler slot. -/
def Core.claimFor (x : Core) (y : Slot) : Option QEntry :=
  x.claimable.find? fun q => q.m.ctx == y.ctx && (if q.m.spn then y.spwnFlag else y.hdl)

/-- R13, R19: the slots that the saved firings of a core keep of a port-table entry: where each run of them starts, counted from the
entry's pointer, and where it ends. DESIGN CHOICE: log entry 153. -/
def State.entryKept (s : State) (core entry : Nat) (out : Bool) : List (Int × Int) :=
  (s.saved.filter fun v => v.core == core).flatMap fun v =>
    (v.body.ports.filter fun p => p.entry == entry && p.out == out).filterMap fun p =>
      let n : Int := if v.body.restart then (p.rate : Int) else (p.rate : Int) - p.adv
      if n = 0 then none else some (p.skip, p.skip + n)

/-- R13, R19: how many slots from an entry's pointer on are passed over for those that saved firings keep. DESIGN CHOICE: log entry 153. -/
def State.keptTo (s : State) (core entry : Nat) (out : Bool) : Nat := (s.entryKept core entry out).foldl (fun n p => max n p.2.toNat) 0

/-- R13, R19: how many slots behind an entry's pointer saved firings keep. DESIGN CHOICE: log entry 153. -/
def State.keptBehind (s : State) (core entry : Nat) (out : Bool) : Nat := (s.entryKept core entry out).foldl (fun n p => max n (-p.1).toNat) 0

/-- R11, R19: the filled slots of an entry that a new firing may claim. -/
def State.filled (s : State) (core entry : Nat) : Nat :=
  dF (mget (s.core core).ports entry 0) 119 9 - s.keptTo core entry false - s.keptBehind core entry true

/-- R11, R13: the free slots of an entry that a new firing may reserve. -/
def State.freeSlots (s : State) (core entry : Nat) : Nat :=
  let d := mget (s.core core).ports entry 0
  dF d 95 8 + 1 - dF d 119 9 - s.keptTo core entry true - s.keptBehind core entry false

/-- R11: whether the ports of an actor have their rates in a slot, beside what saved firings keep: `ins` the inputs too. -/
def State.portsReady (s : State) (core : Nat) (y : Slot) (a : Actor) (ins : Bool) : Bool :=
  (declared a.outp).all (fun i => decide ((a.outp.getD i (0, 0)).2 ≤ s.freeSlots core (y.omap i)))
    && (!ins || (declared a.inp).all fun i => decide ((a.inp.getD i (0, 0)).2 ≤ s.filled core (y.imap i)))

/-- R11: whether an actor declares a port of nonzero rate. -/
def Actor.hasRate (a : Actor) : Bool :=
  (declared a.outp).any (fun i => decide (0 < (a.outp.getD i (0, 0)).2))
    || (declared a.inp).any fun i => decide (0 < (a.inp.getD i (0, 0)).2)

/-- What a slot can fire for. -/
inductive Claim where
  | message (q : QEntry) (a : Actor)
  | spawn (q : QEntry) (a : Actor)
  | firing (l : Launch) (wid : Nat) (a : Actor)
  | ports (a : Actor)
  deriving DecidableEq, Repr

/-! ## Placement (R23, R24, R336) -/

/-- R22, R23: whether a number is the identifier of a firing of a launch. -/
def widOk (ls : List Level) (wid : Nat) : Bool :=
  match ls with
  | [] => wid == 0
  | l :: rest => decide (wid % 2 ^ l.width < l.ext) && widOk rest (wid / 2 ^ l.width)

/-- R24: the class a group is held together by: whether two cores satisfy it. -/
def sameClass (cls a b : Nat) : Bool :=
  match cls with
  | 0 => a == b
  | 1 => clusterOf a == clusterOf b
  | 2 => dieOf a == dieOf b
  | _ => true

/-- R24: whether a firing may run on a core, the firings of its groups that have started being where they are. -/
def placeOk (ls : List Level) (below : Nat) (started : List (Nat × Nat × Nat)) (wid core : Nat) : Bool :=
  match ls with
  | [] => true
  | l :: rest =>
    let up := below + l.width
    (l.width == 0 || (started.all fun p => p.1 / 2 ^ up != wid / 2 ^ up || sameClass l.cls p.2.1 core))
      && placeOk rest up started wid core

/-- R336: the group-local index of a firing over the levels up to one. -/
def localIndex (ls : List Level) (wid : Nat) : Nat :=
  match ls with
  | [] => 0
  | l :: rest => wid % 2 ^ l.width + l.ext * localIndex rest (wid / 2 ^ l.width)

/-- R430: a slot that can take a launch's firings at once. -/
def Slot.launchIdle (x : Slot) (l : Launch) : Bool :=
  x.st == .idle && !x.zeroing && x.bound && !x.hdl && x.lch && x.ctx == l.ctx && x.bindAct == l.act

/-- R336: the conditions of the dense levels: the member index, and for a group's first firing an idle slot on each of its cores. -/
def State.denseReady (s : State) (l : Launch) (wid core k : Nat) : Bool :=
  let ls := l.levels
  (List.range ls.length).all fun i =>
    match ls[i]? with
    | none => true
    | some v =>
      if v.dense then
        let low := ls.take (i + 1)
        let up := (low.map Level.width).sum
        memberOf core == localIndex low wid
          && (l.started.any (fun p => p.1 / 2 ^ up == wid / 2 ^ up)
            || (List.range k).all fun _ => (List.range (groupSize low)).all fun j =>
                let m := coreOfMember (clusterOf core) j
                (List.range 4).any fun q => (s.slot m q).launchIdle l)
      else true

/-- R430, R354, R24: whether a launch's firing may be placed on a slot now. -/
def State.placeable (s : State) (l : Launch) (wid core k : Nat) : Bool :=
  !l.done && !l.waiting && (s.slot core k).launchIdle l && widOk l.levels wid && !l.started.any (fun p => p.1 == wid)
    && placeOk l.levels 0 l.started wid core && s.denseReady l wid core 1

/-- R11, R38, R413, R430: what a slot is ready to fire for. `pick` is the firing that Ouva places next: launch identity × 2^64 + work
identifier; with identity 0 none is placed. A queued spawn goes before the slot's own ports; a slot whose first message lacks output
space is not ready. DESIGN CHOICE: log entry 154. -/
def State.readyFor (s : State) (core k pick : Nat) : Option Claim :=
  let y := s.slot core k
  let x := s.core core
  let off : Option Claim :=
    match s.launches.find? fun l => l.id == pick / 2 ^ 64 with
    | none => none
    | some l =>
      if s.placeable l (pick % 2 ^ 64) core k then
        (s.actorAt y.ctx l.act).bind fun a => if s.portsReady core y a true then some (.firing l (pick % 2 ^ 64) a) else none
      else none
  if y.st ≠ .idle ∨ y.zeroing = true ∨ y.bound = false ∨ x.fenced = true ∨ (s.ctx y.ctx).live = false ∨ (s.ctx y.ctx).fenced = true
      ∨ (k = 0 ∧ (s.reservedFor core).isSome = true) then none
  else
    match off with
    | some c => some c
    | none =>
      match x.claimFor y with
      | some q =>
        (s.actorAt y.ctx q.m.hix).bind fun a =>
          if q.m.spn then some (.spawn q a) else if s.portsReady core y a false then some (.message q a) else none
      | none =>
        if y.hdl || y.lch then none
        else (s.actorAt y.ctx y.bindAct).bind fun a => if a.hasRate && s.portsReady core y a true then some (.ports a) else none

/-- R38: the priority at which a slot would fire. -/
def Slot.firePri (y : Slot) (c : Claim) : Nat := match c with | .message q _ => max y.bpri q.m.pri | _ => y.bpri

/-- R366, step 4: whether the claimant to which a saved firing gave way has still to fire: its message waits on the core, unclaimed. -/
def State.stillDue (s : State) (v : Saved) : Bool :=
  v.due.any fun m => (s.core v.core).claimable.any fun q => q.m.hdr == m.hdr && q.m.arr == m.arr && q.m.words == m.words

/-- R368, R366: whether a saved firing of the slot goes before a new firing of a priority; the claimant it gave way to fires first. -/
def State.savedFirst (s : State) (core k pri : Nat) : Bool :=
  s.saved.any fun v => s.returns core k v && !s.stillDue v && decide (pri ≤ v.body.pri)

/-- R12: the slots of one bind-record priority, round-robin after the one that fired last there; before any has fired, from slot 0 on. DESIGN CHOICE: log entry 168. -/
def State.fireOrder (s : State) (core p : Nat) : List Nat :=
  let last := mget (s.core core).fired p 3
  ((List.range 4).map fun i => (last + 1 + i) % 4).filter fun k => (s.slot core k).bpri == p

/-- R12, R11, R368: the slot that fires next on a core, and what for. -/
def State.nextFire (s : State) (core pick : Nat) : Option (Nat × Claim) :=
  ((List.range 8).reverse.flatMap (s.fireOrder core)).findSome? fun k =>
    match s.readyFor core k pick with
    | some c => if s.savedFirst core k ((s.slot core k).firePri c) then none else some (k, c)
    | none => none

/-! ## Firing (R14) -/

/-- R14, R54: an actor's descriptors, those of its ports marked as such. -/
def Actor.views (a : Actor) (ports : Bool) : SMap (BitVec 128) :=
  let hs := if ports then (declared a.inp).map (fun i => (a.inp.getD i (0, 0)).1) ++ (declared a.outp).map (fun i => (a.outp.getD i (0, 0)).1)
    else []
  (List.range 48).map fun h =>
    let d := dWrite 0 (a.descs.getD h 0)
    (h, if hs.contains h then dSet d 83 1 1 else d)

/-- R8, R14, R16: the ports of a firing, each at its first claimed slot; a handler slot has no input ports in the table. -/
def State.uses (s : State) (core : Nat) (a : Actor) (y : Slot) (ins : Bool) : List PortUse :=
  let use (p : Nat × Nat) (e : Nat) (out : Bool) : PortUse := ⟨p.1, e, p.2, out, 0, [], s.keptTo core e out⟩
  (if ins then (declared a.inp).map fun i => use (a.inp.getD i (0, 0)) (y.imap i) false else [])
    ++ (declared a.outp).map fun i => use (a.outp.getD i (0, 0)) (y.omap i) true

/-- R14, R194: the register-space data of an actor written to a window. DEDUCED: log entry 112. -/
def State.putData (s : State) (core k : Nat) (a : Actor) : State :=
  a.recs.foldl (fun t r =>
    t.landWrite ⟨core, k, r.addr⟩ ((r.bytes ++ List.replicate r.zeros 0).take ((s.win core k).2 - r.addr))) s

/-- R38: the first of equal entries claimed. -/
def claimIn (q : QEntry) (fid : Nat) (l : List QEntry) : List QEntry :=
  match l with
  | [] => []
  | x :: rest => if x = q then { x with claimed := some fid } :: rest else x :: claimIn q fid rest

/-- R38: a message claimed where it stands: in a queue, or in the resume entry a rollback set free. -/
def Core.claim (x : Core) (q : QEntry) (fid : Nat) : Core :=
  if (x.queue q.m.high).contains q then x.setQueue q.m.high (claimIn q fid (x.queue q.m.high))
  else { x with resume := x.resume.map fun p => if p.2 = q then (p.1, { p.2 with claimed := some fid }) else p }

/-- R14, R225, R20: a slot as a firing starts in it. -/
def Slot.start (y : Slot) (fid now pri act : Nat) (a : Actor) (pc : BitVec 24) (views : SMap (BitVec 128)) (uses : List PortUse) : Slot :=
  { y.idle with
    st := .running, fid := fid, act := BitVec.ofNat 12 act, pc := pc, views := views, guards := [], lnk := 0, dl := 0, ev := false, evAt := none,
    wfeAt := none, trapAct := false, wid := 0, pri := pri, ports := uses, gen := 0, opened := [], since := now, ran := 0, claimAt := now, whc := 0,
    blk := some a.entry }

/-- R14, R366: the parts of a dispatch that every kind shares; a firing saved from the slot has given way now. -/
def State.begin (s : State) (core k : Nat) (f : Slot → Slot) : State :=
  { (s.updSlot core k f).updCore core (fun x => { x with fired := mput x.fired (s.slot core k).bpri k, wdCnt := 0 }) with
    saved := s.saved.map fun v => if v.core = core ∧ v.slot = k then { v with due := none } else v }

/-- R30: word i of a spawn head. -/
def Msg.word (m : Msg) (i : Nat) : Nat := (m.words.getD i 0).toNat

/-- R30: the bytes a spawn copies. -/
def Msg.spawnBytes (m : Msg) : List Byte := ((m.words.drop 4).flatMap fun w => toLe 4 w.toNat).take (bits (m.word 3) 16 5 * 16)

/-- R30: a spawn whose destination does not fit is rejected. -/
def State.rejectSpawn (s : State) (core k : Nat) (q : QEntry) (fid : Nat) : State :=
  let s1 := (s.updCore core (·.claim q fid)).freeClaim core k fid
  (s1.msgFault q.m.ctx core 9 q.m.hdr).countEnd q.m.launch true

/-- R311, R340: a launch's pitch counter set on a die, as its first firing there is dispatched; waiting queries are answered. DEDUCED: log entry 158. -/
def State.setPitch (s : State) (l : Launch) (core : Nat) : State :=
  match l.pc with
  | none => s
  | some (i, x, y) =>
    if l.started.any fun p => dieOf p.2.1 == dieOf core then s
    else
      let key := pitchKey (dieOf core) l.ctx i
      let p := mget s.pitch key Pitch.reset
      ({ s with pitch := mput s.pitch key { p with x := x, y := y, n := 0 } }).servePitch key p.waiting.length

/-- R14, R30, R350, R420: a slot fires; the transfer to its entry is checked where no listed block starts there. -/
def State.fire (s : State) (core k : Nat) (c : Claim) : State :=
  let y := s.slot core k
  let n := s.newId
  let fid := n.1
  let now := s.now.toNat
  let blk (x : Slot) (pc : BitVec 24) : Slot :=
    { x with blk := if s.blockAt y.ctx pc.toNat then some pc else none, bcore := core, checks := s.entryCheck core { y with scrum := none } pc }
  match c with
  | .message q a =>
    let t := (n.2.updCore core (·.claim q fid)).begin core k fun x =>
      { blk (x.start fid now (max y.bpri q.m.pri) q.m.hix a a.entry (a.views true) (s.uses core a y false)) a.entry with
        req := some q.m, launch := 0 }
    t.putData core k a
  | .spawn q a =>
    let off := bits (q.m.word 3) 0 11 * 16
    let bs := q.m.spawnBytes
    if y.wlen < off + bs.length then n.2.rejectSpawn core k q fid
    else
      let pc := BitVec.ofNat 24 (q.m.word 2)
      let t := (n.2.updCore core (·.claim q fid)).begin core k fun x =>
        { blk (x.start fid now y.bpri q.m.hix a pc (a.views false) []) pc with
          req := some q.m, child := true, launch := q.m.launch, wid := BitVec.ofNat 64 (q.m.word 0 + q.m.word 1 * 2 ^ 32) }
      (t.putData core k a).landWrite ⟨core, k, off⟩ bs
  | .firing l wid a =>
    let t := n.2.begin core k fun x =>
      { blk (x.start fid now y.bpri l.act a a.entry (a.views true) (s.uses core a y true)) a.entry with
        req := some { l.msg with retry := mget l.retries wid 0 }, launch := l.id, wid := BitVec.ofNat 64 wid, dl := if l.dl = 0 then 0 else s.now + l.dl }
    ((t.putData core k a).setPitch l core).updLaunch l.id fun l =>
      { l with started := l.started ++ [(wid, core, k)] }
  | .ports a =>
    let t := n.2.begin core k fun x => blk (x.start fid now y.bpri y.bindAct a a.entry (a.views true) (s.uses core a y true)) a.entry
    t.putData core k a

/-- R11 to R14: DISPATCH: the next ready slot of a core fires. DESIGN CHOICE: log entry 89. -/
def execDispatch (core pick : Nat) (s : State) : Out :=
  .next (
    if core < numCores then
      match s.nextFire core pick with
      | some (k, c) => s.fire core k c
      | none => s
    else s)

/-- R41, R42: DEPENDENT_LAUNCH_START: a launch whose trigger has been released begins; l is its identity. -/
def execDependentLaunchStart (l : Nat) (s : State) : Out :=
  .next (
    match s.launchOf l with
    | some x =>
      if x.waiting && (match x.after with | some a => (s.launchOf a).any Launch.trigDone | none => true) then
        s.updLaunch l fun x => { x with waiting := false }
      else s
    | none => s)

/-! ## Pre-emption (R365 to R369) -/

/-- R366: what is saved of a firing: an `ALGN` issues again (R247), a time-out stands still, and a block that it leaves in its middle is not
checked (R420). -/
def Slot.toSave (now : Nat) (x : Slot) : Slot :=
  { x with ra := [], opened := [], blk := x.keepBlock, waitExp := none,
           waitRem := match x.waitExp with | some e => some (e - now) | none => x.waitRem,
           wait := match x.wait with | .align _ => .none | w => w }

/-- R366: a firing saved, its claimed message and replies held apart with it; `due`: the message for which it gives way, which fires next. DEDUCED: log entry 90. -/
def State.preempt (s : State) (c k : Nat) (due : Option Msg) : State :=
  let s1 := if k = 0 then s.handback c else s
  let x := s1.slot c k
  let v : Saved := ⟨c, k, x.save, [], x.toSave s.now.toNat, due, []⟩
  let s2 := s1.saveArea v
  let s3 := ({ s2 with saved := s2.saved ++ [s2.headed v] }).freeClaim c k x.fid
  (s3.updSlot c k fun y => { y.idle with fid := 0, pend := [], rpl := [], rplPos := 0, rplRes := [], dbgQ := [] }).updCore c fun y =>
    { y with preq := y.preq &&& ~~~(BitVec.ofNat 4 (2 ^ k)) }

/-- R149, R366: the firing of a slot pre-empted; a scrum collapses and is saved on its owner. -/
def State.preemptSeat (s : State) (c k : Nat) (due : Option Msg) : State :=
  let q := s.ownerOf c k
  if s.canSave q.1 (s.slot q.1 q.2) then (s.preempt q.1 q.2 due).updCore c fun y => { y with preq := y.preq &&& ~~~(BitVec.ofNat 4 (2 ^ k)) } else s

/-- R366, R369, R149: a requested pre-emption of a slot: saved, running or halted; satisfied where there is no firing. -/
def State.preemptAsked (s : State) (c k : Nat) : State :=
  let x := s.seated c k
  if x.st = .running ∨ x.st = .halted then s.preemptSeat c k none
  else s.updCore c fun y => { y with preq := y.preq &&& ~~~(BitVec.ofNat 4 (2 ^ k)), ended := y.ended ||| BitVec.ofNat 4 (2 ^ k) }

/-- R365, R366: PREEMPTION: by request (case 3), or by priority (case 1). -/
def execPreemption (core slot : Nat) (s : State) : Out :=
  .next (
    if slot < 4 ∧ core < numCores ∧ (s.core core).fenced = false then
      if bits (s.core core).preq.toNat slot 1 = 1 then s.preemptAsked core slot
      else if s.givesWay core slot then s.preemptSeat core slot (s.claimant core (s.slot core slot).ctx)
      else s
    else s)

/-- R365, case 3: PREEMPTION_REQUEST: a write of a slot's bit of `preq`. -/
def execPreemptionRequest (core slot : Nat) (s : State) : Out :=
  .next (
    if slot < 4 ∧ core < numCores then s.updCore core fun x => { x with preq := x.preq ||| BitVec.ofNat 4 (2 ^ slot) } else s)

/-- R365, case 2: the message among the claimants of a slot whose slice is over, where it is a handler slot. -/
def State.sliceMsg (s : State) (core slot : Nat) : Option Msg :=
  if (s.slot core slot).hdl then (s.claimant core (s.slot core slot).ctx).filter fun m => decide ((s.seated core slot).pri ≤ m.pri) else none

/-- R365, case 2: TIME_SLICE_EXPIRY: a slot's slice is over: its firing gives way to a claimant, or its count restarts. -/
def execTimeSliceExpiry (core slot : Nat) (s : State) : Out :=
  .next (
    let x := s.slot core slot
    if (s.seated core slot).st = .running ∧ x.sliceLen ≠ 0 ∧ x.sliceLen ≤ x.ran ∧ (s.core core).fenced = false then
      if s.sliceClaimed core slot then s.preemptSeat core slot (s.sliceMsg core slot)
      else s.updSlot core slot fun y => { y with ran := 0 }
    else s)

/-- R368, R366: the saved firing that a slot takes back first, under the record it was saved with: of the highest priority, then the oldest;
one whose claimant has not fired gives way to it, while it is ready, and to the others. -/
def State.nextSaved (s : State) (c k : Nat) : Option Saved :=
  let best (l : List Saved) : Option Saved :=
    l.foldl (fun b v => match b with | none => some v | some u => if u.body.pri < v.body.pri then some v else some u) none
  let l := s.saved.filter (s.returns c k)
  (best (l.filter fun v => !s.stillDue v)).orElse fun _ => if (s.readyFor c k 0).isSome then none else best l

/-- R368, R81, R79, R426: RESUME: a pre-empted firing comes back to its idle slot, under the same record. Its time-out counts on unless its
object is withheld, on which it halts; an area in a block under test is read after the test. -/
def execResume (core slot : Nat) (s : State) : Out :=
  .next (
    let x := s.slot core slot
    match s.nextSaved core slot with
    | none => s
    | some v =>
      if x.st = .idle ∧ x.zeroing = false ∧ (s.core core).fenced = false
          ∧ ¬(slot = 0 ∧ (s.reservedFor core).isSome = true) ∧ s.testing (nearAddr core v.area) (areaLen v.body.wlen) = false then
        let t := (s.bringBack v (nearAddr core v.area) slot).updCore core fun y => { y with wdCnt := 0 }
        ({ t with saved := t.saved.map fun (w : Saved) => if w.core = core ∧ w.slot = slot then { w with due := none } else w }).thawHalted.reachHalt core slot
      else s)

/-- R368, R85: Ouva abandons a saved firing that does not stand halted: the oldest of a slot. DESIGN CHOICE: log entry 169. -/
def State.giveUp (s : State) (c k : Nat) : State :=
  match s.saved.find? fun v => v.core == c && v.slot == k && v.body.st == .running with
  | some v => s.abandonSaved v false
  | none => s

/-! ## Rollback, ALGN (R281, R247) -/

/-- R72: a firing that was given up while it stood halted or saved, and counted then, is killed as it would run on. -/
def State.killDoomed (s : State) (c k cause : Nat) : State :=
  ((if k = 0 then s.handback c else s).updSlot c k Slot.atTrap).haltSlot c k cause

/-- R281, R85: a firing that was saved and is to be rolled back, once all it waits for has landed. -/
def State.rollSaved (s : State) (core slot : Nat) : State :=
  match s.saved.find? fun v => v.core == core && v.slot == slot && v.body.st == .running && v.body.wait == .rollback && v.body.restart
      && v.body.pend.all (·.held) with
  | some v => s.abandonSaved v false
  | none => s

/-- R281: ROLLBACK: a firing that has stopped for an uncorrectable error: once all it waits for has landed it is undone, or, having
committed, killed. One that was saved since is undone in its saved image. -/
def execRollback (core slot : Nat) (s : State) : Out :=
  .next (
    let x := s.slot core slot
    if x.st = .running ∧ x.wait = .rollback then
      if x.restart then (if x.pend.all (·.held) then s.undo core slot else s)
      else if x.doom ≠ 0 then s.killDoomed core slot x.doom
      else s.kill core slot 3
    else s.rollSaved core slot)

/-- R247: ALGN_HOLD_EXPIRY: 256 cycles after it issued an `ALGN` holds no longer. -/
def execAlgnHoldExpiry (core slot : Nat) (s : State) : Out :=
  .next (
    let x := s.slot core slot
    match x.wait with
    | .align _ =>
      if x.st = .running ∧ x.since + 256 ≤ s.now.toNat then s.updSlot core slot fun y => { y with wait := .answer [] } else s
    | _ => s)

/-! ## Fencing a core (R378, R379) -/

/-- R379, R429: whether a core's die row has no spare left: it is in use, or defective. -/
def State.spareUsed (s : State) (c : Nat) : Bool := decide (64 ≤ (mget (s.die (dieOf c)).tab (coreY c % 64) 0).toNat)

/-- R281, R151, R378: a halted restartable firing rolled back: its halt is over. -/
def State.undoHalted (s : State) (c k : Nat) : State :=
  let x := s.slot c k
  match s.halts.find? fun h => x.haltedBy h && h.core == c with
  | some h => (((s.dropWaits c k x.fid).rollBack c k).clearMarks h).afterClear
  | none => s

/-- R72, R425: a committed firing given up while it stands halted: it is counted, and is killed with a cause should it ever run on. -/
def State.doomHalted (s : State) (c k cause : Nat) : State :=
  let x := s.slot c k
  if x.doomed || s.halts.any (fun h => x.haltedBy h && killCause h.cause) then s
  else
    let t := if k = 0 then s.handback c else s
    ((t.scoreEnd c k).updSlot c k fun y => { y with wait := .rollback, restart := false, doom := cause }).updCore c fun y =>
      { y with kill := bump y.kill }

/-- R378, R151, R421: a firing on a fenced core: a restartable one will be redelivered on the spare, unless there is none; a restartable
scrum is rolled back in any case; any other is killed. A halted one is rolled back, or given up and stays halted. DEDUCED: log entry 91. -/
def State.fenceFiring (s : State) (c k cause : Nat) (spare : Bool) : State :=
  let x := s.slot c k
  match x.st with
  | .running =>
    if x.claimed || (x.restart && x.wait == .rollback) then s
    else if x.restart && (spare || x.scrum.isSome) then s.updSlot c k fun y => { y with wait := .rollback, waitOn := [], waitExp := none, waitRem := none, ra := [] }
    else s.kill c k cause
  | .halted =>
    if x.restart && (spare || x.scrum.isSome) then s.undoHalted c k else s.doomHalted c k cause
  | _ => s

/-- R424, R378: the fence's one record, and the report of it to the supervisor of each context with a firing on the core. It names the
context where there is one alone, and the slot and the message of the first of the firings. DEDUCED: log entry 170. -/
def State.fenceRecords (s : State) (c code src : Nat) (spare : Bool) : State :=
  let ks := (List.range 4).filter fun k => (s.slot c k).st == .running || (s.slot c k).st == .halted
  let ctxs := (ks.map fun k => (s.slot c k).ctx).eraseDups
  let r : ErrRec := { code := code, ctx := none, src := src, fate := 0, lcore := c, slot := 0 }
  let of1 (l : List Nat) : Slot := match l with | k :: _ => s.slot c k | [] => Slot.reset
  let of_ (l : List Nat) (x : Option Nat) : ErrRec :=
    { r with ctx := x, slot := l.headD 0, retry := (of1 l).reqRetry, hdr := (of1 l).reqHdr,
             fate := if l.isEmpty then 0 else if spare && l.all (fun k => (s.slot c k).restart) then 2 else 3 }
  let t := s.logError (s.errBits (of_ ks (match ctxs with | [x] => some x | _ => none)))
  ctxs.foldl (fun t x => t.reportTo x (of_ (ks.filter fun k => (s.slot c k).ctx == x) (some x))) t

/-- R425, R406: the scorecard entries of a fenced core written as records, where their context asks for them. -/
def State.dumpScores (s : State) (c : Nat) : State :=
  (s.core c).score.foldl (fun t e => if bits (t.ctx e.ctx).trace.toNat 29 1 = 1 then t.trace e.ctx 4 c 0 0 e.payload else t) s

/-- R378, R379: a core fenced: the firings on it, and the scrum it is a member of, are stopped; with a free spare the copy begins. -/
def State.fenceCore (s : State) (c cause : Nat) : State :=
  if (s.core c).fenced then s
  else
    let spare := !s.spareUsed c
    let s1 := s.fenceRecords c 0x65 4 spare
    let s2 := match (s.slot c 0).member with | some o => s1.fenceFiring o 0 cause (spare || !(s.core o).fenced) | none => s1
    let s3 := (List.range 4).foldl (fun t k => t.fenceFiring c k cause spare) s2
    (s3.dumpScores c).updCore c fun x => { x with fenced := true, remap := spare }

/-- R83, R378: WATCHDOG_TRIP: the count has reached its threshold. -/
def execWatchdogTrip (core : Nat) (s : State) : Out :=
  .next (
    let x := s.core core
    if core < numCores ∧ x.wdog ≠ 0 ∧ x.wdog.toNat * 1024 ≤ x.wdCnt then s.fenceCore core 7 else s)

/-- R378: FENCE_WRITE: a write of 1 to `fence`. DEDUCED: log entry 93. -/
def execFenceWrite (core : Nat) (s : State) : Out := .next (if core < numCores then s.fenceCore core 7 else s)

/-- R378, R419: the words of a core's register space that cannot be read, copied to the spare: each fails as a whole, and as the spare's replay
queue is empty the error is consumed where it is read. A word of the slice that cannot be read is marked poisoned already (R417). DEDUCED: log entry 179. -/
def State.copyParity (s : State) (core : Nat) : State :=
  if s.parity.isEmpty then s
  else s.spreadParity ((s.parity.filter fun a => (a - 2 ^ 32) / 2 ^ 15 == core).flatMap fun a => (List.range 4).map (a / 4 * 4 + ·)).eraseDups

/-- R378, R425: BENCH_REMAP: the copy is complete: the die's table names the spare, whose `rl` counts, scorecard and counters start
afresh. -/
def execBenchRemap (core : Nat) (s : State) : Out :=
  .next (
    if s.moving core then
      let s1 := (s.copyParity core).updDie (dieOf core) fun d => { d with tab := mput d.tab (coreY core % 64) (BitVec.ofNat 8 (128 + coreX core % 48)) }
      State.applyHeld <| s1.updCore core fun x =>
        { x with fenced := false, remap := false, ce := 0, repl := 0, rb := 0, kill := 0, ump := 0, umpAt := [], wdCnt := 0, replay := [],
                 score := [], ctrs := (List.range 4).map fun j => (j, ⟨0, s.now, s.now⟩) }
    else s)

/-! ## Banks and windows (R50, R52, R53) -/

/-- R50, R53: the bytes of a slot's window are zero, and its banks are on. -/
def State.zeroWindow (s : State) (core slot : Nat) : State :=
  let x := s.slot core slot
  let lo := rsAddr core x.wbase
  let inside (a : Nat) : Bool := decide (lo ≤ a ∧ a < lo + x.wlen)
  let s1 := { s with mem := s.mem.filter (fun p => !inside p.1), parity := s.parity.filter (fun a => !inside a) }
  (s1.updCore core fun y => { y with replay := y.replay.map fun r => { r with cells := r.cells.filter fun p => !inside p.1 } }).wakeBanks [core]
    ((List.range x.wlen).map (lo + ·))

/-- R50: WINDOW_ZEROED: the zeroing of a slot's new window has ended, and the slot can be dispatched. DESIGN CHOICE: log entry 67. -/
def execWindowZeroed (core slot : Nat) (s : State) : Out :=
  .next (if (s.slot core slot).zeroing then (s.zeroWindow core slot).updSlot core slot fun y => { y with zeroing := false } else s)

/-- R52: BANK_READY: a bank that was switched on is ready. -/
def execBankReady (core bank : Nat) (s : State) : Out :=
  .next (
    match mfind (s.core core).bankAt bank with
    | some t => if t ≤ s.now.toNat then s.updCore core fun x => { x with bankAt := mdel x.bankAt bank } else s
    | none => s)

/-- R53: RETENTION_WAKE: a bank in retention to which an access waits is on, for all the accesses that wait for it. -/
def execRetentionWake (core bank : Nat) (s : State) : Out :=
  .next (
    let waits := s.cores.any fun p => p.2.slots.any fun q => match q.2.wait with | .bank bs => bs.contains (core, bank) | _ => false
    if core < numCores ∧ bank < 4 ∧ (s.core core).bank bank = 1 ∧ waits = true then
      s.updCore core fun x => { x with pwr := BitVec.ofNat 32 (setBits x.pwr.toNat (2 * bank) 2 0) }
    else s)

/-! ## Bind records (R361 to R363) -/

/-- R10: the port-table entries that a slot uses, as inputs and as outputs. -/
def State.entriesOf (s : State) (x : Slot) : List Nat × List Nat :=
  ((s.inPorts x).map x.imap, (s.outPorts x).map x.omap)

/-- R362: whether a slot's window is shorter than an actor it may run needs. -/
def State.tooShort (s : State) (x : Slot) : Bool :=
  match (s.ctx x.ctx).image with
  | none => false
  | some im =>
    if x.hdl || x.spwnFlag then im.actors.any fun a => a.valid && decide (x.wlen < a.minwin)
    else match s.actorAt x.ctx x.bindAct with | some a => decide (x.wlen < a.minwin) | none => false

/-- R48, R53: whether the window of a record covers a bank that is off. DEDUCED: log entry 173. -/
def State.overOffBank (s : State) (core : Nat) (x : Slot) : Bool :=
  (List.range 4).any fun b => (s.core core).bank b == 2 && meet x.wbase x.wlen (b * 0x2000) 0x2000

/-- R362, R10, R48: whether Ouva refuses a record for a slot. -/
def State.bindRefused (s : State) (core k : Nat) (rec : BitVec 256) : Bool :=
  let x := { s.slot core k with bind := rec }
  let others := ((List.range 4).filter fun j => j != k && (s.slot core j).bound).map (s.slot core)
  let e := s.entriesOf x
  bits rec.toNat 96 48 != 0 || (x.hdl && x.lch)
    || (x.bound &&
      (decide (0x8000 < x.wbase + x.wlen) || others.any (fun y => meet x.wbase x.wlen y.wbase y.wlen)
        || decide (0x18000 < x.save + areaLen x.wlen) || others.any (fun y => meet x.save (areaLen x.wlen) y.save (areaLen y.wlen))
        || others.any (fun y => (s.entriesOf y).1.any e.1.contains || (s.entriesOf y).2.any e.2.contains)
        || s.tooShort x || s.overOffBank core x))

/-- R363: a record with its slice raised to the floor, and whether that was needed. -/
def clampSlice (rec : BitVec 256) : BitVec 256 × Bool :=
  let x := { Slot.reset with bind := rec }
  let floor := 192 + x.wlen / 32
  if x.sliceLen ≠ 0 ∧ x.sliceLen < floor then (BitVec.ofNat 256 (setBits rec.toNat 177 24 floor), true) else (rec, false)

/-- R361 to R363, R50: a record written to an idle or unbound slot; the reply reservations of another context's firings are gone with their
window. A new window shows zeros from then on. DESIGN CHOICE: log entry 67. DEDUCED: log entry 167. -/
def State.putBind (s : State) (core k : Nat) (rec : BitVec 256) : State :=
  let x := s.slot core k
  let r := clampSlice rec
  let y := { x with bind := r.1 }
  let fresh := y.bound && (!x.bound || x.ctx != y.ctx || x.wbase != y.wbase || x.wlen != y.wlen)
  let zero (t : State) : State := if fresh then t.zeroWindow core k else t
  zero <| (s.updSlot core k fun _ =>
    { y with st := if y.bound then .idle else .unbound, zeroing := if y.bound then x.zeroing || fresh else false,
             pend := if fresh then [] else y.pend, dbgQ := if fresh then [] else y.dbgQ, rpl := if x.ctx = y.ctx then y.rpl else [], rplPos := if x.ctx = y.ctx then y.rplPos else 0,
             rplRes := if x.ctx = y.ctx then y.rplRes else [] }).updCore core fun z =>
      { z with clamp := BitVec.ofNat 4 (setBits z.clamp.toNat k 1 (if r.2 then 1 else 0)) }

/-- R362: BIND_RECORD_WRITE. DESIGN CHOICE: log entry 138. -/
def execBindRecordWrite (core slot : Nat) (rec : BitVec 256) (s : State) : Out :=
  .next (
    if core < numCores ∧ slot < 4 then
      let x := s.slot core slot
      if s.bindRefused core slot rec then s
      else if x.st = .running ∨ x.st = .halted then
        s.updCore core fun y => { y with busy := y.busy ||| BitVec.ofNat 4 (2 ^ slot) }
      else s.putBind core slot rec
    else s)

end Sys2Proof.Machine
end

