-- ==== Sys2Proof/Machine/HostIf.lean ====
section
/-!
DEFINITION. The host interface (R344 to R359): the inbox and status pages, the context commands of the management mailbox, images as
Ouva loads them (R327 to R330), reports, the host's reads and writes of device memory, power, and reset.
-/

namespace Sys2Proof.Machine

/-! ## The inbox and status pages (R348 to R351) -/

/-- R345, R348, R351, R423: a host access that is dropped and logged in AER as an Unsupported Request. DEDUCED: log entry 105. -/
def State.unsupported (s : State) : State := { s with aer := s.aer + 1 }

/-- R349: the header bits a host may set: `tkh`, `score`, `pri`, `kind`, `hix`. -/
def hostBits : Nat := 63 * 2 ^ 106 + (2 ^ 14 - 1) * 2 ^ 32 + 7 * 2 ^ 29 + 3 * 2 ^ 27 + (2 ^ 12 - 1) * 2 ^ 12

/-- R349: whether a host header is admitted; a plain message names no handler index and no launch. DEDUCED: log entry 106. -/
def hostHdrOk (h : Nat) : Bool :=
  let tgt := bits h 32 14
  let kind := bits h 27 2
  h &&& hostBits == h && decide (kind < 2) && (decide (tgt < numCores) || (tgt == 0x3FFF && kind == 1))
    && (kind == 1 || bits h 12 12 == 0)

/-- R349: the message a host header and its words make. -/
def State.hostMsg (s : State) (fn h : Nat) (words : List W32) : Msg :=
  ⟨mkHdr 0 (bits h 106 6) 0 s.now.toNat s.pos.toNat 0x3FFF (bits h 29 3) (bits h 27 2) 0 (bits h 12 12) 1 fn, words, 0, 0, 0, 0⟩

/-- R351: what becomes of a submission: its status entry takes 0x1 filed, 0x2 spilled, or 0x7 with the refusal code. -/
def State.filed (s : State) (fn slot code : Nat) : State :=
  match code with
  | 0 => s.setStatus fn slot 1 0 0 0
  | 1 => s.setStatus fn slot 2 0 0 0
  | c => s.setStatus fn slot 7 c 0 0

/-- R351: whether the launch header that a message names sets `irq`. -/
def State.wantsIrq (s : State) (m : Msg) : Bool :=
  match (s.ctx m.ctx).image with
  | none => false
  | some im => match im.launches[m.hix]? with | some h => hdrF h 0 10 1 == 1 | none => false

/-- R349, R350: a submission with a free status slot. -/
def State.submit (s : State) (fn h : Nat) (words : List W32) : State :=
  let slot := bits h 106 6
  let tgt := bits h 32 14
  let m := s.hostMsg fn h words
  if !hostHdrOk h then s.setStatus fn slot 7 0x44 0 0
  else if tgt = 0x3FFF then
    let r := s.startLaunch { m with arr := s.now } (some (fn, slot))
    if r.1 = 0 then r.2
    else let t := r.2.setStatus fn slot 7 r.1 0 0; if s.wantsIrq m then t.raise fn slot else t
  else
    let r := s.arrive tgt m
    r.2.filed fn slot r.1

/-- The argument words of a 64-byte write. -/
def inboxWords (bs : List Byte) : List W32 := (List.range 12).map fun i => BitVec.ofNat 32 (leNat ((bs.drop (16 + 4 * i)).take 4))

/-- R348: INBOX_WRITE: a posted write to the inbox page. One for a core that is being copied to its spare waits, and a launch that would
write a block under test (R426). DEDUCED: log entry 113. -/
def execInboxWrite (fn off : Nat) (bytes : List (BitVec 8)) (s : State) : Out :=
  .next (
    let h := leNat (bytes.take 16)
    if 256 ≤ fn ∨ 0x1000 ≤ off then s
    else if !(s.ctx fn).live || (s.ctx fn).fenced || bytes.length != 64 || off % 64 != 0
        || statusSt (s.status fn (bits h 106 6)) != 0 then s.unsupported
    else if s.moving (bits h 32 14) || (bits h 32 14 == 0x3FFF && s.launchTests fn (bits h 12 12)) then s
    else s.submit fn h (inboxWords bytes))

/-- R351: STATUS_FREE: the host writes 0x0 to the `st` of a status entry, which then follows no launch. -/
def execStatusFree (fn slot : Nat) (s : State) : Out :=
  .next (
    if 256 ≤ fn ∨ 64 ≤ slot then s
    else
      let v := (s.status fn slot).toNat
      let s1 := { s with launches := s.launches.map fun l => if l.status = some (fn, slot) then { l with status := none } else l }
      if bits v 28 4 = 0 then s1 else s1.setStatus fn slot 0 (bits v 32 32) 0 (bits v 128 384))

/-! ## Contexts (R345, R346) -/

/-- R423, R346: why a command that only the PF has, for a context, is refused. DEDUCED: log entry 109. -/
def State.pfRefusal (s : State) (fn ctx : Nat) : Option Nat :=
  if fn ≠ 0 then some 0x48 else if !(s.ctx ctx).live || (s.ctx ctx).fenced then some 0x43 else none

/-- R346, R423: why a command for a context that a VF may give for its own is refused. -/
def State.ownRefusal (s : State) (fn ctx : Nat) : Option Nat :=
  if !mayName fn ctx then some 0x48 else if !(s.ctx ctx).live || (s.ctx ctx).fenced then some 0x43 else none

/-- R346, R373: whether the arguments of Create are in range. DEDUCED: log entry 110. -/
def createOk (ctx sup mbase msize root obase osize tbase tsize : Nat) : Bool :=
  decide (ctx < 256) && decide (sup < numCores) && decide (0x2000 ≤ msize) && decide (msize ≤ 2 ^ 24) && msize % 4096 == 0
    && decide (2 ^ 16 ≤ osize) && decide (osize ≤ 2 ^ 30) && osize % 2 ^ 16 == 0 && root % 2 ^ 16 == 0 && decide (root < hbmBytes)
    && decide (mbase + msize ≤ 2 ^ 57) && decide (obase + osize ≤ 2 ^ 57) && decide (tbase + tsize ≤ 2 ^ 57)

/-- R405: the header of a context's trace buffer as it stands at creation. -/
def State.clearTraceHeader (s : State) (ctx : Nat) : State :=
  if (s.ctx ctx).tsize < 64 then s
  else match (if s.tampered.isEmpty then none else s.badTag ctx (s.ctx ctx).tbase) with
    | some a => s.integrity ctx a
    | none => (s.putFar ctx (s.ctx ctx).tbase (toLe 64 0)).getD s

/-- R346: CREATE: command 0x01; from a VF it stands for every command that a VF may not use, for all of them are answered 0x48
and do nothing. DESIGN CHOICE: log entry 19. -/
def execCreate (fn ctx : Nat) (debuggable poisonFwd : Bool) (sup mbase msize root obase osize tbase tsize : Nat) (s : State) : Out :=
  .next (mailbox fn (if fn ≠ 0 then some 0x48 else none) s fun s =>
    if (s.ctx ctx).live || !createOk ctx sup mbase msize root obase osize tbase tsize then s.mboxAnswer fn 0x43
    else
      let r := s.newId
      let c : Ctx :=
        { Ctx.reset with
          live := true, debug := debuggable, pfwd := poisonFwd, sup := sup, mbase := mbase, msize := msize, root := root, obase := obase,
          osize := osize, tbase := tbase, tsize := tsize, key := some r.1 }
      ((r.2.updCtx ctx fun _ => c).clearTraceHeader ctx).mboxAnswer fn 0)

/-- R346: DESTROY: command 0x04; a fenced context can be destroyed. DEDUCED: log entry 115. -/
def execDestroy (fn ctx : Nat) (s : State) : Out :=
  .next (mailbox fn (if fn ≠ 0 then some 0x48 else none) s fun s =>
    if !(s.ctx ctx).live then s.mboxAnswer fn 0x43
    else
      let t := s.fenceCtx ctx
      (State.applyHeld { t with ctxs := mdel t.ctxs ctx, launches := t.launches.filter fun l => l.ctx != ctx }).mboxAnswer fn 0)

/-! ## Far bytes as Ouva and the host reach them -/

/-- The places of n far bytes, page by page; k bounds the pages. `none` where one cannot be reached. -/
def State.farSpans (s : State) (ctx va n : Nat) (write : Bool) (k : Nat) : Option (List (Nat × Nat)) :=
  if n = 0 then some []
  else
    match k with
    | 0 => none
    | k + 1 =>
      let m := min n (2 ^ 19 - va % 2 ^ 19)
      match s.farAt ctx va write, State.farSpans s ctx (va + m) (n - m) write k with
      | some a, some l => some ((a, m) :: l)
      | _, _ => none

/-- The places of n far bytes. -/
def State.farPlaces (s : State) (ctx va n : Nat) (write : Bool) : Option (List (Nat × Nat)) :=
  if 2 ^ 57 < va + n then none else s.farSpans ctx va n write (n / 2 ^ 19 + 2)

/-- The bytes of some places. -/
def State.gather (s : State) (l : List (Nat × Nat)) : List Byte := l.flatMap fun p => s.bytesAt p.1 p.2

/-- R422: the sectors that n bytes written cover whole take new tags. -/
def State.retag (s : State) (a n : Nat) : State :=
  if s.tampered.isEmpty then s else { s with tampered := s.tampered.filter fun u => !decide (a ≤ u ∧ u + 256 ≤ a + n) }

/-- Bytes written over some places, good ones (R418). -/
def State.scatter (s : State) (l : List (Nat × Nat)) (bs : List Byte) : State :=
  match l with
  | [] => s
  | p :: rest => State.scatter ((s.retag p.1 p.2).putPoison p.1 (bs.take p.2) false) rest (bs.drop p.2)

/-- R422: the sector with a bad tag that the device meets as it reaches n far bytes of one page itself: in a page table, or one that it reads
or writes in part. -/
def State.pageTag (s : State) (ctx va n : Nat) (write : Bool) : Option Nat :=
  match s.walk ctx va write with
  | .integ a => some a
  | .ok f =>
    match f.addr with
    | some a => s.tampered.find? fun u =>
        decide (2 ^ 52 ≤ a ∧ u < a + n ∧ a < u + 256) && !s.poisoned u 256 && !(write && decide (a ≤ u ∧ u + 256 ≤ a + n))
    | none => none
  | _ => none

/-- R422: the same over the pages of n far bytes. -/
def State.spanTag (s : State) (ctx va n : Nat) (write : Bool) : Option Nat :=
  if s.tampered.isEmpty then none
  else (List.range (n / 2 ^ 19 + 2)).findSome? fun i =>
    let p := if i = 0 then va else (va / 2 ^ 19 + i) * 2 ^ 19
    if p < va + n then s.pageTag ctx p (min (va + n - p) (2 ^ 19 - p % 2 ^ 19)) write else none

/-! ## Object images (R327 to R330) -/

/-- A little-endian field of an image. -/
def imgF (img : List Byte) (off n : Nat) : Nat := leNat ((img.drop off).take n)

/-- R330: whether n bytes at an offset lie in the image. -/
def inImage (img : List Byte) (off n : Nat) : Bool := decide (off + n ≤ img.length)

/-- The items of a list of options, if all are there. -/
def allSome {α : Type} (l : List (Option α)) : Option (List α) :=
  match l with
  | [] => some []
  | x :: rest => match x, allSome rest with | some v, some vs => some (v :: vs) | _, _ => none

/-- R329, R330: a data record. -/
def parseRec (img : List Byte) (o : Nat) : Option DataRec :=
  let w := imgF img o 4
  let n := imgF img (o + 4) 4
  let zero := bits w 2 1 == 1
  let off := imgF img (o + 0x10) 4
  if w % 4 = 3 ∨ 8 ≤ w ∨ imgF img (o + 0x14) 4 ≠ 0 ∨ (zero = true ∧ off ≠ 0) ∨ (zero = false ∧ inImage img off n = false) then none
  else some ⟨w % 4, imgF img (o + 8) 8, if zero then [] else (img.drop off).take n, if zero then n else 0⟩

/-- R328: the ports of an actor entry. -/
def parsePorts (img : List Byte) (o : Nat) : List (Nat × Nat) :=
  (List.range 8).map fun i => (imgF img (o + 2 * i) 1, imgF img (o + 2 * i + 1) 1)

/-- R330, R56: whether the smallest window is not smaller than a declared view's extent. -/
def viewFits (minwin : Nat) (d : BitVec 128) : Bool := d == 0 || decide ((⟨0, d, 0, 0, none⟩ : View).extent ≤ minwin)

/-- R330, R352, R353: whether the fields of a launch header marked "must be 0" are 0. -/
def headerZero (h : BitVec 1536) : Bool :=
  hdrF h 0x20 0 256 == 0 && hdrF h 0xA0 0 256 == 0 && (List.range 6).all fun i => hdrF h (0x48 + 16 * i) 38 16 == 0

/-- R328, R330: an actor entry. -/
def parseActor (img : List Byte) (codelen : Nat) (recs : List DataRec) (o : Nat) : Option Actor :=
  let e := imgF img o 4
  let t := imgF img (o + 4) 4
  let valid := bits e 31 1 == 1
  let vd := imgF img (o + 0x10) 4
  let r0 := imgF img (o + 0x14) 2
  let rn := imgF img (o + 0x16) 2
  let minwin := imgF img (o + 0x38) 4
  let descs := (List.range 48).map fun h => BitVec.ofNat 128 (imgF img (vd + 16 * h) 16)
  if bits e 24 7 ≠ 0 ∨ bits t 24 8 ≠ 0 ∨ imgF img (o + 0x3C) 4 ≠ 0 ∨ codelen ≤ bits e 0 24 ∨ codelen ≤ bits t 0 24
      ∨ inImage img vd 0 = false then none
  else if !valid then some ⟨false, 0, 0, 0, [], [], [], [], 0⟩
  else if !inImage img vd 768 || decide (recs.length < r0 + rn) || !descs.all (viewFits minwin) then none
  else some
    { valid := true, entry := BitVec.ofNat 24 e, trapent := BitVec.ofNat 24 t, tmask := BitVec.ofNat 64 (imgF img (o + 8) 8),
      descs := descs, recs := ((recs.drop r0).take rn).filter fun r => r.space == 0, inp := parsePorts img (o + 0x18),
      outp := parsePorts img (o + 0x28), minwin := minwin }

/-- R330, R214: whether signature entries cover the halfwords from one on to the end of the code, in order. -/
def sigsCover (from_ codelen : Nat) (l : List W64) : Bool :=
  match l with
  | [] => from_ == codelen
  | e :: rest => bits e.toNat 40 24 == from_ && bits e.toNat 32 8 != 0 && sigsCover (from_ + bits e.toNat 32 8) codelen rest

/-- R327, R330: an image as Ouva reads it, with its data records; `none` where it is refused. DEDUCED: log entry 111. -/
def parseImage (img : List Byte) : Option (Image × List DataRec) :=
  let u (o n : Nat) : Nat := imgF img o n
  let codelen := u 0xC 4
  if !inImage img 0 64 || u 0 4 != 0x495A5953 || u 4 2 != 1 || u 6 2 != 0 || u 0x30 16 != 0
      || codelen == 0 || decide (2 ^ 24 < codelen) || u 0x14 4 == 0 || decide (4096 < u 0x14 4)
      || !inImage img (u 8 4) (2 * codelen) || !inImage img (u 0x10 4) (64 * u 0x14 4) || !inImage img (u 0x18 4) (8 * u 0x1C 4)
      || !inImage img (u 0x20 4) (24 * u 0x24 4) || !inImage img (u 0x28 4) (192 * u 0x2C 4) then none
  else
    let sigs := (List.range (u 0x1C 4)).map fun i => BitVec.ofNat 64 (u (u 0x18 4 + 8 * i) 8)
    match allSome ((List.range (u 0x24 4)).map fun i => parseRec img (u 0x20 4 + 24 * i)) with
    | none => none
    | some recs =>
      match allSome ((List.range (u 0x14 4)).map fun i => parseActor img codelen recs (u 0x10 4 + 64 * i)) with
      | none => none
      | some actors =>
        let launches := (List.range (u 0x2C 4)).map fun i => BitVec.ofNat 1536 (u (u 0x28 4 + 192 * i) 192)
        if sigsCover 0 codelen sigs && launches.all headerZero then
          some (⟨codelen, actors, sigs, launches, Config.shake256 img⟩, recs)
        else none

/-- R194, R329: bytes placed in the slice of a core at load: an object block there is no longer live. -/
def State.loadSlice (s : State) (core off : Nat) (bs : List Byte) : State :=
  let bs := bs.take (0x18000 - off)
  let a := nearAddr core off
  let s1 := { s with homes := s.homes.filter fun p => !decide (p.1 < a + bs.length ∧ a < p.1 + 64) }
  ((s1.setBytes a bs).clearPoison a bs.length).flushRa a bs.length

/-- R329: the bytes of a data record. -/
def DataRec.data (r : DataRec) : List Byte := r.bytes ++ List.replicate r.zeros 0

/-- R194, R329: a `slice` or `hbm` record applied at load; `none` where far bytes cannot be written. -/
def State.applyRec (s : State) (ctx : Nat) (cores : List Nat) (r : DataRec) : Option State :=
  match r.space with
  | 1 => some (cores.foldl (fun t c => if c < numCores then t.loadSlice c r.addr r.data else t) s)
  | 2 => (s.farPlaces ctx r.addr r.data.length true).map fun l => s.scatter l r.data
  | _ => some s

/-- The records of an image applied in table order. -/
def State.applyRecs (s : State) (ctx : Nat) (cores : List Nat) (l : List DataRec) : Option State :=
  match l with
  | [] => some s
  | r :: rest => match s.applyRec ctx cores r with | some t => State.applyRecs t ctx cores rest | none => none

/-- R330, R362: whether a bound slot of a context has a window too short for an actor it may run. -/
def State.anyTooShort (s : State) (ctx : Nat) : Bool :=
  s.allSlots.any fun p => let x := s.slot p.1 p.2; x.bound && x.ctx == ctx && s.tooShort x

/-- R346, R330: an image loaded into a context; `none` where it is refused. -/
def State.loadImage (s : State) (ctx : Nat) (img : List Byte) (cores : List Nat) : Option State :=
  match parseImage img with
  | none => none
  | some (im, recs) =>
    let t := (s.setBytes (codeAddr ctx 0) ((img.drop (imgF img 8 4)).take (2 * im.codelen))).updCtx ctx fun c => { c with image := some im }
    if t.anyTooShort ctx then none else t.applyRecs ctx cores recs

/-- R422, R329: the sector with a bad tag that an image is read from, or that a far record of it writes in part. -/
def State.imageTag (s : State) (ctx va len : Nat) : Option Nat :=
  if s.tampered.isEmpty then none
  else (s.spanTag ctx va len false).orElse fun _ =>
    ((s.farPlaces ctx va len false).bind fun l => parseImage (s.gather l)).bind fun im =>
      im.2.findSome? fun r => if r.space = 2 then s.spanTag ctx r.addr r.data.length true else none

/-- R329, R426: whether an image has a record for bytes of a slice that are under test. -/
def State.imageTests (s : State) (ctx va len : Nat) (cores : List Nat) : Bool :=
  cores.any (fun c => (s.core c).bist.any fun t => t.1 == 2) &&
    (((s.farPlaces ctx va len false).bind fun l => parseImage (s.gather l)).any fun im =>
      im.2.any fun r => r.space == 1 && cores.any fun c => s.testing (nearAddr c r.addr) r.data.length)

/-- R346, R330: LOAD_IMAGE: command 0x02: the image at a far address, for some cores. An image with a sector whose tag is bad is refused,
and its context fenced (R422); one that would write a block under test waits (R426). DESIGN CHOICE: log entry 118. -/
def execLoadImage (fn ctx va len : Nat) (cores : List Nat) (s : State) : Out :=
  .next (mailbox fn (s.pfRefusal fn ctx) s fun s =>
    match s.imageTag ctx va len with
    | some a => (s.integrity ctx a).mboxAnswer fn 0x42
    | none =>
      if s.imageTests ctx va len cores then s
      else
      match s.farPlaces ctx va len false with
      | none => s.mboxAnswer fn 0x42
      | some l =>
        if l.any fun p => s.poisoned p.1 p.2 then s.mboxAnswer fn 0x42
        else
          match s.loadImage ctx (s.gather l) cores with
          | some t => t.mboxAnswer fn 0
          | none => s.mboxAnswer fn 0x42)

/-! ## Attestation and invalidation (R356, R377) -/

/-- R356: the first 136 bytes of a report. -/
def State.reportHead (s : State) (ctx : Nat) (nonce : BitVec 256) : List Byte :=
  let c := s.ctx ctx
  let m := match c.image with | some im => im.hash.toNat | none => 0
  toLe 2 1 ++ toLe 1 ctx ++ toLe 1 (if c.debug then 1 else 0) ++ toLe 4 s.leaf ++ toLe 32 Config.firmware.toNat ++ toLe 32 m
    ++ toLe 32 nonce.toNat ++ toLe 32 Config.identity.toNat

/-- R356: a report, signed with the next leaf. DESIGN CHOICE: log entry 18. -/
def State.reportBytes (s : State) (ctx : Nat) (nonce : BitVec 256) : List Byte :=
  let h := s.reportHead ctx nonce
  h ++ (List.range 2820).map (Config.xmss s.leaf h)

/-- R356, R422: REPORT: command 0x03. DEDUCED: log entry 116. -/
def execReport (fn ctx : Nat) (nonce : BitVec 256) (va : Nat) (s : State) : Out :=
  .next (mailbox fn (s.ownRefusal fn ctx) s fun s =>
    if 2 ^ 20 ≤ s.leaf then s.mboxAnswer fn 0x47
    else
      match s.spanTag ctx va 2956 true, s.farPlaces ctx va 2956 true with
      | some a, _ => (s.integrity ctx a).mboxAnswer fn 0x43
      | none, none => s.mboxAnswer fn 0x43
      | none, some l => ({ s.scatter l (s.reportBytes ctx nonce) with leaf := s.leaf + 1 }).mboxAnswer fn 0)

/-- R377: translations of a range of a context dropped from a cache. -/
def Engine.dropRange (ctx va len : Nat) (en : Engine) : Engine :=
  { en with tlb := en.tlb.filter fun t => !(t.ctx == ctx && meet t.va t.size va len) }

/-- R377: whether a command of a context is under way, or its token has not landed. -/
def State.translating (s : State) (ctx : Nat) : Bool :=
  (s.engines.any fun p => (match p.2.cur with | some q => q.ctx == ctx | none => false) || p.2.parked.any fun q => q.ctx == ctx)
    || s.net.any fun p => match p with | .token r _ => s.agentCtx r.core r.slot r.fid == ctx | _ => false

/-- R377: INVALIDATE: command 0x05: the caches drop the range, and the answer comes once no command may still use it. DEDUCED: log entry 114. -/
def execInvalidate (fn ctx va len : Nat) (s : State) : Out :=
  .next (mailbox fn (s.ownRefusal fn ctx) s fun s =>
    if va % 2 ^ 19 ≠ 0 ∨ len % 2 ^ 19 ≠ 0 then s.mboxAnswer fn 0x4A
    else
      let t := { s with engines := s.engines.map fun p => (p.1, p.2.dropRange ctx va len) }
      if t.translating ctx then t else t.mboxAnswer fn 0)

/-! ## The host in device memory (R357) -/

/-- R345, R373: the place of a far byte of context 0 in this device's HBM, for the host: the HDM range is the PF's. DEDUCED: log entry 117. -/
def State.hostPlace (s : State) (fn va : Nat) (write : Bool) : Option Nat :=
  if fn ≠ 0 ∨ !(s.ctx 0).live || (s.ctx 0).fenced || decide (2 ^ 57 ≤ va) then none
  else match s.walk 0 va write with | .ok f => if f.tgt = 0 then f.addr else none | _ => none

/-- R357, R422: what the host's access to a far byte that it cannot reach leaves: a page table whose tag is bad is a security event.
DESIGN CHOICE: log entry 118. -/
def State.hostMiss (s : State) (fn va : Nat) (write : Bool) : State :=
  if fn ≠ 0 ∨ !(s.ctx 0).live || (s.ctx 0).fenced || decide (2 ^ 57 ≤ va) then s
  else match s.walk 0 va write with | .integ a => s.integrity 0 a | _ => s

/-- R357: a completion to the host: 0 with data, 1 with poisoned data, 2 an Unsupported Request, which is logged. -/
def State.complete (s : State) (fn : Nat) (bs : List Byte) (kind : Nat) : State :=
  let t := { s with hostOut := s.hostOut ++ [(fn, bs, kind)] }
  if kind = 2 then t.unsupported else t

/-- R345, R351: a byte of a function's BAR0 outside the mailbox page: of a status entry, else 0. -/
def State.bar0Byte (s : State) (fn off : Nat) : Byte :=
  if 0x1000 ≤ off ∧ off < 0x2000 then BitVec.ofNat 8 (bits (s.status fn ((off - 0x1000) / 64)).toNat (8 * (off % 64)) 8) else 0

/-- R345: n bytes of a function's BAR0 as the host reads them; the manual does not lay out the mailbox page (free values). DESIGN CHOICE: log entry 159. -/
def State.bar0Read (s : State) (fn off n : Nat) : List Byte × State :=
  match n with
  | 0 => ([], s)
  | n + 1 =>
    let r := if 0x2000 ≤ off ∧ off < 0x3000 then let f := s.free; (BitVec.ofNat 8 f.1, f.2) else (s.bar0Byte fn off, s)
    let t := State.bar0Read r.2 fn (off + 1) n
    (r.1 :: t.1, t.2)

/-- R357, R345, R422: HOST_MEMORY_READ: n bytes within a sector of context 0's far space, or of the function's BAR0. DESIGN CHOICE: log entry 136. -/
def execHostMemoryRead (fn : Nat) (src : HostAddr) (n : Nat) (s : State) : Out :=
  .next (
    if 256 ≤ fn ∨ 256 < src.offset % 256 + n then s
    else
      match src with
      | .bar0 off => if 0x10000 < off + n then s.complete fn [] 2 else let r := s.bar0Read fn off n; r.2.complete fn r.1 0
      | .far va =>
        match s.hostPlace fn va false with
        | none => (s.hostMiss fn va false).complete fn [] 2
        | some a =>
          if s.tamperedAt a n then (s.integrity 0 a).complete fn [] 2
          else if !s.poisoned a n then s.complete fn (s.bytesAt a n) 0
          else if (s.ctx 0).pfwd then s.complete fn (s.bytesAt a n) 1
          else s.complete fn [] 2)

/-- R357, R418, R422: bytes of one sector written by the host; a whole sector takes a new tag, and a part of one whose tag is bad is a
security event. -/
def State.hostWrite (s : State) (fn a : Nat) (bs : List Byte) (poisoned : Bool) : State :=
  if bs.length = 256 then (s.retag a 256).putPoison a bs poisoned
  else if s.tamperedAt a bs.length then s.integrity fn a
  else s.putPoison a bs poisoned

/-- R357, R345: HOST_MEMORY_WRITE: bytes within a sector of context 0's far space, poisoned where marked. -/
def execHostMemoryWrite (fn va : Nat) (bytes : List (BitVec 8)) (poisoned : Bool) (s : State) : Out :=
  .next (
    if 256 ≤ fn ∨ 256 < va % 256 + bytes.length ∨ bytes = [] then s
    else
      match s.hostPlace fn va true with
      | none => (s.hostMiss fn va true).unsupported
      | some a => s.hostWrite fn a bytes poisoned)

/-- R357: CXL_VIRAL: every context is fenced, and the PF's log takes a record; the manual gives it no code and no source. DESIGN CHOICE: log entry 27. -/
def execCxlViral (s : State) : Out :=
  .next (
    let c := s.free
    let r := c.2.free
    let t := r.2.logError (r.2.errBits { code := c.1 % 2 ^ 32, ctx := none, src := r.1 % 8, fate := 5, lcore := 0, slot := 0 })
    (t.ctxs.filter fun p => p.2.live).foldl (fun t p => t.fenceCtx p.1) t)

/-- R358: POWER_CAP: the matrix issue rate is limited, or no longer; cycle counts keep their meaning. DEDUCED: log entry 132. -/
def execPowerCap (on : Bool) (s : State) : Out := .next { s with powerCap := on }

/-! ## Reset (R359, R429) -/

/-- R429: a little-endian field of the fused map. -/
def State.fuseF (s : State) (off n : Nat) : Nat := leNat (memGets s.fuses off n)

/-- R429, R216: whether the map's CRC holds. -/
def State.mapOk (s : State) : Bool := crc16 (memGets s.fuses 0 0x1FE) == s.fuseF 0x1FE 2

/-- R429, R378: a die's table as the map gives it. -/
def State.fusedDie (s : State) (d : Nat) : Die :=
  { Die.reset with tab := ((List.range 64).map fun r => (r, memGet s.fuses (0x40 + 64 * d + r))).filter fun p => p.2 != 0 }

/-- R429: the dies of a device after reset; those without an entry are as any other. -/
def State.fusedDies (s : State) : SMap Die := ((List.range 4).map fun d => (d, s.fusedDie d)).filter fun p => p.2.tab != []

/-- R429, R393: the planes of a device after reset: those that are fused out. -/
def State.fusedPlanes (s : State) (ok : Bool) : SMap Plane :=
  ((List.range 96).filter fun p => !ok || bits (s.fuseF 0x180 12) p 1 == 1).map fun p => (p, { Plane.reset with ctl := 0x80000000 })

/-- R359, R429: what the PF's mailbox reports after reset. -/
def State.readyCode (s : State) : Nat := if s.ouvaBad then 0x46 else if s.mapOk then 0 else 0x4B

/-- R359, R429, R356, R380: RESET: state is zeroed, the defect map loaded and Ouva verified. What reset does not reach stays: the fuses,
the position, the host's memory, the used leaves, and the model's own counters and agenda. DESIGN CHOICE: log entries 102, 103, 104. -/
def execReset (s : State) : Out :=
  .next (
    let t : State :=
      { State.reset with
        agenda := s.agenda, fresh := s.fresh, nextId := s.nextId, pos := s.pos, leaf := s.leaf, fuses := s.fuses, ouvaBad := s.ouvaBad,
        mem := s.mem.filter (fun p => decide (2 ^ 53 ≤ p.1 ∧ p.1 < 2 ^ 54))
        dies := if s.mapOk then s.fusedDies else []
        fab := { Fab.reset with pod := BitVec.ofNat 32 (2 ^ s.pos.toNat), planes := s.fusedPlanes s.mapOk } }
    if s.readyCode = 0 then t else t.mboxAnswer 0 s.readyCode)

end Sys2Proof.Machine
end

