-- ==== Sys2Proof/Machine/FabricEvents.lean ====
section
/-!
DEFINITION. The Grisal fabric as it reaches the device (R172 to R174, R374, R380 to R394): walks, requests of peers, markers and held
releases, replies, time-outs, links and planes, the loopback, and the fabric registers.
-/

namespace Sys2Proof.Machine

/-! ## Translation (R374) -/

/-- The far addresses a step of a command reaches, each with whether it is written. -/
def Micro.fars (m : Micro) : List (Nat × Bool) :=
  let far (e : End) (w : Bool) : List (Nat × Bool) := match e with | .far va => [(va, w)] | .near _ => []
  match m with
  | .copy src dst _ => far src false ++ far dst true
  | .put dst _ _ => far dst true
  | .add _ dst _ => far dst true
  | .atom va _ _ _ _ _ => [(va, true)]

/-- R374 to R376: TRANSLATION_WALK: a walk for the next access of an engine's command: its translation is kept, or the command ends. DESIGN CHOICE: log entry 118. -/
def execTranslationWalk (cluster ctx va : Nat) (write : Bool) (s : State) : Out :=
  .next (
    let en := s.engine cluster
    match en.cur, en.todo with
    | some q, m :: _ =>
      if q.ctx = ctx ∧ en.hid = 0 ∧ m.fars.contains (va, write) = true then
        match s.xlat cluster q va write with
        | (.ok _, t) => t
        | (.error v, t) => t.failCmd cluster v
      else s
    | _, _ => s)

/-! ## Markers and releases of a peer (R173, R174) -/

/-- R173: FLUSH_MARKER: the marker of an engine of a peer. -/
def execFlushMarker (cluster : Nat) (src : Sender) (plane cls seq : Nat) (s : State) : Out :=
  .next (if cluster < 768 ∧ src.dev < 32 ∧ plane < 96 ∧ cls < 2 then s.marker cluster src.engine src.dev plane cls (seq % 256) else s)

/-- R174: LOSS_NOTICE: the releases that wait for markers on a lost plane are applied without them, those that still arrive too; notices of a
plane are counted. DESIGN CHOICE: log entry 119. -/
def execLossNotice (cluster sdev plane : Nat) (s : State) : Out :=
  .next (
    if 96 ≤ plane ∨ 32 ≤ sdev ∨ 768 ≤ cluster then s
    else
      let t := s.updEngine cluster fun en => { en with notices := mput en.notices (sdev * 96 + plane) (mget en.notices (sdev * 96 + plane) 0 + 1) }
      (t.updEngine cluster fun en => { en with holding := en.holding.map (·.without en.notices) }).applyHeld)

/-- R172: the far release of a packet, as `relBytes` lays its masks out. -/
def farRelOf (h : BitVec 128) (payload : List Byte) : FarRel where
  sdev := dF h 117 5
  src := bits (dF h 0 57) 14 10
  prev := leNat ((payload.drop 216).take 2)
  seq := dF h 82 8
  m0 := BitVec.ofNat 96 (leNat (payload.take 12))
  m1 := BitVec.ofNat 96 (leNat ((payload.drop 12).take 12))
  c0 := (payload.drop 24).take 96
  c1 := (payload.drop 120).take 96
  hdr := h
  body := payload.drop relPre
  lost := false

/-- R173: a release that arrives: markers that came before it are taken off its masks, and planes that are lost. DESIGN CHOICE: log
entry 119. -/
def State.holdRelease (s : State) (e : Nat) (h : BitVec 128) (payload : List Byte) : State :=
  let r0 := farRelOf h payload
  let mine (p : Nat × Nat × Nat × Nat × Nat) : Bool := p.1 == r0.sdev && p.2.1 == r0.src && p.2.2.2.2 == r0.seq
  let r := ((s.engine e).seen.filter mine).foldl (fun r p => r.reached p.1 p.2.1 p.2.2.1 p.2.2.2.1 p.2.2.2.2) r0
  let t := s.updEngine e fun en =>
    { en with holding := en.holding ++ [r.without en.notices], seen := en.seen.filter fun p => !mine p }
  t.applyHeld

/-! ## Requests of a peer (R382, R391) -/

/-- R382, R387: discarded flits counted, saturating. -/
def State.drop (s : State) (n : Nat) : State := { s with fab := { s.fab with drop := satAdd s.fab.drop n } }

/-- R382: whether a header holds a reserved value. -/
def hdrBad (h : BitVec 128) : Bool := decide (9 ≤ dF h 124 4) || decide (9 ≤ dF h 78 4) || dF h 62 16 != 0 || decide (5 ≤ dF h 57 4)

/-- R382: the bytes of a size code. -/
def sizeBytes (c : Nat) : Nat := if c = 4 then 64 else 2 ^ c

/-- R382, R391, R357: bytes on their way to a peer in a reply; poisoned ones only where the peer forwards poison. -/
def State.replyBytes (s : State) (h : BitVec 128) (op : Nat) (bs : List Byte) (psn : Bool) : State :=
  let ctx := dF h 104 8
  let sdev := dF h 117 5
  if psn && bits (s.peerEntry ctx sdev) 14 1 == 0 then s.answerPeer h 6
  else s.fabReply op ctx sdev (dF h 94 10) (dF h 90 4) (if psn then 1 else 0) (dF h 57 4) bs

/-- R374, R375: a peer's far address translated by the engine that serves it: the place, or the value the requester's token takes. -/
def State.servePlace (s : State) (e ctx va : Nat) (write : Bool) : Except Nat Nat × State :=
  let place (f : Frame) : Except Nat Nat := match f.addr with | some a => .ok a | none => .error 5
  match (s.engine e).hit ctx va write with
  | some f => (place f, s)
  | none =>
    match s.walk ctx va write with
    | .ok f => (place f, s.cacheFrame e ctx f)
    | .fault _ => (.error 5, s)
    | .media => (.error 6, s)
    | .integ a => (.error 6, s.integrity ctx a)

/-- R374: the same for bytes that may pass from one page to the next: each part's place and length. -/
def State.serveParts (s : State) (e ctx : Nat) (write : Bool) (ps : List (Nat × Nat)) : Except Nat (List (Nat × Nat)) × State :=
  match ps with
  | [] => (.ok [], s)
  | (va, n) :: rest =>
    match s.servePlace e ctx va write with
    | (.error v, t) => (.error v, t)
    | (.ok a, t) =>
      match t.serveParts e ctx write rest with
      | (.ok l, u) => (.ok ((a, n) :: l), u)
      | r => r

/-- Whether a place is a byte of the host's memory. -/
def isHost (a : Nat) : Bool := decide (2 ^ 53 ≤ a)

/-- R357, R370: a peer's write of poisoned bytes to a page of the host that may not take them: it is refused, and the supervisor is told. DEDUCED: log entry 183. -/
def State.refusePoison (s : State) (e : Nat) (h : BitVec 128) (ctx : Nat) : State :=
  (s.faultMsg ⟨ctx, agentCore (engineKey e), 0, true⟩ 6 (dF h 0 57)).answerPeer h 6

/-- R289, R116: the new value of an atomic, a float addition in its own type. -/
def servedNew (op : Nat) (ty : Ty) (old b0 b1 : Nat) : Nat := if op = 0 ∧ ty.isFloat = true then addElem ty old b0 else atomNew op ty old b0 b1

/-- R382: a read, write or atomic of a peer performed. -/
def State.serve (s : State) (e : Nat) (h : BitVec 128) (payload : List Byte) : State :=
  let ctx := dF h 104 8
  let op := dF h 124 4
  let n := sizeBytes (dF h 57 4)
  let psn := dF h 61 1 == 1
  match s.serveParts e ctx (op != 0) (pageParts (dF h 0 57) n) with
  | (.error v, t) => t.answerPeer h v
  | (.ok ps, t) =>
    match t.tamperedIn ps with
    | some a => (t.integrity ctx a).answerPeer h 6
    | none =>
      let was := t.poisonIn ps
      if op != 0 && (psn || (op == 2 && was)) && ps.any (fun p => isHost p.1) && !(t.ctx ctx).pfwd then t.refusePoison e h ctx
      else
        match op with
        | 0 => t.replyBytes h 5 (t.bytesOf ps) was
        | 1 => (t.putParts ps (payload.take n) psn).replyBytes h 6 [] false
        | _ =>
          let f := leNat (payload.take 8)
          let b0 := leNat ((payload.drop 8).take 8)
          let b1 := leNat ((payload.drop 16).take 8)
          let ty := Ty.ofCode (f / 256)
          let old := leNat (t.bytesOf ps)
          (t.putParts ps (toLe n (servedNew (f % 256) ty old b0 b1)) (was || psn)).replyBytes h 7 (toLe 8 old) was

/-- R382, R391, R173: FABRIC_REQUEST: a packet of a peer at the copy engine that serves it. A far release is held until its turn, and one whose
context does not exist is counted as dropped. DESIGN CHOICE: log entries 122, 139. -/
def execFabricRequest (cluster plane : Nat) (hdr : BitVec 128) (payload : List (BitVec 8)) (s : State) : Out :=
  .next (
    let ctx := dF hdr 104 8
    let op := dF hdr 124 4
    let sdev := dF hdr 117 5
    if 768 ≤ cluster ∨ 96 ≤ plane then s
    else if hdrBad hdr || decide (5 ≤ op) || dF hdr 112 5 != s.pos.toNat then s.drop (dF hdr 78 4 + 1)
    else if op = 4 ∧ (s.ctx ctx).live = true then s.marker cluster (dF hdr 0 57) sdev plane (dF hdr 122 2) (dF hdr 82 8)
    else if op = 3 ∧ dF hdr 57 4 = 1 then
      (if (s.ctx ctx).live then s else s.drop (dF hdr 78 4 + 1)).holdRelease cluster hdr payload
    else if !(s.ctx ctx).live then s.drop (dF hdr 78 4 + 1)
    else if bits (s.peerEntry ctx sdev) 15 1 = 0 then s.answerPeer hdr 7
    else if op < 3 then s.serve cluster hdr payload
    else if s.imageWaits hdr payload then s
    else s.takeImage cluster hdr payload false)

/-! ## Replies (R386 to R388) -/

/-- R386, R388: a stale reply counted for its context on the engine's die. -/
def State.countStale (s : State) (e ctx : Nat) : State :=
  let d := dieOf (engineKey e)
  s.updCtx ctx fun c => { c with stale := mput c.stale d (min (mget c.stale d 0 + 1) 0xFFFFFFFF) }

/-- R313: a far access of the microcode ends its command with a value. -/
def State.endMicrocode (s : State) (e v : Nat) : State :=
  (s.updSlot (engineKey e) 0 fun x => { x with st := .idle, wait := .none, pend := [] }).failCmd e v

/-- R297, R294, R295: the answer of an object's home on a peer. What comes after the firing has stopped waiting has no effect: a lock is given
back, and a count too. -/
def State.objReply (s : State) (o : ObjReq) (code : Nat) (vals : List W32) : State :=
  let x := s.firing o.core o.slot o.fid
  let key := lockKey o.ref.toNat
  let waits := x.wait == .sent && x.fid == o.fid
  let code := if code = 7 then 0x3D else if code = 0x40 then 0 else code
  if code ≠ 0 then (if o.op.releases then s.reportObj o code else s.answerTrap o code)
  else
    match o.op with
    | .rel | .semp => s
    | .bara => s.updFiring o.core o.slot o.fid fun y => { y with phases := mput y.phases key (vals.headD 0).toNat }
    | .bar => (s.updFiring o.core o.slot o.fid fun y => { y with phases := mput y.phases key (vals.headD 0).toNat }).answer o vals
    | .acq | .trya =>
      if vals.headD 0 ≠ 0 then s.answer o vals
      else if waits then (s.lockGiven key o).answer o vals
      else s.push (.obj { o with op := .rel })
    | .semw => if waits then s.answer o vals else s.push (.obj { o with op := .semp })
    | _ => s.answer o vals

/-- One access of the command in progress has been answered: the command goes on, or ends. -/
def State.answered (s : State) (e : Nat) : State :=
  let t := s.updEngine e fun en => { en with outst := en.outst - 1 }
  if (t.engine e).ucode then t.endCmd e else t.runTodo e (t.engine e).todo.length

/-- R313: an access of the command in progress has failed: the command ends, and microcode that works on it stops. -/
def State.failed (s : State) (e v : Nat) : State :=
  let t := s.updEngine e fun en => { en with outst := en.outst - 1 }
  if (t.engine e).ucode then t.endMicrocode e v else t.failCmd e v

/-- R308: the value a `BSIG`'s token takes from a peer's answer: a refusal of the object is an operand out of range. -/
def sigValue (code : Nat) : Nat := if [0, 5, 6, 7, 8, 0x40].contains code then code else 9

/-- R384, R426: bytes that a reply has brought and the command has still to write, where they could not be written at once. -/
def State.putLater (s : State) (e : Nat) (dst : End) (bs : List Byte) (psn : Bool) : State :=
  s.updEngine e fun en => { en with todo := Micro.put dst bs psn :: en.todo, outst := en.outst - 1 }

/-- R382: what a reply does: `code` is the value of an answer, 0 for a reply with data. -/
def State.takeReply (s : State) (e : Nat) (t : Tag) (code : Nat) (bs : List Byte) (psn : Bool) : State :=
  match t.cont with
  | .tok r => s.tokenTo (some r) code
  | .obj o => s.objReply o code ((List.range ((bs.length - 4) / 4)).map fun i => BitVec.ofNat 32 (leNat ((bs.drop (4 + 4 * i)).take 4)))
  | .reg r =>
    if t.cls = 1 then (s.land r (toLe r.len code)).answered e
    else if code ≠ 0 then s.failed e code
    else if psn then s.failed e 6
    else (s.land r (toLe r.len (leNat (bs.take r.len)))).answered e
  | .rel r => (s.land r (toLe r.len (if code = 0 then 0x40 else code))).answered e
  | .value =>
    (s.updEngine e fun en => { en with status := if en.status = 0 then BitVec.ofNat 32 (sigValue code) else en.status }).answered e
  | .ack => if code = 0 then s.answered e else s.failed e code
  | .near a n =>
    match (s.engine e).cur with
    | none => s
    | some q =>
      if code ≠ 0 then s.failed e code
      else if s.testing a n then s.putLater e (.near a) (bs.take n) psn
      else (s.engineNear e q a (bs.take n) psn).answered e
  | .far _ va n =>
    match (s.engine e).cur with
    | none => s
    | some q =>
      if code ≠ 0 then s.failed e code
      else
        match s.engineFar e q va (bs.take n) psn with
        | .ok u => u.answered e
        | .wait => s.putLater e (.far va) (bs.take n) psn
        | .fail u v => u.failed e v

/-- R386, R387: a tag whose reply has landed. -/
def Tag.landed (t : Tag) : Tag := { t with busy := false, tmos := 0 }

/-- R386, R388: FABRIC_REPLY: a reply at the engine that asked; one that arrives in the cycle of its tag's time-out, or later, is stale. -/
def execFabricReply (cluster : Nat) (hdr : BitVec 128) (payload : List (BitVec 8)) (s : State) : Out :=
  .next (
    let op := dF hdr 124 4
    let n := dF hdr 94 10
    let t := mget (s.engine cluster).tags n Tag.reset
    if 768 ≤ cluster then s
    else if hdrBad hdr || decide (op < 5) || dF hdr 112 5 != s.pos.toNat || !(s.ctx (dF hdr 104 8)).live then s.drop (dF hdr 78 4 + 1)
    else if !t.busy || dF hdr 90 4 != t.gen.toNat || decide (t.sent + s.fab.tmo.toNat * 256 ≤ s.now.toNat) then
      s.countStale cluster (dF hdr 104 8)
    else
      let u := s.updEngine cluster fun en => { en with tags := mput en.tags n t.landed }
      u.takeReply cluster t (if op = 8 then leNat (payload.take 4) else 0) payload (dF hdr 61 1 == 1))

/-- R386, R387: a tag that has timed out: its generation advances, and after the fifteenth time it is held. -/
def Tag.timedOut (now : Nat) (t : Tag) : Tag :=
  { t with busy := false, gen := t.gen + 1, tmos := t.tmos + 1, hold := decide (15 ≤ t.tmos + 1), sent := now }

/-- R386, R297: what a time-out does to the request behind a tag. -/
def State.expire (s : State) (e : Nat) (c : Cont) : State :=
  match c with
  | .tok r => s.tokenTo (some r) 8
  | .obj o => s.objReply o 0x3D []
  | _ => s.failed e 8

/-- R386: REQUESTER_TIME_OUT: no reply has landed `fab.tmo` × 256 cycles after the request left. -/
def execRequesterTimeOut (cluster tag : Nat) (s : State) : Out :=
  .next (
    let t := mget (s.engine cluster).tags tag Tag.reset
    if t.busy = true ∧ t.sent + s.fab.tmo.toNat * 256 ≤ s.now.toNat then
      (s.updEngine cluster fun en => { en with tags := mput en.tags tag (t.timedOut s.now.toNat) }).expire cluster t.cont
    else s)

/-- R387: TAG_HOLD_EXPIRY: 65,536 cycles after it was held a tag is usable again. -/
def execTagHoldExpiry (cluster tag : Nat) (s : State) : Out :=
  .next (
    let t := mget (s.engine cluster).tags tag Tag.reset
    if t.hold = true ∧ t.sent + 65536 ≤ s.now.toNat then
      s.updEngine cluster fun en => { en with tags := mput en.tags tag { t with hold := false, tmos := 0 } }
    else s)

/-- R387: FLIT_DISCARD: a link interface has discarded n flits. DEDUCED: log entry 121. -/
def execFlitDiscard (n : Nat) (s : State) : Out := .next (s.drop n)

/-! ## Links and planes (R389, R390) -/

/-- R389: the classes that fit into some free flits. -/
def classesIn (free : Nat) : Nat := if 60 ≤ free then 3 else if 44 ≤ free then 2 else if 28 ≤ free then 1 else 0

/-- R389: the classes a link keeps: those that no longer fit are shed; one that was shed comes back 8 flits above its threshold. DEDUCED: log entry 123. -/
def relink (kept free : Nat) : Nat := if classesIn free ≤ kept then classesIn free else max kept (classesIn (free - 8))

/-- R393: `pl.stat` with the links of a plane counted. -/
def Plane.counted (x : Plane) : Plane :=
  let n (p : Nat → Bool) : Nat := (x.kept.filter fun q => p q.2).length
  { x with stat := BitVec.ofNat 32 (bits x.stat.toNat 31 1 * 2 ^ 31 + n (fun k => k == 1 || k == 2) * 2 ^ 16 + n (· == 1) * 2 ^ 8 + n (· == 0)) }

/-- R393: a plane. -/
def State.plane (s : State) (p : Nat) : Plane := mget s.fab.planes p Plane.reset

/-- R393: a plane changed. -/
def State.updPlane (s : State) (p : Nat) (f : Plane → Plane) : State :=
  { s with fab := { s.fab with planes := mput s.fab.planes p (f (s.plane p)) } }

/-- R389, R390: LINK_ERROR_RATE_CHANGE: the link of a plane to a peer needs q flits for retry. What it sheds or loses is reported to the
PF's mailbox, in a form the manual does not give. DESIGN CHOICE: log entry 26. -/
def execLinkErrorRateChange (plane peer q : Nat) (s : State) : Out :=
  .next (
    if 96 ≤ plane ∨ 32 ≤ peer then s
    else
      let old := s.linkKept plane peer
      let new := relink old (64 - q)
      let t := s.updPlane plane fun x =>
        ({ x with need := mput x.need peer q, kept := mput x.kept peer new,
                  losses := if new = 0 ∧ old ≠ 0 then mput x.losses peer (mget x.losses peer 0 + 1) else x.losses
                  sheds := [0, 1].foldl (fun m cls =>
                    if new < 2 + cls ∧ 2 + cls ≤ old then mput m (peerKey peer cls) (mget m (peerKey peer cls) 0 + 1) else m) x.sheds }).counted
      if new < old then let r := t.free; r.2.mboxAnswer 0 r.1 else t)

/-! ## Loopback and the registers (R393, R394) -/

/-- R394: a loopback run of a plane begins, unless one is under way. -/
def Plane.start (len : Nat) (x : Plane) : Plane :=
  if x.run then x
  else { x with run := true, lb := 0, ctl := BitVec.ofNat 32 (bits x.ctl.toNat 31 1 * 2 ^ 31 + len % 2 ^ 16) }

/-- R393, R394: `out` written. -/
def Plane.setOut (o : Bool) (x : Plane) : Plane :=
  { x with ctl := BitVec.ofNat 32 ((if o then 2 ^ 31 else 0) + bits x.ctl.toNat 0 31) }

/-- R393, R394: `pl.ctl` written. -/
def Plane.writeCtl (v : Nat) (x : Plane) : Plane :=
  let y := x.setOut (bits v 31 1 == 1)
  if bits v 30 1 = 1 then y.start (bits v 0 16)
  else { y with ctl := BitVec.ofNat 32 (bits y.ctl.toNat 31 1 * 2 ^ 31 + bits v 0 16) }

/-- R394: LOOPBACK_START: `lbk` written with a run length. DESIGN CHOICE: log entry 124. -/
def execLoopbackStart (plane : Nat) (len : BitVec 16) (s : State) : Out :=
  .next (if plane < 96 then s.updPlane plane (·.start len.toNat) else s)

/-- R394, R385: PLANE_OUT: `out` written; the plane leaves or joins the plane lists at each next far release. -/
def execPlaneOut (plane : Nat) (out : Bool) (s : State) : Out :=
  .next (if plane < 96 then s.updPlane plane (·.setOut out) else s)

/-- R394: LOOPBACK_DONE: a run ends with a number of bit errors. -/
def execLoopbackDone (plane : Nat) (errs : Nat) (s : State) : Out :=
  .next (
    if plane < 96 ∧ (s.plane plane).run = true then
      s.updPlane plane fun x =>
        { x with run := false,
                 lb := BitVec.ofNat 32 (2 ^ 31 + (if errs = 0 then 2 ^ 30 else 0) + min errs (2 ^ 30 - 1)) }
    else s)

/-- R393: a register of a plane. -/
def Plane.reg (x : Plane) (off : Nat) : W32 :=
  match off with
  | 0x00 => x.stat
  | 0x04 => x.ctl
  | 0x08 => x.vofs
  | 0x0C => x.tofs
  | 0x10 => x.cor
  | 0x14 => x.unc
  | 0x18 => x.lb
  | 0x1C => x.trim
  | _ => 0

/-- R393: a register of a plane written. -/
def Plane.setReg (off v : Nat) (x : Plane) : Plane :=
  match off with
  | 0x04 => x.writeCtl v
  | 0x08 => { x with vofs := BitVec.ofNat 32 (v % 2 ^ 8) }
  | 0x0C => { x with tofs := BitVec.ofNat 32 (v % 2 ^ 8) }
  | 0x1C => { x with trim := BitVec.ofNat 32 (v % 2 ^ 8) }
  | _ => x

/-- R393: a fabric register. -/
def State.fabReg (s : State) (off : Nat) : W32 :=
  match off with
  | 0x0 => BitVec.ofNat 32 s.pos.toNat
  | 0x4 => s.fab.pod
  | 0x8 => s.fab.tmo
  | 0xC => s.fab.drop
  | _ => if 0x1000 ≤ off ∧ off < 0x1000 + 32 * 96 then (s.plane ((off - 0x1000) / 32)).reg (off % 32) else 0

/-- R393: a fabric register written. -/
def State.setFabReg (s : State) (off v : Nat) : State :=
  if off = 0x8 then { s with fab := { s.fab with tmo := if v = 0 then 1 else BitVec.ofNat 32 v } }
  else if 0x1000 ≤ off ∧ off < 0x1000 + 32 * 96 then s.updPlane ((off - 0x1000) / 32) (·.setReg (off % 32) v)
  else s

/-- R393: why a command that only the PF has is refused. -/
def pfOnly (fn : Nat) : Option Nat := if fn = 0 then none else some 0x48

/-- R393: FABRIC_REGISTER_READ: command 0x06. -/
def execFabricRegisterRead (fn off : Nat) (s : State) : Out :=
  .next (mailbox fn (pfOnly fn) s fun s => s.mboxAnswer fn 0 (toLe 4 (s.fabReg off).toNat))

/-- R393: FABRIC_REGISTER_WRITE: command 0x07. A write to a reserved or read-only register is dropped. DEDUCED: log entry 134. -/
def execFabricRegisterWrite (fn off : Nat) (v : BitVec 32) (s : State) : Out :=
  .next (mailbox fn (pfOnly fn) s fun s => (s.setFabReg off v.toNat).mboxAnswer fn 0)

/-- R391, R393: PEER_TABLE_WRITE: command 0x08; `pf` is not written. -/
def execPeerTableWrite (fn ctx i : Nat) (v : Bool) (pctx : BitVec 8) (s : State) : Out :=
  .next (mailbox fn (s.pfRefusal fn ctx) s fun s =>
    if 32 ≤ i then s.mboxAnswer fn 0x4A
    else
      let e (c : Ctx) := BitVec.ofNat 16 ((if v then 2 ^ 15 else 0) + bits (mget c.peers i 0).toNat 14 1 * 2 ^ 14 + pctx.toNat)
      ((s.updCtx ctx fun c => { c with peers := mput c.peers i (e c) }).applyHeld).mboxAnswer fn 0)

/-- R391, R393: PEER_TABLE_HANDSHAKE: what a position answers over MGMT: `fab.pod`, and the `pf` of a context's entry for it. -/
def execPeerTableHandshake (pos : Nat) (answers : Bool) (ctx : Nat) (pf : Bool) (s : State) : Out :=
  .next (
    if 32 ≤ pos ∨ pos = s.pos.toNat then s
    else
      let t := { s with fab := { s.fab with pod := BitVec.ofNat 32 (setBits s.fab.pod.toNat pos 1 (if answers then 1 else 0)) } }
      if (t.ctx ctx).live && answers then
        t.updCtx ctx fun c =>
          { c with peers := mput c.peers pos (BitVec.ofNat 16 (setBits (mget c.peers pos 0).toNat 14 1 (if pf then 1 else 0))) }
      else t)

end Sys2Proof.Machine
end

