-- ==== Sys2Proof/Machine/Observe.lean ====
section
/-!
DEFINITION. Observation without stopping (R400 to R412): the debugger's reads and writes of a slot, trace control and samples,
watchpoints, the rotation of the event sets, and snapshots.
-/

namespace Sys2Proof.Machine

/-! ## Reading and writing a firing (R402, R403) -/

/-- R61, R10: the port of a handle in a slot whose firing has ended: the entry that the bind record gives the actor that ran there last. -/
def State.idlePort (s : State) (x : Slot) (h : Nat) : Option PortUse :=
  (s.actorAt x.ctx x.act.toNat).bind fun a =>
    let use (l : List (Nat × Nat)) (e : Nat → Nat) (out : Bool) : Option PortUse :=
      ((declared l).find? fun i => (l.getD i (0, 0)).1 == h).map fun i => ⟨h, e i, (l.getD i (0, 0)).2, out, 0, [], 0⟩
    (if x.hdl then none else use a.inp x.imap false).orElse fun _ => use a.outp x.omap true

/-- R61: the port that a handle of a slot names. -/
def State.portOf (s : State) (x : Slot) (h : Nat) : Option PortUse :=
  if dF (mget x.views h 0) 83 1 = 1 then (x.ports.find? fun p => p.h == h).orElse fun _ => if x.st = .idle then s.idlePort x h else none
  else none

/-- R402, R61: the descriptor of a handle as the slot's firing sees it, a port's pointers and fill included. -/
def State.slotDesc (s : State) (c k h : Nat) : BitVec 128 :=
  match s.portOf (s.slot c k) h with
  | some p => p.desc (s.core c) (s.slot c k).cbuf
  | none => mget (s.slot c k).views h 0

/-- R402: the bytes of an item. -/
def State.itemBytes (s : State) (c k : Nat) (i : DbgItem) : List Byte :=
  match i with
  | .window off n => s.winGet ⟨c, k, off⟩ n
  | .desc h => toLe 16 (s.slotDesc c k h).toNat
  | .guard g => toLe 2 ((s.slot c k).guard g).m.toNat
  | .special n => toLe (if srWide n.toNat then 8 else 4) (s.readSr c k n.toNat)

/-- R402: whether an item is one of a slot. DEDUCED: log entry 125. -/
def State.itemOk (s : State) (c k : Nat) (i : DbgItem) : Bool :=
  match i with
  | .window off n => decide (1 ≤ n ∧ n ≤ 64 ∧ off + n ≤ (s.win c k).2)
  | .desc h => decide (h < 48)
  | .guard g => decide (g < 7)
  | .special n => (srAcc n.toNat).isSome

/-- R402, R403: whether bytes of an item are pending. -/
def State.itemPending (s : State) (c k : Nat) (i : DbgItem) : Bool :=
  match i with
  | .window off n => (s.slot c k).pendOn ⟨c, k, off⟩ n
  | _ => false

/-- R400, R402: whether a slot can be named for a context: a bound slot of it. -/
def State.namesSlot (s : State) (ctx core slot : Nat) (p : Nat × Nat) : Bool :=
  decide (slot < 4) && decide (core < numCores) && (s.slot p.1 p.2).bound && (s.slot p.1 p.2).ctx == ctx

/-- R53: the banks that hold the bytes of an item are on after they were read. -/
def State.itemWakes (s : State) (c k : Nat) (i : DbgItem) : State :=
  match i with
  | .window off n =>
    let as := s.winAddrs ⟨c, k, off⟩ n
    s.wakeBanks (as.map fun a => (a - 2 ^ 32) / 2 ^ 15).eraseDups as
  | _ => s

/-- R402, R403: READ_STATE: command 0x0B. -/
def execReadState (fn ctx core slot : Nat) (item : DbgItem) (s : State) : Out :=
  .next (mailbox fn (s.debugRefusal fn ctx) s fun s =>
    let p := s.ownerOf core slot
    if s.namesSlot ctx core slot p && s.itemOk p.1 p.2 item then
      (s.itemWakes p.1 p.2 item).mboxAnswer fn (if s.itemPending p.1 p.2 item then 1 else 0) (s.itemBytes p.1 p.2 item)
    else s.mboxAnswer fn 0x4A)

/-- R402: whether an item takes these bytes: as many as it has, and no register that is read only. -/
def State.itemTakes (s : State) (c k : Nat) (i : DbgItem) (n : Nat) : Bool :=
  s.itemOk c k i && (s.itemBytes c k i).length == n && (match i with | .special r => !srLocked r.toNat true | _ => true)

/-- R402, R61: an item written; the descriptor of a port is its entry of the port table. DEDUCED: log entry 125. -/
def State.putItem (s : State) (c k : Nat) (i : DbgItem) (bs : List Byte) : State :=
  match i with
  | .window off _ => s.landWrite ⟨c, k, off⟩ bs
  | .desc h =>
    let d := BitVec.ofNat 128 (leNat bs)
    match s.portOf (s.slot c k) h with
    | some p => s.updCore c fun x => { x with ports := mput x.ports p.entry (dWrite (mget x.ports p.entry 0) d) }
    | none => s.updSlot c k fun x => { x with views := mput x.views h (dWrite (mget x.views h 0) d) }
  | .guard g => s.updSlot c k fun x => { x with guards := mput x.guards g ⟨BitVec.ofNat 16 (leNat bs), none⟩ }
  | .special n => s.writeSr c k n.toNat (leNat bs)

/-- R402, R403: WRITE_STATE: command 0x0C: bytes of a halted slot; pending ones wait for the landing. -/
def execWriteState (fn ctx core slot : Nat) (item : DbgItem) (bytes : List (BitVec 8)) (s : State) : Out :=
  .next (mailbox fn (s.debugRefusal fn ctx) s fun s =>
    let p := s.ownerOf core slot
    if s.namesSlot ctx core slot p && (s.slot p.1 p.2).st == .halted && s.itemTakes p.1 p.2 item bytes.length then
      match item with
      | .window off _ =>
        if s.itemPending p.1 p.2 item then
          (s.updSlot p.1 p.2 fun x => { x with dbgQ := x.dbgQ ++ [(off, bytes)] }).mboxAnswer fn 1
        else (s.putItem p.1 p.2 item bytes).mboxAnswer fn 0
      | _ => (s.putItem p.1 p.2 item bytes).mboxAnswer fn 0
    else s.mboxAnswer fn 0x4A)

/-! ## Trace (R404 to R406) -/

/-- R404: a trace control word as it is stored: reserved bits 0, a period of 0 as 16. -/
def traceWord (w : W32) : W32 :=
  let p := bits w.toNat 0 20
  BitVec.ofNat 32 (bits w.toNat 28 4 * 2 ^ 28 + (if p = 0 then 16 else p))

/-- R404: TRACE_CONTROL: command 0x0D. -/
def execTraceControl (fn ctx : Nat) (word : BitVec 32) (s : State) : Out :=
  .next (mailbox fn (s.debugRefusal fn ctx) s fun s => 
    (s.updCtx ctx fun c => { c with trace := traceWord word, smpAt := s.now }).mboxAnswer fn 0)

/-- R404, R406: one sample: of the slot that issued an instruction of the context in this cycle. DEDUCED: log entry 127. -/
def State.sample (s : State) (ctx c : Nat) : State :=
  match (s.core c).iss with
  | some i => if i.at_ = s.now ∧ i.ctx = ctx then s.trace ctx 1 c i.slot i.pc (if i.scrum then 1 else 0) else s
  | none => s

/-- R404: whether this clock is a sample tick of a context: its period counts from the write of the control word. -/
def State.sampleTick (s : State) (ctx : Nat) : Bool :=
  let n := (s.now - (s.ctx ctx).smpAt).toNat
  n != 0 && n % (bits (s.ctx ctx).trace.toNat 0 20 * 64) == 0

/-- R404: PC_SAMPLE: at a sample tick every core that issued for the context in that cycle writes a sample, those of the list first.
DEDUCED: log entry 127. -/
def execPcSample (ctx : Nat) (cores : List Nat) (s : State) : Out :=
  .next (
    if (s.ctx ctx).live ∧ bits (s.ctx ctx).trace.toNat 31 1 = 1 ∧ s.sampleTick ctx = true then
      (((cores ++ s.cores.map Prod.fst).filter fun c => decide (c < numCores)).eraseDups.foldl (fun t c => t.sample ctx c) s).updCtx ctx
        fun c => { c with smpAt := s.now }
    else s)

/-! ## Watchpoints (R411) -/

/-- R411: WATCHPOINT: command 0x0E. -/
def execWatchpoint (fn ctx idx : Nat) (far : Bool) (addr : Nat) (mask : BitVec 64) (action : Nat) (s : State) : Out :=
  .next (mailbox fn (s.debugRefusal fn ctx) s fun s =>
    if 4 ≤ idx ∨ addr % 64 ≠ 0 ∨ (if far then 2 ^ 57 else 2 ^ 31) ≤ addr ∨ 2 ≤ action then s.mboxAnswer fn 0x4A
    else (s.updCtx ctx fun c => { c with watch := mput c.watch idx ⟨far, addr, mask, action⟩ }).mboxAnswer fn 0)

/-! ## The rotation of the event sets (R407, R408) -/

/-- R408: SET_ROTATION: a period has passed, and the next event set is active. -/
def execSetRotation (core : Nat) (s : State) : Out :=
  .next (
    let x := s.core core
    let p := bits x.pmRot.toNat 0 16
    if core < numCores ∧ p ≠ 0 ∧ x.pmAt + p * 1024 ≤ s.now.toNat then
      s.updCore core fun x => { x with pmAct := (x.pmAct + 1) % (bits x.pmRot.toNat 16 3 + 1), pmAt := x.pmAt + p * 1024 }
    else s)

/-! ## Snapshots (R410) -/

/-- R410: SNAPSHOT_ARM: command 0x0F, argument 0. -/
def execSnapshotArm (fn : Nat) (t : BitVec 64) (s : State) : Out :=
  .next (mailbox fn (pfOnly fn) s fun s =>
    if t.toNat < s.now.toNat + 4096 then s.mboxAnswer fn 0x4A else ({ s with snapAt := some t }).mboxAnswer fn 0)

/-- R360: `sstat`. -/
def Core.sstat (x : Core) : Nat :=
  ((List.range 4).map fun k => (mget x.slots k Slot.reset).stCode * 2 ^ (2 * k)).sum + x.busy.toNat * 2 ^ 8 + x.ended.toNat * 2 ^ 12

/-- R410: the 64 bytes of a core. -/
def Core.snapshot (x : Core) : BitVec 512 :=
  BitVec.ofNat 512 (leNat (
    ((List.range 4).flatMap fun k => toLe 4 (mget x.slots k Slot.reset).here.toNat) ++ toLe 4 x.sstat
      ++ ((List.range 4).flatMap fun j => toLe 8 (mget x.ctrs j Counter.reset).count.toNat)
      ++ (List.range 12).flatMap fun e => toLe 1 (dF (mget x.ports e 0) 119 9)))

/-- The key of `State.snaps` that names the free values latched by the blocks that are no cores. -/
def snapFree : Nat := 2 ^ 20

/-- R410: SNAPSHOT_TRIGGER: the clock has reached T: every block latches. -/
def execSnapshotTrigger (s : State) : Out :=
  .next (
    match s.snapAt with
    | none => s
    | some t =>
      if t.toNat ≤ s.now.toNat then
        { s with
          snapAt := none
          snaps := ((s.cores.filter fun p => decide (p.1 < numCores)).map fun p => (p.1, p.2.snapshot)) ++ [(snapFree, BitVec.ofNat 512 s.fresh)]
          fresh := s.fresh + 1 }
      else s)

/-- R410: the latched bytes of a block: cores first, then copy engines, backstops and chiplets, of whose contents the manual says
nothing (free values). -/
def State.snapBlock (s : State) (b : Nat) : BitVec 512 :=
  if b < numCores then mget s.snaps b 0
  else match mfind s.snaps snapFree with
    | some n => BitVec.ofNat 512 (Config.freeValue (2 ^ 64 + n.toNat * 2 ^ 20 + b))
    | none => 0

/-- R410: the snapshot blocks of a device: cores, 768 copy engines, 256 backstops and 2 optical chiplets. DESIGN CHOICE: log entry 24. -/
def snapBlocks : Nat := numCores + 768 + 256 + 2

/-- R410: SNAPSHOT_READ: command 0x0F, argument 1. -/
def execSnapshotRead (fn block off : Nat) (s : State) : Out :=
  .next (mailbox fn (pfOnly fn) s fun s =>
    if snapBlocks ≤ block ∨ off ≠ 0 then s.mboxAnswer fn 0x4A else s.mboxAnswer fn 0 (toLe 64 (s.snapBlock block).toNat))

end Sys2Proof.Machine
end

