-- ==== Sys2Proof/Machine/Umpire.lean ====
section
/-!
DEFINITION. The signatures of a block (R213 to R217) as the umpire of a core forms them from the instructions it fetched (R420).
-/

namespace Sys2Proof.Machine

/-! ## The data-dependence signature (R215) -/

/-- R200 to R208, R218: the form of a 32-bit instruction, by its major opcode. -/
inductive Form where
  | t | q | i | l | g | b
  deriving DecidableEq, Repr

/-- R218: the form of a major opcode. -/
def formOf (major : Nat) : Form :=
  if major = 3 ∨ major = 4 then .q
  else if (5 ≤ major ∧ major ≤ 0xC) ∨ major = 0x18 ∨ (0x1C ≤ major ∧ major ≤ 0x1E) ∨ major = 0x26 ∨ major = 0x27 then .i
  else if major = 0xD then .l
  else if 0x10 ≤ major ∧ major ≤ 0x15 then .g
  else if major = 0x16 ∨ major = 0x17 then .b
  else .t

/-- R215: the class and the four field bytes of an instruction: its first word (or its halfword, in the short form) and, for an engine
command, the engine word. -/
def sigFields (w engine : Nat) : List Nat :=
  if w % 2 = 0 then [0x80 + bits w 1 4, bits w 5 5, bits w 5 5, bits w 10 5, 0xFF]
  else
    let major := bits w 1 6
    let d := bits w 7 6
    let a := bits w 13 6
    let b := bits w 19 6
    match formOf major with
    | .t => [major, d, a, b, 0xFF]
    | .q => [major, d, a, b, bits w 25 6]
    | .i => [major, d, a, 0xFF, 0xFF]
    | .l => [major, d, a, if bits w 25 7 = 1 then b else 0xFF, 0xFF]
    | .g => [major, bits w 11 6, bits w 17 6, bits w 23 6, if major = 0x14 ∨ major = 0x15 then bits engine 0 6 else 0xFF]
    | .b => [major, 0xFF, 0xFF, 0xFF, 0xFF]

/-- R199, R205, R207: the halfwords of the instruction with a first word. -/
def wordHalves (w : Nat) : Nat :=
  if w % 2 = 0 then 1 else if bits w 1 6 = 0xD ∨ bits w 1 6 = 0x14 ∨ bits w 1 6 = 0x15 then 4 else 2

/-- The instructions of a context's code from a halfword to an end, at most k: their halfwords, first words and engine words. -/
def State.blockWords (s : State) (ctx pc stop k : Nat) : List (Nat × Nat × Nat) :=
  match k with
  | 0 => []
  | k + 1 =>
    if stop ≤ pc then []
    else
      let w := leNat (s.bytesAt (codeAddr ctx (2 * pc)) 4)
      (pc, w, leNat (s.bytesAt (codeAddr ctx (2 * pc + 4)) 4)) :: s.blockWords ctx (pc + wordHalves w) stop k

/-- R215: the data-dependence signature of instructions. -/
def dsigOf (l : List (Nat × Nat × Nat)) : Nat := crc16 (l.flatMap fun p => (sigFields p.2.1 p.2.2).map (BitVec.ofNat 8))

/-! ## The successor signature (R217) -/

/-- R217: the successors of a block by its last instruction, which stands at a halfword, and its fall-through; `none`: not checked. -/
def successors (i : Instr) (pc next : Nat) : Option (List Nat) :=
  let to_ (f : Int) : Nat := (((pc : Int) + f) % 2 ^ 24).toNat
  let branch (target : Nat) (n : Bool) (g : BitVec 3) : List Nat := if g = 7 then (if n then [next] else [target]) else [target, next]
  match i with
  | .br f _ n g => some (branch (to_ f.toInt) n g)
  | .brl f _ n g => some (branch (to_ f.toInt) n g)
  | .loop f _ => some [to_ f.toInt, next]
  | .endFiring => some []
  | .jr _ _ => none
  | .jrl _ _ => none
  | .ret => none
  | _ => some [next]

/-- R217: the at most two successors of a block, each once, in increasing order. -/
def inOrder (l : List Nat) : List Nat :=
  match l with
  | [a, b] => if a = b then [a] else [min a b, max a b]
  | l => l

/-- R217: the CRC of successors as 24 bits each, most significant first. -/
def ssigOf (l : List Nat) : Nat := crc16 ((inOrder l).flatMap fun a => (toLe 3 a).reverse)

/-! ## The check (R420) -/

/-- R420, R214: the signatures that an image gives a block, `dsig` first. -/
def State.expected (s : State) (ctx : Nat) (k : Check) : Option (Nat × Nat) :=
  (s.sigAt ctx k.start.toNat).map fun e => (bits e.toNat 16 16, bits e.toNat 0 16)

/-- R420: the instructions that were fetched of the block of a check. -/
def State.checkWords (s : State) (ctx : Nat) (k : Check) : List (Nat × Nat × Nat) := s.blockWords ctx k.start.toNat k.stop 255

/-- R420, R217: the successors that the last instruction of a checked block gives; `none`: not checked. -/
def State.checkNext (s : State) (ctx : Nat) (k : Check) : Option (List Nat) :=
  match (s.checkWords ctx k).getLast? with
  | some p =>
    match decode (halves (s.bytesAt (codeAddr ctx (2 * p.1)) 8)) with
    | .ok (i, _) => successors i p.1 k.stop
    | .error _ => some []
  | none => some []

/-- R420: the signatures that the umpire forms, with the bits that a fault has flipped; `ssig` reads 0 where it is not checked. -/
def State.observed (s : State) (ctx : Nat) (k : Check) (dflip sflip : BitVec 16) : Nat × Nat :=
  (dsigOf (s.checkWords ctx k) ^^^ dflip.toNat, match s.checkNext ctx k with | some l => ssigOf l ^^^ sflip.toNat | none => 0)

/-- R420: whether a check holds. -/
def State.checkOk (s : State) (ctx : Nat) (k : Check) (dflip sflip : BitVec 16) : Bool :=
  let o := s.observed ctx k dflip sflip
  (match s.expected ctx k with
    | some e => e.1 == o.1 && ((s.checkNext ctx k).isNone || e.2 == o.2)
    | none => false)
  && (match k.target with | some t => s.blockAt ctx t.toNat | none => true)

end Sys2Proof.Machine
end

