-- ==== Sys2Proof/Machine/Reliab.lean ====
section
/-!
DEFINITION. Reliability (R420 to R429): what follows an umpire check, the end of a self-test, rails and temperature, and the PF's
commands for records, the defect map and the reliability registers.
-/

namespace Sys2Proof.Machine

/-! ## The umpire (R420, R421) -/

/-- R421: the retry count in the queue entry that a firing claimed. -/
def setRetry (fid n : Nat) (l : List QEntry) : List QEntry :=
  l.map fun q => if q.claimed = some fid then { q with m := { q.m with retry := n } } else q

/-- R421: the retry count carried on: with the firing, in the claimed entry, and for a launch's firing with its place in the launch. DEDUCED: log entry 95. -/
def State.noteRetry (s : State) (c k : Nat) (x : Slot) (n : Nat) : State :=
  let t := s.updFiring c k x.fid fun y => { y with req := y.req.map fun m => { m with retry := n } }
  if x.launch ≠ 0 ∧ x.child = false then t.updLaunch x.launch fun l => { l with retries := mput l.retries x.wid.toNat n }
  else t.updCore c fun y =>
    { y with hiQ := setRetry x.fid n y.hiQ, loQ := setRetry x.fid n y.loQ
             resume := y.resume.map fun p => (p.1, (setRetry x.fid n [p.2]).headD p.2) }

/-- R424: the record of a mismatch on the core that ran the block. -/
def State.mismatchRec (s : State) (k : Nat) (x : Slot) (q : Check) (dsig ssig : BitVec 16) (fate retry : Nat) : ErrRec :=
  let e := (s.expected x.ctx q).getD (0, 0)
  let o := s.observed x.ctx q dsig ssig
  { code := 0x64, ctx := some x.ctx, src := 3, fate := fate, lcore := q.core, slot := k, retry := retry, addr := q.start.toNat,
    detail := e.1 * 2 ^ 112 + o.1 * 2 ^ 96 + e.2 * 2 ^ 80 + o.2 * 2 ^ 64
      + (match q.target with | some t => t.toNat | none => 0) * 2 ^ 40,
    hdr := x.reqHdr }

/-- R421: the fate and the retry count after a mismatch. -/
def Slot.mismatchFate (x : Slot) : Nat × Nat :=
  if !x.restart then (3, x.retryOf)
  else match x.retryOf with
    | 0 => (1, 1)
    | 1 => (2, 2)
    | _ => (4, 3)

/-- R421: a saved committed firing killed where it is: halted with a cause, in its saved image. -/
def State.killSaved (s : State) (v : Saved) (cause : Nat) : State :=
  let t := (s.setSlot v.core v.slot v.body).kill v.core v.slot cause
  let u := ({ t with saved := t.saved.map fun w => if w.body.fid = v.body.fid then { w with body := t.slot v.core v.slot } else w } : State).setSlot
    v.core v.slot (s.slot v.core v.slot)
  if (u.ctx v.body.ctx).fenced then u.fenceCtx v.body.ctx else u

/-- R421, R85: what a mismatch, or a fence after one, does to a firing that was saved since; with a restartable one goes the halt in which it
stands. -/
def State.stopSaved (s : State) (v : Saved) (cause : Nat) : State :=
  let x := v.body
  if x.restart then
    let t := s.abandonSaved v false
    match s.halts.find? fun h => x.haltedBy h && h.core == v.core with
    | some h => (t.clearMarks h).afterClear
    | none => t
  else if x.st ≠ .halted then s.killSaved v cause
  else if x.doomed || s.halts.any (fun h => x.haltedBy h && killCause h.cause) then s
  else ((s.scoreSaved v).updFiring v.core v.slot x.fid fun y => { y with wait := .rollback, doom := cause }).updCore v.core fun y =>
    { y with kill := bump y.kill }

/-- R421, R85: the firing of a mismatch: a running one stops to be undone or is killed; one that was halted or saved since is given
up, or killed where it is. -/
def State.stopFiring (s : State) (c k fid cause : Nat) : State :=
  match (if (s.slot c k).fid = fid then none else s.saved.find? fun v => v.body.fid == fid) with
  | some v => s.stopSaved v cause
  | none =>
    let x := s.slot c k
    if x.st = .halted then
      if x.restart then
        match s.halts.find? fun h => x.haltedBy h && h.core == c with
        | some h => ((s.abandon c k false).clearMarks h).afterClear
        | none => s
      else s.doomHalted c k cause
    else if x.restart then s.rollBack c k
    else s.kill c k cause

/-- R421: the mismatches of a core within the last 2^20 cycles, with one more. -/
def Core.mismatches (now : Nat) (x : Core) : List Nat := (x.umpAt.filter fun t => decide (now < t + 2 ^ 20)) ++ [now]

/-- R421, R151: what follows a mismatch; the core that ran the block counts it, and is fenced. The firing that mismatched takes cause 0x3,
the committed firings that the fence kills cause 0x8. DEDUCED: log entry 193. -/
def State.mismatch (s : State) (c k : Nat) (x : Slot) (q : Check) (dsig ssig : BitVec 16) : State :=
  let f := x.mismatchFate
  let l := (s.core q.core).mismatches s.now.toNat
  let s1 := (s.updCore q.core fun y => { y with ump := bump y.ump, umpAt := l }).record (s.mismatchRec k x q dsig ssig f.1 f.2)
  let s2 := if x.restart then s1.noteRetry c k x f.2 else s1
  let s3 := if f.1 = 4 then s2.freeClaim c k x.fid else s2
  let s4 := s3.stopFiring c k x.fid 3
  if (x.restart = true ∧ 1 ≤ x.retryOf) ∨ 3 ≤ l.length then s4.fenceCore q.core 8 else s4

/-- R420, R421: UMPIRE_CHECK: the check of the first completed block of a firing arrives; `dsig` and `ssig` name the bits of the
observed signatures that a fault has flipped (R421). DESIGN CHOICE: log entry 152. -/
def execUmpireCheck (core slot : Nat) (dsig ssig : BitVec 16) (s : State) : Out :=
  .next (
    let x := s.slot core slot
    match x.checks with
    | q :: rest =>
      let t := s.updSlot core slot fun y => { y with checks := rest }
      if s.checkOk x.ctx q dsig ssig then t else t.mismatch core slot (t.slot core slot) q dsig ssig
    | [] =>
      match s.saved.find? fun v => v.core == core && v.slot == slot && !v.body.checks.isEmpty with
      | none => s
      | some v =>
        match v.body.checks with
        | [] => s
        | q :: rest =>
          let b : Slot := { v.body with checks := rest }
          let t := { s with saved := s.saved.map fun u => if u = v then { v with body := b } else u }
          if s.checkOk b.ctx q dsig ssig then t else t.mismatch core slot b q dsig ssig)

/-! ## Self-test (R426, R427) -/

/-- R426: what a test leaves of the unit it ran on: a bank is zeroed, the array's tiles and accumulator state are discarded. -/
def State.afterTest (s : State) (c test inst : Nat) : State :=
  match test with
  | 1 =>
    let lo := rsAddr c (inst * 0x2000)
    let inside (a : Nat) : Bool := decide (lo ≤ a ∧ a < lo + 0x2000)
    ({ s with mem := s.mem.filter (fun p => !inside p.1), parity := s.parity.filter (fun a => !inside a) }).updCore c fun y =>
      { y with replay := y.replay.map fun (r : Replay) => { r with cells := r.cells.filter fun p => !inside p.1 } }
  | 4 => s.updCore c fun y => { y with arr := { y.arr with tile := none, shadow := none, res := [], drain := [], ovf := false } }
  | _ => s

/-- R426, R311: queries whose answers waited for a test of their block. -/
def State.servePitches (s : State) : State := s.pitch.foldl (fun t p => t.servePitch p.1 p.2.waiting.length) s

/-- R426, R427: BIST_COMPLETE: the oldest test of a core ends: its token lands, `bi.res` is written, and a fail is recorded. DESIGN CHOICE: log entry 99. -/
def execBistComplete (core : Nat) (fail : Bool) (first : BitVec 24) (s : State) : Out :=
  .next (
    match (s.core core).bist with
    | [] => s
    | (test, inst, r) :: rest =>
      let t := State.servePitches <| ((s.afterTest core test inst).updCore core fun y =>
        { y with bist := rest, biRes := BitVec.ofNat 32 (if fail then 2 ^ 30 + first.toNat else 0) }).landToken r (if fail then 1 else 0)
      if fail then
        t.record { code := 0x67, ctx := none, src := 6, fate := 0, lcore := core, slot := r.slot, addr := first.toNat,
                   detail := test * 2 ^ 112 + inst * 2 ^ 104 }
      else t)

/-! ## Rails and temperature (R425, R428) -/

/-- R428: RAIL_SETTLED: a rail has reached its target. -/
def execRailSettled (die rail : Nat) (s : State) : Out :=
  .next (if die < 4 ∧ rail < 4 then s.updDie die fun d => { d with vstat := d.vstat ||| BitVec.ofNat 32 (2 ^ rail) } else s)

/-- R425: TEMPERATURE_UPDATE: `mg.temp` takes the sensors' reading. DESIGN CHOICE: log entry 100. -/
def execTemperatureUpdate (die : Nat) (temp : BitVec 16) (s : State) : Out :=
  .next (if die < 4 then s.updDie die fun d => { d with temp := temp.setWidth 32 } else s)

/-! ## The PF's commands (R424, R425, R429) -/

/-- R424: ERROR_LOG_READ: command 0x10: record i, the oldest kept first. -/
def execErrorLogRead (fn i : Nat) (s : State) : Out :=
  .next (mailbox fn (pfOnly fn) s fun s =>
    match s.errLog[i]? with
    | some r => s.mboxAnswer fn 0 (toLe 64 r.toNat)
    | none => s.mboxAnswer fn 0x4A)

/-- R429: DEFECT_MAP_READ: command 0x11. -/
def execDefectMapRead (fn : Nat) (s : State) : Out :=
  .next (mailbox fn (pfOnly fn) s fun s => s.mboxAnswer fn 0 (memGets s.fuses 0 512))

/-- R425: whether a number names a reliability register of a core. -/
def relOk (core num : Nat) : Bool := decide (core < numCores) && srPrivate num && (srAcc num).isSome

/-- R425: RELIABILITY_REGISTER_READ: command 0x12. -/
def execReliabilityRegisterRead (fn core num : Nat) (s : State) : Out :=
  .next (mailbox fn (pfOnly fn) s fun s =>
    if relOk core num then s.mboxAnswer fn 0 (toLe 4 (s.readSr core 0 num)) else s.mboxAnswer fn 0x4A)

/-- R425, R428: RELIABILITY_REGISTER_WRITE: command 0x13: of these registers only the margins are written. -/
def execReliabilityRegisterWrite (fn core num : Nat) (v : BitVec 32) (s : State) : Out :=
  .next (mailbox fn (pfOnly fn) s fun s =>
    if relOk core num && !srLocked num true then (s.writeSr core 0 num v.toNat).mboxAnswer fn 0 else s.mboxAnswer fn 0x4A)

end Sys2Proof.Machine
end

