-- ==== Sys2Proof/Machine/Dispatch.lean ====
section
/-! DEFINITION. One arm per constructor: a direct call of its meaning. -/

namespace Sys2Proof.Machine

def exec (i : Instr) (s : State) : Host.Outcome State Fault Refusal :=
  match i with
  | .movShort a r d => Sys2Proof.Machine.execMovShort a r d s
  | .addShort a r d => Sys2Proof.Machine.execAddShort a r d s
  | .subShort a r d => Sys2Proof.Machine.execSubShort a r d s
  | .rsubShort a r d => Sys2Proof.Machine.execRsubShort a r d s
  | .mulShort a r d => Sys2Proof.Machine.execMulShort a r d s
  | .minShort a r d => Sys2Proof.Machine.execMinShort a r d s
  | .maxShort a r d => Sys2Proof.Machine.execMaxShort a r d s
  | .andShort a r d => Sys2Proof.Machine.execAndShort a r d s
  | .orShort a r d => Sys2Proof.Machine.execOrShort a r d s
  | .xorShort a r d => Sys2Proof.Machine.execXorShort a r d s
  | .andnShort a r d => Sys2Proof.Machine.execAndnShort a r d s
  | .shlShort a r d => Sys2Proof.Machine.execShlShort a r d s
  | .shrShort a r d => Sys2Proof.Machine.execShrShort a r d s
  | .sarShort a r d => Sys2Proof.Machine.execSarShort a r d s
  | .negShort a r d => Sys2Proof.Machine.execNegShort a r d s
  | .absShort a r d => Sys2Proof.Machine.execAbsShort a r d s
  | .mov o a d => Sys2Proof.Machine.execMov o a d s
  | .add o b a d => Sys2Proof.Machine.execAdd o b a d s
  | .sub o b a d => Sys2Proof.Machine.execSub o b a d s
  | .rsub o b a d => Sys2Proof.Machine.execRsub o b a d s
  | .mul o b a d => Sys2Proof.Machine.execMul o b a d s
  | .mulh o b a d => Sys2Proof.Machine.execMulh o b a d s
  | .div o b a d => Sys2Proof.Machine.execDiv o b a d s
  | .rem o b a d => Sys2Proof.Machine.execRem o b a d s
  | .min o b a d => Sys2Proof.Machine.execMin o b a d s
  | .max o b a d => Sys2Proof.Machine.execMax o b a d s
  | .abs o a d => Sys2Proof.Machine.execAbs o a d s
  | .neg o a d => Sys2Proof.Machine.execNeg o a d s
  | .clamp o b a d => Sys2Proof.Machine.execClamp o b a d s
  | .abd o b a d => Sys2Proof.Machine.execAbd o b a d s
  | .avg o b a d => Sys2Proof.Machine.execAvg o b a d s
  | .adds o b a d => Sys2Proof.Machine.execAdds o b a d s
  | .subs o b a d => Sys2Proof.Machine.execSubs o b a d s
  | .and o b a d => Sys2Proof.Machine.execAnd o b a d s
  | .or o b a d => Sys2Proof.Machine.execOr o b a d s
  | .xor o b a d => Sys2Proof.Machine.execXor o b a d s
  | .andn o b a d => Sys2Proof.Machine.execAndn o b a d s
  | .not o a d => Sys2Proof.Machine.execNot o a d s
  | .shl o b a d => Sys2Proof.Machine.execShl o b a d s
  | .shr o b a d => Sys2Proof.Machine.execShr o b a d s
  | .sar o b a d => Sys2Proof.Machine.execSar o b a d s
  | .rol o b a d => Sys2Proof.Machine.execRol o b a d s
  | .ror o b a d => Sys2Proof.Machine.execRor o b a d s
  | .clz o a d => Sys2Proof.Machine.execClz o a d s
  | .ctz o a d => Sys2Proof.Machine.execCtz o a d s
  | .popc o a d => Sys2Proof.Machine.execPopc o a d s
  | .brev o a d => Sys2Proof.Machine.execBrev o a d s
  | .bfx o b a d => Sys2Proof.Machine.execBfx o b a d s
  | .bfi o b a d => Sys2Proof.Machine.execBfi o b a d s
  | .sxt o b a d => Sys2Proof.Machine.execSxt o b a d s
  | .zxt o b a d => Sys2Proof.Machine.execZxt o b a d s
  | .cvt o a d => Sys2Proof.Machine.execCvt o a d s
  | .cvts o b a d => Sys2Proof.Machine.execCvts o b a d s
  | .rcp o a d => Sys2Proof.Machine.execRcp o a d s
  | .rsq o a d => Sys2Proof.Machine.execRsq o a d s
  | .sqrt o a d => Sys2Proof.Machine.execSqrt o a d s
  | .exp2 o a d => Sys2Proof.Machine.execExp2 o a d s
  | .log2 o a d => Sys2Proof.Machine.execLog2 o a d s
  | .floor o a d => Sys2Proof.Machine.execFloor o a d s
  | .ceil o a d => Sys2Proof.Machine.execCeil o a d s
  | .rndn o a d => Sys2Proof.Machine.execRndn o a d s
  | .fma c b a d => Sys2Proof.Machine.execFma c b a d s
  | .fnma c b a d => Sys2Proof.Machine.execFnma c b a d s
  | .fms c b a d => Sys2Proof.Machine.execFms c b a d s
  | .fnms c b a d => Sys2Proof.Machine.execFnms c b a d s
  | .addi imm a d => Sys2Proof.Machine.execAddi imm a d s
  | .andi imm a d => Sys2Proof.Machine.execAndi imm a d s
  | .ori imm a d => Sys2Proof.Machine.execOri imm a d s
  | .xori imm a d => Sys2Proof.Machine.execXori imm a d s
  | .shli imm a d => Sys2Proof.Machine.execShli imm a d s
  | .shri imm a d => Sys2Proof.Machine.execShri imm a d s
  | .sari imm a d => Sys2Proof.Machine.execSari imm a d s
  | .movi imm d => Sys2Proof.Machine.execMovi imm d s
  | .li d lit => Sys2Proof.Machine.execLi d lit s
  | .near d lit => Sys2Proof.Machine.execNear d lit s
  | .spwn b a d lit => Sys2Proof.Machine.execSpwn b a d lit s
  | .lea o b a d => Sys2Proof.Machine.execLea o b a d s
  | .adda o b a d => Sys2Proof.Machine.execAdda o b a d s
  | .lcore o a d => Sys2Proof.Machine.execLcore o a d s
  | .cmp c o b a d => Sys2Proof.Machine.execCmp c o b a d s
  | .cmpm c o b a d => Sys2Proof.Machine.execCmpm c o b a d s
  | .gand b a d => Sys2Proof.Machine.execGand b a d s
  | .gor b a d => Sys2Proof.Machine.execGor b a d s
  | .gxor b a d => Sys2Proof.Machine.execGxor b a d s
  | .gnot a d => Sys2Proof.Machine.execGnot a d s
  | .gmov o a d => Sys2Proof.Machine.execGmov o a d s
  | .st r b a f n g => Sys2Proof.Machine.execSt r b a f n g s
  | .sts m b a f n g => Sys2Proof.Machine.execSts m b a f n g s
  | .sel b a d n g => Sys2Proof.Machine.execSel b a d n g s
  | .selm b a d n g => Sys2Proof.Machine.execSelm b a d n g s
  | .aadd b a d n g => Sys2Proof.Machine.execAadd b a d n g s
  | .amin b a d n g => Sys2Proof.Machine.execAmin b a d n g s
  | .amax b a d n g => Sys2Proof.Machine.execAmax b a d n g s
  | .aand b a d n g => Sys2Proof.Machine.execAand b a d n g s
  | .aor b a d n g => Sys2Proof.Machine.execAor b a d n g s
  | .axor b a d n g => Sys2Proof.Machine.execAxor b a d n g s
  | .aswp b a d n g => Sys2Proof.Machine.execAswp b a d n g s
  | .acas b a d n g => Sys2Proof.Machine.execAcas b a d n g s
  | .ainc b a d n g => Sys2Proof.Machine.execAinc b a d n g s
  | .cpy c b a d n g op => Sys2Proof.Machine.execCpy c b a d n g op s
  | .cpys c b a d n g op => Sys2Proof.Machine.execCpys c b a d n g op s
  | .gath e c b a d n g => Sys2Proof.Machine.execGath e c b a d n g s
  | .scat e c b a d n g => Sys2Proof.Machine.execScat e c b a d n g s
  | .fill c b a d n g op => Sys2Proof.Machine.execFill c b a d n g op s
  | .red c b a d n g op => Sys2Proof.Machine.execRed c b a d n g op s
  | .ratm e c b a d n g op => Sys2Proof.Machine.execRatm e c b a d n g op s
  | .bsig a d n g => Sys2Proof.Machine.execBsig a d n g s
  | .rinv b a d n g => Sys2Proof.Machine.execRinv b a d n g s
  | .wqryQuery b a d n g => Sys2Proof.Machine.execWqryQuery b a d n g s
  | .wqryExtend b a d n g => Sys2Proof.Machine.execWqryExtend b a d n g s
  | .br f k n g => Sys2Proof.Machine.execBr f k n g s
  | .brl f k n g => Sys2Proof.Machine.execBrl f k n g s
  | .loop imm d => Sys2Proof.Machine.execLoop imm d s
  | .nop => Sys2Proof.Machine.execNop s
  | .endFiring => Sys2Proof.Machine.execEndFiring s
  | .trig => Sys2Proof.Machine.execTrig s
  | .halt => Sys2Proof.Machine.execHalt s
  | .yld => Sys2Proof.Machine.execYld s
  | .wfe => Sys2Proof.Machine.execWfe s
  | .sev => Sys2Proof.Machine.execSev s
  | .evclr => Sys2Proof.Machine.execEvclr s
  | .algn => Sys2Proof.Machine.execAlgn s
  | .jr o a => Sys2Proof.Machine.execJr o a s
  | .jrl o a => Sys2Proof.Machine.execJrl o a s
  | .ret => Sys2Proof.Machine.execRet s
  | .bcst o a d => Sys2Proof.Machine.execBcst o a d s
  | .perm o b a d => Sys2Proof.Machine.execPerm o b a d s
  | .shfl o b a d => Sys2Proof.Machine.execShfl o b a d s
  | .slide o b a d => Sys2Proof.Machine.execSlide o b a d s
  | .zip o b a d => Sys2Proof.Machine.execZip o b a d s
  | .unzp o b a d => Sys2Proof.Machine.execUnzp o b a d s
  | .cmpr o a d => Sys2Proof.Machine.execCmpr o a d s
  | .expd o a d => Sys2Proof.Machine.execExpd o a d s
  | .redadd o a d => Sys2Proof.Machine.execRedadd o a d s
  | .redmax o a d => Sys2Proof.Machine.execRedmax o a d s
  | .redmin o a d => Sys2Proof.Machine.execRedmin o a d s
  | .scan o a d => Sys2Proof.Machine.execScan o a d s
  | .dot4 o b a d => Sys2Proof.Machine.execDot4 o b a d s
  | .dot2 o b a d => Sys2Proof.Machine.execDot2 o b a d s
  | .view o b a d => Sys2Proof.Machine.execView o b a d s
  | .vget o a d => Sys2Proof.Machine.execVget o a d s
  | .vset o a d => Sys2Proof.Machine.execVset o a d s
  | .rfil o a d => Sys2Proof.Machine.execRfil o a d s
  | .repx => Sys2Proof.Machine.execRepx s
  | .advr n d => Sys2Proof.Machine.execAdvr n d s
  | .advw n d => Sys2Proof.Machine.execAdvw n d s
  | .repb r c n => Sys2Proof.Machine.execRepb r c n s
  | .ld r o f a d => Sys2Proof.Machine.execLd r o f a d s
  | .lds m o f a d => Sys2Proof.Machine.execLds m o f a d s
  | .fenceC => Sys2Proof.Machine.execFenceC s
  | .fenceD => Sys2Proof.Machine.execFenceD s
  | .fenceP => Sys2Proof.Machine.execFenceP s
  | .fenceF => Sys2Proof.Machine.execFenceF s
  | .bind o b a => Sys2Proof.Machine.execBind o b a s
  | .unbd o b a => Sys2Proof.Machine.execUnbd o b a s
  | .acq o a => Sys2Proof.Machine.execAcq o a s
  | .rel o a => Sys2Proof.Machine.execRel o a s
  | .trya o a d => Sys2Proof.Machine.execTrya o a d s
  | .bar o a => Sys2Proof.Machine.execBar o a s
  | .bara o a => Sys2Proof.Machine.execBara o a s
  | .barw o a => Sys2Proof.Machine.execBarw o a s
  | .semp o b a => Sys2Proof.Machine.execSemp o b a s
  | .semw o b a => Sys2Proof.Machine.execSemw o b a s
  | .objq o a d => Sys2Proof.Machine.execObjq o a d s
  | .send o b a d => Sys2Proof.Machine.execSend o b a d s
  | .sendi o b a d => Sys2Proof.Machine.execSendi o b a d s
  | .msgq o a d => Sys2Proof.Machine.execMsgq o a d s
  | .ceq o a d => Sys2Proof.Machine.execCeq o a d s
  | .fld r o f a d => Sys2Proof.Machine.execFld r o f a d s
  | .fst r o b a f => Sys2Proof.Machine.execFst r o b a f s
  | .fatmAdd o b a d => Sys2Proof.Machine.execFatmAdd o b a d s
  | .fatmMin o b a d => Sys2Proof.Machine.execFatmMin o b a d s
  | .fatmMax o b a d => Sys2Proof.Machine.execFatmMax o b a d s
  | .fatmAnd o b a d => Sys2Proof.Machine.execFatmAnd o b a d s
  | .fatmOr o b a d => Sys2Proof.Machine.execFatmOr o b a d s
  | .fatmXor o b a d => Sys2Proof.Machine.execFatmXor o b a d s
  | .fatmSwp o b a d => Sys2Proof.Machine.execFatmSwp o b a d s
  | .fatmCas o b a d => Sys2Proof.Machine.execFatmCas o b a d s
  | .fatmInc o b a d => Sys2Proof.Machine.execFatmInc o b a d s
  | .fxm o b a d => Sys2Proof.Machine.execFxm o b a d s
  | .fmrk o a => Sys2Proof.Machine.execFmrk o a s
  | .cend o a => Sys2Proof.Machine.execCend o a s
  | .mlw o b a => Sys2Proof.Machine.execMlw o b a s
  | .mlwC o b a => Sys2Proof.Machine.execMlwC o b a s
  | .mfmt o a => Sys2Proof.Machine.execMfmt o a s
  | .mma o a d => Sys2Proof.Machine.execMma o a d s
  | .msc o b a => Sys2Proof.Machine.execMsc o b a s
  | .mdr o a => Sys2Proof.Machine.execMdr o a s
  | .mdrZ o a => Sys2Proof.Machine.execMdrZ o a s
  | .mdrp o b a d => Sys2Proof.Machine.execMdrp o b a d s
  | .mclr o d => Sys2Proof.Machine.execMclr o d s
  | .msta o d => Sys2Proof.Machine.execMsta o d s
  | .cmps k => Sys2Proof.Machine.execCmps k s
  | .dcmp => Sys2Proof.Machine.execDcmp s
  | .cmpq o d => Sys2Proof.Machine.execCmpq o d s
  | .trap o a => Sys2Proof.Machine.execTrap o a s
  | .sys o a => Sys2Proof.Machine.execSys o a s
  | .eret => Sys2Proof.Machine.execEret s
  | .svs o a => Sys2Proof.Machine.execSvs o a s
  | .rss o a => Sys2Proof.Machine.execRss o a s
  | .ts o d => Sys2Proof.Machine.execTs o d s
  | .pmc o a d => Sys2Proof.Machine.execPmc o a d s
  | .bist o a d => Sys2Proof.Machine.execBist o a d s
  | .sigq o a d => Sys2Proof.Machine.execSigq o a d s
  | .ckpt => Sys2Proof.Machine.execCkpt s
  | .idle => Sys2Proof.Machine.execIdle s
  | .rds r d => Sys2Proof.Machine.execRds r d s
  | .wrs r a => Sys2Proof.Machine.execWrs r a s
  | .nopH h x => Sys2Proof.Machine.execNopH h x s
  | .rsPwrWrite core v => Sys2Proof.Machine.execRsPwrWrite core v s
  | .mxTeamWrite core slot v => Sys2Proof.Machine.execMxTeamWrite core slot v s
  | .mgVWrite core rail v => Sys2Proof.Machine.execMgVWrite core rail v s
  | .registerWrite core slot t v => Sys2Proof.Machine.execRegisterWrite core slot t v s
  | .dispatch core pick => Sys2Proof.Machine.execDispatch core pick s
  | .messageArrival k => Sys2Proof.Machine.execMessageArrival k s
  | .tokenLanding k => Sys2Proof.Machine.execTokenLanding k s
  | .remoteLoadReply k => Sys2Proof.Machine.execRemoteLoadReply k s
  | .nearRequest k => Sys2Proof.Machine.execNearRequest k s
  | .remoteAtomic k => Sys2Proof.Machine.execRemoteAtomic k s
  | .objectOperation k => Sys2Proof.Machine.execObjectOperation k s
  | .withholdNotice k => Sys2Proof.Machine.execWithholdNotice k s
  | .keeperPost k => Sys2Proof.Machine.execKeeperPost k s
  | .keeperSumRow core => Sys2Proof.Machine.execKeeperSumRow core s
  | .clOpRow k => Sys2Proof.Machine.execClOpRow k s
  | .mdrpAdd k => Sys2Proof.Machine.execMdrpAdd k s
  | .engineCommandStart cluster => Sys2Proof.Machine.execEngineCommandStart cluster s
  | .translationWalk cluster ctx va write => Sys2Proof.Machine.execTranslationWalk cluster ctx va write s
  | .flushMarker cluster src plane cls seq => Sys2Proof.Machine.execFlushMarker cluster src plane cls seq s
  | .fabricRequest cluster plane hdr payload => Sys2Proof.Machine.execFabricRequest cluster plane hdr payload s
  | .fabricReply cluster hdr payload => Sys2Proof.Machine.execFabricReply cluster hdr payload s
  | .lossNotice cluster sdev plane => Sys2Proof.Machine.execLossNotice cluster sdev plane s
  | .requesterTimeOut cluster tag => Sys2Proof.Machine.execRequesterTimeOut cluster tag s
  | .tagHoldExpiry cluster tag => Sys2Proof.Machine.execTagHoldExpiry cluster tag s
  | .flitDiscard n => Sys2Proof.Machine.execFlitDiscard n s
  | .linkErrorRateChange plane peer q => Sys2Proof.Machine.execLinkErrorRateChange plane peer q s
  | .trapMessage k => Sys2Proof.Machine.execTrapMessage k s
  | .dependentLaunchStart l => Sys2Proof.Machine.execDependentLaunchStart l s
  | .composeGrant core => Sys2Proof.Machine.execComposeGrant core s
  | .preemption core slot => Sys2Proof.Machine.execPreemption core slot s
  | .resume core slot => Sys2Proof.Machine.execResume core slot s
  | .rollback core slot => Sys2Proof.Machine.execRollback core slot s
  | .timeSliceExpiry core slot => Sys2Proof.Machine.execTimeSliceExpiry core slot s
  | .waitTimeOut core slot => Sys2Proof.Machine.execWaitTimeOut core slot s
  | .composeWaitBound core => Sys2Proof.Machine.execComposeWaitBound core s
  | .algnHoldExpiry core slot => Sys2Proof.Machine.execAlgnHoldExpiry core slot s
  | .deadlineMiss core slot => Sys2Proof.Machine.execDeadlineMiss core slot s
  | .watchdogTrip core => Sys2Proof.Machine.execWatchdogTrip core s
  | .benchRemap core => Sys2Proof.Machine.execBenchRemap core s
  | .windowZeroed core slot => Sys2Proof.Machine.execWindowZeroed core slot s
  | .bankReady core bank => Sys2Proof.Machine.execBankReady core bank s
  | .retentionWake core bank => Sys2Proof.Machine.execRetentionWake core bank s
  | .bindComplete core slot => Sys2Proof.Machine.execBindComplete core slot s
  | .umpireCheck core slot dsig ssig => Sys2Proof.Machine.execUmpireCheck core slot dsig ssig s
  | .bistComplete core fail first => Sys2Proof.Machine.execBistComplete core fail first s
  | .railSettled die rail => Sys2Proof.Machine.execRailSettled die rail s
  | .setRotation core => Sys2Proof.Machine.execSetRotation core s
  | .pcSample ctx cores => Sys2Proof.Machine.execPcSample ctx cores s
  | .temperatureUpdate die temp => Sys2Proof.Machine.execTemperatureUpdate die temp s
  | .snapshotTrigger => Sys2Proof.Machine.execSnapshotTrigger s
  | .loopbackStart plane len => Sys2Proof.Machine.execLoopbackStart plane len s
  | .planeOut plane out => Sys2Proof.Machine.execPlaneOut plane out s
  | .loopbackDone plane errs => Sys2Proof.Machine.execLoopbackDone plane errs s
  | .bindRecordWrite core slot rec => Sys2Proof.Machine.execBindRecordWrite core slot rec s
  | .preemptionRequest core slot => Sys2Proof.Machine.execPreemptionRequest core slot s
  | .fenceWrite core => Sys2Proof.Machine.execFenceWrite core s
  | .inboxWrite fn off bytes => Sys2Proof.Machine.execInboxWrite fn off bytes s
  | .statusFree fn slot => Sys2Proof.Machine.execStatusFree fn slot s
  | .create fn ctx debuggable poisonFwd sup mbase msize root obase osize tbase tsize => Sys2Proof.Machine.execCreate fn ctx debuggable poisonFwd sup mbase msize root obase osize tbase tsize s
  | .loadImage fn ctx va len cores => Sys2Proof.Machine.execLoadImage fn ctx va len cores s
  | .report fn ctx nonce va => Sys2Proof.Machine.execReport fn ctx nonce va s
  | .destroy fn ctx => Sys2Proof.Machine.execDestroy fn ctx s
  | .invalidate fn ctx va len => Sys2Proof.Machine.execInvalidate fn ctx va len s
  | .fabricRegisterRead fn off => Sys2Proof.Machine.execFabricRegisterRead fn off s
  | .fabricRegisterWrite fn off v => Sys2Proof.Machine.execFabricRegisterWrite fn off v s
  | .peerTableWrite fn ctx imm v pctx => Sys2Proof.Machine.execPeerTableWrite fn ctx imm v pctx s
  | .debugHalt fn ctx core slot => Sys2Proof.Machine.execDebugHalt fn ctx core slot s
  | .debugRelease fn ctx hid act => Sys2Proof.Machine.execDebugRelease fn ctx hid act s
  | .readState fn ctx core slot item => Sys2Proof.Machine.execReadState fn ctx core slot item s
  | .writeState fn ctx core slot item bytes => Sys2Proof.Machine.execWriteState fn ctx core slot item bytes s
  | .traceControl fn ctx word => Sys2Proof.Machine.execTraceControl fn ctx word s
  | .watchpoint fn ctx idx far addr mask action => Sys2Proof.Machine.execWatchpoint fn ctx idx far addr mask action s
  | .snapshotArm fn t => Sys2Proof.Machine.execSnapshotArm fn t s
  | .snapshotRead fn block off => Sys2Proof.Machine.execSnapshotRead fn block off s
  | .errorLogRead fn imm => Sys2Proof.Machine.execErrorLogRead fn imm s
  | .defectMapRead fn => Sys2Proof.Machine.execDefectMapRead fn s
  | .reliabilityRegisterRead fn core num => Sys2Proof.Machine.execReliabilityRegisterRead fn core num s
  | .reliabilityRegisterWrite fn core num v => Sys2Proof.Machine.execReliabilityRegisterWrite fn core num v s
  | .sysRelease k => Sys2Proof.Machine.execSysRelease k s
  | .sysPost k => Sys2Proof.Machine.execSysPost k s
  | .hostMemoryRead fn src n => Sys2Proof.Machine.execHostMemoryRead fn src n s
  | .hostMemoryWrite fn va bytes poisoned => Sys2Proof.Machine.execHostMemoryWrite fn va bytes poisoned s
  | .cxlViral => Sys2Proof.Machine.execCxlViral s
  | .powerCap on => Sys2Proof.Machine.execPowerCap on s
  | .reset => Sys2Proof.Machine.execReset s
  | .messageInjection core => Sys2Proof.Machine.execMessageInjection core s
  | .clearingNotice k => Sys2Proof.Machine.execClearingNotice k s
  | .peerTableHandshake pos answers ctx pf => Sys2Proof.Machine.execPeerTableHandshake pos answers ctx pf s

end Sys2Proof.Machine
end

