-- ==== Sys2Proof/Machine/Step.lean ====
section
/-!
DEFINITION. One step of the device: the next entry of the agenda moves, and a core that issues takes the instruction of
one of its running slots (R12, R20). `State.withFetchWord` places one instruction where that happens next.
-/

namespace Sys2Proof.Machine

/-- Fetch, decode and execution for slot k of core c (R199, R242, R272, R209), or for the scrum it belongs to (R144); a keeper's trap
comes first (R127). -/
def State.issueSlot (s : State) (c k : Nat) : Out :=
  let s1 := { s with curCore := (s.ownerOf c k).1, curSlot := (s.ownerOf c k).2 }
  match if s1.cur.midMatrix then none else s1.cur.kfault, s1.cur.nextBody with
  | some b, _ => .next (s1.keeperTrap b)
  | none, some i => exec i s1
  | none, none =>
    if s1.codeEnd ≤ s1.cur.pc.toNat then .next (s1.trapCur { code := 0xE })
    else
      match s1.fetchAt s1.cur.pc.toNat with
      | some (i, _) => exec i s1
      | none => .next (s1.trapCur { code := 8 })

/-- R20: the first of a list of slots that does not wait issues. -/
def State.issueList (s : State) (c : Nat) (l : List Nat) : Out :=
  match l with
  | [] => .next s
  | k :: rest =>
    match s.issueSlot c k with
    | .next t => if t.slotWaits c k then State.issueList t c rest else .next t
    | r => r

/-- One issue of a core or of a copy engine's microcode. DEDUCED: log entry 7. -/
def State.issueOn (s : State) (c : Nat) : Out := s.issueList c (s.issueOrder c)

/-- One entry of the agenda. An instruction of a program moves only by its core's issue. DESIGN CHOICE: log entries 1, 2. -/
def State.act (s : State) (a : Act) : Out :=
  match a with
  | .issue c => s.issueOn c
  | .event i => if (encode i).isEmpty then exec i s else .next s
  | .runAhead c k => .next (s.runAhead c k)
  | .upset a n => .next (s.upset a n)
  | .corrected a => .next (s.corrected a)
  | .tamper a => .next (s.tamper a)
  | .line p lit cor unc => .next (s.line p lit cor unc)
  | .merged c n => .next (s.merged c n)
  | .spoiled c i => .next (s.spoiled c i)
  | .giveUp c k => .next (s.giveUp c k)

/-- One step: the head of the agenda, after the cycles that pass before it; with an empty agenda the named core issues. -/
def step (s : State) : Out :=
  match s.agenda with
  | [] => s.issueOn s.curCore
  | t :: rest => ({ s with agenda := rest }.tick t.dt).act t.act

/-- An actor that starts at halfword 0 and declares nothing. -/
def bareActor : Actor := ⟨true, 0, 0, 0, [], [], [], [], 0⟩

/-- An image of four halfwords of code and one actor. -/
def bareImage : Image := ⟨4, [bareActor], [], [], 0⟩

/-- R222: whether a word is an instruction of the engine profile alone. -/
def isEngineWord (w : Nat) : Bool := decide (w % 128 = 2 * 0x22 + 1)

/-- A firing placed at halfword 0 of context 0, in slot 0 of core 0 with the whole register space as its window. -/
def Slot.placed (x : Slot) : Slot := { x with bind := BitVec.ofNat 256 (2 ^ 255 + 511 * 2 ^ 210), st := .running, pc := 0 }

/-- The state with one instruction where the next step fetches: at halfword 0 of an image of context 0, with a firing in
slot 0 of core 0 running there; an instruction of the engine profile stands in the microcode of engine 0. DESIGN CHOICE: log entry 8. -/
def State.withFetchWord (s : State) (nbits w : Nat) : State :=
  let bs := tableBytes nbits w
  if isEngineWord w then
    { (s.setBytes (ucodeAddr 0 0) bs).updSlot (engineKey 0) 0 (fun x => { x with st := .running, pc := 0, restart := false }) with
      agenda := [], curCore := engineKey 0, curSlot := 0 }
  else
    { ((s.setBytes (codeAddr 0 0) bs).updCtx 0 fun c => { c with live := true, image := some bareImage }).updSlot 0 0
        Slot.placed with
      agenda := [], curCore := 0, curSlot := 0 }

end Sys2Proof.Machine
end

