-- ==== Sys2Proof/Safety.lean ====
section
/-!
DEFINITION. What counts as a safe run, one whose every step answers a next state, and the terms in which claims speak of an
instruction that runs to its end.
-/

namespace Sys2Proof

/-- A state from which the next k steps neither fault nor refuse. -/
def Safe (k : Nat) (s : Machine.State) : Prop := ∃ t, Host.Core.run core k s = .next t

namespace Machine

/-- An access that nothing stops and nothing delays: inside its window (R48), its view valid (R56), its banks on and ready
(R51, R53), its fixed port and message there (R62, R63), none of its bytes pending (R69), its ring slot filled or free
(R58), no parity error in what it reads (R417), and no commit that its read asks for first (R279). -/
def Acc.ready (s : State) (q : Acc) : Bool :=
  !q.outside s && !q.invalid s && !q.bankOff s && !q.bankWait s && (q.fixedTrap s).isNone && (q.msgTrap s).isNone
    && (q.marks s).isEmpty && q.ringOk s && (q.badParity s).isEmpty && !q.commits s

/-- An access ready but for pending bytes: what a compare asks, whose guard waits for them in its place (R90). -/
def Acc.readyButPending (s : State) (q : Acc) : Bool :=
  !q.outside s && !q.invalid s && !q.bankOff s && !q.bankWait s && (q.fixedTrap s).isNone && (q.msgTrap s).isNone
    && q.ringOk s && (q.badParity s).isEmpty && !q.commits s

/-- None of a list of trap checks holds. -/
def noTrap (l : List (Option Trap)) : Bool := l.all Option.isNone

/-- `s'`, once the instruction `i` issued in `s` has retired and control falls through (R20, R199, R408). -/
def State.retired (s : State) (i : Instr) (s' : State) : State :=
  ((s'.noteIssue s).count s.curCore 2).retire (instrLen i)

/-- `s'`, once the instruction issued in `s` has retired and control is at halfword `pc` (R20, R242, R408). -/
def State.jumped (s : State) (pc : Nat) (s' : State) : State := ((s'.noteIssue s).count s.curCore 2).retireTo pc

/-- A firing runs in the executing slot of a core. -/
def State.onCore (s : State) : Prop := s.cur.runs = true ∧ isEngine s.curCore = false

/-- The microcode of a copy engine runs. -/
def State.onEngine (s : State) : Prop := s.cur.runs = true ∧ isEngine s.curCore = true

/-- The device without its byte memory, parity and cores. -/
def State.frame0 (s : State) : State := { s with mem := [], parity := [], cores := [] }

/-- A core without its slots, what issued last (R20, R404), the counters (R408) and the replay queue (R419). -/
def Core.frame0 (x : Core) : Core := { x with slots := [], issued := [], iss := none, ctrs := [], replay := [] }

/-- A core without what it issued last (R20, R404). -/
def Core.unissued (x : Core) : Core := { x with issued := [], iss := none }

/-- A slot without what retiring changes: the code address with its block bookkeeping (R420), what the slot waits for, the
pass of a repetition (R272), and the run-ahead entries that reading a landed token discards (R170, R175). -/
def Slot.frame0 (x : Slot) : Slot :=
  { x with pc := 0, blk := none, bcore := 0, checks := [], rep := none, wait := .none, waitOn := [], waitExp := none, waitRem := none, ra := [],
           acqs := [], opened := [] }

/-- What an instruction of the executing slot leaves as it was: of the device all but the byte memory, its parity and the
cores; of every other core all but what issued last (R144); of its own core all but the slot itself, what issued last (R20), the counters (R408) and the
replay queue (R419); every other slot. -/
structure Kept (s t : State) : Prop where
  device : t.frame0 = s.frame0
  cores  : ∀ c, c ≠ s.curCore → (t.core c).unissued = (s.core c).unissued
  core   : t.curC.frame0 = s.curC.frame0
  slots  : ∀ k, k ≠ s.curSlot → t.slot s.curCore k = s.slot s.curCore k

/-- Every field of the slot is as it was but what retiring changes. -/
def Slot.retires (x y : Slot) : Prop := y.frame0 = x.frame0

/-- As `Slot.retires`, but for what a write through a port or `out.msg` leaves (R16, R63). -/
def Slot.retiresWriting (x y : Slot) : Prop :=
  { y.frame0 with ports := [], outMsg := [] } = { x.frame0 with ports := [], outMsg := [] }

end Machine

end Sys2Proof
end

