-- ==== Sys2Proof/Certificates/Slice0/Obligations.lean ====
section
/-!
DEFINITION. The statements about the model, from the numbered rules of the spec, and the terms they are written in.

A completion statement says of instructions of one shape that `exec` answers the next state that their own effect makes,
for every state and operands whose accesses are ready and that meet no trap; the state is written out, so what it does not
mention is as it was, and the frame statements say that beside it.
-/

namespace Sys2Proof.Claims

open Sys2Proof.Machine

/-! ## Arithmetic (R200, R223 to R235, R239, R257) -/

/-- An arithmetic form as the tables of R200, R226, R227, R231 to R235 and R239 give it: whether cores alone have it (R222),
its ring slot offset, destination, sources, operation, and what else it carries. -/
structure Form where
  core : Bool
  o    : BitVec 2
  d    : Nat
  srcs : List Src
  sem  : Sem
  x    : Opts

/-- R201: form T with one source. -/
def formT1 (o : BitVec 2) (a d : BitVec 6) (m : Sem) : Option Form := some ⟨false, o, d.toNat, [.hnd a.toNat], m, {}⟩

/-- R201: form T with two sources. -/
def formT2 (o : BitVec 2) (b a d : BitVec 6) (m : Sem) : Option Form :=
  some ⟨false, o, d.toNat, [.hnd a.toNat, .hnd b.toNat], m, {}⟩

/-- R204: form I: the immediate is the second source. -/
def formI (i : BitVec 13) (a d : BitVec 6) (m : Sem) : Option Form :=
  some ⟨false, 0, d.toNat, [.hnd a.toNat, .imm i.toInt], m, {}⟩

/-- R203, R231: form Q. -/
def formQ (c b a d : BitVec 6) (m : Sem) : Option Form :=
  some ⟨true, 0, d.toNat, [.hnd a.toNat, .hnd b.toNat, .hnd c.toNat], m, {}⟩

/-- R200: a short form of two sources, d and s. -/
def formS2 (a : Bool) (r d : BitVec 5) (m : Sem) : Option Form :=
  some ⟨false, 0, d.toNat, [.hnd d.toNat, .hnd r.toNat], m, advOpt a r .none⟩

/-- R200: a short form of one source. -/
def formS1 (a : Bool) (r d : BitVec 5) (m : Sem) (odd : Odd) : Option Form :=
  some ⟨false, 0, d.toNat, [.hnd r.toNat], m, advOpt a r odd⟩

/-- R239: a select between two sources, by `pick` for each lane; it waits while its guard slot is unresolved (R91). -/
def formSel (b a d : BitVec 6) (g : BitVec 3) (s : State) (pick : Nat → Bool) : Option Form :=
  some ⟨false, 0, d.toNat, [.hnd a.toNat, .hnd b.toNat], semMov,
    { odd := .mov, pick := some pick, hold := if s.cur.guardOpen g then some (s.guardWait g) else none }⟩

/-- The arithmetic forms, each with the operation its row of the spec gives it. -/
def form (s : State) (i : Instr) : Option Form :=
  match i with
  | .movShort a r d => formS1 a r d semMov .mov
  | .addShort a r d => formS2 a r d semAdd
  | .subShort a r d => formS2 a r d semSub
  | .rsubShort a r d => formS2 a r d semRsub
  | .mulShort a r d => formS2 a r d semMul
  | .minShort a r d => formS2 a r d semMin
  | .maxShort a r d => formS2 a r d semMax
  | .andShort a r d => formS2 a r d semAnd
  | .orShort a r d => formS2 a r d semOr
  | .xorShort a r d => formS2 a r d semXor
  | .andnShort a r d => formS2 a r d semAndn
  | .shlShort a r d => formS2 a r d semShl
  | .shrShort a r d => formS2 a r d semShr
  | .sarShort a r d => formS2 a r d semSar
  | .negShort a r d => formS1 a r d semNeg .none
  | .absShort a r d => formS1 a r d semAbs .none
  | .mov o a d => some ⟨false, o, d.toNat, [.hnd a.toNat], semMov, { odd := .mov }⟩
  | .add o b a d => formT2 o b a d semAdd
  | .sub o b a d => formT2 o b a d semSub
  | .rsub o b a d => formT2 o b a d semRsub
  | .mul o b a d => formT2 o b a d semMul
  | .mulh o b a d => formT2 o b a d semMulh
  | .div o b a d => formT2 o b a d semDiv
  | .rem o b a d => formT2 o b a d semRem
  | .min o b a d => formT2 o b a d semMin
  | .max o b a d => formT2 o b a d semMax
  | .abs o a d => formT1 o a d semAbs
  | .neg o a d => formT1 o a d semNeg
  | .clamp o b a d => some ⟨false, o, d.toNat, [.hnd a.toNat, .hnd b.toNat], semClamp, { pair := true }⟩
  | .abd o b a d => formT2 o b a d semAbd
  | .avg o b a d => formT2 o b a d semAvg
  | .adds o b a d => formT2 o b a d semAdds
  | .subs o b a d => formT2 o b a d semSubs
  | .and o b a d => formT2 o b a d semAnd
  | .or o b a d => formT2 o b a d semOr
  | .xor o b a d => formT2 o b a d semXor
  | .andn o b a d => formT2 o b a d semAndn
  | .not o a d => formT1 o a d semNot
  | .shl o b a d => formT2 o b a d semShl
  | .shr o b a d => formT2 o b a d semShr
  | .sar o b a d => formT2 o b a d semSar
  | .rol o b a d => formT2 o b a d semRol
  | .ror o b a d => formT2 o b a d semRor
  | .clz o a d => formT1 o a d semClz
  | .ctz o a d => formT1 o a d semCtz
  | .popc o a d => formT1 o a d semPopc
  | .brev o a d => formT1 o a d semBrev
  | .bfx o b a d => formT2 o b a d semBfx
  | .bfi o b a d => some ⟨false, o, d.toNat, [.hnd a.toNat, .hnd b.toNat, .hnd d.toNat], semBfi, {}⟩
  | .sxt o b a d => formT2 o b a d (extSem true)
  | .zxt o b a d => formT2 o b a d (extSem false)
  | .cvt o a d =>
    if (s.view d.toNat).ty = .b then some ⟨false, o, d.toNat, [.hnd a.toNat], semCvt true, { odd := .cvtRaw }⟩
    else some ⟨false, o, d.toNat, [.hnd a.toNat], semCvt false, { odd := .cvt }⟩
  | .cvts o b a d => some ⟨false, o, d.toNat, [.hnd a.toNat, .hnd b.toNat], semCvts, { odd := .cvts, opnd := [cvtsDomain o b a d s] }⟩
  | .rcp o a d => formT1 o a d semRcp
  | .rsq o a d => formT1 o a d semRsq
  | .sqrt o a d => formT1 o a d semSqrt
  | .exp2 o a d => formT1 o a d semExp2
  | .log2 o a d => formT1 o a d semLog2
  | .floor o a d => formT1 o a d semFloor
  | .ceil o a d => formT1 o a d semCeil
  | .rndn o a d => formT1 o a d semRndn
  | .fma c b a d => formQ c b a d (semFused false false)
  | .fnma c b a d => formQ c b a d (semFused true false)
  | .fms c b a d => formQ c b a d (semFused false true)
  | .fnms c b a d => formQ c b a d (semFused true true)
  | .addi i a d => formI i a d semAdd
  | .andi i a d => formI i a d semAnd
  | .ori i a d => formI i a d semOr
  | .xori i a d => formI i a d semXor
  | .shli i a d => formI i a d semShl
  | .shri i a d => formI i a d semShr
  | .sari i a d => formI i a d semSar
  | .movi i d => some ⟨false, 0, d.toNat, [.imm i.toInt], semMov, {}⟩
  | .li d lit => some ⟨false, 0, d.toNat, [], semLi lit, { odd := .cvt }⟩
  | .near d lit =>
    some ⟨false, 0, d.toNat, [], ⟨.int, fun op _ _ _ => .ok (nearAddr s.lcore lit.toNat % 2 ^ op.bits)⟩,
      { opnd := [if (s.view d.toNat).ty.bits < 32 then some { code := 5, handle := (s.view d.toNat).h } else none],
        late := [if 0x17FFF < lit.toNat then some { code := 0xB } else none] }⟩
  | .lea o b a d => formT2 o b a d semLea
  | .adda o b a d => formT2 o b a d semAdda
  | .lcore o a d => formT1 o a d semLcore
  | .sel b a d n g => formSel b a d g s fun _ => s.cur.guardOn g n
  | .selm b a d n g => formSel b a d g s fun k => (bits (s.cur.guard g.toNat).m.toNat k 1 == 1) != n
  | _ => none

/-- The bits a lane comes to. -/
def laneBits (r : LOut) : Nat := match r with | .ok x => x | _ => 0

/-- An arithmetic form that nothing stops: a firing runs, the agent has the form (R222), every access is ready, no view
mismatches, no operand or later trap holds, its guard is resolved, and every lane has a value (no domain or
reserved-code trap). -/
structure FormReady (s : State) (f : Form) : Prop where
  runs  : s.cur.runs = true
  agent : f.core = true → isEngine s.curCore = false
  accs  : ∀ q ∈ arithAccs f.o f.d f.srcs f.x s, q.ready s = true
  mism  : arithMism f.d f.srcs f.sem f.x s = []
  opnd  : noTrap (arithOpnd f.o f.d f.srcs f.x s) = true
  late  : noTrap f.x.late = true
  guard : f.x.hold = none
  room  : f.x.adv.isSome = true → s.cur.holdWaits = false
  lanes : ∀ r ∈ arithOuts f.o f.d f.srcs f.sem f.x s, ∃ v, r = .ok v

/-- The destination written: every lane takes what the operation gives it (R223, R257). -/
def formWritten (s : State) (f : Form) : State :=
  (arithDst f.o f.d f.srcs s).putLanes s (arithTy f.d f.srcs s).bits
    ((arithOuts f.o f.d f.srcs f.sem f.x s).map laneBits)

/-- R59, R200: with the advance bit of a short form, the ring read advances by one slot after the write. -/
def formResult (s : State) (f : Form) : State :=
  match f.x.adv with
  | some h => (formWritten s f).advanceRead ((formWritten s f).view h) 1
  | none => formWritten s f

/-- The integer that source i of an arithmetic instruction supplies to a lane (R95, R223). -/
def srcInt (o : BitVec 2) (d : Nat) (srcs : List Src) (s : State) (i lane : Nat) : Int :=
  match (arithRds o d srcs {} s)[i]? with
  | some r => match r.vals s (arithTy d srcs s) .none lane with | v :: _ => v.int | [] => 0
  | none => 0

/-- R226, R229: the instructions whose integer result is the exact value of a formula in a and b, fitted by R96. -/
def intForms : List ((BitVec 2 → BitVec 6 → BitVec 6 → BitVec 6 → Instr) × (Int → Int → Int)) :=
  [(.add, fun a b => a + b), (.sub, fun a b => a - b), (.rsub, fun a b => b - a), (.mul, fun a b => a * b),
   (.min, fun a b => if a ≤ b then a else b), (.max, fun a b => if a ≤ b then b else a), (.abd, fun a b => |a - b|),
   (.avg, fun a b => (a + b + 1) / 2)]

/-- R96: the instructions that saturate whatever their destination says. -/
def satForms : List ((BitVec 2 → BitVec 6 → BitVec 6 → BitVec 6 → Instr) × (Int → Int → Int)) :=
  [(.adds, fun a b => a + b), (.subs, fun a b => a - b)]


/-- R200, R204, R226: the short forms of these instructions, and `ADDI`. -/
def shortInt (i : Instr) : Option (Int → Int → Int) :=
  match i with
  | .addShort _ _ _ | .addi _ _ _ => some fun a b => a + b
  | .subShort _ _ _ => some fun a b => a - b
  | .rsubShort _ _ _ => some fun a b => b - a
  | .mulShort _ _ _ => some fun a b => a * b
  | .minShort _ _ _ => some fun a b => if a ≤ b then a else b
  | .maxShort _ _ _ => some fun a b => if a ≤ b then b else a
  | _ => none

/-! ### The values of float results (R97 to R102, R231) -/

/-- The number a finite value stands for. -/
def ratOf (x : XNum) : Rat :=
  match x with
  | .fin neg m e =>
    let v : Rat := if 0 ≤ e then ((m * 2 ^ e.toNat : Nat) : Rat) else (m : Rat) / ((2 ^ (-e).toNat : Nat) : Rat)
    if neg then -v else v
  | _ => 0

/-- Neither a NaN nor an infinity. -/
def isFin (x : XNum) : Bool := match x with | .fin _ _ _ => true | _ => false

/-- The sign of a number or an infinity. -/
def sgn (x : XNum) : Bool := match x with | .fin neg _ _ => neg | .inf neg => neg | .nan => false

/-- The float types that arithmetic writes (R97). -/
def fiveFloats : List Ty := [.f32, .f16, .bf16, .e4m3, .e5m2]

/-- A magnitude's code with a sign. -/
def signed (t : Ty) (neg : Bool) (r : Nat) : Nat := if neg then r + 2 ^ (t.bits - 1) else r

/-- R100: what a result that overflows to an infinity is delivered as. -/
def infCode (t : Ty) (sat neg : Bool) : Nat :=
  if sat then signed t neg t.maxFin else if t = .e4m3 then 0x7F else signed t neg (t.maxFin + 1)

/-- The number of a code of a float type. -/
def codeVal (t : Ty) (c : Nat) : Rat := ratOf (floatOf t c)

/-- The codes of the finite values of a float type. -/
def finCode (t : Ty) (c : Nat) : Prop := c < 2 ^ t.bits ∧ isFin (floatOf t c) = true

/-- R99, R100: the code c is the exact value, of sign `neg`, rounded once under a mode: what overflows becomes an infinity under the table
of R100; else c is finite, has the sign, and is the value the mode names, the nearest with a tie to the even code, or the nearest on the side of
zero, above or below. The exact value is given by the rationals not above it (`le`) and those not below it (`ge`). -/
def FloatFits (t : Ty) (rnd : Nat) (sat neg : Bool) (le ge : Rat → Prop) (c : Nat) : Prop :=
  let m := codeVal t t.maxFin
  let mid := m + (m - codeVal t (t.maxFin - 1)) / 2
  let odd : Prop := t.maxFin % 2 = 1
  let beyond : Prop :=
    (rnd = 0 ∧ neg = false ∧ (¬ ge mid ∨ (le mid ∧ ge mid ∧ odd))) ∨ (rnd = 0 ∧ neg = true ∧ (¬ le (-mid) ∨ (le (-mid) ∧ ge (-mid) ∧ odd))) ∨
    (rnd = 2 ∧ neg = false ∧ ¬ ge m) ∨ (rnd = 3 ∧ neg = true ∧ ¬ le (-m))
  (beyond → c = infCode t sat neg) ∧
  (¬ beyond → finCode t c ∧ (c / 2 ^ (t.bits - 1) = 1 ↔ neg = true) ∧
    ∀ d, finCode t d →
      (rnd = 0 → (codeVal t c < codeVal t d → ge ((codeVal t c + codeVal t d) / 2) ∧ (le ((codeVal t c + codeVal t d) / 2) → c % 2 = 0)) ∧
        (codeVal t d < codeVal t c → le ((codeVal t c + codeVal t d) / 2) ∧ (ge ((codeVal t c + codeVal t d) / 2) → c % 2 = 0))) ∧
      (rnd = 3 ∨ (rnd = 1 ∧ neg = false) → le (codeVal t c) ∧ (le (codeVal t d) → codeVal t d ≤ codeVal t c)) ∧
      (rnd = 2 ∨ (rnd = 1 ∧ neg = true) → ge (codeVal t c) ∧ (ge (codeVal t d) → codeVal t c ≤ codeVal t d)))

/-- What a float instruction's lane must be, by destination type, mode, saturation and the numbers of its sources. -/
abbrev FRule := Ty → Nat → Bool → List XNum → Nat → Prop

/-- A number with its sign, which tells the two zeros apart. -/
abbrev Signed := Rat × Bool

/-- R99: finite sources give the exact result of a formula, rounded once; an exact zero has the sign the formula gives. -/
def exactly (g : Nat → List Signed → Signed) : FRule := fun t rnd sat l c =>
  l.all isFin = true →
    let v := g rnd (l.map fun x => (ratOf x, sgn x))
    FloatFits t rnd sat (if v.1 = 0 then v.2 else decide (v.1 < 0)) (fun q => q ≤ v.1) (fun q => v.1 ≤ q) c

/-- R98: a NaN gives the canonical NaN. -/
def nanRule : FRule := fun t _ _ l c => XNum.nan ∈ l → c = t.qnan

/-- The rules together. -/
def allRules (rs : List FRule) : FRule := fun t rnd sat l c => ∀ r ∈ rs, r t rnd sat l c

/-- R99: two addends: their sum, and the sign of an exact zero. -/
def plus (rnd : Nat) (x y : Signed) : Signed := (x.1 + y.1, if x.2 = y.2 then x.2 else rnd == 3)
/-- The negative. -/
def minus (x : Signed) : Signed := (-x.1, !x.2)
/-- The product. -/
def times (x y : Signed) : Signed := (x.1 * y.1, x.2 != y.2)
/-- A quotient rounded toward zero. -/
def truncOf (q : Rat) : Int := if 0 ≤ q then q.floor else -(-q).floor
/-- R102: the nearest integer, a tie to the even one. -/
def nearestInt (q : Rat) : Int :=
  let f := q.floor
  if q - f < 1 / 2 then f else if 1 / 2 < q - f then f + 1 else if f % 2 = 0 then f else f + 1

/-- The n-th source. -/
def src (l : List Signed) (n : Nat) : Signed := l.getD n (0, false)

/-- IEEE 754: the sum of two numbers one of which is infinite. -/
def infSum (n0 n1 : Bool) : FRule := fun t _ sat l c =>
  match l with
  | [.inf a, .inf b] => if (a != n0) = (b != n1) then c = infCode t sat (a != n0) else c = t.qnan
  | [.inf a, .fin _ _ _] => c = infCode t sat (a != n0)
  | [.fin _ _ _, .inf b] => c = infCode t sat (b != n1)
  | _ => True

/-- IEEE 754: the distance of two numbers one of which is infinite. -/
def infDistance : FRule := fun t _ sat l c =>
  match l with
  | [.inf a, .inf b] => c = if a = b then t.qnan else infCode t sat false
  | [.inf _, .fin _ _ _] => c = infCode t sat false
  | [.fin _ _ _, .inf _] => c = infCode t sat false
  | _ => True

/-- IEEE 754: the product of two numbers one of which is infinite. -/
def infProduct : FRule := fun t _ sat l c =>
  match l with
  | [.inf a, .inf b] => c = infCode t sat (a != b)
  | [.inf a, .fin b m _] => c = if m = 0 then t.qnan else infCode t sat (a != b)
  | [.fin a m _, .inf b] => c = if m = 0 then t.qnan else infCode t sat (a != b)
  | _ => True

/-- IEEE 754: a fused operation with an infinite source: an infinity times zero is a NaN, an infinite product is an addend with its sign, and a
finite product gives way to an infinite c. -/
def infFused (negP negC : Bool) : FRule := fun t rnd sat l c =>
  match l with
  | [.fin _ _ _, .fin _ _ _, .inf b] => c = infCode t sat (b != negC)
  | [.inf _, .fin _ 0 _, _] => c = t.qnan
  | [.fin _ 0 _, .inf _, _] => c = t.qnan
  | [.nan, _, _] => True
  | [_, .nan, _] => True
  | [.fin _ _ _, .fin _ _ _, _] => True
  | [x, y, z] => infSum negP negC t rnd sat [.inf (sgn x != sgn y), z] c
  | _ => True

/-- R102: the quotient; that a division by zero saturates with `sat` is log entry 41. -/
def quotRule : FRule := fun t rnd sat l c =>
  match l with
  | [.inf _, .inf _] => c = t.qnan
  | [.inf a, .fin b _ _] => c = infCode t sat (a != b)
  | [.fin a _ _, .inf b] => c = signed t (a != b) 0
  | [.fin a m _, .fin b 0 _] => c = if m = 0 then t.qnan else infCode t sat (a != b)
  | _ => exactly (fun _ l => ((src l 0).1 / (src l 1).1, (src l 0).2 != (src l 1).2)) t rnd sat l c

/-- R229: the remainder a − n × b, n the quotient rounded toward zero, with the sign of a. -/
def remRule : FRule := fun t rnd sat l c =>
  match l with
  | [.inf _, .inf _] => c = t.qnan
  | [.inf _, .fin _ _ _] => c = t.qnan
  | [.fin _ _ _, .fin _ 0 _] => c = t.qnan
  | [x, .inf _] => exactly (fun _ l => src l 0) t rnd sat [x] c
  | _ => exactly (fun _ l => ((src l 0).1 - truncOf ((src l 0).1 / (src l 1).1) * (src l 1).1, (src l 0).2)) t rnd sat l c

/-- R101: the order of two numbers or infinities, −0 below +0. -/
def below (x y : XNum) : Prop :=
  match x, y with
  | .inf a, .inf b => a = true ∧ b = false
  | .inf a, _ => a = true
  | _, .inf b => b = false
  | _, _ => ratOf x < ratOf y ∨ (ratOf x = ratOf y ∧ sgn x = true ∧ sgn y = false)

/-- R101: which of two sources `MIN` (or `MAX`) returns: z; of a NaN and another source the other. -/
def Picks (greater : Bool) (x y z : XNum) : Prop :=
  (x = .nan → z = y) ∧ (y = .nan → z = x) ∧
  (x ≠ .nan → y ≠ .nan → (below x y → z = if greater then y else x) ∧ (below y x → z = if greater then x else y) ∧ (z = x ∨ z = y))

/-- R98 to R100: a source delivered: rounded, an infinity as an overflow, a NaN as the canonical one. -/
def delivered : FRule := fun t rnd sat l c =>
  match l with
  | [.nan] => c = t.qnan
  | [.inf a] => c = infCode t sat a
  | _ => exactly (fun _ l => src l 0) t rnd sat l c

/-- R101: `MIN` or `MAX` of two sources. -/
def pickRule (greater : Bool) : FRule := fun t rnd sat l c =>
  match l with | [x, y] => ∃ z, Picks greater x y z ∧ delivered t rnd sat [z] c | _ => True

/-- R229, R101: min(max(a, lo), hi), each comparison under R101. -/
def clampRule : FRule := fun t rnd sat l c =>
  match l with
  | [x, lo, hi] => ∃ y z, Picks true x lo y ∧ Picks false y hi z ∧ delivered t rnd sat [z] c
  | _ => True

/-- An infinite source of an instruction that delivers it, its sign kept, turned or cleared. -/
def infUnary (f : Bool → Bool) : FRule := fun t _ sat l c =>
  match l with | [.inf a] => c = infCode t sat (f a) | _ => True

/-- R102: the square root: of a positive number the root rounded once. -/
def sqrtRule : FRule := fun t rnd sat l c =>
  match l with
  | [.inf neg] => c = if neg then t.qnan else infCode t sat false
  | [.fin neg 0 _] => c = signed t neg 0
  | [.fin true _ _] => c = t.qnan
  | [.fin false m e] =>
    let x := XNum.fin false m e
    FloatFits t rnd sat false (fun q => q < 0 ∨ q * q ≤ ratOf x) (fun q => 0 ≤ q ∧ ratOf x ≤ q * q) c
  | _ => True

/-- R102: the code c is one of the two values of a type that bracket an exact positive value; beyond the largest finite value one of the two is
what R100 delivers for an overflow under the mode. The exact value is given as in `FloatFits`. -/
def Faithful (t : Ty) (rnd : Nat) (sat : Bool) (le ge : Rat → Prop) (c : Nat) : Prop :=
  (ge (codeVal t t.maxFin) → finCode t c ∧ c < 2 ^ (t.bits - 1) ∧
    ((le (codeVal t c) ∧ ∀ d, finCode t d → le (codeVal t d) → codeVal t d ≤ codeVal t c) ∨
     (ge (codeVal t c) ∧ ∀ d, finCode t d → ge (codeVal t d) → codeVal t c ≤ codeVal t d))) ∧
  (¬ ge (codeVal t t.maxFin) → c = t.maxFin ∨ ((rnd = 0 ∨ rnd = 2) ∧ c = infCode t sat false))

/-- R102: the reciprocal square root: of a positive number one of the two values that bracket it. -/
def rsqRule : FRule := fun t rnd sat l c =>
  match l with
  | [.inf neg] => c = if neg then t.qnan else 0
  | [.fin neg 0 _] => c = infCode t sat neg
  | [.fin true _ _] => c = t.qnan
  | [.fin false m e] =>
    let x := XNum.fin false m e
    Faithful t rnd sat (fun q => q < 0 ∨ q * q * ratOf x ≤ 1) (fun q => 0 ≤ q ∧ 1 ≤ q * q * ratOf x) c
  | _ => True

/-- R102: 2^a: its special operands, and whole powers: a positive one exact, or beyond the type an overflow under the mode (R100); the
reciprocal of one exact too where the type has it, and else one of the two values that bracket it. -/
def exp2Rule : FRule := fun t rnd sat l c =>
  match l with
  | [.inf neg] => c = if neg then 0 else infCode t sat false
  | [.fin neg m e] => ∀ n : Nat,
      (ratOf (.fin neg m e) = n →
        (codeVal t t.maxFin < ((2 ^ n : Nat) : Rat) → c = if rnd = 0 ∨ rnd = 2 then infCode t sat false else t.maxFin) ∧
        ∀ d, finCode t d → codeVal t d = ((2 ^ n : Nat) : Rat) → c = d) ∧
      (ratOf (.fin neg m e) = -(n : Rat) →
        Faithful t rnd sat (fun q => q * ((2 ^ n : Nat) : Rat) ≤ 1) (fun q => 1 ≤ q * ((2 ^ n : Nat) : Rat)) c)
  | _ => True

/-- R102: log2 a: its special operands, and powers of two, whose logarithm is exact where the type has it. -/
def log2Rule : FRule := fun t _ sat l c =>
  match l with
  | [.inf neg] => c = if neg then t.qnan else infCode t sat false
  | [.fin _ 0 _] => c = infCode t sat true
  | [.fin true _ _] => c = t.qnan
  | [.fin false m e] => ∀ (n : Nat) (d : Nat), finCode t d →
      let x := XNum.fin false m e
      (ratOf x = ((2 ^ n : Nat) : Rat) → codeVal t d = n → finCode t c ∧ codeVal t c = n) ∧
      (ratOf x * ((2 ^ n : Nat) : Rat) = 1 → codeVal t d = -(n : Rat) → finCode t c ∧ codeVal t c = -(n : Rat))
  | _ => True

/-- R102: rounding to an integral value, a zero keeping its operand's sign. -/
def wholeRule (g : Rat → Int) : FRule :=
  allRules [nanRule, infUnary id, exactly fun _ l => ((g (src l 0).1 : Rat), (src l 0).2)]

/-- The sum or difference of the two sources, each negated or not. -/
def sumRule (n0 n1 : Bool) : FRule :=
  allRules [nanRule, infSum n0 n1, exactly fun r l =>
    plus r (if n0 then minus (src l 0) else src l 0) (if n1 then minus (src l 1) else src l 1)]

/-- The saturating forms of a rule. -/
def saturating (r : FRule) : FRule := fun t rnd _ l c => r t rnd true l c

/-- R231: a product, negated or not, plus or minus c. -/
def fusedRule (negP negC : Bool) : FRule :=
  allRules [nanRule, infFused negP negC, exactly fun r l =>
    let p := times (src l 0) (src l 1)
    plus r (if negP then minus p else p) (if negC then minus (src l 2) else src l 2)]

/-- R99 to R102, R226, R227, R229, R231: what each float instruction makes of its sources. -/
def floatRule (i : Instr) : Option FRule :=
  match i with
  | .addShort _ _ _ | .add _ _ _ _ | .addi _ _ _ => some (sumRule false false)
  | .subShort _ _ _ | .sub _ _ _ _ => some (sumRule false true)
  | .rsubShort _ _ _ | .rsub _ _ _ _ => some (sumRule true false)
  | .adds _ _ _ _ => some (saturating (sumRule false false))
  | .subs _ _ _ _ => some (saturating (sumRule false true))
  | .mulShort _ _ _ | .mul _ _ _ _ => some (allRules [nanRule, infProduct, exactly fun _ l => times (src l 0) (src l 1)])
  | .div _ _ _ _ => some (allRules [nanRule, quotRule])
  | .rem _ _ _ _ => some (allRules [nanRule, remRule])
  | .minShort _ _ _ | .min _ _ _ _ => some (pickRule false)
  | .maxShort _ _ _ | .max _ _ _ _ => some (pickRule true)
  | .clamp _ _ _ _ => some clampRule
  | .absShort _ _ _ | .abs _ _ _ => some (allRules [nanRule, infUnary fun _ => false, exactly fun _ l => (|(src l 0).1|, false)])
  | .negShort _ _ _ | .neg _ _ _ => some (allRules [nanRule, infUnary not, exactly fun _ l => minus (src l 0)])
  | .abd _ _ _ _ => some (allRules [nanRule, infDistance, exactly fun _ l => (|(src l 0).1 - (src l 1).1|, false)])
  | .avg _ _ _ _ => some (allRules [nanRule, infSum false false, exactly fun r l =>
      let p := plus r (src l 0) (src l 1); (p.1 / 2, p.2)])
  | .fma _ _ _ _ => some (fusedRule false false)
  | .fnma _ _ _ _ => some (fusedRule true false)
  | .fms _ _ _ _ => some (fusedRule false true)
  | .fnms _ _ _ _ => some (fusedRule true true)
  | .rcp _ _ _ => some (allRules [nanRule, fun t rnd sat l c => quotRule t rnd sat (.fin false 1 0 :: l) c])
  | .sqrt _ _ _ => some (allRules [nanRule, sqrtRule])
  | .rsq _ _ _ => some (allRules [nanRule, rsqRule])
  | .exp2 _ _ _ => some (allRules [nanRule, exp2Rule])
  | .log2 _ _ _ => some (allRules [nanRule, log2Rule])
  | .floor _ _ _ => some (wholeRule Rat.floor)
  | .ceil _ _ _ => some (wholeRule Rat.ceil)
  | .rndn _ _ _ => some (wholeRule nearestInt)
  | _ => none

/-! ### The values of integer results on bits (R96, R229) -/

/-- A source's bits extended to w by its own type (R96). -/
def patOf (w : Nat) (v : LVal) : BitVec w := BitVec.ofInt w v.int

/-- The n-th source of a lane. -/
def lsrc (l : List LVal) (n : Nat) : LVal := l.getD n (.num (.fin false 0 0))

/-- R229: the amount of a shift or rotate: the second source modulo the width. -/
def amount (w : Nat) (l : List LVal) : Nat := ((lsrc l 1).int % (w : Int)).toNat

/-- R229: position and length of a bit field. -/
def fieldOf (l : List LVal) : Nat × Nat := ((lsrc l 1).bits % 256, (lsrc l 1).bits / 256 % 256)

/-- R229: a bit of the source of `BFX`: those at or above the width are its sign. -/
def bfxBit (w : Nat) (v : LVal) (i : Nat) : Bool := if i < w then (patOf w v).getLsbD i else v.signed && decide (v.int < 0)

/-- A number by its bits. -/
def ofBits (w : Nat) (b : Nat → Bool) : Nat := ((List.range w).map fun i => if b i then 2 ^ i else 0).sum

/-- R96, R226, R227, R229: what each integer instruction on bits, and each division, makes of a lane's sources, for a destination of w
bits; of `BFX` the sign that stands above the width is a's (log entry 40). -/
def bitRule (i : Instr) : Option (Ty → Bool → List LVal → Nat) :=
  let pat2 (g : {w : Nat} → BitVec w → BitVec w → BitVec w) : Option (Ty → Bool → List LVal → Nat) :=
    some fun t _ l => (g (patOf t.bits (lsrc l 0)) (patOf t.bits (lsrc l 1))).toNat
  let shift (g : {w : Nat} → BitVec w → Nat → BitVec w) : Option (Ty → Bool → List LVal → Nat) :=
    some fun t _ l => (g (patOf t.bits (lsrc l 0)) (amount t.bits l)).toNat
  let count (g : {w : Nat} → BitVec w → Nat) : Option (Ty → Bool → List LVal → Nat) :=
    some fun t _ l => let v := lsrc l 0; g (BitVec.ofNat v.width v.bits) % 2 ^ t.bits
  match i with
  | .andShort _ _ _ | .and _ _ _ _ | .andi _ _ _ => pat2 fun a b => a &&& b
  | .orShort _ _ _ | .or _ _ _ _ | .ori _ _ _ => pat2 fun a b => a ||| b
  | .xorShort _ _ _ | .xor _ _ _ _ | .xori _ _ _ => pat2 fun a b => a ^^^ b
  | .andnShort _ _ _ | .andn _ _ _ _ => pat2 fun a b => a &&& ~~~b
  | .not _ _ _ => pat2 fun a _ => ~~~a
  | .shlShort _ _ _ | .shl _ _ _ _ | .shli _ _ _ => shift fun a n => a <<< n
  | .shrShort _ _ _ | .shr _ _ _ _ | .shri _ _ _ => shift fun a n => a >>> n
  | .sarShort _ _ _ | .sar _ _ _ _ | .sari _ _ _ => shift fun a n => a.sshiftRight n
  | .rol _ _ _ _ => shift fun a n => a.rotateLeft n
  | .ror _ _ _ _ => shift fun a n => a.rotateRight n
  | .clz _ _ _ => count fun {w} a => (((List.range w).find? fun i => a.getMsbD i).getD w)
  | .ctz _ _ _ => count fun {w} a => (((List.range w).find? fun i => a.getLsbD i).getD w)
  | .popc _ _ _ => count fun {w} a => ((List.range w).filter fun i => a.getLsbD i).length
  | .brev _ _ _ => count fun a => a.reverse.toNat
  | .mulh _ _ _ _ => some fun t _ l => (((lsrc l 0).int * (lsrc l 1).int / ((2 ^ t.bits : Nat) : Int)) % ((2 ^ t.bits : Nat) : Int)).toNat
  | .div _ _ _ _ => some fun t sat l =>
      if (lsrc l 1).int = 0 then 2 ^ t.bits - 1 else t.fit sat ((lsrc l 0).int.tdiv (lsrc l 1).int)
  | .rem _ _ _ _ => some fun t sat l =>
      t.fit sat ((lsrc l 0).int - (if (lsrc l 1).int = 0 then 0 else (lsrc l 0).int.tdiv (lsrc l 1).int * (lsrc l 1).int))
  | .clamp _ _ _ _ => some fun t sat l => t.fit sat (min (max (lsrc l 0).int (lsrc l 1).int) (lsrc l 2).int)
  | .absShort _ _ _ | .abs _ _ _ => some fun t sat l => t.fit sat |(lsrc l 0).int|
  | .negShort _ _ _ | .neg _ _ _ => some fun t sat l => t.fit sat (-(lsrc l 0).int)
  | .fma _ _ _ _ => some fun t sat l => t.fit sat ((lsrc l 0).int * (lsrc l 1).int + (lsrc l 2).int)
  | .fnma _ _ _ _ => some fun t sat l => t.fit sat (-((lsrc l 0).int * (lsrc l 1).int) + (lsrc l 2).int)
  | .fms _ _ _ _ => some fun t sat l => t.fit sat ((lsrc l 0).int * (lsrc l 1).int - (lsrc l 2).int)
  | .fnms _ _ _ _ => some fun t sat l => t.fit sat (-((lsrc l 0).int * (lsrc l 1).int) - (lsrc l 2).int)
  | .bfx _ _ _ _ => some fun t _ l =>
      let f := fieldOf l
      ofBits t.bits fun j =>
        decide (f.2 ≠ 0) && (if j < f.2 then bfxBit t.bits (lsrc l 0) (f.1 + j) else t.isSigned && bfxBit t.bits (lsrc l 0) (f.1 + f.2 - 1))
  | .bfi _ _ _ _ => some fun t _ l =>
      let f := fieldOf l
      ofBits t.bits fun j =>
        if f.1 ≤ j ∧ j < f.1 + f.2 then (patOf t.bits (lsrc l 0)).getLsbD (j - f.1) else (patOf t.bits (lsrc l 2)).getLsbD j
  | .sxt _ _ _ _ => some fun t _ l =>
      let n := (lsrc l 1).own
      ofBits t.bits fun j => if n ≤ 0 then false else (patOf t.bits (lsrc l 0)).getLsbD (if (j : Int) < n then j else n.toNat - 1)
  | .zxt _ _ _ _ => some fun t _ l => ofBits t.bits fun j => decide ((j : Int) < (lsrc l 1).own) && (patOf t.bits (lsrc l 0)).getLsbD j
  | _ => none

/-! ### The values of moves and conversions (R109, R228, R230, R232, R233) -/

/-- R99, R109: a number rounded to an integer under a mode. -/
def intUnder (rnd : Nat) (q : Rat) : Int :=
  match rnd with
  | 0 => nearestInt q
  | 1 => truncOf q
  | 2 => -(-q).floor
  | _ => q.floor

/-- R109: a number rounded to an integer and limited to a range; a NaN gives 0, an infinity the limit of its sign. -/
def limited (rnd : Nat) (lo hi : Int) (x : XNum) (v : Int) : Prop :=
  (x = .nan → v = 0) ∧ (∀ a, x = .inf a → v = if a then lo else hi) ∧ (isFin x = true → v = max lo (min hi (intUnder rnd (ratOf x))))

/-- R109: the code c that a number converts to, in a type other than the integer it comes from. An infinity limited for `i4x` is as for the
integers. -/
def Converts (t : Ty) (rnd : Nat) (sat : Bool) (x : XNum) (c : Nat) : Prop :=
  (t ∈ fiveFloats → delivered t rnd sat [x] c) ∧
  (t.isInt = true → c < 2 ^ t.bits ∧ limited rnd t.minInt t.maxInt x (t.intVal c)) ∧
  (t = .i4x → c < 16 ∧ limited rnd (-7) 7 x (intOf true 4 c)) ∧
  (t = .e8m0 → isFin x = true ∧ 0 < ratOf x ∧ ∀ k : Int, (2 : Rat) ^ k ≤ ratOf x → ratOf x < (2 : Rat) ^ (k + 1) →
    let up := (rnd = 2 ∧ ratOf x ≠ (2 : Rat) ^ k) ∨ (rnd = 0 ∧ 3 / 2 * (2 : Rat) ^ k ≤ ratOf x)
    (up → (c : Int) = max (-127) (min 127 (k + 1)) + 127) ∧ (¬ up → (c : Int) = max (-127) (min 127 k) + 127))

/-- What a move or a conversion makes of a lane's sources. -/
abbrev MRule := Ty → Nat → Bool → List LVal → Nat → Prop

/-- R109: an element converted: an integer to an integer fitted under R96, else its number. -/
def converted (op : Ty) (rnd : Nat) (sat : Bool) (t : Ty) (r : Nat) (c : Nat) : Prop :=
  if t.isInt = true ∧ op.isInt = true then c = op.fit sat (t.intVal r) else Converts op rnd sat (t.num r) c

/-- R228: `MOV`: between equal types, and of a `b` element (R95), the bits; else the exact value fitted; an immediate its value (R232). -/
def movRule : MRule := fun op rnd sat l c =>
  match lsrc l 0 with
  | .raw t r _ _ => (t = op → c = r) ∧ (t ≠ op → converted op rnd sat t r c)
  | .num x => (op.isInt = true → c = op.fit sat (lsrc l 0).int) ∧ (op.isInt = false → Converts op rnd sat x c)
  | .bad _ => True

/-- R109: `CVT`: with `b` on either side the bits, else the value converted. -/
def cvtRule (rawDst : Bool) : MRule := fun op rnd sat l c =>
  match lsrc l 0 with
  | .raw t r own _ => if rawDst = true ∨ own = .b then c = r else converted op rnd sat t r c
  | .num x => rawDst = false → Converts op rnd sat x c
  | .bad _ => True

/-- R230: the scale exponent that b gives. -/
def scaleOf (v : LVal) : Int :=
  match v with
  | .raw _ r .e8m0 _ => (r : Int) - 127
  | .raw _ _ .b f => max (-1024) (min 1024 (intOf true 32 f))
  | .raw _ _ t f => max (-1024) (min 1024 (t.intVal f))
  | v => max (-1024) (min 1024 v.int)

/-- A number times a power of two. -/
def scaled (x : XNum) (k : Int) : XNum := match x with | .fin n m e => .fin n m (e + k) | x => x

/-- R230: `CVTS`: a × 2^e converted with one rounding, an integer scaled up to an integer fitted (R96). What a `b` view as a supplies where the
operation type is `e8m0` and its code 0xFF, or `i4x` and its nibble 0b1000, the spec leaves open (log entries 164, 185). -/
def cvtsRule : MRule := fun op rnd sat l c =>
  let e := scaleOf (lsrc l 1)
  match lsrc l 0 with
  | .raw t r _ _ =>
    if (t = .e8m0 ∧ r = 0xFF) ∨ (t = .i4x ∧ r % 16 = 8) then True
    else if t.isInt = true ∧ op.isInt = true ∧ 0 ≤ e then c = op.fit sat (t.intVal r * 2 ^ e.toNat)
    else Converts op rnd sat (scaled (t.num r) e) c
  | .num x => Converts op rnd sat (scaled x e) c
  | .bad _ => True

/-- R233: `LI`: the literal's bits, whole, its low ones, or extended to 64, with its sign for `i64`. -/
def liRule (lit : BitVec 32) : MRule := fun op _ _ _ c =>
  c = if op = .i64 then (lit.signExtend 64).toNat else lit.toNat % 2 ^ op.bits

/-- R228, R109, R230, R232, R233, R239: the moves and conversions, each with its rule. -/
def moveRule (s : State) (i : Instr) : Option MRule :=
  match i with
  | .movShort _ _ _ | .mov _ _ _ | .movi _ _ | .sel _ _ _ _ _ | .selm _ _ _ _ _ => some movRule
  | .cvt _ _ d => some (cvtRule ((s.view d.toNat).ty == .b))
  | .cvts _ _ _ _ => some cvtsRule
  | .li _ lit => some (liRule lit)
  | _ => none

/-! ### The lanes of a form -/

/-- What lane k of a form reads (R95, R223, R257). -/
def laneSrcs (s : State) (f : Form) (k : Nat) : List LVal :=
  f.x.choose k ((arithRds f.o f.d f.srcs f.x s).map
    (Rd.vals s (arithTy f.d f.srcs s) f.x.odd (if (s.view f.d).shape = 1 then k else 0)))

/-- A form that retires with the lanes v written, and with its ring advanced where it carries the advance bit (R59, R200). -/
def Writes (s : State) (i : Instr) (f : Form) (v : List Nat) : Prop :=
  let w := (arithDst f.o f.d f.srcs s).putLanes s (arithTy f.d f.srcs s).bits v
  v.length = laneCount (s.view f.d) (arithTy f.d f.srcs s) ∧
  exec i s = .next (s.retired i (match f.x.adv with | some h => w.advanceRead (w.view h) 1 | none => w))
/-! ## Lane movement, reductions and dot products (R261 to R263) -/

/-- R262: the lane movements, each with what its row moves: offset, b, a, d. -/
def moveForm (i : Instr) : Option (BitVec 2 × BitVec 6 × BitVec 6 × BitVec 6 × Move) :=
  match i with
  | .bcst o a d => some (o, 0, a, d, mvBcst)
  | .perm o b a d => some (o, b, a, d, mvPerm)
  | .shfl o b a d => some (o, b, a, d, mvShfl)
  | .slide o b a d => some (o, b, a, d, mvSlide)
  | .zip o b a d => some (o, b, a, d, mvZip)
  | .unzp o b a d => some (o, b, a, d, mvUnzp)
  | .cmpr o a d => some (o, 0, a, d, mvCmpr)
  | .expd o a d => some (o, 0, a, d, mvExpd)
  | _ => none

/-- R263: the reductions and dot products. -/
def reduceForm (i : Instr) : Option (BitVec 2 × BitVec 6 × BitVec 6 × BitVec 6 × Reduce) :=
  match i with
  | .redadd o a d => some (o, 0, a, d, rdAdd)
  | .redmax o a d => some (o, 0, a, d, rdPick true)
  | .redmin o a d => some (o, 0, a, d, rdPick false)
  | .scan o a d => some (o, 0, a, d, rdScan)
  | .dot4 o b a d => some (o, b, a, d, rdDot 4)
  | .dot2 o b a d => some (o, b, a, d, rdDot 2)
  | _ => none

/-- The sum of the first n of a list of integers. -/
def prefixSum (l : List Int) (n : Nat) : Int := (l.take n).sum

/-- R263: the sum of the k products that lane i of a dot product adds. -/
def dotSum (k : Nat) (a b : List Int) (i : Nat) : Int :=
  ((List.range k).map fun j => if k * i + j < a.length ∧ k * i + j < b.length then a.getD (k * i + j) 0 * b.getD (k * i + j) 0
    else 0).sum

/-! ## Views, ring advances and repetitions (R265 to R274) -/

/-- The access of a handle's first n elements (0: all), at its own slot. -/
def plain (s : State) (h : BitVec 6) (out : Bool) (n : Nat) : Acc := ⟨s.view h.toNat, 0, out, n⟩

/-- R269: what lets `ADVR` or `ADVW` of a handle go on by n slots: a valid view, a ring that can move so, enough slots filled
(or free), and for a port a place in the commit buffer. -/
structure AdvanceReady (s : State) (v : View) (write : Bool) (n : Nat) : Prop where
  core  : s.onCore
  valid : v.fixed = true ∨ v.valid (s.win v.core v.slot).2 = true
  trap  : advTrap v write n = none
  req   : v.h = 48 → s.cur.hasReq = true
  rpl   : v.h = 49 → s.cur.rpl ≠ []
  slots : n ≤ if write then v.cnt - v.fill else (s.fillOf v).getD 0
  room  : v.entry.isSome = true → s.cur.holdWaits = false

/-! ## Guards, branches and control (R236 to R253) -/

/-- R237: the accesses of a compare: of element 0 of each source, or of all lanes. -/
def cmpA (s : State) (mask : Bool) (o : BitVec 2) (b a : BitVec 6) : Acc :=
  ⟨s.view a.toNat, (offsets o (some (s.view a.toNat)) none).src, false,
    if mask then 0 else capLen (s.view a.toNat) (cmpType (s.view a.toNat).ty (s.view b.toNat).ty) false⟩

/-- R237: the access of the second source. -/
def cmpB (s : State) (mask : Bool) (b a : BitVec 6) : Acc :=
  ⟨s.view b.toNat, 0, false,
    if mask then 0 else capLen (s.view b.toNat) (cmpType (s.view a.toNat).ty (s.view b.toNat).ty) false⟩

/-- R237: the vector sources of a compare, by their views. -/
def cmpVecs (s : State) (b a : BitVec 6) : List View :=
  [s.view a.toNat, s.view b.toNat].filter fun v => v.shape == 1 && v.h != 55

/-- R237: the lanes a `CMPM` compares: the length of its vector sources, 16 for `lane` alone, or 1. -/
def cmpLanes (s : State) (b a : BitVec 6) : Nat :=
  match cmpVecs s b a with
  | v :: _ => v.count (cmpType (s.view a.toNat).ty (s.view b.toNat).ty)
  | [] => if (s.view a.toNat).h = 55 ∨ (s.view b.toNat).h = 55 then 16 else 1

/-- What a compare is refused for by its views: an `i4x` or `e8m0` source, a mix of classes (R55, R237). -/
def cmpTypes (s : State) (b a : BitVec 6) : Bool :=
  [s.view a.toNat, s.view b.toNat].all fun v =>
    !(v.ty == .i4x || v.ty == .e8m0 || v.ty.clash (cmpType (s.view a.toNat).ty (s.view b.toNat).ty))

/-- A compare that nothing stops: accesses ready but for pending bytes (R90), one class, and for `CMPM` no tile and one lane count. -/
structure CompareReady (s : State) (mask : Bool) (o : BitVec 2) (b a : BitVec 6) (g : Nat) : Prop where
  runs  : s.cur.runs = true
  fst   : (cmpA s mask o b a).readyButPending s = true
  snd   : (cmpB s mask b a).readyButPending s = true
  types : cmpTypes s b a = true
  off   : (offsets o (some (s.view a.toNat)) none).bad = none
  lanes : mask = true → (s.view a.toNat).shape < 2 ∧ (s.view b.toNat).shape < 2 ∧
    ∀ v ∈ cmpVecs s b a, v.count (cmpType (s.view a.toNat).ty (s.view b.toNat).ty) = cmpLanes s b a
  free  : (s.cur.guard g).src = none

/-- R236: the guard slot g written, in the executing slot. The commands that carry the slot and wait for its outcome
have kept the one they were issued under (R91). -/
def guardPut (s : State) (g : Nat) (w : Guard) : State :=
  (s.fixGuards g).updCur fun x => { x with guards := mput x.guards g w }

/-- R236: the guard slot g holding a mask. -/
def guardSet (s : State) (g : Nat) (m : BitVec 16) : State := guardPut s g ⟨m, none⟩

/-- R90: the guard slot g unresolved: it keeps its mask, and what it computes once its last source has landed. -/
def guardOpened (s : State) (g : Nat) (c : GCalc) : State := guardPut s g ⟨(s.cur.guard g).m, some c⟩

/-- R90, R237: the sources of a compare as it captures them in the state t. -/
def cmpSrcs (s t : State) (mask : Bool) (o : BitVec 2) (b a : BitVec 6) : GSrc × GSrc :=
  let op := cmpType (s.view a.toNat).ty (s.view b.toNat).ty
  ((cmpA s mask o b a).capture t (capLen (s.view a.toNat) op mask), (cmpB s mask b a).capture t (capLen (s.view b.toNat) op mask))

/-- R279: the state that reads its sources: one that reads bytes which only a held effect of a restartable firing can fill commits first. -/
def readsIn (s : State) (accs : List Acc) : State :=
  if accs.any (fun q => (q.marks s).any fun p => p.1 == s.curSlot && p.2.held) then
    (if s.cur.restart then s.commit s.curCore s.curSlot else s) else s

/-- R420: where it must commit, it may. -/
def readsMay (s : State) (accs : List Acc) : Prop :=
  accs.any (fun q => (q.marks s).any fun p => p.1 == s.curSlot && p.2.held) = true → s.cur.restart = true → s.cur.canCommit = true

/-- R238: a guard source of a guard operation: its mask, or the guard itself while that is unresolved. -/
def guardSource (s : State) (g : BitVec 6) : GMask :=
  if (s.cur.guard g.toNat).src.isSome then .idx g.toNat else .val (s.cur.guard g.toNat).m

/-- R242: whether control may go to a halfword: inside the code and, in a scrum, to the start of a block (R142). -/
def canGo (s : State) (target : Int) : Prop :=
  0 ≤ target ∧ target < s.codeEnd ∧ (s.cur.scrum.isSome = true → s.blockAt s.cur.ctx target.toNat = true)

/-- R248, R420: the state in which `END` may commit: the block it completes stands for its check. -/
def blockEnded (s : State) : State := s.updCur Slot.endBlock

/-- R248: the state `END` commits: a scrum has collapsed and handed back (R148). -/
def atEnd (s : State) : State := if s.cur.scrum.isSome then (blockEnded s).handback s.curCore else blockEnded s

/-- R248: a firing whose `END` first issues: no mark of what could land without its commit, no port past its rate or unwritten (R16). -/
structure EndReady (s : State) : Prop where
  core   : s.onCore
  first  : s.cur.ending = false
  marks  : s.cur.endMarks = false
  rates  : rateTrap s.cur.ports = none

/-! ## Near memory and atomics (R210, R283 to R290) -/

/-- R284: the access that reads the base of a load. -/
def loadBase (s : State) (o : BitVec 2) (a d : BitVec 6) : Acc :=
  ⟨s.view a.toNat, (offsets o (some (s.view a.toNat)) (some (s.view d.toNat))).src, false, 1⟩

/-- R284: the access that writes the destination of a load of a size: two words of a `b` vector for 64 bits; n = 0 is the
whole of it. -/
def loadDst (s : State) (o : BitVec 2) (a d : BitVec 6) (n : Nat) : Acc :=
  ⟨s.view d.toNat, (offsets o (some (s.view a.toNat)) (some (s.view d.toNat))).dst, true, n⟩

/-- How many elements a load or store of a size names in a view. -/
def wide (v : View) (size : Nat) : Nat := if size = 8 ∧ v.ty = .b then 2 else 1

/-- R283, R284: a load that nothing stops before its address: ready accesses, admitted operands, and a near address. -/
structure LoadReady (s : State) (sz o : BitVec 2) (f a d : BitVec 6) (n : Nat) : Prop where
  runs : s.cur.runs = true
  dst  : (loadDst s o a d (wide (s.view d.toNat) (2 ^ sz.toNat))).ready s = true
  base : (loadBase s o a d).ready s = true
  ok   : ldOk (s.view d.toNat) (2 ^ sz.toNat) = true
  off  : (offsets o (some (s.view a.toNat)) (some (s.view d.toNat))).bad = none
  int  : baseTrap (s.view a.toNat) = none
  near : nearForm ((loadBase s o a d).nat s) (f.toNat * 2 ^ sz.toNat) (2 ^ sz.toNat) = some n

/-- R285: a store of a size that nothing stops before its address, its guard resolved and on. -/
structure StoreReady (s : State) (size n : Nat) (a b f : BitVec 6) (sn : Bool) (g : BitVec 3) : Prop where
  runs  : s.cur.runs = true
  known : s.cur.guardOpen g = false
  on    : s.cur.guardOn g sn = true
  base  : (plain s a false 1).ready s = true
  src   : (plain s b false (wide (s.view b.toNat) size)).ready s = true
  int   : baseTrap (s.view a.toNat) = none
  ok    : stOk (s.view b.toNat) size = true
  near  : nearForm ((plain s a false 1).nat s) (f.toNat * size) size = some n

/-- R285: the bytes a store of a size writes: the low ones of its source, both words of a `b` vector for 64 bits. -/
def storeBytes (s : State) (b : BitVec 6) (size : Nat) : List Byte :=
  let q := plain s b false (wide (s.view b.toNat) size)
  toLe size (if size = 8 then q.nat64 s else q.nat s)

/-- R411, R292: the watchpoints that a write of n bytes at a matches; none where it writes no byte, meeting a live object block. -/
def hitsAt (t : State) (a n : Nat) : List (Nat × Nat) := if t.discards a n then [] else t.watchHits t.cur.ctx a n false

/-- R411: the watchpoints that n bytes at a match are reported; none of them halts. A copy engine has none. -/
def reported (t : State) (a n : Nat) : State := if isEngine t.curCore then t else t.watchReports a n (hitsAt t a n)

/-- R411: no watchpoint of action 1 matches. -/
def noHalt (t : State) (a n : Nat) : Prop :=
  isEngine t.curCore = true ∨ ∀ h ∈ hitsAt t a n, h.2 ≠ 1

/-- R411, R286: the watchpoints that the words of a skew access match are reported. -/
def reportedAll (t : State) (cells : List Nat) : State :=
  (cells.map fun a => (a, hitsAt t a 4)).foldl
    (fun u p => if p.2.isEmpty then u else u.watchReports p.1 4 p.2) t

/-- R411, R72: an instruction that has written n bytes at a, which a watchpoint of action 1 matches, retires with its reports, and its firing
halts with cause 0x0. -/
def haltedBy (t u : State) : State := (((u.noteIssue t).count t.curCore 2).retire 2).haltSlot t.curCore t.curSlot 0

/-- R411: the instruction i writes n bytes at a, which comes to the state t: it retires with the watchpoints it matches reported, or halts its
firing. -/
def Wrote (s : State) (i : Instr) (t : State) (a n : Nat) : Prop :=
  (noHalt t a n → exec i s = .next (s.retired i (reported t a n))) ∧ (¬ noHalt t a n → exec i s = .next (haltedBy t (reported t a n)))

/-- R289: the atomics and their operation numbers. -/
def atomForms : List ((BitVec 6 → BitVec 6 → BitVec 6 → Bool → BitVec 3 → Instr) × Nat) :=
  [(.aadd, 0), (.amin, 1), (.amax, 2), (.aand, 3), (.aor, 4), (.axor, 5), (.aswp, 6), (.acas, 7), (.ainc, 8)]

/-- R288: the access of the operand of an atomic; a compare-and-swap has two. -/
def atomSrc (s : State) (op : Nat) (b : BitVec 6) : Acc :=
  plain s b false (if op = 7 ∧ (s.view b.toNat).shape = 1 then 2 else 1)

/-- R288: an atomic that nothing stops, its guard resolved and on, at near address n. -/
structure AtomReady (s : State) (op n : Nat) (b a d : BitVec 6) (sn : Bool) (g : BitVec 3) : Prop where
  runs  : s.cur.runs = true
  known : s.cur.guardOpen g = false
  on    : s.cur.guardOn g sn = true
  dst   : (plain s d true 1).ready s = true
  base  : (plain s a false 1).ready s = true
  src   : (atomSrc s op b).ready s = true
  mix   : (s.view d.toNat).ty.clash (s.view b.toNat).ty = false
  int   : baseTrap (s.view a.toNat) = none
  ok    : atomOk op (s.view d.toNat) (s.view b.toNat) = true
  msg   : (s.view d.toNat).h ≠ 50
  align : (plain s a false 1).nat s % ((s.view d.toNat).ty.bits / 8) = 0
  near  : nearForm ((plain s a false 1).nat s) 0 ((s.view d.toNat).ty.bits / 8) = some n

/-- R289: the second operand, of a compare-and-swap alone. -/
def atomB1 (s : State) (op : Nat) (b : BitVec 6) : Nat := if op = 7 then (atomSrc s op b).elem s 1 else 0

/-- R289, R290: an atomic at an address of another slice, as it is sent with the place of its answer. -/
def atomSent (s : State) (op n : Nat) (b d : BitVec 6) (r : Ret) : AtomReq :=
  ⟨s.curCore, s.curSlot, op, n, (s.view d.toNat).ty.code, BitVec.ofNat 64 ((atomSrc s op b).elem s 0),
    BitVec.ofNat 64 (atomB1 s op b), r, s.cur.scrum.isSome⟩

/-! ## Synchronisation objects and bindings (R160, R291 to R296) -/

/-- R279: a restartable firing commits before a blocking wait. -/
def blocked (s : State) : State := if s.cur.restart then s.commit s.curCore s.curSlot else s

/-- R279, R420: whether the firing may commit where it must. -/
def mayBlock (s : State) : Prop := s.cur.restart = true → s.cur.canCommit = true

/-- R291, R292, R294: an object instruction that nothing stops before its object: the reference's access ready and admitted, its
bits valid, and at a home on this device a block of the operation's kind. -/
structure RefReady (s : State) (op : ObjOp) (o : BitVec 2) (a : BitVec 6) (d : Option View) : Prop where
  core : s.onCore
  ref  : (refAcc (s.view a.toNat) (offsets o (some (s.view a.toNat)) d).src).ready s = true
  ok   : refOk (s.view a.toNat) = true
  off  : (offsets o (some (s.view a.toNat)) d).bad = none
  obj  : s.refTraps (s.view a.toNat).h
    ((refAcc (s.view a.toNat) (offsets o (some (s.view a.toNat)) d).src).nat64 s) op = none

/-- The reference that an object instruction reads. -/
def refOf (s : State) (o : BitVec 2) (a : BitVec 6) (d : Option View) : Nat :=
  (refAcc (s.view a.toNat) (offsets o (some (s.view a.toNat)) d).src).nat64 s

/-- R294: the operation leaves for its home, and the firing waits for the answer, under its time-out where one counts (R295), which stands
still while the object is withheld (R81); `on` is what may withhold it (R79). -/
def objSent (t : State) (op : ObjOp) (r arg : Nat) (on : List Obj) (timed : Bool) : State :=
  let left := if timed && t.cur.wto != 0 then some t.cur.wto else none
  let frozen := on.any t.withheld
  ((t.push (.obj ⟨op, BitVec.ofNat 64 r, arg, t.cur.ctx, t.curCore, t.curSlot, t.cur.fid, none⟩)).updCur fun y =>
    { y with waitExp := if frozen then none else left.map (t.now.toNat + ·)
             waitRem := if frozen then left else none }).waitCur .sent on false

/-- R294: what the arrival that completes a phase leaves: nothing arrived of the next phase, and every wait of an earlier one answered. -/
def phaseEnds (u : State) (h : Nat) : State :=
  let next := (u.objPhase h + 1) % 2 ^ 16
  let past (w : ObjReq) : Bool := w.op == .barw && w.arg != next
  let v := u.setObj h 0 next holdFree
  ((mget u.homes h []).filter past).foldl (fun t w => t.answer w [BitVec.ofNat 32 w.arg])
    { v with homes := mput u.homes h ((mget u.homes h []).filter fun w => !past w) }

/-- R294: one more arrival at a phase that it does not complete. -/
def phaseCounts (u : State) (h : Nat) : State := u.setObj h (u.objCnt h + 1) (u.objPhase h) holdFree

/-- No object instruction of the slot is under way. -/
def notSent (s : State) : Prop :=
  s.cur.wait ≠ .sent ∧ (∀ v, s.cur.wait ≠ .answer v) ∧ ∀ c, s.cur.wait ≠ .trap c

/-- R160, R294: `BIND` or `UNBD` of a region and an object that nothing refuses. -/
structure BindReady (s : State) (unbind : Bool) (o : BitVec 2) (b a : BitVec 6) : Prop where
  core   : s.onCore
  region : (s.bindAccs o b a).1.ready s = true
  ref    : (s.bindAccs o b a).2.ready s = true
  off    : (offsets o (some (s.view a.toNat)) none).bad = none
  words  : (s.view a.toNat).isB 4 = true
  ok     : refOk (s.view b.toNat) = true
  far    : (((s.bindAccs o b a).1.words s 4).getD 3 0).toNat < 2
  binds  : ∃ c, s.rebind unbind (s.bindAccs o b a) = .ok c
  obj    : s.refTraps (s.view b.toNat).h ((s.bindAccs o b a).2.nat64 s) .acq = none


/-! ## Messages (R298 to R304) -/

/-- The accesses of the source and destination of an instruction of one source under the slot offset of R202. -/
def srcOf (s : State) (o : BitVec 2) (a d : BitVec 6) (n : Nat) : Acc :=
  ⟨s.view a.toNat, (offsets o (some (s.view a.toNat)) (some (s.view d.toNat))).src, false, n⟩
/-- As `srcOf`, the destination. -/
def dstOf (s : State) (o : BitVec 2) (a d : BitVec 6) (n : Nat) : Acc :=
  ⟨s.view d.toNat, (offsets o (some (s.view a.toNat)) (some (s.view d.toNat))).dst, true, n⟩

/-- R299: the target word of a `SEND`. -/
def sendTarget (s : State) (o : BitVec 2) (a d : BitVec 6) : Nat :=
  if (s.view a.toNat).h = 54 then 0 else (srcOf s o a d 1).nat s

/-- R299 to R302: a `SEND` (or `SENDI`) that nothing stops: admitted control and target words, an entry in the send queue, a free
reply entry where a reply is asked for, and a mark free for its token. -/
structure SendReady (s : State) (invoke : Bool) (o : BitVec 2) (b a d : BitVec 6) : Prop where
  core  : s.onCore
  dst   : (dstOf s o a d 1).ready s = true
  tgt   : (srcOf s o a d 1).ready s = true
  ctl   : (plain s b false 1).ready s = true
  dty   : (s.view d.toNat).isN32 = true
  aty   : (s.view a.toNat).isN32 = true ∨ (s.view a.toNat).h = 54
  bty   : (s.view b.toNat).isN32 = true
  off   : (offsets o (some (s.view a.toNat)) (some (s.view d.toNat))).bad = none
  ok    : sendOk invoke ((plain s b false 1).nat s) (sendTarget s o a d) s.cur = true
  room  : s.curC.sendQ.length < 16 ∨ s.sendOwn = true
  reply : bits ((plain s b false 1).nat s) 0 1 = 1 → s.replyReserved s.curCore s.curSlot < 8
  marks : s.cur.pendFull = false
  held  : s.cur.holdWaits = false

/-- R303: a `SPWN` that nothing stops. -/
structure SpawnReady (s : State) (b a d : BitVec 6) : Prop where
  core : s.onCore
  dst  : (plain s d false 1).ready s = true
  id   : (plain s a false 1).ready s = true
  word : (plain s b false 1).ready s = true
  dty  : (s.view d.toNat).isN32 = true ∨ (s.view d.toNat).h = 54
  aty  : (s.view a.toNat).is64 = true
  bty  : (s.view b.toNat).isN32 = true
  tgt  : (if (s.view d.toNat).h = 54 then 0 else (plain s d false 1).nat s) < numCores
  resv : bits ((plain s b false 1).nat s) 11 5 = 0
  len  : spawnLen ((plain s b false 1).nat s) ≤ 448
  src  : spawnSrc ((plain s b false 1).nat s) + spawnLen ((plain s b false 1).nat s) ≤ (s.win s.curCore s.curSlot).2
  gate : s.rawGate (spawnSrc ((plain s b false 1).nat s)) (spawnLen ((plain s b false 1).nat s)) = none
  room : s.curC.sendQ.length < 16 ∨ s.sendOwn = true
  held : s.cur.holdWaits = false

/-- R304: what `MSGQ` counts, by its selector. -/
def messageCounts (s : State) : List (Nat × Nat) :=
  [(0, (s.curC.hiQ.filter fun q => q.m.ctx == s.cur.ctx).length),
   (1, (s.curC.loQ.filter fun q => q.m.ctx == s.cur.ctx).length),
   (2, 16 - s.curC.sendQ.length), (3, 8 - s.replyReserved s.curCore s.curSlot)]

/-- R304: what `CEQ` counts, by its selector. -/
def commandCounts (s : State) : List (Nat × Nat) :=
  [(0, ((s.engine (clusterOf s.curCore)).queue.filter fun x => x.core == s.curCore && x.slot == s.curSlot).length),
   (1, 32 - (s.engine (clusterOf s.curCore)).queue.length), (2, s.cur.pend.length)]

/-- R304: operands that a count takes: an integer scalar selector and an integer scalar destination. -/
structure CountReady (s : State) (o : BitVec 2) (a d : BitVec 6) : Prop where
  core : s.onCore
  dst  : (dstOf s o a d 1).ready s = true
  src  : (srcOf s o a d 1).ready s = true
  dty  : idxOk (s.view d.toNat) = true ∧ (s.view d.toNat).shape = 0
  aty  : idxOk (s.view a.toNat) = true ∧ (s.view a.toNat).shape = 0
  off  : (offsets o (some (s.view a.toNat)) (some (s.view d.toNat))).bad = none

/-! ## Engine commands and the engine profile (R305 to R315) -/

/-- An engine command as R307 gives it: its code, its `op` byte and whether R307 lists that byte, its destination and sources, and
its guard. -/
structure CmdForm where
  code : Nat
  op   : BitVec 8
  ok   : Bool
  d    : BitVec 6
  a    : BitVec 6
  b    : Option (BitVec 6)
  c    : Option (BitVec 6)
  e    : Option (BitVec 6)
  n    : Bool
  g    : BitVec 3

/-- R307: the engine commands. -/
def cmdForm (i : Instr) : Option CmdForm :=
  match i with
  | .cpy c b a d n g op => some ⟨0, op, decide (op.toNat < 4), d, a, some b, some c, none, n, g⟩
  | .cpys c b a d n g op => some ⟨1, op, decide (op.toNat < 4), d, a, some b, some c, none, n, g⟩
  | .gath e c b a d n g => some ⟨2, 0, true, d, a, some b, some c, some e, n, g⟩
  | .scat e c b a d n g => some ⟨3, 0, true, d, a, some b, some c, some e, n, g⟩
  | .fill c b a d n g op => some ⟨4, op, decide (op.toNat < 2), d, a, some b, some c, none, n, g⟩
  | .red c b a d n g op => some ⟨5, op, !redOpBad op, d, a, some b, some c, none, n, g⟩
  | .ratm e c b a d n g op =>
    some ⟨6, op, !ratmOpBad op, d, a, some b, some c, if op.toNat / 16 = 7 then some e else none, n, g⟩
  | .bsig a d n g => some ⟨7, 0, true, d, a, none, none, none, n, g⟩
  | .rinv b a d n g => some ⟨8, 0, true, d, a, some b, none, none, n, g⟩
  | .wqryQuery b a d n g => some ⟨9, 0, true, d, a, some b, none, none, n, g⟩
  | .wqryExtend b a d n g => some ⟨9, 1, true, d, a, some b, none, none, n, g⟩
  | _ => none

/-- The accesses of the operands of a command. -/
def CmdForm.srcs (s : State) (f : CmdForm) : List Acc :=
  ([some f.a, f.b, f.c, f.e].filterMap id).map fun h => cmdAcc (s.view h.toNat)

/-- R305: a command that nothing stops: a listed `op`, ready operands, an `n32` scalar of the window for its token, a mark and a
queue entry free, no near write of the slot still out but stores that can perform (R169), and for a held one, or one behind a held command or near write of its slot (R92, R169), a place in the commit buffer. -/
structure CmdReady (s : State) (f : CmdForm) : Prop where
  core  : s.onCore
  ok    : f.ok = true
  dst   : (plain s f.d true 1).ready s = true
  srcs  : ∀ q ∈ f.srcs s, q.ready s = true
  dty   : (s.view f.d.toNat).isN32 = true ∧ (s.view f.d.toNat).ring = false ∧ (s.view f.d.toNat).fixed = false
  marks : s.cur.pendFull = false
  room  : (s.engine (clusterOf s.curCore)).queue.length < 32
  kick  : s.kickWaits = false
  held  : s.cur.holdsCmd f.code = true → s.cur.holdWaits = false

/-- R305: the state in which a command has been delivered. -/
def CmdForm.sent (s : State) (f : CmdForm) : State :=
  let acc (h : Option (BitVec 6)) : Option Acc := h.map fun h => cmdAcc (s.view h.toNat)
  s.sendCmd f.code f.op (plain s f.d true 1) (acc (some f.a)) (acc f.b) (acc f.c) (acc f.e) f.n f.g

/-- R313: the access of the far address of an engine instruction. -/
def farOf (s : State) (o : BitVec 2) (a d : BitVec 6) : Acc :=
  farAcc (s.view a.toNat) (offsets o (some (s.view a.toNat)) (some (s.view d.toNat))).src

/-- R313: the far address that a load or store of the microcode names. -/
def farAt (s : State) (q : Acc) (f size : Nat) : Nat := q.nat64 s + f * size

/-- R313, R315: microcode that runs with a command in progress. -/
structure EngineReady (s : State) (q : Cmd) : Prop where
  engine : s.onEngine
  cmd    : (s.engine s.curEngine).cur = some q

/-- R313: a `FLD` that nothing stops before its translation. -/
structure FarLoadReady (s : State) (q : Cmd) (sz o : BitVec 2) (f a d : BitVec 6) : Prop extends EngineReady s q where
  dst   : (dstOf s o a d (wide (s.view d.toNat) (2 ^ sz.toNat))).ready s = true
  src   : (farOf s o a d).ready s = true
  ok    : ldOk (s.view d.toNat) (2 ^ sz.toNat) = true
  aty   : farView (s.view a.toNat) = true
  off   : (offsets o (some (s.view a.toNat)) (some (s.view d.toNat))).bad = none
  space : farAt s (farOf s o a d) f.toNat (2 ^ sz.toNat) + 2 ^ sz.toNat ≤ 2 ^ 57
  marks : s.cur.pendFull = false

/-- R313: a `FST` that nothing stops before its translation. -/
structure FarStoreReady (s : State) (q : Cmd) (sz o : BitVec 2) (b a f : BitVec 6) : Prop extends EngineReady s q where
  addr  : (farAcc (s.view a.toNat) (offsets o (some (s.view a.toNat)) none).src).ready s = true
  src   : (plain s b false (wide (s.view b.toNat) (2 ^ sz.toNat))).ready s = true
  aty   : farView (s.view a.toNat) = true
  ok    : stOk (s.view b.toNat) (2 ^ sz.toNat) = true
  off   : (offsets o (some (s.view a.toNat)) none).bad = none
  space : farAt s (farAcc (s.view a.toNat) (offsets o (some (s.view a.toNat)) none).src) f.toNat (2 ^ sz.toNat)
    + 2 ^ sz.toNat ≤ 2 ^ 57

/-- R289, R313: the far atomics and their operation numbers. -/
def farAtomForms : List ((BitVec 2 → BitVec 6 → BitVec 6 → BitVec 6 → Instr) × Nat) :=
  [(.fatmAdd, 0), (.fatmMin, 1), (.fatmMax, 2), (.fatmAnd, 3), (.fatmOr, 4), (.fatmXor, 5), (.fatmSwp, 6), (.fatmCas, 7),
   (.fatmInc, 8)]

/-- R313: a far atomic that nothing stops before its translation, as it first issues. -/
structure FarAtomReady (s : State) (q : Cmd) (op : Nat) (o : BitVec 2) (b a d : BitVec 6) : Prop extends EngineReady s q where
  fresh : s.cur.wait ≠ .sent
  dst   : (dstOf s o a d 1).ready s = true
  addr  : (farOf s o a d).ready s = true
  src   : (atomSrc s op b).ready s = true
  mix   : (s.view d.toNat).ty.clash (s.view b.toNat).ty = false
  aty   : farView (s.view a.toNat) = true
  ok    : atomOk op (s.view d.toNat) (s.view b.toNat) = true
  off   : (offsets o (some (s.view a.toNat)) (some (s.view d.toNat))).bad = none
  space : (farOf s o a d).nat64 s + (s.view d.toNat).ty.bits / 8 ≤ 2 ^ 57
  align : (farOf s o a d).nat64 s % ((s.view d.toNat).ty.bits / 8) = 0
  marks : s.cur.pendFull = false

/-- R314: an `FXM` that nothing stops before its request, with the near address p and the length n of its image. -/
structure ImageReady (s : State) (q : Cmd) (o : BitVec 2) (b a d : BitVec 6) (p n : Nat) : Prop extends EngineReady s q where
  dst   : (dstOf s o a d 1).ready s = true
  tgt   : (srcOf s o a d 1).ready s = true
  base  : (plain s b false 1).ready s = true
  dty   : (s.view d.toNat).isN32 = true ∧ (s.view d.toNat).fixed = false
  off   : (offsets o (some (s.view a.toNat)) (some (s.view d.toNat))).bad = none
  aty   : baseTrap (s.view a.toNat) = none
  bty   : baseTrap (s.view b.toNat) = none
  near  : nearForm ((plain s b false 1).nat s) 0 16 = some p
  len   : n = 64 * (bits (leNat (s.bytesAt p 16)) 24 3 + 1)
  whole : (nearForm ((plain s b false 1).nat s) 0 n).isSome = true
  marks : s.cur.pendFull = false

/-- R314, R315: the access of the one operand of `FMRK` and `CEND`. -/
def soloOf (s : State) (o : BitVec 2) (a : BitVec 6) : Acc :=
  ⟨s.view a.toNat, (offsets o (some (s.view a.toNat)) none).src, false, 1⟩

/-- The operand of `FMRK` or `CEND` ready, and with its slot offset admitted. -/
structure SoloReady (s : State) (o : BitVec 2) (a : BitVec 6) : Prop where
  src : (soloOf s o a).ready s = true
  off : (offsets o (some (s.view a.toNat)) none).bad = none

/-! ## Matrix work and composed cores (R111 to R142) -/

/-- No value or scale that an instruction reads is a reserved code (R107, R108). -/
def codesOk (l : List (List (Except Nat XNum))) : Prop := ∀ c ∈ l, ∀ e ∈ c, ∃ x, e = .ok x

/-- R133, R134: the array belongs to the executing firing or can be taken for it: `t` is the state with its claim. -/
structure HoldsArray (s t : State) : Prop where
  core : s.onCore
  own  : s.claimArray = some t

/-- R118, R56: an `MLW` or `MLW.c` that nothing stops, in the state t with the claim; its tile is read in u. -/
structure TileReady (t u : State) (cl : Bool) (b a : BitVec 6) : Prop where
  accs  : ∀ q ∈ tileAccs cl (t.view a.toNat) (t.view b.toNat), q.ready t = true
  tile  : tileBad (t.view a.toNat) = false
  scale : blockScaled (t.view a.toNat).ty = true → scaleBad (t.view b.toNat) = false
  count : scaleCountOk (t.view a.toNat) (t.view b.toNat) = true
  named : cl = true → t.namedTrap (t.view a.toNat) = none
  codes : codesOk (u.readTile cl (t.view a.toNat) (t.view b.toNat)).codes

/-- R121: an `MMA` that nothing stops, in the state t with the claim: admitted views, activation rows that fit their window and their ring
slots, a tile, a pairing of R112, and the right number of scales; and in the state u that it runs in, rows enough in `cl.op` and
from the keeper, and no reserved code. -/
structure MmaReady (t u : State) (a d : BitVec 6) : Prop where
  accs  : ∀ q ∈ [⟨t.view d.toNat, 0, false, 0⟩, ⟨t.view d.toNat, 0, true, 0⟩]
    ++ t.mmaReads t.ownTile (t.view a.toNat) (t.view d.toNat).rows, q.ready t = true
  out   : t.rowsOutside t.ownTile (t.view a.toNat) (t.view d.toNat).rows = false
  inv   : t.ringInvalid t.ownTile (t.view a.toNat) (t.view d.toNat).rows = none
  mism  : mmaMism (t.view a.toNat) t.actTy = []
  opnd  : noTrap (t.mmaOpnd 0 (t.view d.toNat) (t.view a.toNat)) = true
  late  : noTrap (t.mmaLate t.ownTile (t.view d.toNat) (t.view a.toNat)) = true
  epoch : u.keepMode = true → ∀ r ∈ u.curC.kpscl.take (t.view d.toNat).rows,
    sumEpoch r.row (memberOf u.curCore) = t.ownTile.epoch.toNat
  rows  : (t.view a.toNat).h = 52 → (t.view d.toNat).rows * u.actPer t.ownTile ≤ u.curC.clop.length
  sums  : u.keepMode = true → (t.view d.toNat).rows ≤ u.curC.kpscl.length
  codes : codesOk (u.mmaCodes t.ownTile (t.view a.toNat) (t.view d.toNat).rows)
  held  : (t.view a.toNat).entry.isSome = true → u.cur.holdWaits = false

/-- The access of an accumulator, or of a whole source, of the state with the claim. -/
def wholeOf (t : State) (h : BitVec 6) (out : Bool) : Acc := ⟨t.view h.toNat, 0, out, 0⟩

/-- R115: the i32 value that an accumulator element has after its first k additions. -/
def intSum (raw : Nat) (ps : List (Int × Int)) (k : Nat) : Int :=
  intOf true 32 (wrap 32 (intOf true 32 raw + ((ps.take k).map fun p => p.1 * p.2).sum))

/-- R137: the core groups that `CMPS` names. -/
def composeSize (kk : BitVec 2) : Nat := 2 ^ (kk.toNat + 1)

/-- R202: the access of a destination that is the only operand. -/
def loneDst (s : State) (o : BitVec 2) (d : BitVec 6) (n : Nat) : Acc :=
  ⟨s.view d.toNat, (offsets o none (some (s.view d.toNat))).dst, true, n⟩

/-! ## System instructions and special registers (R198, R317 to R325, R426) -/

/-- The access of a source that is the only operand, of n elements. -/
def loneSrc (s : State) (o : BitVec 2) (a : BitVec 6) (n : Nat) : Acc :=
  ⟨s.view a.toNat, (offsets o (some (s.view a.toNat)) none).src, false, n⟩

/-- Ready accesses of an instruction of one source and one destination, and an admitted slot offset. -/
structure PairReady (s : State) (o : BitVec 2) (a d : BitVec 6) (n : Nat) : Prop where
  dst : (dstOf s o a d n).ready s = true
  src : (srcOf s o a d 1).ready s = true
  off : (offsets o (some (s.view a.toNat)) (some (s.view d.toNat))).bad = none

/-- R321: an `SVS` or `RSS` of a system firing that nothing stops before its area: a page of the own slice with room for the area of
the stopped slot w, which for `RSS` is one that can be restored (not `bad`). -/
structure AreaReady (s : State) (o : BitVec 2) (a : BitVec 6) (bad : State → Nat → Bool) : Prop where
  core : s.onCore
  sys  : s.cur.sysFlag = true
  src  : (loneSrc s o a 2).ready s = true
  off  : (offsets o (some (s.view a.toNat)) none).bad = none
  ty   : (s.view a.toNat).isB 2 = true
  area : s.areaTrap (s.view a.toNat).h ((loneSrc s o a 2).elem s 0) ((loneSrc s o a 2).elem s 1) bad = none
  calm : s.testing ((loneSrc s o a 2).elem s 0) (areaLen (s.slot s.curCore ((loneSrc s o a 2).elem s 1)).wlen) = false

/-- R318: the trap mask bit of a fault code in the actor of the executing firing, its trap entry taken where it may be. -/
def handled (s : State) (a : Actor) (code : Nat) : Prop :=
  s.actorOf s.cur = some a ∧ code < 64 ∧ bits a.tmask.toNat code 1 = 1 ∧ s.cur.trapAct = false

/-- R209, R108, R17: the traps that always park. -/
def alwaysParks (code : Nat) : Prop := code = 0x08 ∨ code = 0x0C ∨ (0x10 ≤ code ∧ code ≤ 0x14)

/-- R318: the frame that a trap of code c writes, low word first: code, resume, detail and instruction. -/
def frameWords (s : State) (t : Trap) : List Nat :=
  [t.code, t.resume s.cur.pc.toNat, t.detail s.cur.pass, s.instAt s.cur s.curCore]

/-! ## Events (R8 to R46, R77 to R87, R124 to R138, R320, R344 to R429) -/

/-- R346: a function that may give a command for a context, which is live and not fenced. -/
def mayCommand (s : State) (fn ctx : Nat) : Prop :=
  fn < 256 ∧ (fn = 0 ∨ fn = ctx) ∧ (s.ctx ctx).live = true ∧ (s.ctx ctx).fenced = false

/-- R401: a function that may give a debug command for a context. -/
def mayDebug (s : State) (fn ctx : Nat) : Prop := mayCommand s fn ctx ∧ (s.ctx ctx).debug = true

/-- R77, R74: the slot of a running firing of a context that a debug command can halt, no `MSC` row of it under way (R134). -/
def canHalt (s : State) (ctx core slot : Nat) : Prop :=
  slot < 4 ∧ core < numCores ∧
    let x := s.slot (s.ownerOf core slot).1 (s.ownerOf core slot).2
    x.ctx = ctx ∧ x.bound = true ∧ x.st = .running ∧ x.midMatrix = false

/-- R402: a slot and an item of it that a debug command names. -/
def namesItem (s : State) (ctx core slot : Nat) (i : DbgItem) : Prop :=
  s.namesSlot ctx core slot (s.ownerOf core slot) = true ∧ s.itemOk (s.ownerOf core slot).1 (s.ownerOf core slot).2 i = true

/-- R360 to R369, R149: a slot of a core that works, whose firing, or the scrum that holds the slot, can be saved: its items fit the
overflow area (R366), no `MSC` row of it is under way (R134), and it does not wait to be undone (R281). -/
def canSave (s : State) (core slot : Nat) : Prop :=
  slot < 4 ∧ core < numCores ∧ (s.core core).fenced = false ∧ s.canSave (s.ownerOf core slot).1 (s.seated core slot) = true

/-! ## The whole machine (R12, R20, R199, R209, R242, R272) -/

/-- R199: where the code of the executing agent stands, from a halfword on. -/
def codeAt (s : State) (pc : Nat) : Nat :=
  if isEngine s.curCore then ucodeAddr (s.curCore - 0x4000) (2 * pc) else codeAddr s.cur.ctx (2 * pc)

/-- The state in which slot k of the named core issues: its own firing, or that of the scrum which holds the slot (R144). -/
def seatedAt (s : State) (k : Nat) : State :=
  { s with curCore := (s.ownerOf s.curCore k).1, curSlot := (s.ownerOf s.curCore k).2 }

/-- A branch, or an instruction that only goes on, that nothing stops: what their frame is stated for. -/
def goes (s : State) (i : Instr) : Prop :=
  let jump (o : BitVec 2) (a : BitVec 6) : Prop :=
    let q : Acc := ⟨s.view a.toNat, (offsets o (some (s.view a.toNat)) none).src, false, 1⟩
    q.ready s = true ∧ idxOk q.v = true ∧ (offsets o (some q.v) none).bad = none ∧ canGo s (q.int s)
  match i with
  | .br f _ n g => s.cur.guardOpen g = false ∧ (s.cur.guardOn g n = true → canGo s (s.cur.pc.toNat + f.toInt))
  | .brl f _ n g => s.cur.guardOpen g = false ∧ (s.cur.guardOn g n = true → canGo s (s.cur.pc.toNat + f.toInt))
  | .jr o a => jump o a
  | .jrl o a => jump o a
  | .ret => canGo s s.cur.lnk.toNat
  | .nop => True
  | .nopH _ _ => True
  | _ => False

/-- The slot without what retiring changes, the link, and the run-ahead buffer with its branches (R175, R246). -/
def bare (x : Slot) : Slot := { x.frame0 with lnk := 0, gen := 0, opened := [], ra := [] }
end Sys2Proof.Claims

open Sys2Proof Sys2Proof.Machine Sys2Proof.Claims

/-- R223, R224, R257 and the tables of R200, R226 to R235 and R239: every arithmetic form that nothing stops retires with its
lanes written, and with the advance of a short form made. One of a restartable firing that reads `in.rpl` commits its firing first and then
issues again (R279). -/
def Obligations.ArithmeticCompletes : Prop :=
  ∀ (s : State) (i : Instr) (f : Claims.Form), form s i = some f →
    (FormReady s f → exec i s = .next (s.retired i (formResult s f))) ∧
    (FormReady (s.updCur fun x => { x with restart := false }) f → s.cur.restart = true → s.cur.canCommit = true →
      (∃ q ∈ arithAccs f.o f.d f.srcs f.x s, q.v.h = 49 ∧ q.out = false) →
      exec i s = .next (s.commit s.curCore s.curSlot))

/-- R96, R200, R204, R226, R229: on integers each of these instructions, in form T, in its short form, and `ADDI`, writes to every lane the
exact result of its formula, fitted to the destination's type: wrapped, or saturated where the destination says so or the instruction always
does. -/
def Obligations.IntegerResultsAreExactFitted : Prop :=
  (∀ (s : State) (i : Instr) (f : Claims.Form) (g : Int → Int → Int), form s i = some f → shortInt i = some g →
    (arithTy f.d f.srcs s).isInt = true → FormReady s f → ∃ v, Writes s i f v ∧
      ∀ k, k < v.length →
        v.getD k 0 = (arithTy f.d f.srcs s).fit (s.view f.d).sat (g (lsrc (laneSrcs s f k) 0).int (lsrc (laneSrcs s f k) 1).int) ∧
        ∀ n a d, i = .addi n a d → (lsrc (laneSrcs s f k) 1).int = n.toInt) ∧
  ∀ (s : State) (o : BitVec 2) (b a d : BitVec 6),
    let srcs : List Src := [.hnd a.toNat, .hnd b.toNat]
    let op := arithTy d.toNat srcs s
    op.isInt = true → s.cur.runs = true → (∀ q ∈ arithAccs o d.toNat srcs {} s, q.ready s = true) →
    mismatch .any .none op (s.view d.toNat) [s.view a.toNat, s.view b.toNat] = [] →
    noTrap (arithOpnd o d.toNat srcs {} s) = true →
    let lanes (sat : Bool) (g : Int → Int → Int) : List Nat := (List.range (laneCount (s.view d.toNat) op)).map fun k =>
      op.fit sat (g (srcInt o d.toNat srcs s 0 k) (srcInt o d.toNat srcs s 1 k))
    let out (v : List Nat) : State := (arithDst o d.toNat srcs s).putLanes s op.bits v
    (∀ p ∈ intForms, exec (p.1 o b a d) s = .next (s.retired (p.1 o b a d) (out (lanes (s.view d.toNat).sat p.2)))) ∧
    (∀ p ∈ satForms, exec (p.1 o b a d) s = .next (s.retired (p.1 o b a d) (out (lanes true p.2))))

/-- R96: a result outside the destination's range wraps to its low bits, or saturates to the nearest value in range; a result
inside it is written as it is. -/
def Obligations.IntegerFit : Prop :=
  ∀ (t : Ty) (v : Int), t.isInt = true →
    t.fit false v < 2 ^ t.bits ∧ (t.fit false v : Int) % (2 ^ t.bits : Nat) = v % (2 ^ t.bits : Nat) ∧
    (t.minInt ≤ v → v ≤ t.maxInt → t.intVal (t.fit false v) = v ∧ t.intVal (t.fit true v) = v) ∧
    (t.maxInt < v → t.intVal (t.fit true v) = t.maxInt) ∧ (v < t.minInt → t.intVal (t.fit true v) = t.minInt)

/-- R97, R99, R100: an exact value rounded to a float type: a finite one to the value its mode names, or to what an overflow is delivered as; an
infinity as an overflow; a NaN as the canonical one. -/
def Obligations.FloatRounding : Prop :=
  ∀ (t : Ty) (rnd : Nat) (sat neg : Bool) (m : Nat) (e : Int), t ∈ fiveFloats → rnd < 4 →
    FloatFits t rnd sat neg (fun q => q ≤ ratOf (.fin neg m e)) (fun q => ratOf (.fin neg m e) ≤ q) (roundFloat t rnd sat (.fin neg m e)) ∧
    roundFloat t rnd sat (.inf neg) = infCode t sat neg ∧ roundFloat t rnd sat .nan = t.qnan

/-- R98 to R102, R226, R227, R229, R231: on floats each of these instructions writes to every lane the exact result of its formula,
rounded once, with the sign an exact zero has, and the IEEE 754 result of an infinity or a NaN; `RSQ` writes one of the two values that
bracket its result, and of `EXP2` the whole powers and of `LOG2` the powers of two whose logarithm the type has are stated beside the special
operands. That with `sat` an infinite result of finite sources is the largest finite value is the model's choice (log entry 41), and so is
that a faithful result beyond the type is one that R100 delivers (log entry 14). -/
def Obligations.FloatResultsAreRounded : Prop :=
  ∀ (s : State) (i : Instr) (f : Claims.Form) (r : FRule), form s i = some f → floatRule i = some r →
    (arithTy f.d f.srcs s).isFloat = true → FormReady s f → ∃ v, Writes s i f v ∧
      ∀ k, k < v.length →
        r (arithTy f.d f.srcs s) (s.view f.d).rnd (s.view f.d).sat ((laneSrcs s f k).map LVal.num') (v.getD k 0)

/-- R96, R226, R227, R229, R231: on integers the logic, the shifts and rotates, the bit counts and bit fields, the extensions, the high
product, the division and remainder, the bounds, and the fused operations write to every lane what their rules make of its sources. The sign
that `BFX` reads above the width is the model's choice (log entry 40). -/
def Obligations.BitResultsAreExact : Prop :=
  ∀ (s : State) (i : Instr) (f : Claims.Form) (r : Ty → Bool → List LVal → Nat), form s i = some f → bitRule i = some r →
    (arithTy f.d f.srcs s).isInt = true → FormReady s f → ∃ v, Writes s i f v ∧
      ∀ k, k < v.length → v.getD k 0 = r (arithTy f.d f.srcs s) (s.view f.d).sat (laneSrcs s f k)

/-- R223, R226, R59, R200: an arithmetic form that nothing stops changes, in its own slot, what retiring changes and what a write
through a port or `out.msg` leaves, and elsewhere the bytes of its destination; a short form with its advance bit also
moves the ring it read: a view of the slot by one slot, and another ring as its own advance does, after that write. -/
def Obligations.ArithmeticFrame : Prop :=
  ∀ (s t : State) (i : Instr) (f : Claims.Form), form s i = some f → FormReady s f → exec i s = .next t →
    let framed (u : State) : Prop :=
      Kept s u ∧ (Memory.wf s.mem = true → ∀ a : Nat, (∀ r ∈ (arithDst f.o f.d f.srcs s).ranges, ∀ k, k < r.2 →
        a ≠ s.winAddr ⟨(s.view f.d).core, (s.view f.d).slot, r.1 + k⟩) → memGet u.mem a = memGet s.mem a)
    (f.x.adv = none → framed t ∧ s.cur.retiresWriting t.cur ∧
      ((s.view f.d).h = 54 → t.mem = s.mem ∧ t.cur.ports = s.cur.ports ∧ t.cur.outMsg = s.cur.outMsg)) ∧
    (∀ h, f.x.adv = some h → ∃ u, framed u ∧ s.cur.retiresWriting u.cur ∧
      t = s.retired i (u.advanceRead (u.view h) 1)) ∧
    (∀ h, f.x.adv = some h → (s.view h).entry = none → (s.view h).fixed = false → framed t ∧
      ({ s.cur with views := mput s.cur.views (s.view h).h (dMove (s.view h).d false 1) } : Slot).retiresWriting t.cur)
/-- R261, R262: a lane movement that nothing stops, whose value limit holds and whose elements convert, retires with each lane
of its destination holding the element its row picks, or zero where it picks none. -/
def Sys2Proof.Claims.LaneMovementCompletes : Prop :=
  ∀ (s : State) (i : Instr) (o : BitVec 2) (b a d : BitVec 6) (m : Move), moveForm i = some (o, b, a, d, m) → s.onCore →
    (∀ q ∈ moveAccs o b a d m s, q.ready s = true) → moveMism b a d m s = [] → noTrap (moveOpnd o b a d m s) = true →
    (m.useB = true → m.okB (moveIdx b m s) = true) → (∀ r ∈ moveOuts o b a d m s, ∃ v, r = .ok v) →
    exec i s = .next (s.retired i
      ((moveDst o a d s).putLanes s (moveTy b a d m s).bits ((moveOuts o b a d m s).map laneBits)))

/-- R262: the element that each movement takes for lane j of n, from the elements of a and b, the indices x that b holds, and the mask m
of the elements whose bits are not all zero (a's, and d's for `EXPD`): `BCST` element 0, `PERM` the one b's element names, `SHFL` j XOR
b, `SLIDE` j + b, `ZIP` of a and b in turn, `UNZP` 2j + b, `CMPR` the j-th of a that is not all zero, `EXPD` the next of a where d is
not; an index outside a gives zero (no element). -/
def Sys2Proof.Claims.LaneMovementPicks : Prop :=
  ∀ (n j : Nat) (a b : List Elem) (x : List Int) (m : List Bool), j < n →
    (mvBcst.pick n a b x m)[j]? = some a.head? ∧
    (mvPerm.pick n a b x m)[j]? =
      some (let k := x.getD (if x.length = 1 then 0 else j) 0; if 0 ≤ k then a[k.toNat]? else none) ∧
    (mvShfl.pick n a b x m)[j]? = some a[j ^^^ (x.headD 0).toNat]? ∧
    (mvSlide.pick n a b x m)[j]? = some (if 0 ≤ (j : Int) + x.headD 0 then a[((j : Int) + x.headD 0).toNat]? else none) ∧
    (mvZip.pick n a b x m)[j]? = some (if j % 2 = 0 then a[j / 2]? else b[j / 2]?) ∧
    (mvUnzp.pick n a b x m)[j]? = some a[2 * j + (x.headD 0).toNat]? ∧
    (mvCmpr.pick n a b x m)[j]? = some (((a.zip m).filter Prod.snd).map Prod.fst)[j]? ∧
    (j < m.length → (mvExpd.pick n a b x m)[j]? =
      some (if m.getD j false then a[((m.take j).filter id).length]? else none))

/-- R263: a reduction or dot product that nothing stops retires with its results written. -/
def Sys2Proof.Claims.ReductionCompletes : Prop :=
  ∀ (s : State) (i : Instr) (o : BitVec 2) (b a d : BitVec 6) (m : Reduce), reduceForm i = some (o, b, a, d, m) → s.onCore →
    (∀ q ∈ reduceAccs o b a d m s, q.ready s = true) → reduceMism b a d m s = [] → noTrap (reduceOpnd o b a d m s) = true →
    exec i s = .next (s.retired i
      ((reduceDst o a d m s).putLanes s (reduceTy b a d m s).bits (reduceOuts o b a d m s)))

/-- R263, R110: on integers `REDADD` gives the fitted sum of all elements, `REDMAX` and `REDMIN` the greatest and the least,
`SCAN` in lane j the fitted sum of elements 0 to j, `DOT4` and `DOT2` in lane j d's element plus four or two products; no
partial sum is fitted. -/
def Sys2Proof.Claims.IntegerReductions : Prop :=
  ∀ (op : Ty) (sat : Bool) (n : Nat) (a b d : List Int),
    rdAdd.gi op sat n a b d = [op.fit sat a.sum] ∧
    (∀ x ∈ a, ∃ y z, (rdPick true).gi op sat n a b d = [op.fit sat y] ∧ (rdPick false).gi op sat n a b d = [op.fit sat z] ∧
      y ∈ a ∧ z ∈ a ∧ (∀ w ∈ a, z ≤ w ∧ w ≤ y) ∧ z ≤ x ∧ x ≤ y) ∧
    rdScan.gi op sat n a b d = (List.range a.length).map (fun j => op.fit sat (prefixSum a (j + 1))) ∧
    (∀ k, (rdDot k).gi op sat n a b d = (List.range n).map fun j => op.fit sat (d.getD j 0 + dotSum k a b j))

/-- R266: `VIEW` writes d the descriptor of a with its base moved by b. That `zero` may stand as b, and moves it by nothing, is the model's
reading (log entry 31), and so is that an invalid a is copied as it is (log entry 30). -/
def Sys2Proof.Claims.ViewCompletes : Prop :=
  ∀ (s : State) (b a d : BitVec 6), s.onCore →
    let dv := s.view d.toNat
    let av := s.view a.toNat
    let bv := s.view b.toNat
    let base : Int := (av.base : Int) + (if bv.h = 54 then 0 else (plain s b false 1).int s)
    dv.fixed = false → av.fixed = false → dv.isPort = false → av.isPort = false →
    (bv.h = 54 ∨ (bv.fixed = false ∧ bv.shape = 0 ∧ bv.ring = false ∧ idxOk bv = true)) →
    (plain s b false 1).ready s = true → 0 ≤ base → base ≤ 0x7FFF → s.viewPending dv = false →
    exec (.view 0 b a d) s = .next (s.retired (.view 0 b a d)
      (s.updCur fun x => { x with views := mput x.views dv.h (dSet av.d 0 15 base.toNat) }))

/-- R266, R267: `VGET` writes the 16 bytes of a's descriptor, `VSET` takes a descriptor from 16 bytes but for its read-only
fields and `port`, and `RFIL` writes the fill of a ring or fixed port, fitted. That `VGET` of an invalid view completes is the model's reading
(log entry 30). -/
def Sys2Proof.Claims.DescriptorMovesComplete : Prop :=
  ∀ (s : State) (a d : BitVec 6), s.onCore →
    let dv := s.view d.toNat
    let av := s.view a.toNat
    (dv.fixed = false → av.fixed = false → dv.is16 = true → (plain s d true 0).ready s = true →
      exec (.vget 0 a d) s = .next (s.retired (.vget 0 a d) ((plain s d true 0).putBytes s (toLe 16 av.d.toNat)))) ∧
    (dv.fixed = false → av.fixed = false → av.is16 = true → dv.isPort = false → (plain s a false 0).ready s = true →
      s.viewPending dv = false →
      exec (.vset 0 a d) s = .next (s.retired (.vset 0 a d) (s.updCur fun x => { x with
        views := mput x.views dv.h (dWrite dv.d (BitVec.ofNat 128 (leNat ((plain s a false 0).rowBytesOf s 0)))) }))) ∧
    (∀ n, s.fillOf av = some n → (plain s a false 1).invalid s = false → dv.ty.isFloat = false → dv.ring = false →
      dv.shape < 2 → (plain s d true 1).ready s = true →
      exec (.rfil 0 a d) s = .next (s.retired (.rfil 0 a d) ((plain s d true 1).putRaw s (dv.ty.fit dv.sat (n : Int)))))

/-- R59, R61, R63, R269: `ADVR` and `ADVW` move the ring of their handle by n slots. -/
def Sys2Proof.Claims.AdvanceCompletes : Prop :=
  ∀ (s : State) (n : BitVec 13) (d : BitVec 6),
    let v := s.view d.toNat
    (AdvanceReady s v false n.toNat → exec (.advr n d) s = .next (s.retired (.advr n d) (s.advanceRead v n.toNat))) ∧
    (AdvanceReady s v true n.toNat → exec (.advw n d) s = .next (s.retired (.advw n d) (s.advance v true n.toNat)))

/-- R57, R59: where slot k of a ring stands, counted from its read and from its write side, with its shape laid out in the slot as it would
be at the base; and how a ring moves. An advance of the read side by n moves the read pointer n slots on, wrapping at the slot count,
and takes n from the fill; of the write side it moves the write pointer and adds n; nothing below the pointers changes. -/
def Obligations.RingMoves : Prop :=
  (∀ (v : View) (k : Nat), v.ring = true →
    let slot (p : Nat) : Nat := dF v.d 0 15 + (p + k) % (dF v.d 95 8 + 1) * (4 * (dF v.d 85 10 + 1))
    v.start k false = slot (dF v.d 103 8) ∧ v.start k true = slot (dF v.d 111 8)) ∧
  (∀ q : Acc, q.v.fixed = false →
    q.ranges = ({ q with v := { q.v with d := dSet q.v.d 84 1 0 } } : Acc).ranges.map fun r =>
      (q.v.start q.o q.out + (r.1 - q.v.base), r.2)) ∧
  ∀ (d : BitVec 128) (n : Nat), dF d 119 9 ≤ dF d 95 8 + 1 →
    let cnt := dF d 95 8 + 1
    let r := dMove d false n
    let w := dMove d true n
    (n ≤ dF d 119 9 → dF r 103 8 = (dF d 103 8 + n) % cnt ∧ dF r 119 9 = dF d 119 9 - n ∧ dF r 0 103 = dF d 0 103 ∧
      dF r 111 8 = dF d 111 8) ∧
    (n ≤ cnt - dF d 119 9 → dF w 111 8 = (dF d 111 8 + n) % cnt ∧ dF w 119 9 = dF d 119 9 + n ∧ dF w 0 111 = dF d 0 111)

/-- R270, R271, R272: `REPB` captures its body from the code after it, and the first instruction of the first pass is next. A reserved
encoding in the body traps where it stands (R209, which ranks it first; that it does so in a body is log entry 46). -/
def Sys2Proof.Claims.RepeatCaptures : Prop :=
  ∀ (s : State) (stag : BitVec 13) (c n : BitVec 6) , s.onCore →
    let start := (s.cur.pc.toNat + 2) % 2 ^ 24
    let got := s.capture (n.toNat + 1) start
    let after := got.body.foldl (fun p q => p + q.2.2) start
    (got.resv = none → got.bad = false → got.past = false → staggerBad (c.toNat + 1) stag.toInt got.body = none →
      (s.cur.scrum = none ∨ s.bodyOneBlock start after = true) →
      exec (.repb stag c n) s = .next (((s.noteIssue s).count s.curCore 2).updCur fun y =>
        { y.atBlock s start false with
          rep := some ⟨got.body, c.toNat + 1, stag.toInt, 0, 0, true, BitVec.ofNat 24 after, false⟩
          pc := BitVec.ofNat 24 start, wait := .none, waitOn := [] })) ∧
    (∀ at_, got.resv = some at_ →
      exec (.repb stag c n) s = .next ((s.updCur fun y => { y with pc := BitVec.ofNat 24 at_ }).trapCur { code := 8 }))

/-- R274: `REPX` runs the captured body again, from its first pass. -/
def Sys2Proof.Claims.RepeatAgain : Prop :=
  ∀ (s : State) (r : Rep), s.onCore → s.cur.rep = some r →
    exec .repx s = .next (((s.noteIssue s).count s.curCore 2).updCur fun y =>
      { y with rep := some { r with k := 0, j := 0, active := true, after := y.pc + 2, susp := false },
               pc := match r.body with | [] => y.pc | q :: _ => q.2.1, wait := .none, waitOn := [] })

/-- R272: while a repetition runs, each instruction that retires is followed by the next of the pass, after the last one by the
next pass, and after the last pass by the code past the body; in pass k a handle field below h48 names the handle k staggers
further. -/
def Sys2Proof.Claims.RepeatPasses : Prop :=
  ∀ (s : State) (r : Rep) (len : Nat), s.cur.rep = some r → r.active = true →
    (r.j + 1 < r.body.length → (s.retire len).cur.rep = some { r with j := r.j + 1 }) ∧
    (r.body.length ≤ r.j + 1 → r.k + 1 < r.count → (s.retire len).cur.rep = some { r with j := 0, k := r.k + 1 }) ∧
    (r.body.length ≤ r.j + 1 → r.count ≤ r.k + 1 →
      (s.retire len).cur.rep = some { r with j := 0, k := 0, active := false } ∧ (s.retire len).cur.pc = r.after) ∧
    (∀ h, h < 48 → (s.view h).h = ((h : Int) + r.k * r.stag).toNat) ∧ (∀ h, 48 ≤ h → (s.view h).h = h)

/-- R90, R236, R237: a compare writes its guard slot: where no byte of its sources is pending, `CMP` all ones or all zero by element 0 and
`CMPM` one bit per lane; where some are, the slot stands unresolved, with its mask and with what the compare captured. That one on bytes
which only a held effect can land commits its firing first is the model's reading (log entry 144). -/
def Sys2Proof.Claims.CompareCompletes : Prop :=
  ∀ (s : State) (c : BitVec 3) (o : BitVec 2) (b a d : BitVec 6) (mask : Bool), CompareReady s mask o b a d.toNat →
    let i : Instr := if mask then .cmpm c o b a d else .cmp c o b a d
    let accs := [cmpA s mask o b a, cmpB s mask b a]
    let t := readsIn s accs
    let n := if mask then cmpLanes s b a else 0
    let r := cmpSrcs s t mask o b a
    readsMay s accs →
    ((∀ q ∈ accs, q.marks t = []) → exec i s = .next (s.retired i (guardSet t d.toNat (cmpMask c.toNat n r.1 r.2)))) ∧
    ((∃ q ∈ accs, q.marks t ≠ []) → exec i s = .next (s.retired i (guardOpened t d.toNat (.cmp c.toNat n r.1 r.2))))

/-- R90: an unresolved guard slot takes its outcome when the last mark that it waits for clears: a compare with the bytes landed put into what it
captured, `GMOV` as well; a guard operation on it resolves in the same cycle. -/
def Sys2Proof.Claims.GuardsResolve : Prop :=
  ∀ (s : State) (x : Slot) (id n g : Nat) (p : Place) (m : BitVec 16), g < 7 →
    let y := x.landed s id p n
    (∀ cond lanes a b, x.guard g = ⟨m, some (.cmp cond lanes a b)⟩ → (∀ w ∈ a.waits ++ b.waits, w = id) →
      let r := cmpMask cond lanes (a.land s id p n) (b.land s id p n)
      y.guard g = ⟨r, none⟩ ∧
      ∀ h k, h < 7 → (x.guard h = ⟨k, some (.not (.idx g))⟩ → y.guard h = ⟨~~~r, none⟩) ∧
        ∀ v, (x.guard h = ⟨k, some (.and (.idx g) (.val v))⟩ → y.guard h = ⟨r &&& v, none⟩) ∧
          (x.guard h = ⟨k, some (.or (.idx g) (.val v))⟩ → y.guard h = ⟨r ||| v, none⟩) ∧
          (x.guard h = ⟨k, some (.xor (.idx g) (.val v))⟩ → y.guard h = ⟨r ^^^ v, none⟩)) ∧
    (∀ a, x.guard g = ⟨m, some (.mov a)⟩ → (∀ w ∈ a.waits, w = id) →
      y.guard g = ⟨BitVec.ofNat 16 (((a.land s id p n).raws.getD 0 0).toNat), none⟩) ∧
    (∀ cond lanes a b, x.guard g = ⟨m, some (.cmp cond lanes a b)⟩ → (∃ w ∈ a.waits ++ b.waits, w ≠ id) →
      y.guard g = ⟨m, some (.cmp cond lanes (a.land s id p n) (b.land s id p n))⟩)

/-- R237: the outcome on one lane: by the condition on the exact integers; on floats −0 equals +0, and with a NaN only `.ne`
and `.uo` hold. `CMP` sets all sixteen bits to it. -/
def Sys2Proof.Claims.CompareConditions : Prop :=
  ∀ (a b : GSrc) (i : Nat),
    let op := cmpType a.type b.type
    let x := (a.readTy op).intVal (a.lane op i)
    let y := (b.readTy op).intVal (b.lane op i)
    let u := (a.readTy op).num (a.lane op i)
    let v := (b.readTy op).num (b.lane op i)
    (op.isFloat = false →
      (cmpLane 0 a b i = true ↔ x = y) ∧ (cmpLane 1 a b i = true ↔ x ≠ y) ∧ (cmpLane 2 a b i = true ↔ x < y) ∧
      (cmpLane 3 a b i = true ↔ x ≤ y) ∧ (cmpLane 4 a b i = true ↔ x > y) ∧ (cmpLane 5 a b i = true ↔ x ≥ y) ∧
      cmpLane 6 a b i = false ∧ cmpLane 7 a b i = true) ∧
    (op.isFloat = true → u = .nan ∨ v = .nan → ∀ c, c < 8 → (cmpLane c a b i = true ↔ c = 1 ∨ c = 6)) ∧
    (op.isFloat = true → u ≠ .nan → v ≠ .nan →
      (cmpLane 0 a b i = u.eqv v) ∧ (cmpLane 1 a b i = !u.eqv v) ∧ (cmpLane 2 a b i = u.lt v) ∧ (cmpLane 4 a b i = v.lt u) ∧
      (cmpLane 3 a b i = !v.lt u) ∧ (cmpLane 5 a b i = !u.lt v) ∧ cmpLane 6 a b i = false ∧ cmpLane 7 a b i = true ∧
      (XNum.fin true 0 0).eqv (.fin false 0 0) = true) ∧
    (∀ c j, j < 16 → (cmpMask c 0 a b).getLsbD j = cmpLane c a b 0) ∧
    (∀ c n j, n ≤ 16 → 0 < n → (cmpMask c n a b).getLsbD j = (decide (j < n) && cmpLane c a b j))

/-- R90, R238: the guard operations act on whole masks; `GMOV` takes bits 15 to 0 of an integer or `b` element. One of an unresolved guard,
or of pending bytes, leaves its slot unresolved. That `GMOV` commits as a compare does is the model's reading (log entry 144). -/
def Sys2Proof.Claims.GuardOperationsComplete : Prop :=
  ∀ (s : State) (o : BitVec 2) (b a d : BitVec 6), s.cur.runs = true → (s.cur.guard d.toNat).src = none →
    (∀ ma mb, s.cur.guard a.toNat = ⟨ma, none⟩ → s.cur.guard b.toNat = ⟨mb, none⟩ →
      exec (.gand b a d) s = .next (s.retired (.gand b a d) (guardSet s d.toNat (ma &&& mb))) ∧
      exec (.gor b a d) s = .next (s.retired (.gor b a d) (guardSet s d.toNat (ma ||| mb))) ∧
      exec (.gxor b a d) s = .next (s.retired (.gxor b a d) (guardSet s d.toNat (ma ^^^ mb)))) ∧
    (∀ ma, s.cur.guard a.toNat = ⟨ma, none⟩ →
      exec (.gnot a d) s = .next (s.retired (.gnot a d) (guardSet s d.toNat (~~~ma)))) ∧
    (let x := guardSource s a
     let y := guardSource s b
     ((s.cur.guard a.toNat).src.isSome = true ∨ (s.cur.guard b.toNat).src.isSome = true →
      exec (.gand b a d) s = .next (s.retired (.gand b a d) (guardOpened s d.toNat (.and x y))) ∧
      exec (.gor b a d) s = .next (s.retired (.gor b a d) (guardOpened s d.toNat (.or x y))) ∧
      exec (.gxor b a d) s = .next (s.retired (.gxor b a d) (guardOpened s d.toNat (.xor x y)))) ∧
     ((s.cur.guard a.toNat).src.isSome = true →
      exec (.gnot a d) s = .next (s.retired (.gnot a d) (guardOpened s d.toNat (.not x))))) ∧
    (let q : Acc := ⟨s.view a.toNat, (offsets o (some (s.view a.toNat)) none).src, false, 1⟩
     let t := readsIn s [q]
     idxOk q.v = true → q.readyButPending s = true → (offsets o (some q.v) none).bad = none → readsMay s [q] →
      (q.marks t = [] → exec (.gmov o a d) s = .next (s.retired (.gmov o a d) (guardSet t d.toNat (BitVec.ofNat 16 (q.elem t 0))))) ∧
      (q.marks t ≠ [] → exec (.gmov o a d) s = .next (s.retired (.gmov o a d) (guardOpened t d.toNat (.mov (q.capture t 1))))))

/-- R240, R242: a branch whose guard holds goes to its own halfword address plus its offset, and `BRL` then writes the address
after itself to `sys.lnk`; one whose guard does not hold falls through and writes nothing. -/
def Sys2Proof.Claims.BranchCompletes : Prop :=
  ∀ (s : State) (f : BitVec 20) (k n : Bool) (g : BitVec 3), s.cur.runs = true → s.cur.guardOpen g = false →
    let target : Int := s.cur.pc.toNat + f.toInt
    let likely := k || (g == 7 && !n)
    (s.cur.guardOn g n = true → canGo s target →
      exec (.br f k n g) s = .next (s.jumped target.toNat
        ((s.branchDone likely).traceBranch s.curCore s.curSlot target.toNat 0)) ∧
      exec (.brl f k n g) s = .next (s.jumped target.toNat
        (((s.updCur fun x => { x with lnk := BitVec.ofNat 32 (x.pc.toNat + 2) }).branchDone likely).traceBranch
          s.curCore s.curSlot target.toNat 1))) ∧
    (s.cur.guardOn g n = false →
      exec (.br f k n g) s = .next (s.retired (.br f k n g) (s.branchDone (!likely))) ∧
      exec (.brl f k n g) s = .next (s.retired (.brl f k n g) (s.branchDone (!likely))))

/-- R241, R242: `JR` and `JRL` go to the address in an integer or `b` element, `JRL` writing the address after itself to
`sys.lnk`; `RET` goes to `sys.lnk`. -/
def Sys2Proof.Claims.IndirectJumpCompletes : Prop :=
  ∀ (s : State) (o : BitVec 2) (a : BitVec 6), s.cur.runs = true →
    let q : Acc := ⟨s.view a.toNat, (offsets o (some (s.view a.toNat)) none).src, false, 1⟩
    (q.ready s = true → idxOk q.v = true → (offsets o (some q.v) none).bad = none → canGo s (q.int s) →
      exec (.jr o a) s = .next (s.jumped (q.int s).toNat (s.traceBranch s.curCore s.curSlot (q.int s).toNat 3)) ∧
      exec (.jrl o a) s = .next (s.jumped (q.int s).toNat
        ((s.updCur fun x => { x with lnk := BitVec.ofNat 32 (x.pc.toNat + 2) }).traceBranch
          s.curCore s.curSlot (q.int s).toNat 4))) ∧
    (canGo s s.cur.lnk.toNat →
      exec .ret s = .next (s.jumped s.cur.lnk.toNat (s.traceBranch s.curCore s.curSlot s.cur.lnk.toNat 5)))

/-- R243: `LOOP` writes d − 1, wrapping, and branches while the new value is not zero. -/
def Sys2Proof.Claims.LoopCompletes : Prop :=
  ∀ (s : State) (i : BitVec 13) (d : BitVec 6), s.cur.runs = true → idxOk (s.view d.toNat) = true →
    (plain s d true 1).ready s = true → (plain s d false 1).ready s = true →
    let w := (s.view d.toNat).ty.bits
    let x := ((plain s d false 1).elem s 0 + 2 ^ w - 1) % 2 ^ w
    let target : Int := s.cur.pc.toNat + i.toInt
    (x = 0 → exec (.loop i d) s = .next (s.retired (.loop i d) (((plain s d true 1).putRaw s 0).branchDone false))) ∧
    (x ≠ 0 → canGo s target → exec (.loop i d) s = .next (s.jumped target.toNat
      ((((plain s d true 1).putRaw s x).branchDone true).traceBranch s.curCore s.curSlot target.toNat 2)))

/-- R219, R251 to R253: `NOP` and the hint space change nothing but the code address; `YLD` stands last in the round-robin of
its level; `SEV` sets the event registers of its context's slots on the cluster, `EVCLR` clears its own, but for an event of the same cycle, which sets it after (R254), and `WFE` samples and clears
one that is set, a restartable firing committing first (R279). -/
def Sys2Proof.Claims.PlainControlCompletes : Prop :=
  ∀ (s : State) (h : BitVec 3) (x : BitVec 20), s.cur.runs = true →
    exec .nop s = .next (s.retired .nop s) ∧ exec (.nopH h x) s = .next (s.retired (.nopH h x) s) ∧
    (isEngine s.curCore = false →
      exec .yld s = .next (s.retired .yld
        (s.updCore s.curCore fun c => { c with issued := mput c.issued s.cur.pri s.curSlot })) ∧
      exec .sev s = .next (s.retired .sev (s.sev s.curCore s.cur.ctx)) ∧
      exec .evclr s = .next (s.retired .evclr (s.updCur fun y => { y with ev := y.ev && y.evAt == some s.now })) ∧
      (s.cur.ev = true → s.cur.restart = false →
        exec .wfe s = .next (s.retired .wfe (s.updCur (·.sample s.now)))) ∧
      (let t := s.commit s.curCore s.curSlot
       s.cur.restart = true → s.cur.canCommit = true → t.cur.ev = true →
        exec .wfe s = .next (s.retired .wfe (t.updCur (·.sample t.now)))))

/-- R247: `ALGN` retires at once in a scrum, and otherwise once every other member of its align set has gathered, letting go
those that wait for it. -/
def Sys2Proof.Claims.AlignCompletes : Prop :=
  ∀ (s : State), s.onCore →
    (s.cur.scrum.isSome = true → exec .algn s = .next (s.retired .algn s)) ∧
    (s.cur.scrum = none → s.cur.wait = .none →
      (∀ q ∈ s.alignSet, q ≠ (s.curCore, s.curSlot, s.cur.fid) → s.aligned s.cur.pc q = true) →
      exec .algn s = .next (s.retired .algn s.letGo))

/-- R248, R420: `END` waits, once, for the check of the block that it completes, and for every other; then it commits its firing, and once nothing is pending and its writes have performed ends it: its
ports are settled, its locks, claimed message and array released and its slot idle (`finish`). -/
def Sys2Proof.Claims.EndCompletes : Prop :=
  ∀ (s : State),
    (EndReady s → (blockEnded s).cur.canCommit = true →
      let t := (atEnd s).commit s.curCore s.curSlot
      t.cur.pend = [] → t.writesOut t.curCore t.curSlot = false →
      exec .endFiring s = .next (((t.noteIssue s).count t.curCore 2).finish t.curCore t.curSlot)) ∧
    (EndReady s → (blockEnded s).cur.canCommit = false → exec .endFiring s = .next ((blockEnded s).waitCur .drain [] false)) ∧
    (∀ b, s.cur.blk = some b → (blockEnded s).cur.canCommit = false ∧ (blockEnded s).cur.blk = none) ∧
    (s.onCore → s.cur.ending = true → s.cur.pend = [] → s.writesOut s.curCore s.curSlot = false →
      exec .endFiring s = .next (((s.noteIssue s).count s.curCore 2).finish s.curCore s.curSlot))

/-- R249, R250: `TRIG` holds one release of the launch's trigger, and does nothing where none is open; `HALT` retires and halts
its slot with cause 0x1. -/
def Sys2Proof.Claims.TriggerAndHaltComplete : Prop :=
  ∀ (s : State), s.onCore →
    (s.trigOpen = true → s.cur.holdWaits = false → exec .trig s = .next (s.retired .trig (s.hold .trig))) ∧
    (s.trigOpen = false → exec .trig s = .next (s.retired .trig s)) ∧
    exec .halt s = .next ((((s.noteIssue s).count s.curCore 2).retire 2).haltSlot s.curCore s.curSlot 1)

/-- R284, R246: a load gives its destination the bytes at its near address: from the run-ahead buffer where it holds them, or
from the own slice; at another slice its request leaves and its destination is pending; a load to `zero` there only
retires, which is the model's reading (log entry 51). A load of a word that a held atomic of its firing writes is held behind it (R155 wants its
value, and R277 holds the atomic), and so is one behind a fence that a held access has not passed (R167): that the load is held too is the
model's reading (log entries 171, 53). -/
def Sys2Proof.Claims.LoadCompletes : Prop :=
  ∀ (s : State) (sz o : BitVec 2) (f a d : BitVec 6) (n : Nat), LoadReady s sz o f a d n →
    let size := 2 ^ sz.toNat
    let q := loadDst s o a d (wide (s.view d.toNat) size)
    let hit := (s.acquired s.cur).ra.find? fun e => e.addr == n && e.size == size
    let done (t : State) : Prop := exec (.ld sz o f a d) s = .next (s.retired (.ld sz o f a d) t)
    (∀ e, hit = some e → ((s.view d.toNat).h ≠ 50 ∨ s.ownSlice n = true) →
      done (((q.putLoad s e.val).count s.curCore 0xB).updCur (·.dropWords n size))) ∧
    (hit = none → s.ownSlice n = true → s.fenceOpen = false → s.testing n size = false → s.poisoned n size = false →
      done ((q.putLoad s (s.bytesAt n size)).updCur (·.dropWords n size))) ∧
    (hit = none → s.ownSlice n = false → (s.view d.toNat).h = 54 → done s) ∧
    (hit = none → s.ownSlice n = false → (s.view d.toNat).h ≠ 54 → (s.view d.toNat).h ≠ 50 → s.cur.pendFull = false →
      s.cur.heldOn n size = false → s.cur.heldFence = false →
      let r := s.mark q (ldLen (s.view d.toNat) size) false true false
      done ((r.2.updCur (·.dropWords n size)).push (.nearLd s.curCore s.curSlot s.cur.scrum.isSome n size r.1))) ∧
    (hit = none → s.ownSlice n = false → (s.view d.toNat).h ≠ 54 → (s.view d.toNat).h ≠ 50 → s.cur.pendFull = false →
      (s.cur.heldOn n size = true ∨ s.cur.heldFence = true) → s.cur.holdWaits = false →
      let r := s.mark q (ldLen (s.view d.toNat) size) s.cur.restart true false
      done ((r.2.updCur (·.dropWords n size)).hold (.ld ⟨s.cur.scrum.isSome, n, size, r.1⟩)))

/-- R285, R210, R411: a store whose guard is on is performed at the own slice, or put in the release queue of its slot; the
watchpoints it matches are reported, and one of action 1 halts its firing. One that is guarded off retires with no other effect. -/
def Sys2Proof.Claims.StoreCompletes : Prop :=
  ∀ (s : State) (sz : BitVec 2) (b a f : BitVec 6) (sn : Bool) (g : BitVec 3),
    let size := 2 ^ sz.toNat
    (∀ n, StoreReady s size n a b f sn g → s.ownSlice n = true → s.cur.jrnWaits 1 = false → s.scrumWaits = false →
      s.testing n size = false →
      Wrote s (.st sz b a f sn g) (s.storeOwn [(n, storeBytes s b size)]) n size) ∧
    (∀ n, StoreReady s size n a b f sn g → s.ownSlice n = false → s.storesOut s.curCore s.curSlot < 32 →
      let t := (s.updCur (·.dropWords n size)).push (.nearSt s.curCore s.curSlot s.cur.fid s.cur.scrum.isSome n (storeBytes s b size))
      Wrote s (.st sz b a f sn g) t n size) ∧
    (s.cur.runs = true → s.cur.guardOpen g = false → s.cur.guardOn g sn = false → (plain s a false 1).marks s = [] →
      (plain s b false (wide (s.view b.toNat) size)).marks s = [] → exec (.st sz b a f sn g) s = .next (s.retired (.st sz b a f sn g) s))

/-- R67, R68, R286, R411: `LDS` gives its destination the sixteen words of a row or column of a skew tile of the own slice, and `STS`
stores its source there, its watchpoints reported or its firing halted. -/
def Sys2Proof.Claims.SkewAccesses : Prop :=
  ∀ (s : State) (m : Bool) (o : BitVec 2) (b f a d : BitVec 6) (sn : Bool) (g : BitVec 3) (n : Nat) (cells : List Nat),
    s.onCore → baseTrap (s.view a.toNat) = none → s.skewAt n m = some cells →
    ((loadDst s o a d 0).ready s = true → (loadBase s o a d).ready s = true → skewOk (s.view d.toNat) = true →
      (offsets o (some (s.view a.toNat)) (some (s.view d.toNat))).bad = none →
      nearForm ((loadBase s o a d).nat s) (f.toNat * 4) 4 = some n → s.fenceOpen = false → (∀ c ∈ cells, s.testing c 4 = false ∧ s.poisoned c 4 = false) →
      exec (.lds m o f a d) s = .next (s.retired (.lds m o f a d)
        ((loadDst s o a d 0).putBytes s (cells.flatMap fun c => s.bytesAt c 4)))) ∧
    ((plain s a false 1).ready s = true → (plain s b false 0).ready s = true → skewOk (s.view b.toNat) = true →
      s.cur.guardOpen g = false → s.cur.guardOn g sn = true →
      nearForm ((plain s a false 1).nat s) (f.toNat * 4) 4 = some n → s.cur.jrnWaits 16 = false → s.scrumWaits = false →
      (∀ c ∈ cells, s.testing c 4 = false) →
      let t := s.storeOwn (cells.mapIdx fun k c => (c, toLe 4 ((plain s b false 0).elem s k)))
      ((∀ c ∈ cells, noHalt t c 4) → exec (.sts m b a f sn g) s = .next (s.retired (.sts m b a f sn g) (reportedAll t cells))) ∧
      ((∃ c ∈ cells, ¬ noHalt t c 4) → exec (.sts m b a f sn g) s = .next (haltedBy t (reportedAll t cells))))

/-- R67, R68, R286: element k of a row access of a skew tile is the tile's element (i, j + k), of a column access (i + k, j),
indexes modulo 32, and element (r, c) of a tile stands 4 × (32 r + (r + c) mod 32) bytes from its base; each of the
sixteen words lies inside the tile's 4 KiB. -/
def Sys2Proof.Claims.SkewTilePlaces : Prop :=
  ∀ (core base i j k : Nat) (col : Bool), i < 32 → j < 32 → k < 16 →
    let r := if col then (i + k) % 32 else i
    let c := if col then j else (j + k) % 32
    (skewCells core base (base + 128 * i + 4 * j) col)[k]? = some (core * 2 ^ 17 + base + 4 * (32 * r + (r + c) % 32)) ∧
    4 * (32 * r + (r + c) % 32) + 4 ≤ 4096

/-- R166, R175, R287: a fence retires once every older near access of its scope has performed (`.f`: and every engine command has
landed its token), and the run-ahead buffer is discarded. Where the commit buffer holds an access of its scope (`.f`: or a command), the
fence takes its place behind them there, with the tokens it waits for: the reading of log entry 53 (DEDUCED). -/
def Obligations.FencesComplete : Prop :=
  ∀ (s : State), s.cur.runs = true →
    let passed (sc : Nat) (ids : List Nat) := s.updCur fun x =>
      if x.fenceHolds s.curCore sc then { x.flushRun with cbuf := x.cbuf ++ [.fence sc ids] } else x.flushRun
    (s.nearOut 0 = false → exec .fenceC s = .next (s.retired .fenceC (passed 0 []))) ∧
    (s.nearOut 1 = false → exec .fenceD s = .next (s.retired .fenceD (passed 1 []))) ∧
    (s.nearOut 2 = false → exec .fenceP s = .next (s.retired .fenceP (passed 2 []))) ∧
    (s.nearOut 3 = false → s.farOut = false → exec .fenceF s =
      .next (s.retired .fenceF (passed 3 ((s.cur.pend.filter fun p => p.eng && p.held).map Pend.id))))

/-- R288 to R290, R210: an atomic at the own slice exchanges its word at once, journalled, and gives its destination the old
value; at another slice it is held or sent, its destination pending, or, with the destination `zero`, with no answer, which is the model's
reading (log entry 51). A watchpoint it matches is reported, and one of action 1 halts its firing (R411). One that is guarded off retires with no
other effect. -/
def Obligations.AtomicsComplete : Prop :=
  ∀ p ∈ atomForms, ∀ (s : State) (b a d : BitVec 6) (sn : Bool) (g : BitVec 3) (n : Nat),
    let dv := s.view d.toNat
    let w := dv.ty.bits / 8
    let i := p.1 b a d sn g
    (AtomReady s p.2 n b a d sn g → s.ownSlice n = true → s.cur.jrnWaits 1 = false → s.scrumWaits = false → s.fenceOpen = false →
      s.testing n w = false → s.poisoned n w = false →
      let s1 := if s.touchesLive n w then s else s.journal [⟨n, s.bytesAt n w⟩]
      let r := s1.atomAt s.writerCur p.2 dv.ty n ((atomSrc s p.2 b).elem s 0) (atomB1 s p.2 b)
      let t := (plain s d true 1).putRaw r.2 r.1
      Wrote s i t n w) ∧
    (AtomReady s p.2 n b a d sn g → s.ownSlice n = false → s.cur.holdWaits = false → dv.h = 54 →
      let t := (s.updCur (·.dropWords n w)).hold (.atomic (atomSent s p.2 n b d ⟨s.curCore, s.curSlot, s.cur.fid, 0, ⟨s.curCore, s.curSlot, 0⟩, 0⟩))
      Wrote s i t n w) ∧
    (AtomReady s p.2 n b a d sn g → s.ownSlice n = false → s.cur.holdWaits = false → dv.h ≠ 54 → s.cur.pendFull = false →
      let m := s.mark (plain s d true 1) w s.cur.restart true false
      let t := (m.2.updCur (·.dropWords n w)).hold (.atomic (atomSent s p.2 n b d m.1))
      Wrote s i t n w) ∧
    (s.cur.runs = true → s.cur.guardOpen g = false → s.cur.guardOn g sn = false → (plain s d true 1).marks s = [] →
      (plain s a false 1).marks s = [] → (atomSrc s p.2 b).marks s = [] → exec i s = .next (s.retired i s))

/-- R289: an atomic answers the value its word had and leaves there what its operation makes of it, and every byte outside the
word is as it was; a word of a live object block is left alone (R292). -/
def Sys2Proof.Claims.AtomicExchanges : Prop :=
  ∀ (s : State) (w : Writer) (op : Nat) (ty : Ty) (a b0 b1 : Nat), Memory.wf s.mem = true → ty ∈ [Ty.i32, .n32, .f32, .b, .i64, .n64] →
    let n := ty.bits / 8
    let r := s.atomAt w op ty a b0 b1
    let old := leNat (s.bytesAt a n)
    r.1 = old ∧
    (s.touchesLive a n = false →
      leNat (r.2.bytesAt a n) = atomNew op ty old b0 b1 % 2 ^ ty.bits ∧
      ∀ u, u < a ∨ a + n ≤ u → memGet r.2.mem u = memGet s.mem u)

/-- R289, R99, R101: what each operation makes of the old value: on the integer types and `b`, and on `f32` rounded to nearest even. -/
def Sys2Proof.Claims.AtomicOperations : Prop :=
  (∀ (old b0 b1 : Nat),
    let f (x : XNum) : Nat := roundFloat .f32 0 false x
    atomNew 0 .f32 old b0 b1 = f (sumNum 0 [Ty.f32.num old, Ty.f32.num b0]) ∧
    atomNew 1 .f32 old b0 b1 = f (XNum.pick false (Ty.f32.num old) (Ty.f32.num b0)) ∧
    atomNew 2 .f32 old b0 b1 = f (XNum.pick true (Ty.f32.num old) (Ty.f32.num b0)) ∧
    atomNew 6 .f32 old b0 b1 = b0 ∧ atomNew 7 .f32 old b0 b1 = (if old = b0 then b1 else old)) ∧
  ∀ (ty : Ty) (old b0 b1 : Nat), ty ∈ [Ty.i32, .n32, .b, .i64, .n64] → old < 2 ^ ty.bits → b0 < 2 ^ ty.bits →
    let t := if ty = .b then Ty.n32 else ty
    atomNew 0 ty old b0 b1 = (old + b0) % 2 ^ ty.bits ∧
    atomNew 1 ty old b0 b1 = (if t.intVal old ≤ t.intVal b0 then old else b0) ∧
    atomNew 2 ty old b0 b1 = (if t.intVal b0 ≤ t.intVal old then old else b0) ∧
    atomNew 3 ty old b0 b1 = old &&& b0 ∧ atomNew 4 ty old b0 b1 = old ||| b0 ∧ atomNew 5 ty old b0 b1 = old ^^^ b0 ∧
    atomNew 6 ty old b0 b1 = b0 ∧ atomNew 7 ty old b0 b1 = (if old = b0 then b1 else old) ∧
    atomNew 8 ty old b0 b1 = (if old ≥ b0 then 0 else old + 1)

/-- R284, R285: what a load from the own slice and a store to it leave alone. The load changes no byte outside its
destination; the store no byte but those at its near address, which hold what it stored. Neither changes another core, the
device's other state, or a register of its firing but what retiring changes, the run-ahead buffer (R175) and, for a store,
the journal (R278) and poison marks of what it covers (R418). The store here is no watched one (R411), touches no live
object block (R292), its journal has room (R279), the load has passed every fence (R167), no self-test runs on the block (R426), and in a scrum no older access is out (R146). -/
def Obligations.LoadAndStoreFrame : Prop :=
  ∀ (s t : State) (f a b d : BitVec 6) (n : Nat), Memory.wf s.mem = true → s.ownSlice n = true →
    (∀ (sz o : BitVec 2), LoadReady s sz o f a d n → s.fenceOpen = false → s.testing n (2 ^ sz.toNat) = false → s.poisoned n (2 ^ sz.toNat) = false →
      (s.acquired s.cur).ra.find? (fun e => e.addr == n && e.size == 2 ^ sz.toNat) = none → exec (.ld sz o f a d) s = .next t →
      Kept s t ∧
      { t.cur.frame0 with ports := [], outMsg := [], ra := [] } = { s.cur.frame0 with ports := [], outMsg := [], ra := [] } ∧
      ∀ u : Nat, (∀ r ∈ (loadDst s o a d (wide (s.view d.toNat) (2 ^ sz.toNat))).ranges, ∀ k, k < r.2 →
        u ≠ s.winAddr ⟨(s.view d.toNat).core, (s.view d.toNat).slot, r.1 + k⟩) → memGet t.mem u = memGet s.mem u) ∧
    (∀ (sz : BitVec 2) (sn : Bool) (g : BitVec 3), StoreReady s (2 ^ sz.toNat) n a b f sn g → s.cur.jrnWaits 1 = false → s.scrumWaits = false →
      s.testing n (2 ^ sz.toNat) = false → s.touchesLive n (2 ^ sz.toNat) = false → (s.cur.restart = true → s.cur.jrn.length < 512) →
      (s.ctx s.cur.ctx).watch = [] → exec (.st sz b a f sn g) s = .next t →
      (∀ u, u < n ∨ n + 2 ^ sz.toNat ≤ u → memGet t.mem u = memGet s.mem u) ∧
      t.bytesAt n (2 ^ sz.toNat) = storeBytes s b (2 ^ sz.toNat) ∧
      { t.frame0 with poison := [] } = { s.frame0 with poison := [] } ∧ (∀ c, c ≠ s.curCore → (t.core c).unissued = (s.core c).unissued) ∧
      (∀ k, k ≠ s.curSlot → { t.slot s.curCore k with ra := [] } = { s.slot s.curCore k with ra := [] }) ∧
      { t.cur.frame0 with ra := [], jrn := [] } = { s.cur.frame0 with ra := [], jrn := [] })

/-- R293, R294: an object instruction that waits, once its answer has come, retires: `ACQ`, `BAR`, `BARW` and `SEMW` with the
run-ahead buffer discarded (R175), `TRYA` writing what it was told, `OBJQ` its four words, `BIND` and `UNBD` as they are. -/
def Sys2Proof.Claims.ObjectAnswersComplete : Prop :=
  ∀ (s : State) (o : BitVec 2) (b a d : BitVec 6) (vals : List W32), s.onCore → s.cur.wait = .answer vals →
    (∀ i ∈ [Instr.acq o a, .bar o a, .barw o a, .semw o b a],
      exec i s = .next (s.retired i (s.updCur Slot.flushRun))) ∧
    exec (.trya o a d) s = .next (s.retired (.trya o a d)
      (((loadDst s o a d 1).putRaw s (vals.headD 0).toNat).updCur Slot.flushRun)) ∧
    exec (.objq o a d) s = .next (s.retired (.objq o a d)
      ((loadDst s o a d 0).putBytes s (vals.flatMap fun w => toLe 4 w.toNat))) ∧
    (∀ i ∈ [Instr.bind o b a, .unbd o b a], exec i s = .next (s.retired i s))

/-- R279, R293 to R295: such an instruction, when it first issues and nothing stops it, commits its firing where it blocks and
sends its operation to the object's home; `BIND` and `UNBD` wait for their change to be applied everywhere. -/
def Sys2Proof.Claims.ObjectOperationsLeave : Prop :=
  ∀ (s : State) (o : BitVec 2) (b a d : BitVec 6), notSent s →
    (∀ p ∈ [((.acq : ObjOp), Instr.acq o a), (.bar, .bar o a), (.barw, .barw o a)],
      RefReady s p.1 o a none → mayBlock s → (p.1 = .acq → s.cur.locks.length < 8) →
      exec p.2 s = .next (objSent (blocked s) p.1 (refOf s o a none) 0 (refObj (refOf s o a none)) true)) ∧
    (RefReady s .semw o a none → mayBlock s → (plain s b false 1).ready s = true → (s.view b.toNat).isN32 = true →
      1 ≤ (plain s b false 1).nat s → (plain s b false 1).nat s ≤ 65535 →
      exec (.semw o b a) s = .next (objSent (blocked s) .semw (refOf s o a none) ((plain s b false 1).nat s)
        (refObj (refOf s o a none)) true)) ∧
    (RefReady s .trya o a (some (s.view d.toNat)) → mayBlock s → (loadDst s o a d 1).ready s = true →
      ((s.view d.toNat).isN32 = true ∨ (s.view d.toNat).h = 54) → s.cur.locks.length < 8 →
      exec (.trya o a d) s = .next (objSent (blocked s) .trya (refOf s o a (some (s.view d.toNat))) 0 [] false)) ∧
    (RefReady s .objq o a (some (s.view d.toNat)) → (loadDst s o a d 0).ready s = true → (s.view d.toNat).isB 4 = true →
      exec (.objq o a d) s = .next (objSent s .objq (refOf s o a (some (s.view d.toNat))) 0 [] false)) ∧
    (BindReady s false o b a → mayBlock s → exec (.bind o b a) s = .next ((blocked s).waitCur .sent [] false)) ∧
    (BindReady s true o b a → mayBlock s → exec (.unbd o b a) s = .next ((blocked s).waitCur .sent [] false))

/-- R294: `REL` (of a lock the firing holds), `BARA` and `SEMP` are held releases: they retire, and the operation waits in the
commit buffer of a restartable firing or leaves at once (R279). -/
def Obligations.ObjectReleasesComplete : Prop :=
  ∀ (s : State) (o : BitVec 2) (b a : BitVec 6), s.cur.holdWaits = false →
    let r := refOf s o a none
    (RefReady s .rel o a none → s.cur.locks.contains (lockKey r) = true →
      exec (.rel o a) s = .next (s.retired (.rel o a) (s.releaseObj .rel r 0))) ∧
    (RefReady s .bara o a none → exec (.bara o a) s = .next (s.retired (.bara o a) (s.releaseObj .bara r 0))) ∧
    (RefReady s .semp o a none → (plain s b false 1).ready s = true → (s.view b.toNat).isN32 = true →
      1 ≤ (plain s b false 1).nat s → (plain s b false 1).nat s ≤ 65535 →
      exec (.semp o b a) s = .next (s.retired (.semp o b a) (s.releaseObj .semp r ((plain s b false 1).nat s))))

/-- R292, R294: what an operation that suits its live block does there. A free lock is granted, a held one makes `ACQ` wait in
object order and answers `TRYA` 1, or 2 where it is withheld; the holder's `REL` frees it for the first that waits. An arrival adds
one to a barrier's count; the one that completes the phase sets the count to 0, starts the next phase and ends the waits of earlier
ones; a wait for a barrier ends at once where the phase has left the one its firing recorded, and else waits on that, or, with none recorded,
on the one it arrives in. A post adds to the semaphore's count, at most up to 2^31 − 1, past which it is reported, and serves the waits it covers
in object order, past one that it does not cover, which keeps its place; a wait that the count covers takes from it. The halts that an arrival makes known first (`lateNotices`) are the model's reading (log entry
60), and that `TRYA` ends its cycle is log entry 146's. -/
def Obligations.ObjectsAtTheirHome : Prop :=
  ∀ (s : State) (o : ObjReq), o.peer = none →
    let h := refHome o.ref.toNat
    s.objSuits h o.op = true → s.liveBlock h = true →
    (o.op = .acq ∨ o.op = .trya → s.objHold h = holdFree → s.applyObj o = (s.grant h o).tick (if o.op = .trya then 1 else 0)) ∧
    (o.op = .acq → s.objHold h ≠ holdFree → s.applyObj o = s.queueAt h o) ∧
    (o.op = .trya → s.objHold h ≠ holdFree →
      s.applyObj o = (s.answer o [if s.withheld (.home h) then 2 else 1]).tick 1) ∧
    (o.op = .rel → s.objHold h = s.holdWord o →
      s.applyObj o = (s.setHold h holdFree).serveLock h) ∧
    (o.op = .rel → s.objHold h ≠ s.holdWord o → s.applyObj o = s) ∧
    (let u := (s.lateNotices h o).notePhase h o
     let p := u.objPhase h
     (o.op = .bara → (u.objCnt h + 1 = u.objParm h → s.applyObj o = phaseEnds u h) ∧
       (u.objCnt h + 1 ≠ u.objParm h → s.applyObj o = phaseCounts u h)) ∧
     (o.op = .bar → Memory.wf s.mem = true →
       (u.objCnt h + 1 = u.objParm h → s.applyObj o = (phaseEnds u h).answer o [BitVec.ofNat 32 p]) ∧
       (u.objCnt h + 1 ≠ u.objParm h → s.applyObj o = (phaseCounts u h).queueAt h { o with op := .barw, arg := p }))) ∧
    (let u := s.lateNotices h o
     let p := (mfind (u.firing o.core o.slot o.fid).phases h).getD (u.objPhase h)
     o.op = .barw → (u.objPhase h ≠ p → s.applyObj o = u.answer o [BitVec.ofNat 32 p]) ∧
       (u.objPhase h = p → s.applyObj o = u.queueAt h { o with arg := p })) ∧
    (o.op = .semw → o.arg ≤ s.objCnt h →
      s.applyObj o = (s.setObj h (s.objCnt h - o.arg) 0 holdFree).answer o []) ∧
    (o.op = .semw → s.objCnt h < o.arg → s.applyObj o = s.queueAt h o) ∧
    (let sum := s.objCnt h + o.arg
     let u := if 2 ^ 31 ≤ sum then s.faultMsg ⟨o.ctx, o.core, o.slot, false⟩ 0x3E 0 else s
     let r := serveSem (mget s.homes h []) (min sum (2 ^ 31 - 1))
     o.op = .semp → s.applyObj o =
       r.1.foldl (fun t w => t.answer w []) { u.setObj h r.2.2 0 holdFree with homes := mput s.homes h r.2.1 }) ∧
    (∀ (ws : List ObjReq) (cnt : Nat), let r := serveSem ws cnt
      r.2.2 + (r.1.map ObjReq.arg).sum = cnt ∧ r.1.length + r.2.1.length = ws.length ∧
      ((∀ w ∈ ws, w.op = .semw → cnt < w.arg) → r = ([], ws, cnt)) ∧
      ∀ w rest, ws = w :: rest →
        (w.op = .semw → w.arg ≤ cnt → let q := serveSem rest (cnt - w.arg); r = (w :: q.1, q.2.1, q.2.2)) ∧
        (w.op ≠ .semw ∨ cnt < w.arg → let q := serveSem rest cnt; r = (q.1, w :: q.2.1, q.2.2))) ∧
    (o.op = .objq → s.applyObj o = s.answer o (s.queryObj h))

/-- R160, R224: `BIND` refuses a region that overlaps a bound one with trap 0x30, a full table with 0x31 and a bad region with
0x32, in that order, and otherwise adds its binding; `UNBD` refuses a bad region with 0x32 and one that is not bound to the
object with 0x33, and otherwise takes the binding out. -/
def Obligations.BindingRules : Prop :=
  ∀ (c : Ctx) (ref : W64) (start len : Nat) (far : Bool),
    let r := (start, len, far)
    let overlap := c.binds.any fun b => b.far == far && decide (b.start < start + len ∧ start < b.start + b.len)
    let full := 1024 ≤ c.binds.length ∨ 16 ≤ (c.binds.filter fun b => b.ref == ref).length
    (overlap = true → c.bind ref r = .error 0x30) ∧
    (overlap = false → full → c.bind ref r = .error 0x31) ∧
    (overlap = false → ¬full → regionBad r = true → c.bind ref r = .error 0x32) ∧
    (overlap = false → ¬full → regionBad r = false → ∃ c', c.bind ref r = .ok c' ∧
      c'.binds = c.binds ++ [⟨ref, start, len, far⟩] ∧ { c' with binds := [] } = { c with binds := [] }) ∧
    (regionBad r = true → c.unbind ref r = .error 0x32) ∧
    (regionBad r = false → (⟨ref, start, len, far⟩ : Binding) ∉ c.binds → c.unbind ref r = .error 0x33) ∧
    (regionBad r = false → (⟨ref, start, len, far⟩ : Binding) ∈ c.binds → ∃ c', c.unbind ref r = .ok c' ∧
      c'.binds = c.binds.erase ⟨ref, start, len, far⟩ ∧ { c' with binds := [] } = { c with binds := [] })


/-- R299 to R302, R279: `SEND` and `SENDI` build their message from `out.msg`, mark the token of their destination, reserve a send
entry and are held until commit (or leave at once from a committed firing). -/
def Sys2Proof.Claims.SendCompletes : Prop :=
  ∀ (s : State) (o : BitVec 2) (b a d : BitVec 6),
    let t := s.sendMsg (dstOf s o a d 1) ((plain s b false 1).nat s) (sendTarget s o a d)
    (SendReady s false o b a d → exec (.send o b a d) s = .next (s.retired (.send o b a d) t)) ∧
    (SendReady s true o b a d → exec (.sendi o b a d) s = .next (s.retired (.sendi o b a d) t))

/-- R303, R30: `SPWN` reserves a send entry for its spawn message, which carries the work-item id, the literal's arguments and a
part of the window. -/
def Sys2Proof.Claims.SpawnCompletes : Prop :=
  ∀ (s : State) (b a d : BitVec 6) (lit : BitVec 32), SpawnReady s b a d →
    let wid := if (s.view a.toNat).h = 54 then 0 else (plain s a false 1).nat s
    let tgt := if (s.view d.toNat).h = 54 then 0 else (plain s d false 1).nat s
    exec (.spwn b a d lit) s = .next (s.retired (.spwn b a d lit)
      (s.sendHeld (s.spawnMsg wid ((plain s b false 1).nat s) lit.toNat) tgt none false))

/-- R304: `MSGQ` gives its destination the count that its selector names: the context's messages in the high or low queue, the
free send entries, the free reply entries; `CEQ` the slot's commands in the engine queue, its free entries, the slot's
pending marks. Every other selector is an operand trap. -/
def Obligations.QueueCountsComplete : Prop :=
  ∀ (s : State) (o : BitVec 2) (a d : BitVec 6), CountReady s o a d →
    let sel := (srcOf s o a d 1).nat s
    let dv := s.view d.toNat
    let put (n : Nat) : State := (dstOf s o a d 1).putRaw s (dv.ty.fit dv.sat (n : Int))
    (∀ p ∈ messageCounts s, sel = p.1 → exec (.msgq o a d) s = .next (s.retired (.msgq o a d) (put p.2))) ∧
    (∀ p ∈ commandCounts s, sel = p.1 → exec (.ceq o a d) s = .next (s.retired (.ceq o a d) (put p.2))) ∧
    (4 ≤ sel → exec (.msgq o a d) s = .next (s.takeTrap s.curCore s.curSlot { code := 5, handle := (s.view a.toNat).h })) ∧
    (3 ≤ sel → exec (.ceq o a d) s = .next (s.takeTrap s.curCore s.curSlot { code := 5, handle := (s.view a.toNat).h }))

/-- R33, R300, R301, R63: the message that a `SEND` of kind 0 or an invocation builds, and what building it does to the firing's
own registers: `out.msg` is closed and empty again, a reply asked for is reserved, and the header says who sent it. -/
def Obligations.SentMessage : Prop :=
  ∀ (s : State) (dq : Acc) (ctl tgt : Nat), s.cur.restart = true → s.cur.heldLen < 64 → bits ctl 27 2 < 2 →
    s.onCore → dq.v.entry = none →
    let t := s.sendMsg dq ctl tgt
    ∃ m : Msg, ∃ r : Ret, t.cur.cbuf = s.cur.cbuf ++ [.send m tgt (some r) (bits ctl 0 1 == 1)] ∧
      t.cur.outMsg = [] ∧ m.words.take s.cur.outMsg.length = s.cur.outMsg ∧ 4 + m.words.length = 16 * flitsOf s.cur.outMsg.length ∧
      m.ctx = s.cur.ctx ∧ m.orig = 0 ∧ m.kind = bits ctl 27 2 ∧ m.hix = bits ctl 12 12 ∧ m.spn = false ∧
      m.sender = (s.curCore, s.curSlot % 4, dq.v.h % 64) ∧ m.pri = bits ctl 29 3 ∧
      bits m.hdr.toNat 64 32 = s.now.toNat % 2 ^ 32 ∧ bits m.hdr.toNat 59 5 = s.pos.toNat ∧
      t.cur.rplRes = (if bits ctl 0 1 = 1 then [dq.v.h] else []) ++ s.cur.rplRes ∧
      r.core = s.curCore ∧ r.slot = s.curSlot ∧ r.fid = s.cur.fid ∧ r.place = ⟨dq.v.core, dq.v.slot, dq.v.start dq.o true⟩ ∧
      r.len = 4 ∧ ∃ p ∈ t.cur.pend, p.id = r.id ∧ p.place = r.place ∧ p.held = true

/-- R305 to R307, R91: an engine command marks its token's destination and is delivered: held until commit from code 5 on, else
kicked at once after the slot's own stores, with its guard where that is not resolved. One that is guarded off retires
with no other effect. That one behind a held command or near write of its slot is held too, in their order (R92, R169), is the model's
reading (log entry 147). -/
def Obligations.CommandsComplete : Prop :=
  ∀ (s : State) (i : Instr) (f : CmdForm), cmdForm i = some f →
    (CmdReady s f → (s.cur.guardOpen f.g = true ∨ s.cur.guardOn f.g f.n = true) →
      exec i s = .next (s.retired i (f.sent s))) ∧
    (s.onCore → f.ok = true → s.cur.guardOpen f.g = false → s.cur.guardOn f.g f.n = false →
      (plain s f.d true 1).marks s = [] → (∀ q ∈ f.srcs s, q.marks s = []) →
      exec i s = .next (s.retired i s))

/-- R313, R374: `FLD` gives its destination the far bytes, from this device at once, or by a request to the device that holds them; bytes that
pass from one page to the next are read in pieces, each translated. -/
def Sys2Proof.Claims.FarLoadCompletes : Prop :=
  ∀ (s : State) (q : Cmd) (sz o : BitVec 2) (f a d : BitVec 6), FarLoadReady s q sz o f a d →
    let n := 2 ^ sz.toNat
    let va := farAt s (farOf s o a d) f.toNat n
    let dq := dstOf s o a d (wide (s.view d.toNat) n)
    let done (t : State) : Prop := exec (.fld sz o f a d) s = .next (s.retired (.fld sz o f a d) t)
    (∀ (at_ : Frame) (t u : State), onePage va n = true → s.xlat s.curEngine q va false = (.ok at_, t) →
      (∀ x, at_.addr = some x → (at_.tgt == 0 && t.tamperedAt x n) = false → t.poisoned x n = false →
        done (dq.putLoad t (t.bytesAt x n))) ∧
      (at_.addr = none → (s.view d.toNat).h ≠ 50 → (s.view d.toNat).h ≠ 54 →
        let m := t.mark dq (ldLen (s.view d.toNat) n) false false true
        m.2.sendReq t.curEngine q.ctx at_.peer ⟨0, 0, va / 64, sizeCode n, va, [], false, 0, .reg m.1, 0⟩ = .ok u → done u)) ∧
    (∀ (bs : List Byte) (t : State), onePage va n = false → s.farBytes q (cuts n n 0 va false true) = .ok (bs, t) → done (dq.putLoad t bs))

/-- R313: `FST` stores its bytes at a far address, or sends them to the device that holds it. -/
def Sys2Proof.Claims.FarStoreCompletes : Prop :=
  ∀ (s t : State) (q : Cmd) (sz o : BitVec 2) (b a f : BitVec 6), FarStoreReady s q sz o b a f →
    let va := farAt s (farAcc (s.view a.toNat) (offsets o (some (s.view a.toNat)) none).src) f.toNat (2 ^ sz.toNat)
    s.engineFar s.curEngine q va (storeBytes s b (2 ^ sz.toNat)) false = .ok t →
    exec (.fst sz o b a f) s = .next (s.retired (.fst sz o b a f) t)

/-- R313, R289: a far atomic exchanges its word at this device at once; for another device it sends a request and waits, and
retires once its reply has come. -/
def Sys2Proof.Claims.FarAtomicsComplete : Prop :=
  ∀ p ∈ farAtomForms, ∀ (s t : State) (q : Cmd) (o : BitVec 2) (b a d : BitVec 6) (at_ : Frame),
    let va := (farOf s o a d).nat64 s
    let n := (s.view d.toNat).ty.bits / 8
    let dq := dstOf s o a d 1
    let b1 := atomB1 s p.2 b
    (FarAtomReady s q p.2 o b a d → s.xlat s.curEngine q va true = (.ok at_, t) →
      (∀ x, at_.addr = some x → (at_.tgt == 0 && t.tamperedAt x n) = false → t.poisoned x n = false →
        let r := t.atomFar x p.2 (s.view d.toNat).ty ((atomSrc s p.2 b).elem s 0) b1
        exec (p.1 o b a d) s = .next (s.retired (p.1 o b a d)
          (dq.putRaw (r.2.watchEngine t.curEngine q va n true) r.1))) ∧
      (∀ u, at_.addr = none → (s.view d.toNat).h ≠ 50 → (s.view d.toNat).h ≠ 54 →
        let m := t.mark dq n false false true
        let body := atomBody p.2 (s.view d.toNat).ty.code (BitVec.ofNat 64 ((atomSrc s p.2 b).elem s 0))
          (BitVec.ofNat 64 b1)
        (m.2.sendReq t.curEngine q.ctx at_.peer ⟨2, 0, va / 64, sizeCode n, va, body, false, 0, .reg m.1, 0⟩).watched
          t.curEngine q va n = .ok u →
        exec (p.1 o b a d) s = .next (u.waitCur .sent [] false))) ∧
    (s.onEngine → s.cur.wait = .sent → (s.engine s.curEngine).outst = 0 →
      exec (p.1 o b a d) s = .next (s.retired (p.1 o b a d) s))

/-- R314, R315, R170, R164: once the microcode's older writes have performed, `FXM` sends an image in near memory to a peer and `FMRK` its
markers; `CEND` ends the command in progress: its
token leaves with the status, and the microcode's thread is idle. -/
def Obligations.EngineEndsComplete : Prop :=
  ∀ (s t : State) (q : Cmd) (o : BitVec 2) (b a d : BitVec 6) (p n : Nat),
    (ImageReady s q o b a d p n → s.writesOut s.curCore s.curSlot = false →
      let tgt := (srcOf s o a d 1).nat s
      let m := s.mark (dstOf s o a d 1) 4 false false true
      m.2.sendImage q (bits tgt 16 5) (bits tgt 0 14) (s.bytesAt p n) (s.poisoned p n) m.1 = .ok t →
      exec (.fxm o b a d) s = .next (s.retired (.fxm o b a d) t)) ∧
    (EngineReady s q → SoloReady s o a → baseTrap (s.view a.toNat) = none → s.writesOut s.curCore s.curSlot = false →
      let peer := bits ((soloOf s o a).nat s) 0 5
      exec (.fmrk o a) s = .next (s.retired (.fmrk o a)
        (s.sendMarkers s.curEngine q.ctx peer (mget (s.engine s.curEngine).seqs peer 0)))) ∧
    (EngineReady s q → SoloReady s o a → (s.view a.toNat).isN32 = true → (s.engine s.curEngine).outst = 0 →
      s.nearOut 3 = false →
      let u := (s.push (.token q.ret (BitVec.ofNat 32 ((soloOf s o a).nat s)))).updEngine s.curEngine fun en =>
        { en with cur := none, status := 0 }
      exec (.cend o a) s = .next (s.retired (.cend o a) (u.updCur fun x => { x with st := .idle })))

/-- R118 to R120, R127: `MLW` loads the tile of the array, which becomes active and is posted, `MLW.c` takes it from sixteen rows of `cl.op`
after its firing has committed (R276), and `MFMT` sets the format word to an admitted value. -/
def Obligations.TilesComplete : Prop :=
  ∀ (s t : State) (b a : BitVec 6), HoldsArray s t →
    let tile (u : State) (cl : Bool) : Tile := u.readTile cl (t.view a.toNat) (t.view b.toNat)
    (TileReady t t false b a → exec (.mlw 0 b a) s = .next (s.retired (.mlw 0 b a) (t.latch (tile t false)))) ∧
    (let u := blocked t
     TileReady t u true b a → 16 ≤ u.curC.clop.length → mayBlock t →
      exec (.mlwC 0 b a) s = .next (s.retired (.mlwC 0 b a)
        ((u.updCore u.curCore fun x => { x with clop := x.clop.drop 16 }).latch (tile u true)))) ∧
    ((plain t a false 1).ready t = true → (t.view a.toNat).isInt1 = true → afmtOk ((plain t a false 1).word t) = true →
      exec (.mfmt 0 a) s = .next (s.retired (.mfmt 0 a) (t.updCore t.curCore fun x =>
        { x with arr := { x.arr with afmt := BitVec.ofNat 32 ((plain t a false 1).word t) } })))

/-- R121, R127, R276: `MMA` adds its activation rows into its accumulator rows and passes them; where they come from `cl.op`, or
their scales from the keeper, its firing commits first. -/
def Obligations.MmaCompletes : Prop :=
  ∀ (s t : State) (a d : BitVec 6), HoldsArray s t →
    let hv := t.view a.toNat
    let done (u : State) : State := u.mmaFinish t.ownTile (wholeOf t d false) hv (u.mmaOuts t.ownTile (wholeOf t d false) hv)
    (t.mmaCommits hv = true → mayBlock t → MmaReady t (blocked t) a d →
      exec (.mma 0 a d) s = .next (s.retired (.mma 0 a d) (done (blocked t)))) ∧
    (t.mmaCommits hv = false → MmaReady t t a d → exec (.mma 0 a d) s = .next (s.retired (.mma 0 a d) (done t)))

/-- R115: an i32 accumulator element takes the exact sum of its old value and the products, modulo 2^32, and reports overflow exactly
where one of the additions leaves the i32 range. -/
def Obligations.IntegerAccumulation : Prop :=
  ∀ (at_ : Ty) (raw : Nat) (ws as : List XNum) (cs : List Nat), raw < 2 ^ 32 →
    let ps := List.zip (ws.map XNum.toInt) (as.map XNum.toInt)
    let r := mmaElem .i8 at_ raw ws as cs
    (r.1 : Int) = (raw + (ps.map fun p => p.1 * p.2).sum) % 2 ^ 32 ∧
    (r.2 = true ↔ ∃ k, ∃ h : k < ps.length,
      let v := intSum raw ps k + (ps[k]'h).1 * (ps[k]'h).2
      v < -2 ^ 31 ∨ 2 ^ 31 ≤ v)

/-- R129 to R131: `MCLR` clears its accumulator rows, `MDR` drains them to `mx.res`, behind what is shown there as far as there is room
(`MDR.z` clears them too): that `MDR` takes all its rows as it issues and retires, those without room waiting behind `mx.res`, is the model's
reading (log entry 148); `MDRP` sends them to a peer array, held until commit, and marks its token. -/
def Sys2Proof.Claims.DrainsComplete : Prop :=
  ∀ (s t : State) (b a d : BitVec 6), HoldsArray s t →
    let acc (h : BitVec 6) : Prop := (t.view h.toNat).fixed = false ∧ (t.view h.toNat).shape = 3
    let drained := t.updCore t.curCore fun x =>
      { x with arr := x.arr.drainRows ((wholeOf t a false).accRows t) (t.view a.toNat).ty.code }
    ((wholeOf t d true).ready t = true → acc d →
      exec (.mclr 0 d) s = .next (s.retired (.mclr 0 d) ((wholeOf t d true).clear t))) ∧
    ((wholeOf t a false).ready t = true → acc a →
      exec (.mdr 0 a) s = .next (s.retired (.mdr 0 a) drained) ∧
      ((wholeOf t a true).ready t = true →
        exec (.mdrZ 0 a) s = .next (s.retired (.mdrZ 0 a) ((wholeOf t a true).clear drained)))) ∧
    ((plain t d true 1).ready t = true → (wholeOf t a false).ready t = true → (plain t b false 1).ready t = true →
      (t.view d.toNat).isN32 = true → (t.view d.toNat).fixed = false → acc a → (t.view a.toNat).rows ≤ 16 →
      (t.view b.toNat).isInt1 = true → mdrpOk ((plain t b false 1).word t) = true → t.cur.pendFull = false →
      t.cur.holdWaits = false →
      let w := (plain t b false 1).word t
      let r := t.mark (plain t d true 1) 4 t.cur.restart false false
      exec (.mdrp 0 b a d) s = .next (s.retired (.mdrp 0 b a d) (r.2.hold (.mdrp
        ⟨t.cur.ctx, bits w 16 14, bits w 0 15, (t.view a.toNat).ty.code, (wholeOf t a false).accRows t, r.1, t.curCore,
          t.cur.scrum.isSome⟩))))

/-- R123, R279: `MSC` commits its firing, puts its rows on the operand network for every member of its mask, and retires once the last
row has been taken. -/
def Sys2Proof.Claims.MulticastCompletes : Prop :=
  ∀ (s t : State) (b a : BitVec 6), HoldsArray s t →
    let sv := t.view b.toNat
    let mask := bits ((plain t a false 1).word t) 0 16
    ((∀ id, t.cur.wait ≠ .ring 118 id true) → (plain t a false 1).ready t = true → (wholeOf t b false).ready t = true →
      (t.view a.toNat).isInt1 = true → sv.fixed = false → sv.ring = false → (sv.shape = 1 ∨ sv.shape = 2) → sv.rowBytes ≤ 64 →
      mask ≠ 0 → t.placed mask = true → mayBlock t →
      let u := (List.range sv.rows).foldl (fun w r =>
        w.sendRow mask (BitVec.ofNat 512 (leNat ((wholeOf t b false).rowBytesOf t r)))) (blocked t)
      exec (.msc 0 b a) s = .next (u.waitCur (.ring 118 (u.nextId - 1) true) [] false)) ∧
    (∀ id, t.cur.wait = .ring 118 id true → t.rowOut id = false →
      exec (.msc 0 b a) s = .next (s.retired (.msc 0 b a) t))

/-- R137 to R139, R148, R152: `CMPS` joins the group of k cores where their slots 0 can be claimed and no pre-emption of its own slot is due, or goes on alone where a member of lower
index waits in one of its own; `DCMP` ends the scrum, or does nothing outside one; `CMPQ` reads the compose word. -/
def Obligations.ComposeCompletes : Prop :=
  ∀ (s : State) (kk o : BitVec 2) (d : BitVec 6), s.onCore →
    let k := composeSize kk
    let lower := (scrumOthers s.curCore k).any fun m => s.composing m && decide (memberOf m < memberOf s.curCore)
    (s.cur.pend = [] → s.composeBad k = false → s.misplaced k = false → lower = false → s.canCompose s.curCore k = true →
      s.preemptFirst s.curCore = false →
      exec (.cmps kk) s = .next (s.retired (.cmps kk) (s.compose s.curCore k))) ∧
    (s.cur.pend = [] → s.composeBad k = false → s.misplaced k = false → lower = true →
      exec (.cmps kk) s = .next (s.retired (.cmps kk) s)) ∧
    (s.cur.scrum = none → exec .dcmp s = .next (s.retired .dcmp s)) ∧
    (s.cur.scrum ≠ none → s.cur.pend = [] → exec .dcmp s = .next (s.retired .dcmp (s.handback s.curCore))) ∧
    ((loneDst s o d 1).ready s = true → (offsets o none (some (s.view d.toNat))).bad = none → (s.view d.toNat).isN32 = true →
      exec (.cmpq o d) s = .next (s.retired (.cmpq o d) ((loneDst s o d 1).putRaw s s.composeWord)))

/-- R318, R319: `TRAP` takes the software trap 0x38 with its operand, at the trap entry of an actor that handles it; `ERET` clears trap-active
and continues at the `resume` word of the frame. -/
def Obligations.TrapAndReturnComplete : Prop :=
  ∀ (s : State) (o : BitVec 2) (a : BitVec 6), s.onCore →
    ((loneSrc s o a 1).ready s = true → (offsets o (some (s.view a.toNat)) none).bad = none → (s.view a.toNat).isN32 = true →
      exec (.trap o a) s = .next (s.takeTrap s.curCore s.curSlot
        { code := 0x38, handle := (s.view a.toNat).h, operand := some (BitVec.ofNat 32 ((loneSrc s o a 1).nat s)) }) ∧
      ∀ x, handled s x 0x38 → s.cur.scrum = none → (s.ctx s.cur.ctx).trace = 0 →
        ∃ t, exec (.trap o a) s = .next t ∧ t.cur.pc = x.trapent ∧ t.cur.trapAct = true ∧ t.cur.st = s.cur.st ∧
          t.cur.restart = s.cur.restart ∧ t.cur.lnk = s.cur.lnk ∧ t.cur.views = s.cur.views ∧ t.cur.guards = s.cur.guards) ∧
    (let r := s.resumeWord s.curCore s.curSlot
     s.cur.trapAct = true → s.rawGate ((s.win s.curCore s.curSlot).2 - 12) 4 = none → r < s.codeLen s.cur.ctx →
      (s.cur.scrum = none ∨ s.blockAt s.cur.ctx r = true) →
      ∃ t, exec .eret s = .next t ∧ t = ((s.noteIssue s).count s.curCore 2).trapReturn s.curCore s.curSlot ∧
        t.cur.pc = BitVec.ofNat 24 r ∧ t.cur.trapAct = false ∧ t.mem = s.mem) ∧
    (s.cur.trapAct = false → exec .eret s = .next (s.takeTrap s.curCore s.curSlot { code := 5 })) ∧
    (s.cur.trapAct = true → s.rawGate ((s.win s.curCore s.curSlot).2 - 12) 4 = none → s.cur.scrum = none → s.codeLen s.cur.ctx ≤ s.resumeWord s.curCore s.curSlot →
      exec .eret s = .next (s.takeTrap s.curCore s.curSlot { code := 0xE }))

/-- R318: a precise trap whose bit in the trap mask of the firing's actor is set, taken with trap-active clear, writes its frame at
window offset L − 16, sets trap-active and continues at the trap entry, with restartability kept. The slot's other registers
are as they were but for its wait, its repetition, and the umpire's checks: the trap entry opens a block, and one that starts no listed block
is for the umpire to find (R420). That the repetition stands while the trap entry's code runs is the model's reading (log entry 143). -/
def Sys2Proof.Claims.TrapEntry : Prop :=
  ∀ (s : State) (t : Trap) (a : Actor), handled s a t.code → ¬alwaysParks t.code → s.cur.scrum = none →
    16 ≤ (s.win s.curCore s.curSlot).2 → (s.ctx s.cur.ctx).trace = 0 →
    let u := s.takeTrap s.curCore s.curSlot t
    u = (s.landWrite ⟨s.curCore, s.curSlot, (s.win s.curCore s.curSlot).2 - 16⟩ (toLe 16 (s.frame s.curCore s.cur t).toNat)).updCur
          (fun y =>
            { y.atTrap.suspendRep with trapAct := true, pc := a.trapent, blk := some a.trapent, bcore := s.curCore
                                       checks := y.checks ++ s.entryCheck s.curCore s.cur a.trapent }) ∧
    u.cur.trapAct = true ∧ u.cur.pc = a.trapent ∧ u.cur.restart = s.cur.restart ∧ u.cur.st = s.cur.st ∧
    ∀ k, k < 4 → bits (s.frame s.curCore s.cur t).toNat (32 * k) 32 = (frameWords s t).getD k 0

/-- R318, R17, R108, R209: every other trap parks the firing: with trap-active set, with its mask bit clear, or of a code that always
parks. -/
def Sys2Proof.Claims.TrapParks : Prop :=
  ∀ (s : State) (t : Trap), s.cur.scrum = none →
    (s.cur.trapAct = true ∨ alwaysParks t.code ∨ 64 ≤ t.code ∨ s.actorOf s.cur = none ∨
      ∃ a, s.actorOf s.cur = some a ∧ bits a.tmask.toNat t.code 1 = 0) →
    s.takeTrap s.curCore s.curSlot t =
      ((s.sendTrap s.curCore s.curSlot t).updCur Slot.atTrap).haltSlot s.curCore s.curSlot
        (if t.code = 0x08 ∨ (0x10 ≤ t.code ∧ t.code ≤ 0x14) then 2 else if t.code = 0x0C then 5 else 6)

/-- R320, R279: `SYS` commits its firing where it blocks and sends its four words to the supervisor; the answer fills them, and it
retires. -/
def Sys2Proof.Claims.SupervisorCallCompletes : Prop :=
  ∀ (s : State) (o : BitVec 2) (a : BitVec 6), s.onCore →
    (notSent s → (loneSrc s o a 4).ready s = true → (offsets o (some (s.view a.toNat)) none).bad = none →
      (s.view a.toNat).isB 4 = true → mayBlock s →
      let t := blocked s
      let t1 := t.push (.sysReq t.cur.ctx t.curCore t.curSlot t.cur.fid ((loneSrc s o a 4).words t 4))
      let exp := if t.cur.wto = 0 then none else some (t.now.toNat + t.cur.wto)
      exec (.sys o a) s = .next ((t1.updCur fun y => { y with waitExp := exp }).waitCur .sent [] false)) ∧
    (∀ vals, s.cur.wait = .answer vals →
      exec (.sys o a) s = .next (s.retired (.sys o a) (s.sysBack (loneSrc s o a 4) vals)))

/-- R321: `SVS` of a system firing writes the save area of a stopped slot, and `RSS` restores a slot from an area whose checksum
holds. -/
def Sys2Proof.Claims.SaveAndRestoreComplete : Prop :=
  ∀ (s : State) (o : BitVec 2) (a : BitVec 6),
    let addr := (loneSrc s o a 2).elem s 0
    let w := (loneSrc s o a 2).elem s 1
    let v : Saved := ⟨s.curCore, w, addr % 2 ^ 17, [], s.slot s.curCore w, none, []⟩
    let u := s.saveArea v
    (AreaReady s o a (fun _ _ => false) →
      exec (.svs o a) s = .next (s.retired (.svs o a) { u with saves := (addr, u.headed v) :: u.saves })) ∧
    (∀ q, AreaReady s o a State.areaBad → s.areaOf addr = some (false, q) →
      exec (.rss o a) s = .next (s.retired (.rss o a) (s.loadArea q addr w).thawHalted)) ∧
    (∀ q, AreaReady s o a State.areaBad → s.areaOf addr = some (true, q) →
      exec (.rss o a) s = .next (s.retired (.rss o a) (s.bringBack q addr w).thawHalted))

/-- R322 to R324, R408: `TS` reads the package clock, `PMC` the count, the cycles since its reset and the running cycles of one
counter, which run whatever event set is active (log entry 129, the model's reading), (and resets it where asked), and `SIGQ` the signature table entry of an address, or 0. -/
def Sys2Proof.Claims.SystemReadsComplete : Prop :=
  ∀ (s : State) (o : BitVec 2) (a d : BitVec 6), s.onCore →
    let w := (srcOf s o a d 1).nat s
    let dv := s.view d.toNat
    (let q := regAcc dv true (offsets o none (some dv)).dst
     q.ready s = true → (offsets o none (some dv)).bad = none →
      exec (.ts o d) s = .next (s.retired (.ts o d) (q.putReg s s.now.toNat))) ∧
    (PairReady s o a d 6 → (s.view a.toNat).isInt1 = true → dv.fixed = false → dv.ty = .b → dv.shape = 1 → 6 ≤ dv.len →
      w < 32 → bits w 2 2 = 0 →
      let c := mget s.curC.ctrs (w % 4) Counter.reset
      let t := (dstOf s o a d 6).putLanes s 64 [c.count.toNat, (s.now - c.rstAt).toNat, (s.now - c.runAt).toNat]
      exec (.pmc o a d) s = .next (s.retired (.pmc o a d)
        (if 16 ≤ w then t.updCore t.curCore fun x => { x with ctrs := mput x.ctrs (w % 4) ⟨0, s.now, s.now⟩ } else t))) ∧
    (PairReady s o a d (if dv.ty = .b then 2 else 1) → (s.view a.toNat).isInt1 = true → dv.fixed = false →
      (dv.shape = 0 ∧ dv.ty = .n64 ∨ dv.isB 2 = true) → w < 2 ^ 24 →
      exec (.sigq o a d) s = .next (s.retired (.sigq o a d) ((dstOf s o a d (if dv.ty = .b then 2 else 1)).putReg s
        (match s.sigAt s.cur.ctx w with | some e => e.toNat | none => 0))))

/-- R325, R253, R279, R426: `CKPT` commits its firing, `IDLE` takes a set event as `WFE` does, and `BIST` of a system firing starts its
test. -/
def Sys2Proof.Claims.SystemControlCompletes : Prop :=
  ∀ (s : State) (o : BitVec 2) (a d : BitVec 6), s.onCore → mayBlock s →
    exec .ckpt s = .next (s.retired .ckpt (blocked s)) ∧
    ((blocked s).cur.ev = true →
      exec .idle s = .next (s.retired .idle ((blocked s).updCur (·.sample s.now)))) ∧
    (s.cur.sysFlag = true → (plain s d true 1).ready s = true → (srcOf s o a d 1).ready s = true →
      (offsets o (some (s.view a.toNat)) (some (s.view d.toNat))).bad = none → (s.view d.toNat).isN32 = true →
      (s.view d.toNat).fixed = false → (s.view d.toNat).ring = false → (s.view a.toNat).isInt1 = true → s.cur.pendFull = false →
      let w := (srcOf s o a d 1).nat s
      exec (.bist o a d) s = .next (s.retired (.bist o a d)
        ((blocked s).startBist (plain s d true 1) (bits w 0 16) (bits w 16 8))))

/-- R322, R198: `RDS` gives its destination the value of a special register, and `WRS` writes one. -/
def Sys2Proof.Claims.SpecialRegistersComplete : Prop :=
  ∀ (s : State) (r : BitVec 12) (a d : BitVec 6), s.cur.runs = true → (srAcc r.toNat).isSome = true →
    let q := regAcc (s.view d.toNat) (srWide r.toNat) 0
    let v := (plain s a false 1).nat s
    ((srPrivate r.toNat = false ∨ s.cur.sysFlag = true) → q.ready s = true →
      exec (.rds r d) s = .next (s.retired (.rds r d) (q.putReg s (s.readSr s.curCore s.curSlot r.toNat)))) ∧
    (srLocked r.toNat s.cur.sysFlag = false → (plain s a false 1).ready s = true → r.toNat ≠ 0x41 →
      exec (.wrs r a) s = .next (s.retired (.wrs r a) (s.writeSr s.curCore s.curSlot r.toNat v))) ∧
    (r.toNat = 0x41 → (plain s a false 1).ready s = true → s.teamRefused v = false → s.curC.arrayBusy = false →
      exec (.wrs r a) s = .next (s.retired (.wrs r a) (s.writeTeam s.curCore v)))

/-- R317, R322, R425: a firing that is no system firing takes the privileged trap 0x39 at `SVS`, `RSS` and `BIST`, at `RDS` and `WRS` of
0x200 to 0x2FF, and at `WRS` of a register that only system firings write; every firing takes it at `WRS` of a read-only
register. A reserved register number is a reserved encoding. -/
def Obligations.PrivilegedTraps : Prop :=
  ∀ (s : State) (o : BitVec 2) (r : BitVec 12) (a d : BitVec 6), s.onCore →
    let priv := Host.Outcome.next (s.takeTrap s.curCore s.curSlot { code := 0x39 })
    (s.cur.sysFlag = false → exec (.svs o a) s = priv ∧ exec (.rss o a) s = priv ∧ exec (.bist o a d) s = priv) ∧
    (s.cur.sysFlag = false → 0x200 ≤ r.toNat → r.toNat ≤ 0x2FF → (srAcc r.toNat).isSome = true →
      exec (.rds r d) s = priv ∧ exec (.wrs r a) s = priv) ∧
    (s.cur.sysFlag = false → srAcc r.toNat = some .rwSys → exec (.wrs r a) s = priv) ∧
    (srAcc r.toNat = some .ro → exec (.wrs r a) s = priv) ∧
    (srAcc r.toNat = none → let resv := Host.Outcome.next (s.takeTrap s.curCore s.curSlot { code := 8 })
      exec (.rds r d) s = resv ∧ exec (.wrs r a) s = resv)

/-- R52, R125, R428, R198: the register writes that are rows of the table: a bank's power field, a team word, a rail margin, and a
special register, watchdog period or port of a core. -/
def Sys2Proof.Claims.RegisterRowsComplete : Prop :=
  ∀ (s : State) (core slot n : Nat) (v : BitVec 32) (w : BitVec 128), core < numCores →
    exec (.rsPwrWrite core v) s = .next (s.writePwr core v.toNat) ∧
    (({ s with curCore := core, curSlot := slot } : State).teamRefused v.toNat = false → (s.core core).arrayBusy = false →
      exec (.mxTeamWrite core slot v) s = .next (s.writeTeam core v.toNat)) ∧
    (n < 4 → exec (.mgVWrite core n v) s = .next (s.writeMargin (dieOf core) n v.toNat)) ∧
    (∀ r : BitVec 12, slot < 4 → (srAcc r.toNat).isSome = true → srLocked r.toNat true = false →
      r.toNat ∉ [0x10, 0x41, 0x210, 0x211, 0x212, 0x213] →
      exec (.registerWrite core slot (.special r) w) s = .next (s.writeSr core slot r.toNat w.toNat)) ∧
    exec (.registerWrite core slot .wdog w) s =
      .next (s.updCore core fun x => { x with wdog := BitVec.ofNat 32 w.toNat }) ∧
    (∀ e, e < 64 → exec (.registerWrite core slot (.port e) w) s = .next (s.writePort core e w))

/-- R34, R37, R69, R66, R155, R175, R176, R289, R294, R297: what is in flight arrives where nothing that stands before it, no copy to a spare
and no self-test (log entry 99) holds it up: a message at its target (the host, a core, a peer), its token then on its way back; a token; a load, store or
atomic at its slice, and the reply of one; an object operation at its home, and a trigger once its firing's earlier writes have performed (R176). -/
def Obligations.DeliveriesComplete : Prop :=
  ∀ (s : State) (k : Nat),
    let t := s.taken k
    (∀ m tgt r, s.net[k]? = some (.msg m tgt r) → s.earlier k (·.sameRoute m tgt) = false →
      (tgt = toHost → exec (.messageArrival k) s = .next ((t.hostReply m).2.tokenTo r (t.hostReply m).1)) ∧
      (tgt < toHost → s.moving tgt = false → (tgt = 0x3FFF → s.launchTests m.ctx m.hix = false) → exec (.messageArrival k) s = .next ((t.arrive tgt m).2.tokenTo r (t.arrive tgt m).1)) ∧
      (∀ u, toHost < tgt → t.peerReply m tgt r = some u → exec (.messageArrival k) s = .next u)) ∧
    (∀ r v, s.net[k]? = some (.token r v) → s.moving r.core = false → exec (.tokenLanding k) s = .next (t.landToken r v)) ∧
    (∀ r bs, s.net[k]? = some (.ldReply r bs none) → s.moving r.core = false →
      exec (.remoteLoadReply k) s = .next (t.land r bs)) ∧
    (∀ c j o a n r, s.net[k]? = some (.nearLd c j o a n r) → s.nearWaits k (.nearLd c j o a n r) = false →
      exec (.nearRequest k) s = .next ((t.updFiring r.core r.slot r.fid (·.dropWords a n)).push
        (.ldReply r (toLe r.len (leNat (s.bytesAt a n))) (if s.poisoned a n then some a else none)))) ∧
    (∀ c j f o a bs, s.net[k]? = some (.nearSt c j f o a bs) → s.nearWaits k (.nearSt c j f o a bs) = false →
      exec (.nearRequest k) s = .next (let u := t.storeNear (t.writer c j f) a bs
        if t.touchesLive a bs.length then u else u.watchAgent c a bs.length)) ∧
    (∀ q, s.net[k]? = some (.atomic q) → s.nearWaits k (.atomic q) = false → s.poisoned q.addr ((Ty.ofCode q.ty).bits / 8) = false →
      let n := (Ty.ofCode q.ty).bits / 8
      let d := t.atomAt (s.writer q.core q.slot q.ret.fid) q.op (Ty.ofCode q.ty) q.addr q.b0.toNat q.b1.toNat
      let u := if s.touchesLive q.addr n then d.2 else d.2.watchAgent q.core q.addr n
      exec (.remoteAtomic k) s = .next (if q.ret.id = 0 then u else u.push (.ldReply q.ret (toLe n d.1) none))) ∧
    (∀ c j l id, s.net[k]? = some (.trig c j l id) → s.earlier k (·.writes c j) = false →
      exec (.objectOperation k) s = .next (t.countTrig id)) ∧
    (∀ o, s.net[k]? = some (.obj o) → s.objWaits k o = false →
      (refPeer o.ref.toNat = false → s.moving (refHome o.ref.toNat / 2 ^ 17) = false → s.testing (refHome o.ref.toNat) 64 = false →
        exec (.objectOperation k) s = .next (t.applyObj o)) ∧
      (∀ u, refPeer o.ref.toNat = true → t.peerObj o = some u → exec (.objectOperation k) s = .next u))

/-- R300, R396, R78, R87, R124, R127, R131, R160, R371: the first message of a channel (requests, or replies) leaves its send queue with the time
of that, timing choosing where both have one (log entry 17, the model's); the keeper takes a member's
scales and sends the sum row of its oldest activation row; the first row of an operand network reaches its members; drained
rows are added in a window of their context, whose parity errors the read of that window repairs or consumes first (log entry 178, the
model's reading); a trap message reaches its backstop; a binding is applied for the slot that waits;
and the notices of a halt mark and clear their objects. -/
def Obligations.NetworkEventsComplete : Prop :=
  ∀ (s : State) (k core slot : Nat),
    let t := s.taken k
    (∀ rpl e m tgt r, (s.core core).sendHead rpl = some e → e.msg = some (m, tgt, r) →
      let alone := ((s.core core).sendHead !rpl).isNone
      alone = true ∨ Config.trapsMeet s.fresh = !rpl →
      let u := if alone then s else { s with fresh := s.fresh + 1 }
      exec (.messageInjection core) s = .next
        ((u.updCore core fun x => { x with sendQ := dropOne e x.sendQ }).push (.msg (m.stamped s.now) tgt r))) ∧
    (∀ kc m ep sc, s.net[k]? = some (.kpost kc m ep sc) → s.earlier k (·.postOf kc m) = false →
      exec (.keeperPost k) s = .next
        (t.updCore kc fun x => { x with keeper := { x.keeper with posts := mput x.keeper.posts m (ep, sc) } })) ∧
    (∀ r rest, let x := s.core core
      let mask := bits x.team.toNat 0 16
      x.keeper.queue = r :: rest → x.keeper.stall = false → x.isKeeper (memberOf core) = true →
      (∀ b, b < max r.blocks r.scales.length → r.scale b ≠ 0xFF) →
      (∀ m, m < 16 → bits mask m 1 = 1 → (mfind r.posts m).isSome = true ∨ (mfind x.keeper.posts m).isSome = true) →
      (∀ c ∈ teamCores core mask, (s.core c).kpRoom = true) →
      exec (.keeperSumRow core) s = .next ((teamCores core mask).foldl
        (fun t c => t.updCore c fun x => { x with
          kpscl := x.kpscl ++ [⟨r.sumRow (s.core core).keeper.posts mask, r.kt, r.fmt⟩],
          kpLast := some (r.sumRow (s.core core).keeper.posts mask) })
        (s.updCore core fun x => { x with keeper := { x.keeper with queue := rest } }))) ∧
    (∀ c id row, s.net[k]? = some (.clRow c id row) → s.earlier k (·.otherRow c id) = false → postFirst id [] s.net = false → s.net.all (s.rowFits id) = true →
      exec (.clOpRow k) s = .next (s.deliverRow id row)) ∧
    (∀ r, s.net[k]? = some (.mdrp r) → s.moving r.core = false → s.scrumBehind k (.mdrp r) = false →
      ((s.core r.core).windowOf r.ctx r.off (64 * r.rows.length) = true → exec (.mdrpAdd k) s = .next
        (((List.range r.rows.length).foldl (fun t i => t.addRowAt r.core (r.off + 64 * i) (Ty.ofCode r.ty) (r.rows.getD i 0)) (t.readTarget r)).push
          (.token r.ret 0))) ∧
      ((s.core r.core).windowOf r.ctx r.off (64 * r.rows.length) = false →
        exec (.mdrpAdd k) s = .next (t.push (.token r.ret 0x20)))) ∧
    (∀ m u, s.net[k]? = some (.trap m) → t.net.findIdx? (·.sameTrap m) = none → t.backstopTakes m = some u →
      exec (.trapMessage k) s = .next u) ∧
    (let u : State := { s with curCore := core, curSlot := slot }
     (s.slot core slot).st = .running → (s.slot core slot).wait = .sent →
      (∀ o b a n, u.fetchAt (s.slot core slot).here.toNat = some (.bind o b a, n) →
        exec (.bindComplete core slot) s = .next
          { u.bindDone false (u.bindAccs o b a) with curCore := s.curCore, curSlot := s.curSlot }) ∧
      (∀ o b a n, u.fetchAt (s.slot core slot).here.toNat = some (.unbd o b a, n) →
        exec (.bindComplete core slot) s = .next
          { u.bindDone true (u.bindAccs o b a) with curCore := s.curCore, curSlot := s.curSlot })) ∧
    (∀ hid ctx src o, s.net[k]? = some (.notice hid ctx src o) → s.earlier k (·.updates src o) = false → s.enginePublishes src o = false →
      (∃ h ∈ t.halts, h.hid = hid ∧ h.ctx = ctx) →
      exec (.withholdNotice k) s = .next
        (({ t with marks := if t.marks.contains (Mark.mk hid ctx o) then t.marks else t.marks ++ [Mark.mk hid ctx o] }).showMarks o).reachHalts.freezeHalted) ∧
    (∀ hid ctx src o j, s.net[k]? = some (.clear hid ctx src o) → s.earlier k (fun p => p.noticeOf hid ctx == some o) = false →
      t.marks[j]? = some ⟨hid, ctx, o⟩ → (∀ i, i < j → t.marks[i]? ≠ some ⟨hid, ctx, o⟩) →
      exec (.clearingNotice k) s = .next (({ t with marks := t.marks.eraseIdx j } : State).afterClear))

/-- R11 to R14, R41, R138, R137, R247, R281, R295, R82, R362, R365 to R368: what happens to a slot from outside its program: its firing,
a waiting launch's start, the claim or the bound of a waiting `CMPS`, the end of an `ALGN` hold, a rollback, a time-out, a missed
deadline, a bind record, and a pre-emption (of a scrum on its owner, R149) and what asks for it and ends it. The model's readings, and no rule
of the spec: that RESUME brings a firing back whatever its area's CRC is (log entry 140), that a compose grant does not test the compose
traps again (log entry 151), and that a firing that cannot be rolled back halts with the cause it was given up for (log entry 91). -/
def Sys2Proof.Claims.SlotEventsComplete : Prop :=
  ∀ (s : State) (core slot pick : Nat),
    let x := s.slot core slot
    (∀ k c, core < numCores → s.nextFire core pick = some (k, c) → exec (.dispatch core pick) s = .next (s.fire core k c)) ∧
    (∀ id l a, s.launchOf id = some l → l.waiting = true → l.after = some a → (∃ b, s.launchOf a = some b ∧ b.trigDone = true) →
      exec (.dependentLaunchStart id) s = .next (s.updLaunch id fun l => { l with waiting := false })) ∧
    (s.composing core = true → s.canCompose core (s.composeK core) = true → s.preemptFirst core = false →
      let t : State := { s with curCore := core, curSlot := 0 }
      let u := t.compose core (s.composeK core)
      exec (.composeGrant core) s = .next
        { ((u.noteIssue t).count core 2).retire 2 with curCore := s.curCore, curSlot := s.curSlot }) ∧
    (∀ e, s.composing core = true → (s.slot core 0).waitExp = some e → e ≤ s.now.toNat →
      exec (.composeWaitBound core) s = .next (s.takeTrap core 0 { code := 0x29 })) ∧
    (∀ pc, x.st = .running → x.wait = .align pc → x.since + 256 ≤ s.now.toNat →
      exec (.algnHoldExpiry core slot) s = .next (s.updSlot core slot fun y => { y with wait := .answer [] })) ∧
    (x.st = .running → x.wait = .rollback →
      (x.restart = true → (∀ p ∈ x.pend, p.held = true) → exec (.rollback core slot) s = .next (s.undo core slot)) ∧
      (x.restart = false → x.doom = 0 → exec (.rollback core slot) s = .next (s.kill core slot 3)) ∧
      (x.restart = false → x.doom ≠ 0 → exec (.rollback core slot) s = .next
        (((if slot = 0 then s.handback core else s).updSlot core slot Slot.atTrap).haltSlot core slot x.doom))) ∧
    (∀ e, x.st = .running → x.wait = .sent → x.waitExp = some e → e ≤ s.now.toNat →
      exec (.waitTimeOut core slot) s = .next ((s.dropWaits core slot x.fid).updSlot core slot fun y =>
        { y with wait := .trap 0x37, waitOn := [], waitExp := none })) ∧
    ((x.st = .running ∨ x.st = .halted) → x.claimed = false → x.dl ≠ 0 → x.dl.toNat ≤ s.now.toNat →
      exec (.deadlineMiss core slot) s = .next
        ((s.postMiss core slot x false).updSlot core slot fun y => { y with dl := 0 })) ∧
    (∀ rec, core < numCores → slot < 4 → s.bindRefused core slot rec = false →
      (x.st = .idle ∨ x.st = .unbound → exec (.bindRecordWrite core slot rec) s = .next (s.putBind core slot rec)) ∧
      (x.st = .running ∨ x.st = .halted → exec (.bindRecordWrite core slot rec) s = .next
        (s.updCore core fun y => { y with busy := y.busy ||| BitVec.ofNat 4 (2 ^ slot) }))) ∧
    (core < numCores → slot < 4 → exec (.preemptionRequest core slot) s = .next
      (s.updCore core fun y => { y with preq := y.preq ||| BitVec.ofNat 4 (2 ^ slot) })) ∧
    (canSave s core slot →
      let f := s.seated core slot
      let q := s.ownerOf core slot
      let u (due : Option Msg) := (s.preempt q.1 q.2 due).updCore core fun y => { y with preq := y.preq &&& ~~~(BitVec.ofNat 4 (2 ^ slot)) }
      ((f.st = .running ∨ f.st = .halted) → bits (s.core core).preq.toNat slot 1 = 1 → exec (.preemption core slot) s = .next (u none)) ∧
      (bits (s.core core).preq.toNat slot 1 = 0 → s.givesWay core slot = true → exec (.preemption core slot) s = .next (u (s.claimant core x.ctx))) ∧
      (f.st = .running → x.sliceLen ≠ 0 → x.sliceLen ≤ x.ran → s.sliceClaimed core slot = true →
        exec (.timeSliceExpiry core slot) s = .next (u (s.sliceMsg core slot)))) ∧
    (∀ v, s.nextSaved core slot = some v → x.st = .idle → x.zeroing = false → (s.core core).fenced = false →
      ¬(slot = 0 ∧ (s.reservedFor core).isSome = true) → s.testing (nearAddr core v.area) (areaLen v.body.wlen) = false →
      let t := (s.bringBack v (nearAddr core v.area) slot).updCore core fun y => { y with wdCnt := 0 }
      exec (.resume core slot) s = .next
        (({ t with saved := t.saved.map fun w => if w.core = core ∧ w.slot = slot then { w with due := none } else w } : State).thawHalted.reachHalt
          core slot)) ∧
    (∀ v, s.nextSaved core slot = some v → v.core = core ∧ v.slot = slot ∧ v.body.st = .running ∧ v.body.bind = x.bind)

/-- R50 to R53, R83, R378, R379, R404, R408, R410, R420, R421, R425 to R428: what happens to a core or a die: its watchdog and fence, the
copy to a spare, a zeroed window, a bank that is ready or wakes, an umpire's check, the end of a self-test, a rail and a sensor,
the rotation of the event sets, a snapshot and a sample (which cores write one, and in which order, is log entry 127's reading). -/
def Sys2Proof.Claims.CoreEventsComplete : Prop :=
  ∀ (s : State) (core slot n : Nat),
    let x := s.core core
    let y := s.slot core slot
    (core < numCores → x.wdog ≠ 0 → x.wdog.toNat * 1024 ≤ x.wdCnt → exec (.watchdogTrip core) s = .next (s.fenceCore core 7)) ∧
    (core < numCores → exec (.fenceWrite core) s = .next (s.fenceCore core 7)) ∧
    (x.fenced = true → x.remap = true → exec (.benchRemap core) s = .next
      (((s.copyParity core).updDie (dieOf core) fun d =>
        { d with tab := mput d.tab (coreY core % 64) (BitVec.ofNat 8 (128 + coreX core % 48)) }).updCore
        core fun z => { z with fenced := false, remap := false, ce := 0, repl := 0, rb := 0, kill := 0, ump := 0, umpAt := [], wdCnt := 0,
                               replay := [], score := [], ctrs := (List.range 4).map fun j => (j, ⟨0, s.now, s.now⟩) }).applyHeld) ∧
    (y.zeroing = true → ∃ t, exec (.windowZeroed core slot) s = .next t ∧ (t.slot core slot).zeroing = false ∧
      (∀ a, rsAddr core y.wbase ≤ a → a < rsAddr core y.wbase + y.wlen → memGet t.mem a = 0 ∧ a ∉ t.parity) ∧
      (Memory.wf s.mem = true → ∀ a, a < rsAddr core y.wbase ∨ rsAddr core y.wbase + y.wlen ≤ a → memGet t.mem a = memGet s.mem a)) ∧
    (∀ at_, mfind x.bankAt n = some at_ → at_ ≤ s.now.toNat → exec (.bankReady core n) s = .next
      (s.updCore core fun z => { z with bankAt := mdel z.bankAt n })) ∧
    (core < numCores → n < 4 → x.bank n = 1 →
      (∃ p ∈ s.cores, ∃ q ∈ p.2.slots, ∃ bs, q.2.wait = .bank bs ∧ (core, n) ∈ bs) →
      exec (.retentionWake core n) s = .next
        (s.updCore core fun z => { z with pwr := BitVec.ofNat 32 (setBits z.pwr.toNat (2 * n) 2 0) })) ∧
    (∀ q rest dsig ssig, y.checks = q :: rest →
      let t := s.updSlot core slot fun z => { z with checks := rest }
      (s.checkOk y.ctx q dsig ssig = true → exec (.umpireCheck core slot dsig ssig) s = .next t) ∧
      (s.checkOk y.ctx q dsig ssig = false →
        exec (.umpireCheck core slot dsig ssig) s = .next (t.mismatch core slot (t.slot core slot) q dsig ssig))) ∧
    (∀ test inst r rest first, x.bist = (test, inst, r) :: rest → exec (.bistComplete core false first) s = .next
      (((s.afterTest core test inst).updCore core fun z => { z with bist := rest, biRes := 0 }).landToken r 0).servePitches) ∧
    (∀ die, die < 4 → n < 4 → exec (.railSettled die n) s = .next
      (s.updDie die fun d => { d with vstat := d.vstat ||| BitVec.ofNat 32 (2 ^ n) })) ∧
    (∀ die (temp : BitVec 16), die < 4 → exec (.temperatureUpdate die temp) s = .next
      (s.updDie die fun d => { d with temp := temp.setWidth 32 })) ∧
    (let p := bits x.pmRot.toNat 0 16
     core < numCores → p ≠ 0 → x.pmAt + p * 1024 ≤ s.now.toNat → exec (.setRotation core) s = .next (s.updCore core fun z =>
      { z with pmAct := (z.pmAct + 1) % (bits z.pmRot.toNat 16 3 + 1), pmAt := z.pmAt + p * 1024 })) ∧
    (∀ at_ : W64, s.snapAt = some at_ → at_.toNat ≤ s.now.toNat → ∃ t, exec .snapshotTrigger s = .next t ∧ t.snapAt = none ∧
      (∀ c z, (c, z) ∈ s.cores → c < numCores → (c, z.snapshot) ∈ t.snaps) ∧ t.cores = s.cores ∧ t.mem = s.mem) ∧
    (∀ ctx cores, (s.ctx ctx).live = true → bits (s.ctx ctx).trace.toNat 31 1 = 1 → s.sampleTick ctx = true →
      exec (.pcSample ctx cores) s = .next
        ((((cores ++ s.cores.map Prod.fst).filter fun c => decide (c < numCores)).eraseDups.foldl (fun t c => t.sample ctx c) s).updCtx ctx
          fun c => { c with smpAt := s.now })) ∧
    (∀ ctx cores, s.sampleTick ctx = false → exec (.pcSample ctx cores) s = .next s)

/-- R306, R169, R374, R173, R174, R382 to R388: what happens at a copy engine: the kicks under way reach its queue and a command is taken or
goes on; a translation; a marker, a packet, a reply or a loss notice arrives; a request times out, and a held tag is usable
again. The model's choice, and no rule of the spec: that a walk is one step (log entry 118); the masks, the plane counts and the turn that a
far release carries, and that a loss notice counts per plane and lets the releases held there go on without it (log entry 119). -/
def Obligations.EngineEventsComplete : Prop :=
  ∀ (s : State) (e n : Nat) (h : BitVec 128) (bs : List (BitVec 8)),
    (let u := s.takeKicks e s.net.length
     let en := u.engine e
     en.hid = 0 →
      (en.cur = none → exec (.engineCommandStart e) s = .next (u.takeCmd e)) ∧
      (∀ q rest, en.cur = none → en.parked = [] → en.queue = q :: rest → q.guard = none → u.cmdMoves q = false → en.ucode = false →
        q.code ≠ 7 →
        exec (.engineCommandStart e) s = .next (State.runCmd (u.updEngine e fun en => { en with queue := rest }) e q)) ∧
      (∀ q, en.cur = some q → en.ucode = false → exec (.engineCommandStart e) s = .next (u.runTodo e en.todo.length))) ∧
    (∀ q m rest va w f, (s.engine e).cur = some q → (s.engine e).todo = m :: rest → (s.engine e).hid = 0 → (va, w) ∈ m.fars →
      (s.xlat e q va w).1 = .ok f → exec (.translationWalk e q.ctx va w) s = .next (s.xlat e q va w).2) ∧
    (∀ src sdev plane cls seq, e < 768 → sdev < 32 → plane < 96 → cls < 2 →
      exec (.flushMarker e ⟨sdev, src⟩ plane cls seq) s = .next (s.marker e src sdev plane cls (seq % 256))) ∧
    (∀ plane, let ctx := dF h 104 8
      let sdev := dF h 117 5
      e < 768 → plane < 96 → hdrBad h = false → dF h 112 5 = s.pos.toNat →
      (dF h 124 4 = 4 → (s.ctx ctx).live = true →
        exec (.fabricRequest e plane h bs) s = .next (s.marker e (dF h 0 57) sdev plane (dF h 122 2) (dF h 82 8))) ∧
      (dF h 124 4 = 3 → dF h 57 4 = 1 → exec (.fabricRequest e plane h bs) s = .next
        ((if (s.ctx ctx).live then s else s.drop (dF h 78 4 + 1)).holdRelease e h bs)) ∧
      ((s.ctx ctx).live = true → dF h 124 4 < 4 → ¬(dF h 124 4 = 3 ∧ dF h 57 4 = 1) → bits (s.peerEntry ctx sdev) 15 1 = 0 →
        exec (.fabricRequest e plane h bs) s = .next (s.answerPeer h 7)) ∧
      ((s.ctx ctx).live = true → bits (s.peerEntry ctx sdev) 15 1 = 1 →
        (dF h 124 4 < 3 → exec (.fabricRequest e plane h bs) s = .next (s.serve e h bs)) ∧
        (dF h 124 4 = 3 → dF h 57 4 ≠ 1 → s.imageWaits h bs = false →
          exec (.fabricRequest e plane h bs) s = .next (s.takeImage e h bs false)))) ∧
    (let t := mget (s.engine e).tags (dF h 94 10) Tag.reset
     let u := s.updEngine e fun en => { en with tags := mput en.tags (dF h 94 10) t.landed }
     let code := if dF h 124 4 = 8 then leNat (bs.take 4) else 0
     e < 768 → hdrBad h = false → 5 ≤ dF h 124 4 → dF h 112 5 = s.pos.toNat → (s.ctx (dF h 104 8)).live = true → t.busy = true →
      dF h 90 4 = t.gen.toNat → s.now.toNat < t.sent + s.fab.tmo.toNat * 256 →
      (∀ r, t.cont = .tok r → exec (.fabricReply e h bs) s = .next (u.tokenTo (some r) code)) ∧
      (t.cont = .ack → exec (.fabricReply e h bs) s = .next (if code = 0 then u.answered e else u.failed e code)) ∧
      (∀ a m q, t.cont = .near a m → (u.engine e).cur = some q → code = 0 → s.testing a m = false → exec (.fabricReply e h bs) s = .next
        ((u.engineNear e q a (bs.take m) (dF h 61 1 == 1)).answered e)) ∧
      exec (.fabricReply e h bs) s = .next (u.takeReply e t code bs (dF h 61 1 == 1))) ∧
    (∀ sdev plane, e < 768 → sdev < 32 → plane < 96 → exec (.lossNotice e sdev plane) s = .next (
      let n := sdev * 96 + plane
      let t := s.updEngine e fun en => { en with notices := mput en.notices n (mget en.notices n 0 + 1) }
      (t.updEngine e fun en => { en with holding := en.holding.map (·.without en.notices) }).applyHeld)) ∧
    (let t := mget (s.engine e).tags n Tag.reset
     t.busy = true → t.sent + s.fab.tmo.toNat * 256 ≤ s.now.toNat → exec (.requesterTimeOut e n) s = .next
      (let u := { t with
                  busy := false, gen := t.gen + 1, tmos := t.tmos + 1, hold := decide (15 ≤ t.tmos + 1), sent := s.now.toNat }
       (s.updEngine e fun en => { en with tags := mput en.tags n u }).expire e t.cont)) ∧
    (let t := mget (s.engine e).tags n Tag.reset
     t.hold = true → t.sent + 65536 ≤ s.now.toNat → exec (.tagHoldExpiry e n) s = .next
      (s.updEngine e fun en => { en with tags := mput en.tags n { t with hold := false, tmos := 0 } }))

/-- R387, R389 to R394: what happens on the fabric: flits are discarded; a link, a plane or a peer changes. A link that leaves its set counts a
loss and is reported, in a form that is the model's choice (log entry 26). -/
def Obligations.FabricEventsComplete : Prop :=
  ∀ (s : State) (n : Nat),
    exec (.flitDiscard n) s = .next { s with fab := { s.fab with drop := satAdd s.fab.drop n } } ∧
    (∀ plane peer q, plane < 96 → peer < 32 → s.linkKept plane peer ≤ relink (s.linkKept plane peer) (64 - q) →
      relink (s.linkKept plane peer) (64 - q) ≠ 0 ∨ s.linkKept plane peer = 0 →
      exec (.linkErrorRateChange plane peer q) s = .next (s.updPlane plane fun x =>
        ({ x with need := mput x.need peer q, kept := mput x.kept peer (relink (s.linkKept plane peer) (64 - q)) }).counted)) ∧
    (∀ plane peer q cls, plane < 96 → peer < 32 → cls < 2 →
      let old := s.linkKept plane peer
      let new := relink old (64 - q)
      ∃ t, exec (.linkErrorRateChange plane peer q) s = .next t ∧ t.linkKept plane peer = new ∧
        mget (t.plane plane).sheds (peerKey peer cls) 0 =
          mget (s.plane plane).sheds (peerKey peer cls) 0 + (if new < 2 + cls ∧ 2 + cls ≤ old then 1 else 0)) ∧
    (∀ plane peer q, plane < 96 → peer < 32 → s.linkKept plane peer ≠ 0 → relink (s.linkKept plane peer) (64 - q) = 0 →
      ∃ t, exec (.linkErrorRateChange plane peer q) s = .next t ∧ t.linkKept plane peer = 0 ∧
        mget (t.plane plane).losses peer 0 = mget (s.plane plane).losses peer 0 + 1 ∧ t.mem = s.mem ∧ t.cores = s.cores) ∧
    (∀ plane len out errs, plane < 96 →
      exec (.loopbackStart plane len) s = .next (s.updPlane plane (·.start len.toNat)) ∧
      exec (.planeOut plane out) s = .next (s.updPlane plane (·.setOut out)) ∧
      ((s.plane plane).run = true → exec (.loopbackDone plane errs) s = .next (s.updPlane plane fun x =>
        { x with run := false, lb := BitVec.ofNat 32 (2 ^ 31 + (if errs = 0 then 2 ^ 30 else 0) + min errs (2 ^ 30 - 1)) }))) ∧
    (∀ pos ctx pf, pos < 32 → pos ≠ s.pos.toNat → (s.ctx ctx).live = true → exec (.peerTableHandshake pos true ctx pf) s = .next
      (({ s with fab := { s.fab with pod := BitVec.ofNat 32 (setBits s.fab.pod.toNat pos 1 1) } } : State).updCtx ctx fun c =>
        { c with peers := mput c.peers pos (BitVec.ofNat 16 (setBits (mget c.peers pos 0).toNat 14 1 (if pf then 1 else 0))) }))

/-- R320, R348 to R351, R357 to R359: what the host and the management cores do: a submission, the freeing of a status entry, the two
requests of `SYS`, reads and writes of context 0's far bytes in this device and reads of a function's BAR0, CXL's viral state, the power cap, and reset.
What reset keeps (the agenda, the model's counters, the position, the fuses, the used leaves and the host's memory) is the model's choice
(log entry 103). -/
def Obligations.HostEventsComplete : Prop :=
  ∀ (s : State) (fn off n k : Nat) (bs : List (BitVec 8)),
    let hd := leNat (bs.take 16)
    (fn < 256 → off < 0x1000 → off % 64 = 0 → bs.length = 64 → (s.ctx fn).live = true → (s.ctx fn).fenced = false →
      statusSt (s.status fn (bits hd 106 6)) = 0 → s.moving (bits hd 32 14) = false →
      (bits hd 32 14 = 0x3FFF → s.launchTests fn (bits hd 12 12) = false) →
      exec (.inboxWrite fn off bs) s = .next (s.submit fn hd (inboxWords bs))) ∧
    (fn < 256 → off < 0x1000 → (off % 64 ≠ 0 ∨ bs.length ≠ 64 ∨ statusSt (s.status fn (bits hd 106 6)) ≠ 0) →
      exec (.inboxWrite fn off bs) s = .next { s with aer := s.aer + 1 }) ∧
    (fn < 256 → n < 64 → ∃ t, exec (.statusFree fn n) s = .next t ∧ statusSt (t.status fn n) = 0 ∧ t.mem = s.mem ∧ t.cores = s.cores ∧
      ∀ i, i ≠ n → t.status fn i = s.status fn i) ∧
    (∀ ctx core slot fid w1 w2 w3 hid act, s.net[k]? = some (.sysReq ctx core slot fid [1, w1, w2, w3]) → s.sysWaits k core = false →
      (s.ctx ctx).sup = core → w1 = BitVec.ofNat 32 hid → w2 = BitVec.ofNat 32 act → hid < 2 ^ 16 → act < 2 →
      let r := (s.taken k).releaseHalt ctx (BitVec.ofNat 16 hid) act
      exec (.sysRelease k) s = .next (r.2.sysAnswer core slot fid r.1)) ∧
    (∀ ctx core slot fid w1 w2 w3, s.net[k]? = some (.sysReq ctx core slot fid [2, w1, w2, w3]) → s.sysWaits k core = false →
      exec (.sysPost k) s = .next (((s.taken k).post
        { type := 4, ctx := ctx, lcore := core, code := 0,
          body := w1.toNat + w2.toNat * 2 ^ 32 + w3.toNat * 2 ^ 64 + slot * 2 ^ 96 }).sysAnswer core slot fid 0)) ∧
    (∀ va a, fn < 256 → va % 256 + n ≤ 256 → s.hostPlace fn va false = some a → s.tamperedAt a n = false → s.poisoned a n = false →
      exec (.hostMemoryRead fn (.far va) n) s = .next { s with hostOut := s.hostOut ++ [(fn, s.bytesAt a n, 0)] }) ∧
    (∀ at_, fn < 256 → at_ % 256 + n ≤ 256 → at_ + n ≤ 0x10000 →
      let r := s.bar0Read fn at_ n
      exec (.hostMemoryRead fn (.bar0 at_) n) s = .next { r.2 with hostOut := r.2.hostOut ++ [(fn, r.1, 0)] }) ∧
    (∀ va a psn, fn < 256 → va % 256 + bs.length ≤ 256 → bs ≠ [] → s.hostPlace fn va true = some a →
      (bs.length = 256 → exec (.hostMemoryWrite fn va bs psn) s = .next ((s.retag a 256).putPoison a bs psn)) ∧
      (bs.length < 256 → s.tamperedAt a bs.length = false →
        exec (.hostMemoryWrite fn va bs psn) s = .next (s.putPoison a bs psn))) ∧
    (∃ t, exec .cxlViral s = .next t ∧ ∀ c x, (c, x) ∈ s.ctxs → x = s.ctx c → x.live = true → (t.ctx c).fenced = true) ∧
    (∀ on, exec (.powerCap on) s = .next { s with powerCap := on }) ∧
    (s.ouvaBad = false → s.mapOk = true → exec .reset s = .next
      { State.reset with
        agenda := s.agenda, fresh := s.fresh, nextId := s.nextId, pos := s.pos, leaf := s.leaf, fuses := s.fuses,
        mem := s.mem.filter (fun p => decide (2 ^ 53 ≤ p.1 ∧ p.1 < 2 ^ 54)), dies := s.fusedDies,
        fab := { Fab.reset with pod := BitVec.ofNat 32 (2 ^ s.pos.toNat), planes := s.fusedPlanes true } })

/-- R346, R356, R377, R393, R400 to R412, R424, R425, R429: the commands of the management mailbox, given by a function that may give them
and with arguments in range, each with its effect and its answer 0x00 (a write of a read-only or reserved fabric register is dropped, R393,
and answered 0x00 too: log entry 134); one of another function answers 0x48, one for a context that does not exist (log entry 85) or is
fenced 0x43, a debug command too, whether or not the context is debuggable (the spec gives no order between R423 and R401). The blocks that a snapshot has are the model's choice (log entry 24), and that trace control
starts the sampling period and that a context's trace header starts at zero are its readings (log entries 127, 110). While Ouva's image fails its verification every command answers 0x46 and does nothing, which is the model's choice
(log entry 104). -/
def Obligations.MailboxCommandsComplete : Prop :=
  (∀ (s : State) (fn ctx core slot n : Nat) (a b : Nat) (w : BitVec 32) (h : BitVec 16) (d : BitVec 64) (x : BitVec 256) (o : Bool)
    (p : BitVec 8) (item : DbgItem) (bs : List (BitVec 8)), s.ouvaBad = true → fn < 256 →
    ∀ i ∈ [Instr.create fn ctx o o a b a b a b a b, .destroy fn ctx, .loadImage fn ctx a b [], .report fn ctx x a, .invalidate fn ctx a b,
        .fabricRegisterRead fn n, .fabricRegisterWrite fn n w, .peerTableWrite fn ctx n o p, .debugHalt fn ctx core slot,
        .debugRelease fn ctx h a, .readState fn ctx core slot item, .writeState fn ctx core slot item bs, .traceControl fn ctx w,
        .watchpoint fn ctx n o a d b, .snapshotArm fn d, .snapshotRead fn n a, .errorLogRead fn n, .defectMapRead fn,
        .reliabilityRegisterRead fn core n, .reliabilityRegisterWrite fn core n w],
      exec i s = .next (s.mboxAnswer fn 0x46)) ∧
  ∀ (s : State) (fn ctx core slot n : Nat), s.ouvaBad = false →
    (∀ (dbg pfwd : Bool) (sup mbase msize root obase osize tbase tsize : Nat), (s.ctx ctx).live = false →
      createOk ctx sup mbase msize root obase osize tbase tsize = true →
      exec (.create 0 ctx dbg pfwd sup mbase msize root obase osize tbase tsize) s = .next
        (((s.newId.2.updCtx ctx fun _ => { Ctx.reset with
          live := true, debug := dbg, pfwd := pfwd, sup := sup, mbase := mbase, msize := msize, root := root, obase := obase,
          osize := osize, tbase := tbase, tsize := tsize, key := some s.newId.1 }).clearTraceHeader ctx).mboxAnswer 0 0)) ∧
    ((s.ctx ctx).live = true → ∃ t, exec (.destroy 0 ctx) s = .next t ∧ (t.ctx ctx).live = false ∧ ∀ l ∈ t.launches, l.ctx ≠ ctx) ∧
    (∀ va len cores l t, mayCommand s 0 ctx → s.imageTag ctx va len = none → s.imageTests ctx va len cores = false → s.farPlaces ctx va len false = some l → (∀ p ∈ l, s.poisoned p.1 p.2 = false) →
      s.loadImage ctx (s.gather l) cores = some t → exec (.loadImage 0 ctx va len cores) s = .next (t.mboxAnswer 0 0)) ∧
    (∀ nonce va l, mayCommand s fn ctx → s.leaf < 2 ^ 20 → s.spanTag ctx va 2956 true = none → s.farPlaces ctx va 2956 true = some l →
      exec (.report fn ctx nonce va) s = .next
        (({ s.scatter l (s.reportBytes ctx nonce) with leaf := s.leaf + 1 } : State).mboxAnswer fn 0)) ∧
    (∀ va len, mayCommand s fn ctx → va % 2 ^ 19 = 0 → len % 2 ^ 19 = 0 →
      let t := { s with engines := s.engines.map fun (p : Nat × Engine) => (p.1, p.2.dropRange ctx va len) }
      t.translating ctx = false → exec (.invalidate fn ctx va len) s = .next (t.mboxAnswer fn 0)) ∧
    (exec (.fabricRegisterRead 0 n) s = .next (s.mboxAnswer 0 0 (toLe 4 (s.fabReg n).toNat)) ∧
      ∀ v, exec (.fabricRegisterWrite 0 n v) s = .next ((s.setFabReg n v.toNat).mboxAnswer 0 0)) ∧
    (∀ (v : Bool) (pctx : BitVec 8), mayCommand s 0 ctx → n < 32 → exec (.peerTableWrite 0 ctx n v pctx) s = .next
      ((s.updCtx ctx fun c => { c with peers := mput c.peers n (BitVec.ofNat 16 ((if v then 2 ^ 15 else 0)
        + bits (mget c.peers n 0).toNat 14 1 * 2 ^ 14 + pctx.toNat)) }).applyHeld.mboxAnswer 0 0)) ∧
    (mayDebug s fn ctx → canHalt s ctx core slot →
      let p := s.ownerOf core slot
      let t := s.haltSlot p.1 p.2 0
      exec (.debugHalt fn ctx core slot) s = .next (t.mboxAnswer fn 0 (toLe 2 (t.slot p.1 p.2).hid.toNat))) ∧
    (∀ hid act, mayDebug s fn ctx → act < 2 → exec (.debugRelease fn ctx hid act) s = .next
      ((s.releaseHalt ctx hid act).2.mboxAnswer fn (s.releaseHalt ctx hid act).1)) ∧
    (∀ item bs, mayDebug s fn ctx → namesItem s ctx core slot item →
      let p := s.ownerOf core slot
      s.itemPending p.1 p.2 item = false →
      exec (.readState fn ctx core slot item) s = .next ((s.itemWakes p.1 p.2 item).mboxAnswer fn 0 (s.itemBytes p.1 p.2 item)) ∧
      ((s.slot p.1 p.2).st = .halted → s.itemTakes p.1 p.2 item bs.length = true →
        exec (.writeState fn ctx core slot item bs) s = .next ((s.putItem p.1 p.2 item bs).mboxAnswer fn 0))) ∧
    (∀ word, mayDebug s fn ctx → exec (.traceControl fn ctx word) s = .next
      ((s.updCtx ctx fun c => { c with trace := traceWord word, smpAt := s.now }).mboxAnswer fn 0)) ∧
    (∀ far addr mask action, mayDebug s fn ctx → n < 4 → addr % 64 = 0 → addr < (if far then 2 ^ 57 else 2 ^ 31) → action < 2 →
      exec (.watchpoint fn ctx n far addr mask action) s = .next
        ((s.updCtx ctx fun c => { c with watch := mput c.watch n ⟨far, addr, mask, action⟩ }).mboxAnswer fn 0)) ∧
    (∀ t : W64, s.now.toNat + 4096 ≤ t.toNat → exec (.snapshotArm 0 t) s = .next (({ s with snapAt := some t } : State).mboxAnswer 0 0)) ∧
    (n < snapBlocks → exec (.snapshotRead 0 n 0) s = .next (s.mboxAnswer 0 0 (toLe 64 (s.snapBlock n).toNat))) ∧
    (∀ r, s.errLog[n]? = some r → exec (.errorLogRead 0 n) s = .next (s.mboxAnswer 0 0 (toLe 64 r.toNat))) ∧
    exec (.defectMapRead 0) s = .next (s.mboxAnswer 0 0 (memGets s.fuses 0 512)) ∧
    (core < numCores → srPrivate n = true → (srAcc n).isSome = true →
      exec (.reliabilityRegisterRead 0 core n) s = .next (s.mboxAnswer 0 0 (toLe 4 (s.readSr core 0 n))) ∧
      ∀ v, srLocked n true = false →
        exec (.reliabilityRegisterWrite 0 core n v) s = .next ((s.writeSr core 0 n v.toNat).mboxAnswer 0 0)) ∧
    (fn ≠ 0 → fn < 256 → ∀ i ∈ [Instr.destroy fn ctx, .fabricRegisterRead fn n, .errorLogRead fn n, .defectMapRead fn,
        .snapshotRead fn n 0, .reliabilityRegisterRead fn core n], exec i s = .next (s.mboxAnswer fn 0x48)) ∧
    ((s.ctx ctx).live = false ∨ (s.ctx ctx).fenced = true → (fn = 0 ∨ fn = ctx) → fn < 256 →
      ∀ i ∈ [Instr.debugHalt fn ctx core slot, .traceControl fn ctx 0, .invalidate fn ctx 0 0, .report fn ctx 0 0],
        exec i s = .next (s.mboxAnswer fn 0x43))

/-- R12, R20, R144, R199, R242, R272, R209: a step with an empty agenda issues, on the core it names, for the first of its running slots in
their order (a slot held by a scrum issues the scrum's block): the instruction that its code decodes to at its halfword address, or the next of a repetition; an address past
the code is a code-range trap and words that decode to nothing a reserved encoding. A trap that a keeper's stream owes its firing (R127)
comes first. The model's choice, and no rule of the spec: the agenda, whose entry moves after the cycles that pass before it (log entry 1), and
that where the first slot is left waiting the next one issues in the same turn (log entry 7). -/
def Obligations.StepRunsDecoded : Prop :=
  ∀ (s : State) (k : Nat) (rest : List Nat),
    let t := seatedAt s k
    let pc := t.cur.pc.toNat
    let runs (u : State) : Prop := step s = if u.slotWaits s.curCore k then u.issueList s.curCore rest else .next u
    (s.agenda = [] → s.issueOrder s.curCore = k :: rest →
      (∀ b, t.cur.kfault = some b → runs (t.keeperTrap b)) ∧
      (t.cur.kfault = none →
      (∀ i n u, t.cur.nextBody = none → pc < t.codeEnd → decode (halves (t.bytesAt (codeAt t pc) 8)) = .ok (i, n) →
        exec i t = .next u → runs u) ∧
      (∀ i u, t.cur.nextBody = some i → exec i t = .next u → runs u) ∧
      (t.cur.nextBody = none → t.codeEnd ≤ pc → runs (t.trapCur { code := 0xE })) ∧
      (∀ e, t.cur.nextBody = none → pc < t.codeEnd → decode (halves (t.bytesAt (codeAt t pc) 8)) = .error e →
        runs (t.trapCur { code := 8 })))) ∧
    (s.agenda = [] → s.issueOrder s.curCore = [] → step s = .next s) ∧
    (∀ dt c tl, s.agenda = ⟨dt, .issue c⟩ :: tl → step s = ({ s with agenda := tl }.tick dt).issueOn c) ∧
    (∀ dt i tl, s.agenda = ⟨dt, .event i⟩ :: tl → encode i = [] → step s = exec i ({ s with agenda := tl }.tick dt))

/-- R199 to R208, R212 and the tables of the instructions: words written out field by field decode to the instructions they stand for. -/
def Obligations.DecodeWords : Prop :=
  decode [0b1_00011_00010_0001_0#16] = .ok (.addShort true 3 2, 1) ∧
  decode (word32 0b00001_01_000011_000010_000001_000001_1#32) = .ok (.add 1 3 2 1, 2) ∧
  decode (word32 0b0_000100_000011_000010_000001_000011_1#32) = .ok (.fma 4 3 2 1, 2) ∧
  decode (word32 0b1111111111111_000010_000001_000101_1#32) = .ok (.addi (-1) 2 1, 2) ∧
  decode (word32 0b0000000000000_000000_000001_001101_1#32 ++ word32 0x89ABCDEF#32) = .ok (.li 1 0x89ABCDEF, 4) ∧
  decode (word32 0b11111111111111111111_1_1_010_010110_1#32) = .ok (.br (-1) true true 2, 2) ∧
  decode (word32 0b000_10_01_000101_000010_000001_011111_1#32) = .ok (.ld 2 1 5 2 1, 2) ∧
  decode (word32 0b0_11_000100_000011_000101_1_110_010000_1#32) = .ok (.st 3 4 3 5 true 6, 2) ∧
  decode (word32 0b00010_00_000000_000010_000000_100000_1#32) = .ok (.acq 0 2, 2) ∧
  decode (word32 0b00011_00_000000_000010_000001_100011_1#32) = .ok (.mma 0 2 1, 2) ∧
  decode (word32 0b0_000000010000_000000_000001_100110_1#32) = .ok (.rds 0x10 1, 2)

/-- R199 to R222: encoding and decoding agree: the words of every well-formed instruction of a program decode to it, whatever stands
after them, and words that decode are the words of the well-formed instruction they decode to. -/
def Obligations.EncodeRoundTrip : Prop :=
  (∀ (i : Instr) (rest : List Half), i.WellFormed → encode i ≠ [] → decode (encode i ++ rest) = .ok (i, (encode i).length)) ∧
  (∀ (hs : List Half) (i : Instr) (n : Nat), decode hs = .ok (i, n) → i.WellFormed ∧ encode i = hs.take n ∧ n ≤ hs.length)

/-- R17, R209: no instruction and no event stops the model: every step answers a next state, so that a machine runs as long as one
asks. -/
def Obligations.EveryStepGoesOn : Prop :=
  ∀ (k : Nat) (s : State), Safe k s

/-- R359, R198, R54, R21, R51, R120, R125, R132, R364, R393, R356: what reset leaves where the spec gives the value: no slot is bound, descriptors, links,
deadlines, bank power, skew windows, team words, clamps and counts are 0, `mx.afmt` is 0x0000_000A and `mx.stat`
0x00F0_0000. That memory lists nothing, so that it is in its canonical form and an unlisted byte reads 0, is the model's own
choice (log entry 12). -/
def Obligations.ResetState : Prop :=
  let s := State.reset
  Memory.wf s.mem = true ∧ s.mem = [] ∧ s.now = 0 ∧
  (∀ c k, (s.slot c k).st = .unbound ∧ (s.slot c k).bound = false ∧
    (∀ h, mget (s.slot c k).views h 0 = 0) ∧ s.readSr c k 0x004 = 0 ∧ s.readSr c k 0x005 = 0 ∧ s.readSr c k 0x010 = 0 ∧
    (∀ n, 0x20 ≤ n → n ≤ 0x23 → s.readSr c k n = 0) ∧ s.readSr c k 0x040 = 0x00F00000 ∧ s.readSr c k 0x041 = 0 ∧
    s.readSr c k 0x042 = 0x0000000A ∧ s.readSr c k 0x080 = 0 ∧ s.readSr c k 0x0C0 = 0 ∧
    (∀ b, b < 4 → (s.core c).bank b = 0)) ∧
  step s = .next s ∧ s.launches = [] ∧ s.halts = [] ∧ s.leaf = 0

/-- Memory is kept in one canonical form: addresses strictly rising, and no entry equal to what an unlisted address reads as. Every
step keeps it. -/
def Obligations.MemoryStaysCanonical : Prop :=
  ∀ s t : State, Memory.wf s.mem = true → step s = .next t → Memory.wf t.mem = true

/-- R240 to R242, R251, R219: where no branch is traced (R404), a branch that goes or does not, and an instruction that only goes on,
change no byte of memory, and of their slot what retiring changes, the run-ahead buffer and, the linking ones, the link;
nothing else anywhere. -/
def Obligations.ControlFrame : Prop :=
  ∀ (s t : State) (i : Instr), s.cur.runs = true → goes s i → bits (s.ctx s.cur.ctx).trace.toNat 30 1 = 0 →
    exec i s = .next t →
    Kept s t ∧ t.mem = s.mem ∧ t.parity = s.parity ∧ bare t.cur = bare s.cur ∧
    ((∀ f k n g, i ≠ .brl f k n g) → (∀ o a, i ≠ .jrl o a) → t.cur.lnk = s.cur.lnk)

/-- R197, R236: a guard slot number where a handle would stand. No word names a guard slot above 7 there, nor `g7` as a destination;
`g7` reads all ones; and an instruction reads a guard as whether its mask is not zero, under its sense. -/
def Obligations.GuardNumbers : Prop :=
  (∀ (x : Slot) (g : BitVec 3) (n : Bool), x.guardOn g n = (decide ((x.guard g.toNat).m ≠ 0) != n) ∧ x.guard 7 = ⟨0xFFFF, none⟩) ∧
  ∀ (c : BitVec 3) (o : BitVec 2) (b a d : BitVec 6) (rest : List Half),
    let refused (i : Instr) : Prop := ∃ e, decode (encode i ++ rest) = .error e
    (7 ≤ d.toNat → refused (.cmp c o b a d) ∧ refused (.cmpm c o b a d) ∧ refused (.gand b a d) ∧ refused (.gor b a d) ∧
      refused (.gxor b a d) ∧ refused (.gnot a d) ∧ refused (.gmov o a d)) ∧
    (8 ≤ a.toNat → refused (.gand b a d) ∧ refused (.gor b a d) ∧ refused (.gxor b a d) ∧ refused (.gnot a d)) ∧
    (8 ≤ b.toNat → refused (.gand b a d) ∧ refused (.gor b a d) ∧ refused (.gxor b a d)) ∧
    (d.toNat < 7 → a.toNat < 8 → b.toNat < 8 →
      decode (encode (.gand b a d) ++ rest) = .ok (.gand b a d, 2) ∧ decode (encode (.gor b a d) ++ rest) = .ok (.gor b a d, 2) ∧
      decode (encode (.gxor b a d) ++ rest) = .ok (.gxor b a d, 2) ∧ decode (encode (.gnot a d) ++ rest) = .ok (.gnot a d, 2)) ∧
    (d.toNat < 7 → a.toNat < 56 → b.toNat < 56 →
      decode (encode (.cmp c o b a d) ++ rest) = .ok (.cmp c o b a d, 2) ∧
      decode (encode (.cmpm c o b a d) ++ rest) = .ok (.cmpm c o b a d, 2))

/-- R2 to R4: the die, cluster and member of the core of column x and row y; the cores of one cluster lie on one die. -/
def Obligations.MeshNumbers : Prop :=
  (∀ x y : Nat, x < 96 → y < 128 →
    let c := y * 96 + x
    c < numCores ∧ dieOf c = 2 * (y / 64) + x / 48 ∧ clusterOf c = y / 4 * 24 + x / 4 ∧ clusterOf c < 768 ∧
    memberOf c = y % 4 * 4 + x % 4 ∧ memberOf c < 16) ∧
  (∀ c e : Nat, c < numCores → e < numCores → clusterOf c = clusterOf e → dieOf c = dieOf e) ∧
  (∀ k i : Nat, k < 768 → i < 16 →
    coreOfMember k i < numCores ∧ clusterOf (coreOfMember k i) = k ∧ memberOf (coreOfMember k i) = i) ∧
  ∀ c, c < numCores → coreOfMember (clusterOf c) (memberOf c) = c

/-- R132, R275: `mx.stat`: what its fields show, what `WRS` writes of it, and `MSTA`, which reads it and clears `ovf` in the same step. `shb`
reads 1 while an `MLW.c` fills the shadow tile. -/
def Obligations.MatrixStatus : Prop :=
  (∀ x : Core, (∀ t, x.arr.tile = some t → t.fmt < 16 ∧ 1 ≤ t.kt ∧ t.kt ≤ 256 ∧ t.sform < 4) →
    let w := x.mxStat
    bits w 24 8 = 0 ∧ bits w 1 3 = 0 ∧ (bits w 8 1 = 1 ↔ x.arr.shadow.isSome = true) ∧ (bits w 0 1 = 1 ↔ x.arr.ovf = true) ∧ (bits w 9 1 = 1 ↔ x.teamOn = true) ∧
    (x.arr.tile = none → bits w 20 4 = 0xF ∧ bits w 12 8 = 0 ∧ bits w 10 2 = 0 ∧ bits w 4 4 = 0) ∧
    ∀ t, x.arr.tile = some t →
      bits w 20 4 = t.fmt ∧ bits w 12 8 = t.kt - 1 ∧ bits w 10 2 = t.sform ∧ bits w 4 4 = t.epoch.toNat) ∧
  (∀ (s : State) (c k v : Nat), s.writeSr c k 0x040 v =
    s.updCore c fun x => { x with arr := { x.arr with ovf := v % 2 == 1 } }) ∧
  ∀ (s t : State) (d : BitVec 6), HoldsArray s t → (plain t d true 1).ready t = true → (t.view d.toNat).isInt1 = true →
    exec (.msta 0 d) s = .next (s.retired (.msta 0 d) (((plain t d true 1).putRaw t t.curC.mxStat).updCore t.curCore fun x =>
      { x with arr := { x.arr with ovf := false } }))

/-- R347, R401: the debuggable flag of a context that lives on is as its creation set it, whatever steps; and while it is clear every debug
command for the context is refused, with no other effect: with 0x49 where the function may name the context and it is live and not fenced. (What
a dead or fenced context, another function's, or a device whose Ouva did not verify answers in place of 0x49 is the model's reading: log entries
85, 104.) -/
def Obligations.DebuggableIsFixed : Prop :=
  (∀ (s t : State) (c : Nat), step s = .next t → (s.ctx c).live = true → (t.ctx c).live = true →
    (t.ctx c).debug = (s.ctx c).debug) ∧
  ∀ (s : State) (fn ctx core slot n : Nat) (hid : BitVec 16) (item : DbgItem) (bs : List (BitVec 8)) (w : BitVec 32) (far : Bool)
    (addr act : Nat) (mask : BitVec 64), fn < 256 → (s.ctx ctx).debug = false →
    ∀ i ∈ [Instr.debugHalt fn ctx core slot, .debugRelease fn ctx hid act, .readState fn ctx core slot item,
        .writeState fn ctx core slot item bs, .traceControl fn ctx w, .watchpoint fn ctx n far addr mask act],
      (∃ code, code ≠ 0 ∧ exec i s = .next (s.mboxAnswer fn code)) ∧
      ((fn = 0 ∨ fn = ctx) → (s.ctx ctx).live = true → (s.ctx ctx).fenced = false → s.ouvaBad = false →
        exec i s = .next (s.mboxAnswer fn 0x49))

/-- R261 to R263, R110: every lane movement, reduction and dot product that nothing stops retires with its results written, and what those
come to: the element that each movement takes, and on integers the exact sums and extremes, fitted once. -/
def Obligations.LanesAndReductions : Prop := LaneMovementCompletes ∧ ReductionCompletes ∧ LaneMovementPicks ∧ IntegerReductions

/-- R59, R61, R63, R266 to R269: the view instructions and the ring advances. -/
def Obligations.ViewsAndAdvancesComplete : Prop := ViewCompletes ∧ DescriptorMovesComplete ∧ AdvanceCompletes

/-- R270 to R272, R274: `REPB` captures its body and begins it, and `REPX` begins it again. -/
def Obligations.RepetitionsComplete : Prop := RepeatCaptures ∧ RepeatPasses ∧ RepeatAgain

/-- R236 to R238, R90, R91: the compares and the guard operations write their guard slot, on pending bytes and from unresolved guards too, and
an unresolved guard resolves once its bytes have landed. -/
def Obligations.GuardsComplete : Prop := CompareConditions ∧ CompareCompletes ∧ GuardsResolve ∧ GuardOperationsComplete

/-- R240 to R243: the branches, jumps, the return and the loop. -/
def Obligations.BranchesComplete : Prop := BranchCompletes ∧ IndirectJumpCompletes ∧ LoopCompletes

/-- R219, R247 to R253: the instructions that go on, wait for an event, align, release a trigger, halt and end a firing. -/
def Obligations.ControlCompletes : Prop := PlainControlCompletes ∧ AlignCompletes ∧ EndCompletes ∧ TriggerAndHaltComplete

/-- R160, R279, R291 to R295: the object instructions that wait: how they leave for their object's home, and how they retire with
its answer. -/
def Obligations.ObjectInstructionsComplete : Prop := ObjectAnswersComplete ∧ ObjectOperationsLeave

/-- R299 to R303: `SEND`, `SENDI` and `SPWN`. -/
def Obligations.MessagesComplete : Prop := SendCompletes ∧ SpawnCompletes

/-- R289, R313: the far loads, stores and atomics of the microcode. -/
def Obligations.FarAccessesComplete : Prop := FarLoadCompletes ∧ FarStoreCompletes ∧ FarAtomicsComplete

/-- R123, R129 to R131: the drains, the clear, and the rows sent on the cluster operand network. -/
def Obligations.DrainsAndMulticastComplete : Prop := DrainsComplete ∧ MulticastCompletes

/-- R17, R108, R209, R318: how a precise trap is taken: by the slot's own trap entry, or by parking the firing. -/
def Obligations.TrapsAreTaken : Prop := TrapEntry ∧ TrapParks

/-- R320, R321: the call of the management core, and the save and restore of a stopped slot. -/
def Obligations.SupervisorInstructionsComplete : Prop := SupervisorCallCompletes ∧ SaveAndRestoreComplete

/-- R322 to R325, R426: the clock, the counters, the signature table, the commit, the idle and the self-test. -/
def Obligations.SystemInstructionsComplete : Prop := SystemReadsComplete ∧ SystemControlCompletes

/-- R52, R125, R198, R322, R428: the special registers, read and written by instructions, and the writes that are rows of their own. -/
def Obligations.RegistersComplete : Prop := SpecialRegistersComplete ∧ RegisterRowsComplete

/-- R283 to R285, R175, R279: the loads and the stores of one element. -/
def Obligations.LoadsAndStoresComplete : Prop := LoadCompletes ∧ StoreCompletes

/-- R67, R68, R286: the accesses of skew tiles, and where the elements of a tile stand. -/
def Obligations.SkewAccessesComplete : Prop := SkewAccesses ∧ SkewTilePlaces

/-- R289, R158: an atomic answers the old value of its word and leaves the new one, in one step, for each operation. -/
def Obligations.AtomicsExchange : Prop := AtomicExchanges ∧ AtomicOperations

/-- The events of slots and of cores. -/
def Obligations.SlotAndCoreEventsComplete : Prop := SlotEventsComplete ∧ CoreEventsComplete

/-- R95, R109, R228, R230, R232, R233, R239: what the moves, the selects and the conversions write to every lane. -/
def Obligations.MovesAndConversions : Prop :=
  ∀ (s : State) (i : Instr) (f : Claims.Form) (r : MRule), form s i = some f → moveRule s i = some r → FormReady s f →
    ∃ v, Writes s i f v ∧
      ∀ k, k < v.length → r (arithTy f.d f.srcs s) (s.view f.d).rnd (s.view f.d).sat (laneSrcs s f k) (v.getD k 0)
end

