-- ==== Sys2Proof/Laws/Gate.lean ====
section
/-!
SUPPORT. What the gate of an instruction answers (R224): nothing, when every access is ready and no check traps.
-/

namespace Sys2Proof.Machine

theorem firstTrap_none {l : List (Option Trap)} (h : ∀ t ∈ l, t = none) : firstTrap l = none := by
  induction l with
  | nil => rfl
  | cons t rest ih =>
    obtain rfl : t = none := h t (by simp)
    simpa [firstTrap] using ih fun u hu => h u (by simp [hu])

theorem State.oneOf_none (s : State) {l : List (Option Trap)} (h : ∀ t ∈ l, t = none) : s.oneOf l = none := by
  have e : l.filterMap id = [] := by
    rw [List.filterMap_eq_nil_iff]
    exact h
  unfold State.oneOf
  rw [e]

theorem accTraps_nil (code : Nat) (test : Acc → Bool) {l : List Acc} (h : ∀ q ∈ l, test q = false) :
    accTraps code test l = [] := by
  have : l.filter test = [] := List.filter_eq_nil_iff.mpr fun q hq => by simp [h q hq]
  simp [accTraps, this]

theorem noTrap_mem {l : List (Option Trap)} (h : noTrap l = true) : ∀ t ∈ l, t = none := by
  simpa [noTrap, List.all_eq_true] using h

/-- Every part of `Acc.ready`. -/
theorem Acc.ready_parts {s : State} {q : Acc} (h : q.ready s = true) :
    q.outside s = false ∧ q.invalid s = false ∧ q.bankOff s = false ∧ q.bankWait s = false ∧ q.fixedTrap s = none ∧
      q.msgTrap s = none ∧ q.marks s = [] ∧ q.ringOk s = true ∧ q.badParity s = [] ∧ q.commits s = false := by
  simp only [Acc.ready, Bool.and_eq_true, Bool.not_eq_true', Option.isNone_iff_eq_none, List.isEmpty_iff] at h
  tauto

theorem Acc.readyButPending_parts {s : State} {q : Acc} (h : q.readyButPending s = true) :
    q.outside s = false ∧ q.invalid s = false ∧ q.bankOff s = false ∧ q.bankWait s = false ∧ q.fixedTrap s = none ∧
      q.msgTrap s = none ∧ q.ringOk s = true ∧ q.badParity s = [] ∧ q.commits s = false := by
  simp only [Acc.readyButPending, Bool.and_eq_true, Bool.not_eq_true', Option.isNone_iff_eq_none, List.isEmpty_iff] at h
  tauto

/-- A gate lets an instruction through when nothing stops or delays its accesses but `pend`, which is absent. -/
theorem State.gateWith_none {s : State} {accs : List Acc} {opnd late : List (Option Trap)}
    (h : ∀ q ∈ accs, q.readyButPending s = true) (ho : noTrap opnd = true) (hl : noTrap late = true) :
    s.gateWith accs [] opnd late none = none := by
  have p := fun q hq => Acc.readyButPending_parts (h q hq)
  have v : s.viewTraps accs [] opnd = none := by
    refine firstTrap_none ?_
    have e1 := accTraps_nil 1 (Acc.outside s) fun q hq => (p q hq).1
    have e2 := accTraps_nil 2 (Acc.invalid s) fun q hq => (p q hq).2.1
    have e4 := accTraps_nil 4 (Acc.bankOff s) fun q hq => (p q hq).2.2.1
    have e5 : s.oneOf (accs.map (Acc.fixedTrap s) ++ opnd) = none := s.oneOf_none fun t ht => by
      rcases List.mem_append.mp ht with ht | ht
      · obtain ⟨q, hq, rfl⟩ := List.mem_map.mp ht
        exact (p q hq).2.2.2.2.1
      · exact noTrap_mem ho t ht
    have e0 : s.oneOf [] = none := rfl
    intro t ht
    simp only [e1, e2, e4, e0, List.map_nil, List.mem_cons, List.not_mem_nil, or_false] at ht
    rcases ht with rfl | rfl | rfl | rfl | rfl
    all_goals first | rfl | exact e5
  have l1 : firstTrap (late.filter (fun t => t.any (fun u => u.code == 0xB)) ++
      (accs.map (Acc.msgTrap s)).filter (fun t => t.any (fun u => u.code == 9)) ++ accs.map (Acc.msgTrap s) ++ late) = none := by
    refine firstTrap_none fun t ht => ?_
    simp only [List.mem_append, List.mem_filter, List.mem_map] at ht
    rcases ht with ((⟨ht, -⟩ | ⟨⟨q, hq, rfl⟩, -⟩) | ⟨q, hq, rfl⟩) | ht
    · exact noTrap_mem hl t ht
    · exact (p q hq).2.2.2.2.2.1
    · exact (p q hq).2.2.2.2.2.1
    · exact noTrap_mem hl t ht
  have b : accs.any (Acc.bankWait s) = false := List.any_eq_false.mpr fun q hq => by simp [(p q hq).2.2.2.1]
  have r : accs.filter (fun q => !q.ringOk s) = [] :=
    List.filter_eq_nil_iff.mpr fun q hq => by simp [(p q hq).2.2.2.2.2.2.1]
  have w : s.ringWait accs = none := by simp [State.ringWait, r, accTraps, State.oneOf]
  have y : accs.flatMap (Acc.badParity s) = [] := by
    simp only [List.flatMap_eq_nil_iff]
    exact fun q hq => (p q hq).2.2.2.2.2.2.2.1
  have z : accs.any (Acc.commits s) = false :=
    List.any_eq_false.mpr fun q hq => by simp [(p q hq).2.2.2.2.2.2.2.2]
  unfold State.gateWith
  rw [v]
  dsimp only
  rw [l1, b, w, y, z]
  rfl

theorem Acc.ready_but {s : State} {q : Acc} (h : q.ready s = true) : q.readyButPending s = true := by
  obtain ⟨h1, h2, h3, h4, h5, h6, -, h8, h9, hc⟩ := Acc.ready_parts h
  simp [Acc.readyButPending, h1, h2, h3, h4, h5, h6, h8, h9, hc]

/-- R224: the gate of an instruction whose accesses are all ready and which meets no trap lets it through. -/
theorem State.gate_none {s : State} {accs : List Acc} {opnd late : List (Option Trap)}
    (h : ∀ q ∈ accs, q.ready s = true) (ho : noTrap opnd = true) (hl : noTrap late = true) :
    s.gate accs [] opnd late = none := by
  have m : s.pendWait accs = none := by
    have : accs.flatMap (Acc.marks s) = [] := by
      simp only [List.flatMap_eq_nil_iff]
      exact fun q hq => (Acc.ready_parts (h q hq)).2.2.2.2.2.2.1
    simp [State.pendWait, this]
  rw [State.gate, m]
  exact State.gateWith_none (fun q hq => Acc.ready_but (h q hq)) ho hl

/-- R224: such an instruction goes on. -/
theorem State.gated_ready {s : State} {accs : List Acc} {opnd late : List (Option Trap)} {k : Unit → Verdict}
    (h : ∀ q ∈ accs, q.ready s = true) (ho : noTrap opnd = true) (hl : noTrap late = true) :
    s.gated accs [] opnd late k = k () := by
  rw [State.gated, State.gate_none h ho hl]

/-- An instruction of a running firing that its agent's profile has. -/
theorem State.issueAny_runs {s : State} (i : Instr) (v : State → Verdict) (h : s.cur.runs = true) :
    s.issueAny i v = s.conclude i (v s) := by
  simp [State.issueAny, State.issueAs, State.profileOk, h]

theorem State.issue_runs {s : State} (i : Instr) (v : State → Verdict) (h : s.onCore) :
    s.issue i v = s.conclude i (v s) := by
  simp [State.issue, State.issueAs, State.profileOk, h.1, h.2]

/-- An instruction of the core profile whose own effect is `t` retires with it. -/
theorem State.issue_done {s t : State} (i : Instr) {v : State → Verdict} (h : s.onCore) (e : v s = .done t) :
    s.issue i v = s.retired i t := by
  rw [State.issue_runs i v h, e]
  rfl

theorem State.issue_jump {s t : State} (i : Instr) {v : State → Verdict} {pc : Nat} (h : s.onCore)
    (e : v s = .jump t pc) : s.issue i v = s.jumped pc t := by
  rw [State.issue_runs i v h, e]
  rfl

theorem State.issue_stay {s t : State} (i : Instr) {v : State → Verdict} (h : s.onCore) (e : v s = .stay t) :
    s.issue i v = t := by
  rw [State.issue_runs i v h, e]
  rfl

theorem State.issue_trap {s : State} (i : Instr) {v : State → Verdict} {t : Trap} (h : s.onCore) (e : v s = .trap t) :
    s.issue i v = s.trapCur t := by
  rw [State.issue_runs i v h, e]
  rfl

theorem State.issueAny_done {s t : State} (i : Instr) {v : State → Verdict} (h : s.cur.runs = true) (e : v s = .done t) :
    s.issueAny i v = s.retired i t := by
  rw [State.issueAny_runs i v h, e]
  rfl

theorem State.issueAny_jump {s t : State} (i : Instr) {v : State → Verdict} {pc : Nat} (h : s.cur.runs = true)
    (e : v s = .jump t pc) : s.issueAny i v = s.jumped pc t := by
  rw [State.issueAny_runs i v h, e]
  rfl

theorem State.issueAny_stay {s t : State} (i : Instr) {v : State → Verdict} (h : s.cur.runs = true) (e : v s = .stay t) :
    s.issueAny i v = t := by
  rw [State.issueAny_runs i v h, e]
  rfl

/-- Lanes that all have a value meet no reserved code. -/
theorem badLanes_ok (site : Nat → Nat → Nat × Nat) (vs : List Nat) : badLanes site (vs.map LOut.ok) = [] := by
  unfold badLanes
  rw [List.filterMap_eq_nil_iff]
  intro p hp
  obtain ⟨v, -, hv⟩ := List.mem_map.mp (List.of_mem_zip (a := p.1) (b := p.2) hp).1
  rw [← hv]

/-- Lanes that all have a value are written as they stand. -/
theorem finishLanes_ok {s : State} {dst : Acc} {site : Nat → Nat → Nat × Nat} {w : Nat} (vs : List Nat) :
    finishLanes s dst site w (vs.map LOut.ok) = .ok (dst.putLanes s w vs) := by
  unfold finishLanes
  rw [if_neg (by simp), badLanes_ok]
  simp [lowestElem, List.map_map, Function.comp_def]

theorem State.conclude_done (s : State) (i : Instr) (t : State) : s.conclude i (.done t) = s.retired i t := rfl

theorem State.conclude_jump (s : State) (i : Instr) (t : State) (pc : Nat) :
    s.conclude i (.jump t pc) = s.jumped pc t := rfl

end Sys2Proof.Machine
end

