-- ==== Sys2Proof/Laws/Tables.lean ====
section
/-!
SUPPORT. Tables and the byte memory: reading after writing, and that every operation on the memory keeps its canonical form.
-/

namespace Sys2Proof.Machine

/-! ## Tables -/

@[simp] theorem mget_nil {β : Type} (k : Nat) (d : β) : mget [] k d = d := rfl

@[simp] theorem mget_mput_self {β : Type} (m : SMap β) (k : Nat) (v d : β) : mget (mput m k v) k d = v := by
  induction m with
  | nil => simp [mput, mget]
  | cons p rest ih =>
    simp only [mput]
    split
    · simp [mget]
    · split
      · simp [mget]
      · rename_i h
        simpa [mget, h] using ih

theorem mget_mput_ne {β : Type} (m : SMap β) {k j : Nat} (v d : β) (h : j ≠ k) : mget (mput m k v) j d = mget m j d := by
  induction m with
  | nil => simp [mput, mget, h.symm]
  | cons p rest ih =>
    simp only [mput]
    split
    · simp [mget, h.symm]
    · split
      · rename_i hk
        simp [mget, h.symm, hk]
      · simp only [mget, ih]

/-! ## The byte memory -/

theorem memGet_below {m : List Host.Cell} {a : Nat} (h : ∀ p ∈ m, a < p.1) : memGet m a = 0 := by
  cases m with
  | nil => rfl
  | cons p rest =>
    have := h p (by simp)
    simp [memGet, this, Nat.ne_of_gt this]

/-- The canonical form, element by element. -/
theorem Memory.wf_cons {p : Host.Cell} {m : List Host.Cell} :
    Memory.wf (p :: m) = true ↔ p.2 ≠ 0 ∧ (∀ q ∈ m, p.1 < q.1) ∧ Memory.wf m = true := by
  induction m generalizing p with
  | nil => simp [Memory.wf]
  | cons q rest ih =>
    simp only [Memory.wf, Bool.and_eq_true, bne_iff_ne, decide_eq_true_eq, List.mem_cons, forall_eq_or_imp]
    rw [ih]
    constructor
    · rintro ⟨⟨h1, h2⟩, h3, h4, h5⟩
      exact ⟨h1, ⟨h2, fun r hr => h2.trans (h4 r hr)⟩, h3, h4, h5⟩
    · rintro ⟨h1, ⟨h2, -⟩, h3, h4, h5⟩
      exact ⟨⟨h1, h2⟩, h3, h4, h5⟩

theorem memPut_addr {m : List Host.Cell} {a b : Nat} {v : Byte} (hb : b < a) (h : ∀ q ∈ m, b < q.1) :
    ∀ q ∈ memPut m a v, b < q.1 := by
  induction m with
  | nil =>
    intro q hq
    simp only [memPut] at hq
    split at hq
    · simp at hq
    · simp only [List.mem_singleton] at hq
      exact hq ▸ hb
  | cons p rest ih =>
    have hr : ∀ q ∈ rest, b < q.1 := fun q hq => h q (by simp [hq])
    intro q hq
    simp only [memPut] at hq
    split at hq
    · split at hq
      · exact h q hq
      · rcases List.mem_cons.mp hq with rfl | hq
        · exact hb
        · exact h q hq
    · split at hq
      · split at hq
        · exact hr q hq
        · rcases List.mem_cons.mp hq with rfl | hq
          · exact hb
          · exact hr q hq
      · rcases List.mem_cons.mp hq with rfl | hq
        · exact h _ (by simp)
        · exact ih hr q hq

/-- A byte written keeps the canonical form. -/
theorem memPut_wf {m : List Host.Cell} (h : Memory.wf m = true) (a : Nat) (v : Byte) : Memory.wf (memPut m a v) = true := by
  induction m with
  | nil =>
    simp only [memPut]
    split
    · rfl
    · rename_i hv
      simpa [Memory.wf] using hv
  | cons p rest ih =>
    obtain ⟨h1, h2, h3⟩ := Memory.wf_cons.mp h
    simp only [memPut]
    split
    · rename_i ha
      split
      · exact h
      · rename_i hv
        refine Memory.wf_cons.mpr ⟨hv, ?_, h⟩
        intro q hq
        rcases List.mem_cons.mp hq with rfl | hq
        · exact ha
        · exact ha.trans (h2 q hq)
    · rename_i ha
      split
      · rename_i he
        split
        · exact h3
        · rename_i hv
          exact Memory.wf_cons.mpr ⟨hv, fun q hq => by have := h2 q hq; omega, h3⟩
      · rename_i he
        exact Memory.wf_cons.mpr ⟨h1, memPut_addr (by omega) h2, ih h3⟩

/-- A byte reads back. -/
theorem memGet_memPut_self (m : List Host.Cell) (h : Memory.wf m = true) (a : Nat) (v : Byte) :
    memGet (memPut m a v) a = v := by
  induction m with
  | nil =>
    simp only [memPut]
    split
    · rename_i hv
      simp [memGet, hv]
    · simp [memGet]
  | cons p rest ih =>
    obtain ⟨h1, h2, h3⟩ := Memory.wf_cons.mp h
    simp only [memPut]
    split
    · rename_i ha
      split
      · rename_i hv
        simp [memGet, ha, Nat.ne_of_gt ha, hv]
      · simp [memGet]
    · split
      · rename_i he
        split
        · rename_i hv
          rw [hv]
          exact memGet_below fun q hq => he ▸ h2 q hq
        · simp [memGet]
      · rename_i ha he
        simp only [memGet, if_neg he, if_neg ha]
        exact ih h3

/-- Every other byte is as it was. -/
theorem memGet_memPut_ne {m : List Host.Cell} (h : Memory.wf m = true) {a b : Nat} (v : Byte) (hb : b ≠ a) :
    memGet (memPut m a v) b = memGet m b := by
  induction m with
  | nil =>
    simp only [memPut]
    split
    · rfl
    · simp [memGet, hb.symm]
  | cons p rest ih =>
    obtain ⟨h1, h2, h3⟩ := Memory.wf_cons.mp h
    simp only [memPut]
    split
    · rename_i ha
      split
      · rfl
      · have e : memGet ((a, v) :: p :: rest) b = if b < a then 0 else memGet (p :: rest) b := by
          rw [memGet]
          simp [hb.symm]
        rw [e]
        split
        · rename_i hlt
          refine (memGet_below fun q hq => ?_).symm
          rcases List.mem_cons.mp hq with rfl | hq
          · omega
          · have := h2 q hq; omega
        · rfl
    · rename_i ha
      split
      · rename_i he
        split
        · simp only [memGet]
          have : p.1 ≠ b := fun e => hb (e.symm.trans he)
          simp only [if_neg this]
          split
          · exact memGet_below fun q hq => by have := h2 q hq; omega
          · rfl
        · simp [memGet, hb.symm, he]
      · simp only [memGet, ih h3]

/-- Bytes written keep the canonical form. -/
theorem memPuts_wf {m : List Host.Cell} (h : Memory.wf m = true) (a : Nat) (bs : List Byte) :
    Memory.wf (memPuts m a bs) = true := by
  induction bs generalizing m a with
  | nil => exact h
  | cons v rest ih => exact ih (memPut_wf h a v) _

/-- A byte outside those written is as it was. -/
theorem memGet_memPuts_out {m : List Host.Cell} (h : Memory.wf m = true) {a b : Nat} {bs : List Byte}
    (hb : b < a ∨ a + bs.length ≤ b) : memGet (memPuts m a bs) b = memGet m b := by
  induction bs generalizing m a with
  | nil => rfl
  | cons v rest ih =>
    simp only [List.length_cons] at hb
    rw [memPuts, ih (memPut_wf h a v) (by omega), memGet_memPut_ne h v (by omega)]

/-- A byte written reads back. -/
theorem memGet_memPuts_in {m : List Host.Cell} (h : Memory.wf m = true) {a k : Nat} {bs : List Byte} (hk : k < bs.length) :
    memGet (memPuts m a bs) (a + k) = bs.getD k 0 := by
  induction bs generalizing m a k with
  | nil => simp at hk
  | cons v rest ih =>
    simp only [List.length_cons] at hk
    cases k with
    | zero => rw [memPuts, memGet_memPuts_out (memPut_wf h a v) (by omega)]; simp [memGet_memPut_self m h]
    | succ k =>
      have := ih (memPut_wf h a v) (a := a + 1) (k := k) (by omega)
      rw [memPuts, show a + (k + 1) = a + 1 + k by omega, this]
      simp

/-- Scattered bytes written keep the canonical form. -/
theorem memCells_wf {m : List Host.Cell} (h : Memory.wf m = true) (l : List Host.Cell) :
    Memory.wf (l.foldl (fun m p => memPut m p.1 p.2) m) = true := by
  induction l generalizing m with
  | nil => exact h
  | cons p rest ih => exact ih (memPut_wf h p.1 p.2)

/-- A byte that none of the scattered cells names is as it was. -/
theorem memGet_memCells {m : List Host.Cell} (h : Memory.wf m = true) {l : List Host.Cell} {b : Nat}
    (hb : ∀ p ∈ l, p.1 ≠ b) : memGet (l.foldl (fun m p => memPut m p.1 p.2) m) b = memGet m b := by
  induction l generalizing m with
  | nil => rfl
  | cons p rest ih =>
    rw [List.foldl_cons, ih (memPut_wf h p.1 p.2) fun q hq => hb q (by simp [hq]),
      memGet_memPut_ne h p.2 (hb p (by simp)).symm]

/-- The memory after reset is in its canonical form. -/
theorem reset_mem_wf : Memory.wf State.reset.mem = true := rfl

end Sys2Proof.Machine
end

