-- ==== Sys2Proof/Laws/State.lean ====
section
/-!
SUPPORT. What the updates of the state leave alone, field by field, and what reading a core or slot gives after one.
-/

namespace Sys2Proof.Machine

/-! ## `State.setCore` -/

@[simp] theorem State.setCore_agenda (s : State) (c : Nat) (x : Core) : (s.setCore c x).agenda = s.agenda := rfl
@[simp] theorem State.setCore_curCore (s : State) (c : Nat) (x : Core) : (s.setCore c x).curCore = s.curCore := rfl
@[simp] theorem State.setCore_curSlot (s : State) (c : Nat) (x : Core) : (s.setCore c x).curSlot = s.curSlot := rfl
@[simp] theorem State.setCore_fresh (s : State) (c : Nat) (x : Core) : (s.setCore c x).fresh = s.fresh := rfl
@[simp] theorem State.setCore_nextId (s : State) (c : Nat) (x : Core) : (s.setCore c x).nextId = s.nextId := rfl
@[simp] theorem State.setCore_pos (s : State) (c : Nat) (x : Core) : (s.setCore c x).pos = s.pos := rfl
@[simp] theorem State.setCore_now (s : State) (c : Nat) (x : Core) : (s.setCore c x).now = s.now := rfl
@[simp] theorem State.setCore_mem (s : State) (c : Nat) (x : Core) : (s.setCore c x).mem = s.mem := rfl
@[simp] theorem State.setCore_poison (s : State) (c : Nat) (x : Core) : (s.setCore c x).poison = s.poison := rfl
@[simp] theorem State.setCore_parity (s : State) (c : Nat) (x : Core) : (s.setCore c x).parity = s.parity := rfl
@[simp] theorem State.setCore_tampered (s : State) (c : Nat) (x : Core) : (s.setCore c x).tampered = s.tampered := rfl
@[simp] theorem State.setCore_homes (s : State) (c : Nat) (x : Core) : (s.setCore c x).homes = s.homes := rfl
@[simp] theorem State.setCore_engines (s : State) (c : Nat) (x : Core) : (s.setCore c x).engines = s.engines := rfl
@[simp] theorem State.setCore_ctxs (s : State) (c : Nat) (x : Core) : (s.setCore c x).ctxs = s.ctxs := rfl
@[simp] theorem State.setCore_funcs (s : State) (c : Nat) (x : Core) : (s.setCore c x).funcs = s.funcs := rfl
@[simp] theorem State.setCore_net (s : State) (c : Nat) (x : Core) : (s.setCore c x).net = s.net := rfl
@[simp] theorem State.setCore_marks (s : State) (c : Nat) (x : Core) : (s.setCore c x).marks = s.marks := rfl
@[simp] theorem State.setCore_halts (s : State) (c : Nat) (x : Core) : (s.setCore c x).halts = s.halts := rfl
@[simp] theorem State.setCore_launches (s : State) (c : Nat) (x : Core) : (s.setCore c x).launches = s.launches := rfl
@[simp] theorem State.setCore_pitch (s : State) (c : Nat) (x : Core) : (s.setCore c x).pitch = s.pitch := rfl
@[simp] theorem State.setCore_dies (s : State) (c : Nat) (x : Core) : (s.setCore c x).dies = s.dies := rfl
@[simp] theorem State.setCore_fab (s : State) (c : Nat) (x : Core) : (s.setCore c x).fab = s.fab := rfl
@[simp] theorem State.setCore_fabOut (s : State) (c : Nat) (x : Core) : (s.setCore c x).fabOut = s.fabOut := rfl
@[simp] theorem State.setCore_saved (s : State) (c : Nat) (x : Core) : (s.setCore c x).saved = s.saved := rfl
@[simp] theorem State.setCore_saves (s : State) (c : Nat) (x : Core) : (s.setCore c x).saves = s.saves := rfl
@[simp] theorem State.setCore_backstop (s : State) (c : Nat) (x : Core) : (s.setCore c x).backstop = s.backstop := rfl
@[simp] theorem State.setCore_errLog (s : State) (c : Nat) (x : Core) : (s.setCore c x).errLog = s.errLog := rfl
@[simp] theorem State.setCore_aer (s : State) (c : Nat) (x : Core) : (s.setCore c x).aer = s.aer := rfl
@[simp] theorem State.setCore_irqs (s : State) (c : Nat) (x : Core) : (s.setCore c x).irqs = s.irqs := rfl
@[simp] theorem State.setCore_snapAt (s : State) (c : Nat) (x : Core) : (s.setCore c x).snapAt = s.snapAt := rfl
@[simp] theorem State.setCore_snaps (s : State) (c : Nat) (x : Core) : (s.setCore c x).snaps = s.snaps := rfl
@[simp] theorem State.setCore_powerCap (s : State) (c : Nat) (x : Core) : (s.setCore c x).powerCap = s.powerCap := rfl
@[simp] theorem State.setCore_leaf (s : State) (c : Nat) (x : Core) : (s.setCore c x).leaf = s.leaf := rfl
@[simp] theorem State.setCore_fuses (s : State) (c : Nat) (x : Core) : (s.setCore c x).fuses = s.fuses := rfl
@[simp] theorem State.setCore_ouvaBad (s : State) (c : Nat) (x : Core) : (s.setCore c x).ouvaBad = s.ouvaBad := rfl
@[simp] theorem State.setCore_hostOut (s : State) (c : Nat) (x : Core) : (s.setCore c x).hostOut = s.hostOut := rfl

/-! ## `State.updCore` -/

@[simp] theorem State.updCore_agenda (s : State) (c : Nat) (f : Core → Core) : (s.updCore c f).agenda = s.agenda := rfl
@[simp] theorem State.updCore_curCore (s : State) (c : Nat) (f : Core → Core) : (s.updCore c f).curCore = s.curCore := rfl
@[simp] theorem State.updCore_curSlot (s : State) (c : Nat) (f : Core → Core) : (s.updCore c f).curSlot = s.curSlot := rfl
@[simp] theorem State.updCore_fresh (s : State) (c : Nat) (f : Core → Core) : (s.updCore c f).fresh = s.fresh := rfl
@[simp] theorem State.updCore_nextId (s : State) (c : Nat) (f : Core → Core) : (s.updCore c f).nextId = s.nextId := rfl
@[simp] theorem State.updCore_pos (s : State) (c : Nat) (f : Core → Core) : (s.updCore c f).pos = s.pos := rfl
@[simp] theorem State.updCore_now (s : State) (c : Nat) (f : Core → Core) : (s.updCore c f).now = s.now := rfl
@[simp] theorem State.updCore_mem (s : State) (c : Nat) (f : Core → Core) : (s.updCore c f).mem = s.mem := rfl
@[simp] theorem State.updCore_poison (s : State) (c : Nat) (f : Core → Core) : (s.updCore c f).poison = s.poison := rfl
@[simp] theorem State.updCore_parity (s : State) (c : Nat) (f : Core → Core) : (s.updCore c f).parity = s.parity := rfl
@[simp] theorem State.updCore_tampered (s : State) (c : Nat) (f : Core → Core) : (s.updCore c f).tampered = s.tampered := rfl
@[simp] theorem State.updCore_homes (s : State) (c : Nat) (f : Core → Core) : (s.updCore c f).homes = s.homes := rfl
@[simp] theorem State.updCore_engines (s : State) (c : Nat) (f : Core → Core) : (s.updCore c f).engines = s.engines := rfl
@[simp] theorem State.updCore_ctxs (s : State) (c : Nat) (f : Core → Core) : (s.updCore c f).ctxs = s.ctxs := rfl
@[simp] theorem State.updCore_funcs (s : State) (c : Nat) (f : Core → Core) : (s.updCore c f).funcs = s.funcs := rfl
@[simp] theorem State.updCore_net (s : State) (c : Nat) (f : Core → Core) : (s.updCore c f).net = s.net := rfl
@[simp] theorem State.updCore_marks (s : State) (c : Nat) (f : Core → Core) : (s.updCore c f).marks = s.marks := rfl
@[simp] theorem State.updCore_halts (s : State) (c : Nat) (f : Core → Core) : (s.updCore c f).halts = s.halts := rfl
@[simp] theorem State.updCore_launches (s : State) (c : Nat) (f : Core → Core) : (s.updCore c f).launches = s.launches := rfl
@[simp] theorem State.updCore_pitch (s : State) (c : Nat) (f : Core → Core) : (s.updCore c f).pitch = s.pitch := rfl
@[simp] theorem State.updCore_dies (s : State) (c : Nat) (f : Core → Core) : (s.updCore c f).dies = s.dies := rfl
@[simp] theorem State.updCore_fab (s : State) (c : Nat) (f : Core → Core) : (s.updCore c f).fab = s.fab := rfl
@[simp] theorem State.updCore_fabOut (s : State) (c : Nat) (f : Core → Core) : (s.updCore c f).fabOut = s.fabOut := rfl
@[simp] theorem State.updCore_saved (s : State) (c : Nat) (f : Core → Core) : (s.updCore c f).saved = s.saved := rfl
@[simp] theorem State.updCore_saves (s : State) (c : Nat) (f : Core → Core) : (s.updCore c f).saves = s.saves := rfl
@[simp] theorem State.updCore_backstop (s : State) (c : Nat) (f : Core → Core) : (s.updCore c f).backstop = s.backstop := rfl
@[simp] theorem State.updCore_errLog (s : State) (c : Nat) (f : Core → Core) : (s.updCore c f).errLog = s.errLog := rfl
@[simp] theorem State.updCore_aer (s : State) (c : Nat) (f : Core → Core) : (s.updCore c f).aer = s.aer := rfl
@[simp] theorem State.updCore_irqs (s : State) (c : Nat) (f : Core → Core) : (s.updCore c f).irqs = s.irqs := rfl
@[simp] theorem State.updCore_snapAt (s : State) (c : Nat) (f : Core → Core) : (s.updCore c f).snapAt = s.snapAt := rfl
@[simp] theorem State.updCore_snaps (s : State) (c : Nat) (f : Core → Core) : (s.updCore c f).snaps = s.snaps := rfl
@[simp] theorem State.updCore_powerCap (s : State) (c : Nat) (f : Core → Core) : (s.updCore c f).powerCap = s.powerCap := rfl
@[simp] theorem State.updCore_leaf (s : State) (c : Nat) (f : Core → Core) : (s.updCore c f).leaf = s.leaf := rfl
@[simp] theorem State.updCore_fuses (s : State) (c : Nat) (f : Core → Core) : (s.updCore c f).fuses = s.fuses := rfl
@[simp] theorem State.updCore_ouvaBad (s : State) (c : Nat) (f : Core → Core) : (s.updCore c f).ouvaBad = s.ouvaBad := rfl
@[simp] theorem State.updCore_hostOut (s : State) (c : Nat) (f : Core → Core) : (s.updCore c f).hostOut = s.hostOut := rfl

/-! ## `State.setSlot` -/

@[simp] theorem State.setSlot_agenda (s : State) (c k : Nat) (x : Slot) : (s.setSlot c k x).agenda = s.agenda := rfl
@[simp] theorem State.setSlot_curCore (s : State) (c k : Nat) (x : Slot) : (s.setSlot c k x).curCore = s.curCore := rfl
@[simp] theorem State.setSlot_curSlot (s : State) (c k : Nat) (x : Slot) : (s.setSlot c k x).curSlot = s.curSlot := rfl
@[simp] theorem State.setSlot_fresh (s : State) (c k : Nat) (x : Slot) : (s.setSlot c k x).fresh = s.fresh := rfl
@[simp] theorem State.setSlot_nextId (s : State) (c k : Nat) (x : Slot) : (s.setSlot c k x).nextId = s.nextId := rfl
@[simp] theorem State.setSlot_pos (s : State) (c k : Nat) (x : Slot) : (s.setSlot c k x).pos = s.pos := rfl
@[simp] theorem State.setSlot_now (s : State) (c k : Nat) (x : Slot) : (s.setSlot c k x).now = s.now := rfl
@[simp] theorem State.setSlot_mem (s : State) (c k : Nat) (x : Slot) : (s.setSlot c k x).mem = s.mem := rfl
@[simp] theorem State.setSlot_poison (s : State) (c k : Nat) (x : Slot) : (s.setSlot c k x).poison = s.poison := rfl
@[simp] theorem State.setSlot_parity (s : State) (c k : Nat) (x : Slot) : (s.setSlot c k x).parity = s.parity := rfl
@[simp] theorem State.setSlot_tampered (s : State) (c k : Nat) (x : Slot) : (s.setSlot c k x).tampered = s.tampered := rfl
@[simp] theorem State.setSlot_homes (s : State) (c k : Nat) (x : Slot) : (s.setSlot c k x).homes = s.homes := rfl
@[simp] theorem State.setSlot_engines (s : State) (c k : Nat) (x : Slot) : (s.setSlot c k x).engines = s.engines := rfl
@[simp] theorem State.setSlot_ctxs (s : State) (c k : Nat) (x : Slot) : (s.setSlot c k x).ctxs = s.ctxs := rfl
@[simp] theorem State.setSlot_funcs (s : State) (c k : Nat) (x : Slot) : (s.setSlot c k x).funcs = s.funcs := rfl
@[simp] theorem State.setSlot_net (s : State) (c k : Nat) (x : Slot) : (s.setSlot c k x).net = s.net := rfl
@[simp] theorem State.setSlot_marks (s : State) (c k : Nat) (x : Slot) : (s.setSlot c k x).marks = s.marks := rfl
@[simp] theorem State.setSlot_halts (s : State) (c k : Nat) (x : Slot) : (s.setSlot c k x).halts = s.halts := rfl
@[simp] theorem State.setSlot_launches (s : State) (c k : Nat) (x : Slot) : (s.setSlot c k x).launches = s.launches := rfl
@[simp] theorem State.setSlot_pitch (s : State) (c k : Nat) (x : Slot) : (s.setSlot c k x).pitch = s.pitch := rfl
@[simp] theorem State.setSlot_dies (s : State) (c k : Nat) (x : Slot) : (s.setSlot c k x).dies = s.dies := rfl
@[simp] theorem State.setSlot_fab (s : State) (c k : Nat) (x : Slot) : (s.setSlot c k x).fab = s.fab := rfl
@[simp] theorem State.setSlot_fabOut (s : State) (c k : Nat) (x : Slot) : (s.setSlot c k x).fabOut = s.fabOut := rfl
@[simp] theorem State.setSlot_saved (s : State) (c k : Nat) (x : Slot) : (s.setSlot c k x).saved = s.saved := rfl
@[simp] theorem State.setSlot_saves (s : State) (c k : Nat) (x : Slot) : (s.setSlot c k x).saves = s.saves := rfl
@[simp] theorem State.setSlot_backstop (s : State) (c k : Nat) (x : Slot) : (s.setSlot c k x).backstop = s.backstop := rfl
@[simp] theorem State.setSlot_errLog (s : State) (c k : Nat) (x : Slot) : (s.setSlot c k x).errLog = s.errLog := rfl
@[simp] theorem State.setSlot_aer (s : State) (c k : Nat) (x : Slot) : (s.setSlot c k x).aer = s.aer := rfl
@[simp] theorem State.setSlot_irqs (s : State) (c k : Nat) (x : Slot) : (s.setSlot c k x).irqs = s.irqs := rfl
@[simp] theorem State.setSlot_snapAt (s : State) (c k : Nat) (x : Slot) : (s.setSlot c k x).snapAt = s.snapAt := rfl
@[simp] theorem State.setSlot_snaps (s : State) (c k : Nat) (x : Slot) : (s.setSlot c k x).snaps = s.snaps := rfl
@[simp] theorem State.setSlot_powerCap (s : State) (c k : Nat) (x : Slot) : (s.setSlot c k x).powerCap = s.powerCap := rfl
@[simp] theorem State.setSlot_leaf (s : State) (c k : Nat) (x : Slot) : (s.setSlot c k x).leaf = s.leaf := rfl
@[simp] theorem State.setSlot_fuses (s : State) (c k : Nat) (x : Slot) : (s.setSlot c k x).fuses = s.fuses := rfl
@[simp] theorem State.setSlot_ouvaBad (s : State) (c k : Nat) (x : Slot) : (s.setSlot c k x).ouvaBad = s.ouvaBad := rfl
@[simp] theorem State.setSlot_hostOut (s : State) (c k : Nat) (x : Slot) : (s.setSlot c k x).hostOut = s.hostOut := rfl

/-! ## `State.updSlot` -/

@[simp] theorem State.updSlot_agenda (s : State) (c k : Nat) (f : Slot → Slot) : (s.updSlot c k f).agenda = s.agenda := rfl
@[simp] theorem State.updSlot_curCore (s : State) (c k : Nat) (f : Slot → Slot) : (s.updSlot c k f).curCore = s.curCore := rfl
@[simp] theorem State.updSlot_curSlot (s : State) (c k : Nat) (f : Slot → Slot) : (s.updSlot c k f).curSlot = s.curSlot := rfl
@[simp] theorem State.updSlot_fresh (s : State) (c k : Nat) (f : Slot → Slot) : (s.updSlot c k f).fresh = s.fresh := rfl
@[simp] theorem State.updSlot_nextId (s : State) (c k : Nat) (f : Slot → Slot) : (s.updSlot c k f).nextId = s.nextId := rfl
@[simp] theorem State.updSlot_pos (s : State) (c k : Nat) (f : Slot → Slot) : (s.updSlot c k f).pos = s.pos := rfl
@[simp] theorem State.updSlot_now (s : State) (c k : Nat) (f : Slot → Slot) : (s.updSlot c k f).now = s.now := rfl
@[simp] theorem State.updSlot_mem (s : State) (c k : Nat) (f : Slot → Slot) : (s.updSlot c k f).mem = s.mem := rfl
@[simp] theorem State.updSlot_poison (s : State) (c k : Nat) (f : Slot → Slot) : (s.updSlot c k f).poison = s.poison := rfl
@[simp] theorem State.updSlot_parity (s : State) (c k : Nat) (f : Slot → Slot) : (s.updSlot c k f).parity = s.parity := rfl
@[simp] theorem State.updSlot_tampered (s : State) (c k : Nat) (f : Slot → Slot) : (s.updSlot c k f).tampered = s.tampered := rfl
@[simp] theorem State.updSlot_homes (s : State) (c k : Nat) (f : Slot → Slot) : (s.updSlot c k f).homes = s.homes := rfl
@[simp] theorem State.updSlot_engines (s : State) (c k : Nat) (f : Slot → Slot) : (s.updSlot c k f).engines = s.engines := rfl
@[simp] theorem State.updSlot_ctxs (s : State) (c k : Nat) (f : Slot → Slot) : (s.updSlot c k f).ctxs = s.ctxs := rfl
@[simp] theorem State.updSlot_funcs (s : State) (c k : Nat) (f : Slot → Slot) : (s.updSlot c k f).funcs = s.funcs := rfl
@[simp] theorem State.updSlot_net (s : State) (c k : Nat) (f : Slot → Slot) : (s.updSlot c k f).net = s.net := rfl
@[simp] theorem State.updSlot_marks (s : State) (c k : Nat) (f : Slot → Slot) : (s.updSlot c k f).marks = s.marks := rfl
@[simp] theorem State.updSlot_halts (s : State) (c k : Nat) (f : Slot → Slot) : (s.updSlot c k f).halts = s.halts := rfl
@[simp] theorem State.updSlot_launches (s : State) (c k : Nat) (f : Slot → Slot) : (s.updSlot c k f).launches = s.launches := rfl
@[simp] theorem State.updSlot_pitch (s : State) (c k : Nat) (f : Slot → Slot) : (s.updSlot c k f).pitch = s.pitch := rfl
@[simp] theorem State.updSlot_dies (s : State) (c k : Nat) (f : Slot → Slot) : (s.updSlot c k f).dies = s.dies := rfl
@[simp] theorem State.updSlot_fab (s : State) (c k : Nat) (f : Slot → Slot) : (s.updSlot c k f).fab = s.fab := rfl
@[simp] theorem State.updSlot_fabOut (s : State) (c k : Nat) (f : Slot → Slot) : (s.updSlot c k f).fabOut = s.fabOut := rfl
@[simp] theorem State.updSlot_saved (s : State) (c k : Nat) (f : Slot → Slot) : (s.updSlot c k f).saved = s.saved := rfl
@[simp] theorem State.updSlot_saves (s : State) (c k : Nat) (f : Slot → Slot) : (s.updSlot c k f).saves = s.saves := rfl
@[simp] theorem State.updSlot_backstop (s : State) (c k : Nat) (f : Slot → Slot) : (s.updSlot c k f).backstop = s.backstop := rfl
@[simp] theorem State.updSlot_errLog (s : State) (c k : Nat) (f : Slot → Slot) : (s.updSlot c k f).errLog = s.errLog := rfl
@[simp] theorem State.updSlot_aer (s : State) (c k : Nat) (f : Slot → Slot) : (s.updSlot c k f).aer = s.aer := rfl
@[simp] theorem State.updSlot_irqs (s : State) (c k : Nat) (f : Slot → Slot) : (s.updSlot c k f).irqs = s.irqs := rfl
@[simp] theorem State.updSlot_snapAt (s : State) (c k : Nat) (f : Slot → Slot) : (s.updSlot c k f).snapAt = s.snapAt := rfl
@[simp] theorem State.updSlot_snaps (s : State) (c k : Nat) (f : Slot → Slot) : (s.updSlot c k f).snaps = s.snaps := rfl
@[simp] theorem State.updSlot_powerCap (s : State) (c k : Nat) (f : Slot → Slot) : (s.updSlot c k f).powerCap = s.powerCap := rfl
@[simp] theorem State.updSlot_leaf (s : State) (c k : Nat) (f : Slot → Slot) : (s.updSlot c k f).leaf = s.leaf := rfl
@[simp] theorem State.updSlot_fuses (s : State) (c k : Nat) (f : Slot → Slot) : (s.updSlot c k f).fuses = s.fuses := rfl
@[simp] theorem State.updSlot_ouvaBad (s : State) (c k : Nat) (f : Slot → Slot) : (s.updSlot c k f).ouvaBad = s.ouvaBad := rfl
@[simp] theorem State.updSlot_hostOut (s : State) (c k : Nat) (f : Slot → Slot) : (s.updSlot c k f).hostOut = s.hostOut := rfl

/-! ## `State.updCur` -/

@[simp] theorem State.updCur_agenda (s : State) (f : Slot → Slot) : (s.updCur f).agenda = s.agenda := rfl
@[simp] theorem State.updCur_curCore (s : State) (f : Slot → Slot) : (s.updCur f).curCore = s.curCore := rfl
@[simp] theorem State.updCur_curSlot (s : State) (f : Slot → Slot) : (s.updCur f).curSlot = s.curSlot := rfl
@[simp] theorem State.updCur_fresh (s : State) (f : Slot → Slot) : (s.updCur f).fresh = s.fresh := rfl
@[simp] theorem State.updCur_nextId (s : State) (f : Slot → Slot) : (s.updCur f).nextId = s.nextId := rfl
@[simp] theorem State.updCur_pos (s : State) (f : Slot → Slot) : (s.updCur f).pos = s.pos := rfl
@[simp] theorem State.updCur_now (s : State) (f : Slot → Slot) : (s.updCur f).now = s.now := rfl
@[simp] theorem State.updCur_mem (s : State) (f : Slot → Slot) : (s.updCur f).mem = s.mem := rfl
@[simp] theorem State.updCur_poison (s : State) (f : Slot → Slot) : (s.updCur f).poison = s.poison := rfl
@[simp] theorem State.updCur_parity (s : State) (f : Slot → Slot) : (s.updCur f).parity = s.parity := rfl
@[simp] theorem State.updCur_tampered (s : State) (f : Slot → Slot) : (s.updCur f).tampered = s.tampered := rfl
@[simp] theorem State.updCur_homes (s : State) (f : Slot → Slot) : (s.updCur f).homes = s.homes := rfl
@[simp] theorem State.updCur_engines (s : State) (f : Slot → Slot) : (s.updCur f).engines = s.engines := rfl
@[simp] theorem State.updCur_ctxs (s : State) (f : Slot → Slot) : (s.updCur f).ctxs = s.ctxs := rfl
@[simp] theorem State.updCur_funcs (s : State) (f : Slot → Slot) : (s.updCur f).funcs = s.funcs := rfl
@[simp] theorem State.updCur_net (s : State) (f : Slot → Slot) : (s.updCur f).net = s.net := rfl
@[simp] theorem State.updCur_marks (s : State) (f : Slot → Slot) : (s.updCur f).marks = s.marks := rfl
@[simp] theorem State.updCur_halts (s : State) (f : Slot → Slot) : (s.updCur f).halts = s.halts := rfl
@[simp] theorem State.updCur_launches (s : State) (f : Slot → Slot) : (s.updCur f).launches = s.launches := rfl
@[simp] theorem State.updCur_pitch (s : State) (f : Slot → Slot) : (s.updCur f).pitch = s.pitch := rfl
@[simp] theorem State.updCur_dies (s : State) (f : Slot → Slot) : (s.updCur f).dies = s.dies := rfl
@[simp] theorem State.updCur_fab (s : State) (f : Slot → Slot) : (s.updCur f).fab = s.fab := rfl
@[simp] theorem State.updCur_fabOut (s : State) (f : Slot → Slot) : (s.updCur f).fabOut = s.fabOut := rfl
@[simp] theorem State.updCur_saved (s : State) (f : Slot → Slot) : (s.updCur f).saved = s.saved := rfl
@[simp] theorem State.updCur_saves (s : State) (f : Slot → Slot) : (s.updCur f).saves = s.saves := rfl
@[simp] theorem State.updCur_backstop (s : State) (f : Slot → Slot) : (s.updCur f).backstop = s.backstop := rfl
@[simp] theorem State.updCur_errLog (s : State) (f : Slot → Slot) : (s.updCur f).errLog = s.errLog := rfl
@[simp] theorem State.updCur_aer (s : State) (f : Slot → Slot) : (s.updCur f).aer = s.aer := rfl
@[simp] theorem State.updCur_irqs (s : State) (f : Slot → Slot) : (s.updCur f).irqs = s.irqs := rfl
@[simp] theorem State.updCur_snapAt (s : State) (f : Slot → Slot) : (s.updCur f).snapAt = s.snapAt := rfl
@[simp] theorem State.updCur_snaps (s : State) (f : Slot → Slot) : (s.updCur f).snaps = s.snaps := rfl
@[simp] theorem State.updCur_powerCap (s : State) (f : Slot → Slot) : (s.updCur f).powerCap = s.powerCap := rfl
@[simp] theorem State.updCur_leaf (s : State) (f : Slot → Slot) : (s.updCur f).leaf = s.leaf := rfl
@[simp] theorem State.updCur_fuses (s : State) (f : Slot → Slot) : (s.updCur f).fuses = s.fuses := rfl
@[simp] theorem State.updCur_ouvaBad (s : State) (f : Slot → Slot) : (s.updCur f).ouvaBad = s.ouvaBad := rfl
@[simp] theorem State.updCur_hostOut (s : State) (f : Slot → Slot) : (s.updCur f).hostOut = s.hostOut := rfl

/-! ## `State.setBytes` -/

@[simp] theorem State.setBytes_agenda (s : State) (a : Nat) (bs : List Byte) : (s.setBytes a bs).agenda = s.agenda := rfl
@[simp] theorem State.setBytes_curCore (s : State) (a : Nat) (bs : List Byte) : (s.setBytes a bs).curCore = s.curCore := rfl
@[simp] theorem State.setBytes_curSlot (s : State) (a : Nat) (bs : List Byte) : (s.setBytes a bs).curSlot = s.curSlot := rfl
@[simp] theorem State.setBytes_fresh (s : State) (a : Nat) (bs : List Byte) : (s.setBytes a bs).fresh = s.fresh := rfl
@[simp] theorem State.setBytes_nextId (s : State) (a : Nat) (bs : List Byte) : (s.setBytes a bs).nextId = s.nextId := rfl
@[simp] theorem State.setBytes_pos (s : State) (a : Nat) (bs : List Byte) : (s.setBytes a bs).pos = s.pos := rfl
@[simp] theorem State.setBytes_now (s : State) (a : Nat) (bs : List Byte) : (s.setBytes a bs).now = s.now := rfl
@[simp] theorem State.setBytes_poison (s : State) (a : Nat) (bs : List Byte) : (s.setBytes a bs).poison = s.poison := rfl
@[simp] theorem State.setBytes_parity (s : State) (a : Nat) (bs : List Byte) : (s.setBytes a bs).parity = s.parity := rfl
@[simp] theorem State.setBytes_tampered (s : State) (a : Nat) (bs : List Byte) : (s.setBytes a bs).tampered = s.tampered := rfl
@[simp] theorem State.setBytes_homes (s : State) (a : Nat) (bs : List Byte) : (s.setBytes a bs).homes = s.homes := rfl
@[simp] theorem State.setBytes_cores (s : State) (a : Nat) (bs : List Byte) : (s.setBytes a bs).cores = s.cores := rfl
@[simp] theorem State.setBytes_engines (s : State) (a : Nat) (bs : List Byte) : (s.setBytes a bs).engines = s.engines := rfl
@[simp] theorem State.setBytes_ctxs (s : State) (a : Nat) (bs : List Byte) : (s.setBytes a bs).ctxs = s.ctxs := rfl
@[simp] theorem State.setBytes_funcs (s : State) (a : Nat) (bs : List Byte) : (s.setBytes a bs).funcs = s.funcs := rfl
@[simp] theorem State.setBytes_net (s : State) (a : Nat) (bs : List Byte) : (s.setBytes a bs).net = s.net := rfl
@[simp] theorem State.setBytes_marks (s : State) (a : Nat) (bs : List Byte) : (s.setBytes a bs).marks = s.marks := rfl
@[simp] theorem State.setBytes_halts (s : State) (a : Nat) (bs : List Byte) : (s.setBytes a bs).halts = s.halts := rfl
@[simp] theorem State.setBytes_launches (s : State) (a : Nat) (bs : List Byte) : (s.setBytes a bs).launches = s.launches := rfl
@[simp] theorem State.setBytes_pitch (s : State) (a : Nat) (bs : List Byte) : (s.setBytes a bs).pitch = s.pitch := rfl
@[simp] theorem State.setBytes_dies (s : State) (a : Nat) (bs : List Byte) : (s.setBytes a bs).dies = s.dies := rfl
@[simp] theorem State.setBytes_fab (s : State) (a : Nat) (bs : List Byte) : (s.setBytes a bs).fab = s.fab := rfl
@[simp] theorem State.setBytes_fabOut (s : State) (a : Nat) (bs : List Byte) : (s.setBytes a bs).fabOut = s.fabOut := rfl
@[simp] theorem State.setBytes_saved (s : State) (a : Nat) (bs : List Byte) : (s.setBytes a bs).saved = s.saved := rfl
@[simp] theorem State.setBytes_saves (s : State) (a : Nat) (bs : List Byte) : (s.setBytes a bs).saves = s.saves := rfl
@[simp] theorem State.setBytes_backstop (s : State) (a : Nat) (bs : List Byte) : (s.setBytes a bs).backstop = s.backstop := rfl
@[simp] theorem State.setBytes_errLog (s : State) (a : Nat) (bs : List Byte) : (s.setBytes a bs).errLog = s.errLog := rfl
@[simp] theorem State.setBytes_aer (s : State) (a : Nat) (bs : List Byte) : (s.setBytes a bs).aer = s.aer := rfl
@[simp] theorem State.setBytes_irqs (s : State) (a : Nat) (bs : List Byte) : (s.setBytes a bs).irqs = s.irqs := rfl
@[simp] theorem State.setBytes_snapAt (s : State) (a : Nat) (bs : List Byte) : (s.setBytes a bs).snapAt = s.snapAt := rfl
@[simp] theorem State.setBytes_snaps (s : State) (a : Nat) (bs : List Byte) : (s.setBytes a bs).snaps = s.snaps := rfl
@[simp] theorem State.setBytes_powerCap (s : State) (a : Nat) (bs : List Byte) : (s.setBytes a bs).powerCap = s.powerCap := rfl
@[simp] theorem State.setBytes_leaf (s : State) (a : Nat) (bs : List Byte) : (s.setBytes a bs).leaf = s.leaf := rfl
@[simp] theorem State.setBytes_fuses (s : State) (a : Nat) (bs : List Byte) : (s.setBytes a bs).fuses = s.fuses := rfl
@[simp] theorem State.setBytes_ouvaBad (s : State) (a : Nat) (bs : List Byte) : (s.setBytes a bs).ouvaBad = s.ouvaBad := rfl
@[simp] theorem State.setBytes_hostOut (s : State) (a : Nat) (bs : List Byte) : (s.setBytes a bs).hostOut = s.hostOut := rfl

/-! ## `State.push` -/

@[simp] theorem State.push_agenda (s : State) (p : Pkt) : (s.push p).agenda = s.agenda := rfl
@[simp] theorem State.push_curCore (s : State) (p : Pkt) : (s.push p).curCore = s.curCore := rfl
@[simp] theorem State.push_curSlot (s : State) (p : Pkt) : (s.push p).curSlot = s.curSlot := rfl
@[simp] theorem State.push_fresh (s : State) (p : Pkt) : (s.push p).fresh = s.fresh := rfl
@[simp] theorem State.push_nextId (s : State) (p : Pkt) : (s.push p).nextId = s.nextId := rfl
@[simp] theorem State.push_pos (s : State) (p : Pkt) : (s.push p).pos = s.pos := rfl
@[simp] theorem State.push_now (s : State) (p : Pkt) : (s.push p).now = s.now := rfl
@[simp] theorem State.push_mem (s : State) (p : Pkt) : (s.push p).mem = s.mem := rfl
@[simp] theorem State.push_poison (s : State) (p : Pkt) : (s.push p).poison = s.poison := rfl
@[simp] theorem State.push_parity (s : State) (p : Pkt) : (s.push p).parity = s.parity := rfl
@[simp] theorem State.push_tampered (s : State) (p : Pkt) : (s.push p).tampered = s.tampered := rfl
@[simp] theorem State.push_homes (s : State) (p : Pkt) : (s.push p).homes = s.homes := rfl
@[simp] theorem State.push_cores (s : State) (p : Pkt) : (s.push p).cores = s.cores := rfl
@[simp] theorem State.push_engines (s : State) (p : Pkt) : (s.push p).engines = s.engines := rfl
@[simp] theorem State.push_ctxs (s : State) (p : Pkt) : (s.push p).ctxs = s.ctxs := rfl
@[simp] theorem State.push_funcs (s : State) (p : Pkt) : (s.push p).funcs = s.funcs := rfl
@[simp] theorem State.push_marks (s : State) (p : Pkt) : (s.push p).marks = s.marks := rfl
@[simp] theorem State.push_halts (s : State) (p : Pkt) : (s.push p).halts = s.halts := rfl
@[simp] theorem State.push_launches (s : State) (p : Pkt) : (s.push p).launches = s.launches := rfl
@[simp] theorem State.push_pitch (s : State) (p : Pkt) : (s.push p).pitch = s.pitch := rfl
@[simp] theorem State.push_dies (s : State) (p : Pkt) : (s.push p).dies = s.dies := rfl
@[simp] theorem State.push_fab (s : State) (p : Pkt) : (s.push p).fab = s.fab := rfl
@[simp] theorem State.push_fabOut (s : State) (p : Pkt) : (s.push p).fabOut = s.fabOut := rfl
@[simp] theorem State.push_saved (s : State) (p : Pkt) : (s.push p).saved = s.saved := rfl
@[simp] theorem State.push_saves (s : State) (p : Pkt) : (s.push p).saves = s.saves := rfl
@[simp] theorem State.push_backstop (s : State) (p : Pkt) : (s.push p).backstop = s.backstop := rfl
@[simp] theorem State.push_errLog (s : State) (p : Pkt) : (s.push p).errLog = s.errLog := rfl
@[simp] theorem State.push_aer (s : State) (p : Pkt) : (s.push p).aer = s.aer := rfl
@[simp] theorem State.push_irqs (s : State) (p : Pkt) : (s.push p).irqs = s.irqs := rfl
@[simp] theorem State.push_snapAt (s : State) (p : Pkt) : (s.push p).snapAt = s.snapAt := rfl
@[simp] theorem State.push_snaps (s : State) (p : Pkt) : (s.push p).snaps = s.snaps := rfl
@[simp] theorem State.push_powerCap (s : State) (p : Pkt) : (s.push p).powerCap = s.powerCap := rfl
@[simp] theorem State.push_leaf (s : State) (p : Pkt) : (s.push p).leaf = s.leaf := rfl
@[simp] theorem State.push_fuses (s : State) (p : Pkt) : (s.push p).fuses = s.fuses := rfl
@[simp] theorem State.push_ouvaBad (s : State) (p : Pkt) : (s.push p).ouvaBad = s.ouvaBad := rfl
@[simp] theorem State.push_hostOut (s : State) (p : Pkt) : (s.push p).hostOut = s.hostOut := rfl

/-! ## `State.updEngine` -/

@[simp] theorem State.updEngine_agenda (s : State) (e : Nat) (f : Engine → Engine) : (s.updEngine e f).agenda = s.agenda := rfl
@[simp] theorem State.updEngine_curCore (s : State) (e : Nat) (f : Engine → Engine) : (s.updEngine e f).curCore = s.curCore := rfl
@[simp] theorem State.updEngine_curSlot (s : State) (e : Nat) (f : Engine → Engine) : (s.updEngine e f).curSlot = s.curSlot := rfl
@[simp] theorem State.updEngine_fresh (s : State) (e : Nat) (f : Engine → Engine) : (s.updEngine e f).fresh = s.fresh := rfl
@[simp] theorem State.updEngine_nextId (s : State) (e : Nat) (f : Engine → Engine) : (s.updEngine e f).nextId = s.nextId := rfl
@[simp] theorem State.updEngine_pos (s : State) (e : Nat) (f : Engine → Engine) : (s.updEngine e f).pos = s.pos := rfl
@[simp] theorem State.updEngine_now (s : State) (e : Nat) (f : Engine → Engine) : (s.updEngine e f).now = s.now := rfl
@[simp] theorem State.updEngine_mem (s : State) (e : Nat) (f : Engine → Engine) : (s.updEngine e f).mem = s.mem := rfl
@[simp] theorem State.updEngine_poison (s : State) (e : Nat) (f : Engine → Engine) : (s.updEngine e f).poison = s.poison := rfl
@[simp] theorem State.updEngine_parity (s : State) (e : Nat) (f : Engine → Engine) : (s.updEngine e f).parity = s.parity := rfl
@[simp] theorem State.updEngine_tampered (s : State) (e : Nat) (f : Engine → Engine) : (s.updEngine e f).tampered = s.tampered := rfl
@[simp] theorem State.updEngine_homes (s : State) (e : Nat) (f : Engine → Engine) : (s.updEngine e f).homes = s.homes := rfl
@[simp] theorem State.updEngine_cores (s : State) (e : Nat) (f : Engine → Engine) : (s.updEngine e f).cores = s.cores := rfl
@[simp] theorem State.updEngine_ctxs (s : State) (e : Nat) (f : Engine → Engine) : (s.updEngine e f).ctxs = s.ctxs := rfl
@[simp] theorem State.updEngine_funcs (s : State) (e : Nat) (f : Engine → Engine) : (s.updEngine e f).funcs = s.funcs := rfl
@[simp] theorem State.updEngine_net (s : State) (e : Nat) (f : Engine → Engine) : (s.updEngine e f).net = s.net := rfl
@[simp] theorem State.updEngine_marks (s : State) (e : Nat) (f : Engine → Engine) : (s.updEngine e f).marks = s.marks := rfl
@[simp] theorem State.updEngine_halts (s : State) (e : Nat) (f : Engine → Engine) : (s.updEngine e f).halts = s.halts := rfl
@[simp] theorem State.updEngine_launches (s : State) (e : Nat) (f : Engine → Engine) : (s.updEngine e f).launches = s.launches := rfl
@[simp] theorem State.updEngine_pitch (s : State) (e : Nat) (f : Engine → Engine) : (s.updEngine e f).pitch = s.pitch := rfl
@[simp] theorem State.updEngine_dies (s : State) (e : Nat) (f : Engine → Engine) : (s.updEngine e f).dies = s.dies := rfl
@[simp] theorem State.updEngine_fab (s : State) (e : Nat) (f : Engine → Engine) : (s.updEngine e f).fab = s.fab := rfl
@[simp] theorem State.updEngine_fabOut (s : State) (e : Nat) (f : Engine → Engine) : (s.updEngine e f).fabOut = s.fabOut := rfl
@[simp] theorem State.updEngine_saved (s : State) (e : Nat) (f : Engine → Engine) : (s.updEngine e f).saved = s.saved := rfl
@[simp] theorem State.updEngine_saves (s : State) (e : Nat) (f : Engine → Engine) : (s.updEngine e f).saves = s.saves := rfl
@[simp] theorem State.updEngine_backstop (s : State) (e : Nat) (f : Engine → Engine) : (s.updEngine e f).backstop = s.backstop := rfl
@[simp] theorem State.updEngine_errLog (s : State) (e : Nat) (f : Engine → Engine) : (s.updEngine e f).errLog = s.errLog := rfl
@[simp] theorem State.updEngine_aer (s : State) (e : Nat) (f : Engine → Engine) : (s.updEngine e f).aer = s.aer := rfl
@[simp] theorem State.updEngine_irqs (s : State) (e : Nat) (f : Engine → Engine) : (s.updEngine e f).irqs = s.irqs := rfl
@[simp] theorem State.updEngine_snapAt (s : State) (e : Nat) (f : Engine → Engine) : (s.updEngine e f).snapAt = s.snapAt := rfl
@[simp] theorem State.updEngine_snaps (s : State) (e : Nat) (f : Engine → Engine) : (s.updEngine e f).snaps = s.snaps := rfl
@[simp] theorem State.updEngine_powerCap (s : State) (e : Nat) (f : Engine → Engine) : (s.updEngine e f).powerCap = s.powerCap := rfl
@[simp] theorem State.updEngine_leaf (s : State) (e : Nat) (f : Engine → Engine) : (s.updEngine e f).leaf = s.leaf := rfl
@[simp] theorem State.updEngine_fuses (s : State) (e : Nat) (f : Engine → Engine) : (s.updEngine e f).fuses = s.fuses := rfl
@[simp] theorem State.updEngine_ouvaBad (s : State) (e : Nat) (f : Engine → Engine) : (s.updEngine e f).ouvaBad = s.ouvaBad := rfl
@[simp] theorem State.updEngine_hostOut (s : State) (e : Nat) (f : Engine → Engine) : (s.updEngine e f).hostOut = s.hostOut := rfl

/-! ## `State.updCtx` -/

@[simp] theorem State.updCtx_agenda (s : State) (c : Nat) (f : Ctx → Ctx) : (s.updCtx c f).agenda = s.agenda := rfl
@[simp] theorem State.updCtx_curCore (s : State) (c : Nat) (f : Ctx → Ctx) : (s.updCtx c f).curCore = s.curCore := rfl
@[simp] theorem State.updCtx_curSlot (s : State) (c : Nat) (f : Ctx → Ctx) : (s.updCtx c f).curSlot = s.curSlot := rfl
@[simp] theorem State.updCtx_fresh (s : State) (c : Nat) (f : Ctx → Ctx) : (s.updCtx c f).fresh = s.fresh := rfl
@[simp] theorem State.updCtx_nextId (s : State) (c : Nat) (f : Ctx → Ctx) : (s.updCtx c f).nextId = s.nextId := rfl
@[simp] theorem State.updCtx_pos (s : State) (c : Nat) (f : Ctx → Ctx) : (s.updCtx c f).pos = s.pos := rfl
@[simp] theorem State.updCtx_now (s : State) (c : Nat) (f : Ctx → Ctx) : (s.updCtx c f).now = s.now := rfl
@[simp] theorem State.updCtx_mem (s : State) (c : Nat) (f : Ctx → Ctx) : (s.updCtx c f).mem = s.mem := rfl
@[simp] theorem State.updCtx_poison (s : State) (c : Nat) (f : Ctx → Ctx) : (s.updCtx c f).poison = s.poison := rfl
@[simp] theorem State.updCtx_parity (s : State) (c : Nat) (f : Ctx → Ctx) : (s.updCtx c f).parity = s.parity := rfl
@[simp] theorem State.updCtx_tampered (s : State) (c : Nat) (f : Ctx → Ctx) : (s.updCtx c f).tampered = s.tampered := rfl
@[simp] theorem State.updCtx_homes (s : State) (c : Nat) (f : Ctx → Ctx) : (s.updCtx c f).homes = s.homes := rfl
@[simp] theorem State.updCtx_cores (s : State) (c : Nat) (f : Ctx → Ctx) : (s.updCtx c f).cores = s.cores := rfl
@[simp] theorem State.updCtx_engines (s : State) (c : Nat) (f : Ctx → Ctx) : (s.updCtx c f).engines = s.engines := rfl
@[simp] theorem State.updCtx_funcs (s : State) (c : Nat) (f : Ctx → Ctx) : (s.updCtx c f).funcs = s.funcs := rfl
@[simp] theorem State.updCtx_net (s : State) (c : Nat) (f : Ctx → Ctx) : (s.updCtx c f).net = s.net := rfl
@[simp] theorem State.updCtx_marks (s : State) (c : Nat) (f : Ctx → Ctx) : (s.updCtx c f).marks = s.marks := rfl
@[simp] theorem State.updCtx_halts (s : State) (c : Nat) (f : Ctx → Ctx) : (s.updCtx c f).halts = s.halts := rfl
@[simp] theorem State.updCtx_launches (s : State) (c : Nat) (f : Ctx → Ctx) : (s.updCtx c f).launches = s.launches := rfl
@[simp] theorem State.updCtx_pitch (s : State) (c : Nat) (f : Ctx → Ctx) : (s.updCtx c f).pitch = s.pitch := rfl
@[simp] theorem State.updCtx_dies (s : State) (c : Nat) (f : Ctx → Ctx) : (s.updCtx c f).dies = s.dies := rfl
@[simp] theorem State.updCtx_fab (s : State) (c : Nat) (f : Ctx → Ctx) : (s.updCtx c f).fab = s.fab := rfl
@[simp] theorem State.updCtx_fabOut (s : State) (c : Nat) (f : Ctx → Ctx) : (s.updCtx c f).fabOut = s.fabOut := rfl
@[simp] theorem State.updCtx_saved (s : State) (c : Nat) (f : Ctx → Ctx) : (s.updCtx c f).saved = s.saved := rfl
@[simp] theorem State.updCtx_saves (s : State) (c : Nat) (f : Ctx → Ctx) : (s.updCtx c f).saves = s.saves := rfl
@[simp] theorem State.updCtx_backstop (s : State) (c : Nat) (f : Ctx → Ctx) : (s.updCtx c f).backstop = s.backstop := rfl
@[simp] theorem State.updCtx_errLog (s : State) (c : Nat) (f : Ctx → Ctx) : (s.updCtx c f).errLog = s.errLog := rfl
@[simp] theorem State.updCtx_aer (s : State) (c : Nat) (f : Ctx → Ctx) : (s.updCtx c f).aer = s.aer := rfl
@[simp] theorem State.updCtx_irqs (s : State) (c : Nat) (f : Ctx → Ctx) : (s.updCtx c f).irqs = s.irqs := rfl
@[simp] theorem State.updCtx_snapAt (s : State) (c : Nat) (f : Ctx → Ctx) : (s.updCtx c f).snapAt = s.snapAt := rfl
@[simp] theorem State.updCtx_snaps (s : State) (c : Nat) (f : Ctx → Ctx) : (s.updCtx c f).snaps = s.snaps := rfl
@[simp] theorem State.updCtx_powerCap (s : State) (c : Nat) (f : Ctx → Ctx) : (s.updCtx c f).powerCap = s.powerCap := rfl
@[simp] theorem State.updCtx_leaf (s : State) (c : Nat) (f : Ctx → Ctx) : (s.updCtx c f).leaf = s.leaf := rfl
@[simp] theorem State.updCtx_fuses (s : State) (c : Nat) (f : Ctx → Ctx) : (s.updCtx c f).fuses = s.fuses := rfl
@[simp] theorem State.updCtx_ouvaBad (s : State) (c : Nat) (f : Ctx → Ctx) : (s.updCtx c f).ouvaBad = s.ouvaBad := rfl
@[simp] theorem State.updCtx_hostOut (s : State) (c : Nat) (f : Ctx → Ctx) : (s.updCtx c f).hostOut = s.hostOut := rfl

/-! ## `State.updDie` -/

@[simp] theorem State.updDie_agenda (s : State) (d : Nat) (f : Die → Die) : (s.updDie d f).agenda = s.agenda := rfl
@[simp] theorem State.updDie_curCore (s : State) (d : Nat) (f : Die → Die) : (s.updDie d f).curCore = s.curCore := rfl
@[simp] theorem State.updDie_curSlot (s : State) (d : Nat) (f : Die → Die) : (s.updDie d f).curSlot = s.curSlot := rfl
@[simp] theorem State.updDie_fresh (s : State) (d : Nat) (f : Die → Die) : (s.updDie d f).fresh = s.fresh := rfl
@[simp] theorem State.updDie_nextId (s : State) (d : Nat) (f : Die → Die) : (s.updDie d f).nextId = s.nextId := rfl
@[simp] theorem State.updDie_pos (s : State) (d : Nat) (f : Die → Die) : (s.updDie d f).pos = s.pos := rfl
@[simp] theorem State.updDie_now (s : State) (d : Nat) (f : Die → Die) : (s.updDie d f).now = s.now := rfl
@[simp] theorem State.updDie_mem (s : State) (d : Nat) (f : Die → Die) : (s.updDie d f).mem = s.mem := rfl
@[simp] theorem State.updDie_poison (s : State) (d : Nat) (f : Die → Die) : (s.updDie d f).poison = s.poison := rfl
@[simp] theorem State.updDie_parity (s : State) (d : Nat) (f : Die → Die) : (s.updDie d f).parity = s.parity := rfl
@[simp] theorem State.updDie_tampered (s : State) (d : Nat) (f : Die → Die) : (s.updDie d f).tampered = s.tampered := rfl
@[simp] theorem State.updDie_homes (s : State) (d : Nat) (f : Die → Die) : (s.updDie d f).homes = s.homes := rfl
@[simp] theorem State.updDie_cores (s : State) (d : Nat) (f : Die → Die) : (s.updDie d f).cores = s.cores := rfl
@[simp] theorem State.updDie_engines (s : State) (d : Nat) (f : Die → Die) : (s.updDie d f).engines = s.engines := rfl
@[simp] theorem State.updDie_ctxs (s : State) (d : Nat) (f : Die → Die) : (s.updDie d f).ctxs = s.ctxs := rfl
@[simp] theorem State.updDie_funcs (s : State) (d : Nat) (f : Die → Die) : (s.updDie d f).funcs = s.funcs := rfl
@[simp] theorem State.updDie_net (s : State) (d : Nat) (f : Die → Die) : (s.updDie d f).net = s.net := rfl
@[simp] theorem State.updDie_marks (s : State) (d : Nat) (f : Die → Die) : (s.updDie d f).marks = s.marks := rfl
@[simp] theorem State.updDie_halts (s : State) (d : Nat) (f : Die → Die) : (s.updDie d f).halts = s.halts := rfl
@[simp] theorem State.updDie_launches (s : State) (d : Nat) (f : Die → Die) : (s.updDie d f).launches = s.launches := rfl
@[simp] theorem State.updDie_pitch (s : State) (d : Nat) (f : Die → Die) : (s.updDie d f).pitch = s.pitch := rfl
@[simp] theorem State.updDie_fab (s : State) (d : Nat) (f : Die → Die) : (s.updDie d f).fab = s.fab := rfl
@[simp] theorem State.updDie_fabOut (s : State) (d : Nat) (f : Die → Die) : (s.updDie d f).fabOut = s.fabOut := rfl
@[simp] theorem State.updDie_saved (s : State) (d : Nat) (f : Die → Die) : (s.updDie d f).saved = s.saved := rfl
@[simp] theorem State.updDie_saves (s : State) (d : Nat) (f : Die → Die) : (s.updDie d f).saves = s.saves := rfl
@[simp] theorem State.updDie_backstop (s : State) (d : Nat) (f : Die → Die) : (s.updDie d f).backstop = s.backstop := rfl
@[simp] theorem State.updDie_errLog (s : State) (d : Nat) (f : Die → Die) : (s.updDie d f).errLog = s.errLog := rfl
@[simp] theorem State.updDie_aer (s : State) (d : Nat) (f : Die → Die) : (s.updDie d f).aer = s.aer := rfl
@[simp] theorem State.updDie_irqs (s : State) (d : Nat) (f : Die → Die) : (s.updDie d f).irqs = s.irqs := rfl
@[simp] theorem State.updDie_snapAt (s : State) (d : Nat) (f : Die → Die) : (s.updDie d f).snapAt = s.snapAt := rfl
@[simp] theorem State.updDie_snaps (s : State) (d : Nat) (f : Die → Die) : (s.updDie d f).snaps = s.snaps := rfl
@[simp] theorem State.updDie_powerCap (s : State) (d : Nat) (f : Die → Die) : (s.updDie d f).powerCap = s.powerCap := rfl
@[simp] theorem State.updDie_leaf (s : State) (d : Nat) (f : Die → Die) : (s.updDie d f).leaf = s.leaf := rfl
@[simp] theorem State.updDie_fuses (s : State) (d : Nat) (f : Die → Die) : (s.updDie d f).fuses = s.fuses := rfl
@[simp] theorem State.updDie_ouvaBad (s : State) (d : Nat) (f : Die → Die) : (s.updDie d f).ouvaBad = s.ouvaBad := rfl
@[simp] theorem State.updDie_hostOut (s : State) (d : Nat) (f : Die → Die) : (s.updDie d f).hostOut = s.hostOut := rfl

/-! ## `State.newId` -/

@[simp] theorem State.newId_agenda (s : State) : s.newId.2.agenda = s.agenda := rfl
@[simp] theorem State.newId_curCore (s : State) : s.newId.2.curCore = s.curCore := rfl
@[simp] theorem State.newId_curSlot (s : State) : s.newId.2.curSlot = s.curSlot := rfl
@[simp] theorem State.newId_fresh (s : State) : s.newId.2.fresh = s.fresh := rfl
@[simp] theorem State.newId_pos (s : State) : s.newId.2.pos = s.pos := rfl
@[simp] theorem State.newId_now (s : State) : s.newId.2.now = s.now := rfl
@[simp] theorem State.newId_mem (s : State) : s.newId.2.mem = s.mem := rfl
@[simp] theorem State.newId_poison (s : State) : s.newId.2.poison = s.poison := rfl
@[simp] theorem State.newId_parity (s : State) : s.newId.2.parity = s.parity := rfl
@[simp] theorem State.newId_tampered (s : State) : s.newId.2.tampered = s.tampered := rfl
@[simp] theorem State.newId_homes (s : State) : s.newId.2.homes = s.homes := rfl
@[simp] theorem State.newId_cores (s : State) : s.newId.2.cores = s.cores := rfl
@[simp] theorem State.newId_engines (s : State) : s.newId.2.engines = s.engines := rfl
@[simp] theorem State.newId_ctxs (s : State) : s.newId.2.ctxs = s.ctxs := rfl
@[simp] theorem State.newId_funcs (s : State) : s.newId.2.funcs = s.funcs := rfl
@[simp] theorem State.newId_net (s : State) : s.newId.2.net = s.net := rfl
@[simp] theorem State.newId_marks (s : State) : s.newId.2.marks = s.marks := rfl
@[simp] theorem State.newId_halts (s : State) : s.newId.2.halts = s.halts := rfl
@[simp] theorem State.newId_launches (s : State) : s.newId.2.launches = s.launches := rfl
@[simp] theorem State.newId_pitch (s : State) : s.newId.2.pitch = s.pitch := rfl
@[simp] theorem State.newId_dies (s : State) : s.newId.2.dies = s.dies := rfl
@[simp] theorem State.newId_fab (s : State) : s.newId.2.fab = s.fab := rfl
@[simp] theorem State.newId_fabOut (s : State) : s.newId.2.fabOut = s.fabOut := rfl
@[simp] theorem State.newId_saved (s : State) : s.newId.2.saved = s.saved := rfl
@[simp] theorem State.newId_saves (s : State) : s.newId.2.saves = s.saves := rfl
@[simp] theorem State.newId_backstop (s : State) : s.newId.2.backstop = s.backstop := rfl
@[simp] theorem State.newId_errLog (s : State) : s.newId.2.errLog = s.errLog := rfl
@[simp] theorem State.newId_aer (s : State) : s.newId.2.aer = s.aer := rfl
@[simp] theorem State.newId_irqs (s : State) : s.newId.2.irqs = s.irqs := rfl
@[simp] theorem State.newId_snapAt (s : State) : s.newId.2.snapAt = s.snapAt := rfl
@[simp] theorem State.newId_snaps (s : State) : s.newId.2.snaps = s.snaps := rfl
@[simp] theorem State.newId_powerCap (s : State) : s.newId.2.powerCap = s.powerCap := rfl
@[simp] theorem State.newId_leaf (s : State) : s.newId.2.leaf = s.leaf := rfl
@[simp] theorem State.newId_fuses (s : State) : s.newId.2.fuses = s.fuses := rfl
@[simp] theorem State.newId_ouvaBad (s : State) : s.newId.2.ouvaBad = s.ouvaBad := rfl
@[simp] theorem State.newId_hostOut (s : State) : s.newId.2.hostOut = s.hostOut := rfl

/-! ## `State.free` -/

@[simp] theorem State.free_agenda (s : State) : s.free.2.agenda = s.agenda := rfl
@[simp] theorem State.free_curCore (s : State) : s.free.2.curCore = s.curCore := rfl
@[simp] theorem State.free_curSlot (s : State) : s.free.2.curSlot = s.curSlot := rfl
@[simp] theorem State.free_nextId (s : State) : s.free.2.nextId = s.nextId := rfl
@[simp] theorem State.free_pos (s : State) : s.free.2.pos = s.pos := rfl
@[simp] theorem State.free_now (s : State) : s.free.2.now = s.now := rfl
@[simp] theorem State.free_mem (s : State) : s.free.2.mem = s.mem := rfl
@[simp] theorem State.free_poison (s : State) : s.free.2.poison = s.poison := rfl
@[simp] theorem State.free_parity (s : State) : s.free.2.parity = s.parity := rfl
@[simp] theorem State.free_tampered (s : State) : s.free.2.tampered = s.tampered := rfl
@[simp] theorem State.free_homes (s : State) : s.free.2.homes = s.homes := rfl
@[simp] theorem State.free_cores (s : State) : s.free.2.cores = s.cores := rfl
@[simp] theorem State.free_engines (s : State) : s.free.2.engines = s.engines := rfl
@[simp] theorem State.free_ctxs (s : State) : s.free.2.ctxs = s.ctxs := rfl
@[simp] theorem State.free_funcs (s : State) : s.free.2.funcs = s.funcs := rfl
@[simp] theorem State.free_net (s : State) : s.free.2.net = s.net := rfl
@[simp] theorem State.free_marks (s : State) : s.free.2.marks = s.marks := rfl
@[simp] theorem State.free_halts (s : State) : s.free.2.halts = s.halts := rfl
@[simp] theorem State.free_launches (s : State) : s.free.2.launches = s.launches := rfl
@[simp] theorem State.free_pitch (s : State) : s.free.2.pitch = s.pitch := rfl
@[simp] theorem State.free_dies (s : State) : s.free.2.dies = s.dies := rfl
@[simp] theorem State.free_fab (s : State) : s.free.2.fab = s.fab := rfl
@[simp] theorem State.free_fabOut (s : State) : s.free.2.fabOut = s.fabOut := rfl
@[simp] theorem State.free_saved (s : State) : s.free.2.saved = s.saved := rfl
@[simp] theorem State.free_saves (s : State) : s.free.2.saves = s.saves := rfl
@[simp] theorem State.free_backstop (s : State) : s.free.2.backstop = s.backstop := rfl
@[simp] theorem State.free_errLog (s : State) : s.free.2.errLog = s.errLog := rfl
@[simp] theorem State.free_aer (s : State) : s.free.2.aer = s.aer := rfl
@[simp] theorem State.free_irqs (s : State) : s.free.2.irqs = s.irqs := rfl
@[simp] theorem State.free_snapAt (s : State) : s.free.2.snapAt = s.snapAt := rfl
@[simp] theorem State.free_snaps (s : State) : s.free.2.snaps = s.snaps := rfl
@[simp] theorem State.free_powerCap (s : State) : s.free.2.powerCap = s.powerCap := rfl
@[simp] theorem State.free_leaf (s : State) : s.free.2.leaf = s.leaf := rfl
@[simp] theorem State.free_fuses (s : State) : s.free.2.fuses = s.fuses := rfl
@[simp] theorem State.free_ouvaBad (s : State) : s.free.2.ouvaBad = s.ouvaBad := rfl
@[simp] theorem State.free_hostOut (s : State) : s.free.2.hostOut = s.hostOut := rfl

/-! ## Cores and slots -/

@[simp] theorem State.core_setCore_self (s : State) (c : Nat) (x : Core) : (s.setCore c x).core c = x := by
  simp [State.core, State.setCore]

theorem State.core_setCore_ne (s : State) {c e : Nat} (x : Core) (h : e ≠ c) : (s.setCore c x).core e = s.core e :=
  mget_mput_ne _ _ _ h

@[simp] theorem State.core_updCore_self (s : State) (c : Nat) (f : Core → Core) : (s.updCore c f).core c = f (s.core c) :=
  State.core_setCore_self _ _ _

theorem State.core_updCore_ne (s : State) {c e : Nat} (f : Core → Core) (h : e ≠ c) : (s.updCore c f).core e = s.core e :=
  State.core_setCore_ne _ _ h

@[simp] theorem State.slot_updSlot_self (s : State) (c k : Nat) (f : Slot → Slot) :
    (s.updSlot c k f).slot c k = f (s.slot c k) := by
  simp [State.slot, State.updSlot, State.setSlot]

theorem State.slot_updSlot_ne (s : State) {c k j : Nat} (f : Slot → Slot) (h : j ≠ k) :
    (s.updSlot c k f).slot c j = s.slot c j := by
  simp only [State.slot, State.updSlot, State.setSlot, State.core_setCore_self]
  exact mget_mput_ne _ _ _ h

theorem State.core_updSlot_ne (s : State) {c k e : Nat} (f : Slot → Slot) (h : e ≠ c) :
    (s.updSlot c k f).core e = s.core e := State.core_setCore_ne _ _ h

theorem State.slot_updSlot_core_ne (s : State) {c k e j : Nat} (f : Slot → Slot) (h : e ≠ c) :
    (s.updSlot c k f).slot e j = s.slot e j := by
  rw [State.slot, State.core_updSlot_ne s f h, State.slot]

@[simp] theorem State.core_updSlot_self (s : State) (c k : Nat) (f : Slot → Slot) :
    (s.updSlot c k f).core c = { s.core c with slots := mput (s.core c).slots k (f (s.slot c k)) } :=
  State.core_setCore_self _ _ _

@[simp] theorem State.cur_updCur (s : State) (f : Slot → Slot) : (s.updCur f).cur = f s.cur :=
  State.slot_updSlot_self _ _ _ _

/-- A core changed in nothing but what no slot holds keeps its slots. -/
theorem State.slot_updCore (s : State) {c : Nat} {f : Core → Core} (h : (f (s.core c)).slots = (s.core c).slots)
    (e k : Nat) : (s.updCore c f).slot e k = s.slot e k := by
  by_cases he : e = c
  · subst he
    simp [State.slot, h]
  · simp [State.slot, State.core_updCore_ne s f he]

end Sys2Proof.Machine
end

