-- ==== Sys2Proof/Laws/Frame.lean ====
section
/-!
SUPPORT. What the shared operations leave alone: writes of register space, results of lanes, and retiring (`Kept`).
-/

namespace Sys2Proof.Machine

/-! ## `Kept` -/

theorem Kept.refl (s : State) : Kept s s := ⟨rfl, fun _ _ => rfl, rfl, fun _ _ => rfl⟩

theorem Kept.curCore {s t : State} (h : Kept s t) : t.curCore = s.curCore :=
  (congrArg State.curCore h.device : t.frame0.curCore = s.frame0.curCore)

theorem Kept.curSlot {s t : State} (h : Kept s t) : t.curSlot = s.curSlot :=
  (congrArg State.curSlot h.device : t.frame0.curSlot = s.frame0.curSlot)

theorem Kept.trans {s t u : State} (h : Kept s t) (k : Kept t u) : Kept s u where
  device := k.device.trans h.device
  cores c hc := (k.cores c (h.curCore ▸ hc)).trans (h.cores c hc)
  core := k.core.trans h.core
  slots j hj := h.curCore ▸ (k.slots j (h.curSlot ▸ hj)).trans (h.curCore.symm ▸ h.slots j hj)

/-- Memory and parity may change. -/
theorem Kept.memory (s : State) (m : List Host.Cell) (p : List Nat) : Kept s { s with mem := m, parity := p } :=
  ⟨rfl, fun _ _ => rfl, rfl, fun _ _ => rfl⟩

/-- The executing slot may change. -/
theorem Kept.updCur (s : State) (f : Slot → Slot) : Kept s (s.updCur f) where
  device := rfl
  cores _ hc := congrArg Core.unissued (State.core_updSlot_ne s f hc)
  core := by
    have : (s.updCur f).curC = { s.curC with slots := mput s.curC.slots s.curSlot (f s.cur) } :=
      State.core_updSlot_self s s.curCore s.curSlot f
    rw [this]
    rfl
  slots _ hk := State.slot_updSlot_ne s f hk

/-- In its core, which slot issued last, the counters and the replay queue may change. -/
theorem Kept.updCore (s : State) (f : Core → Core) (h : ∀ x, (f x).frame0 = x.frame0) (hs : ∀ x, (f x).slots = x.slots) :
    Kept s (s.updCore s.curCore f) where
  device := rfl
  cores _ hc := congrArg Core.unissued (State.core_updCore_ne s f hc)
  core := by
    have : (s.updCore s.curCore f).curC = f s.curC := State.core_updCore_self s s.curCore f
    rw [this, h]
  slots k _ := State.slot_updCore s (hs _) _ k

theorem State.cur_updCore (s : State) {f : Core → Core} (h : ∀ x, (f x).slots = x.slots) (c : Nat) :
    (s.updCore c f).cur = s.cur := State.slot_updCore s (h _) _ _

/-! ## Writes of register space -/

theorem State.clearParity_kept (s : State) (as : List Nat) : Kept s (s.clearParity as) := by
  unfold State.clearParity
  split
  · exact Kept.refl s
  · exact Kept.memory s s.mem _

@[simp] theorem State.clearParity_cur (s : State) (as : List Nat) : (s.clearParity as).cur = s.cur := by
  unfold State.clearParity
  split <;> rfl

@[simp] theorem State.clearParity_mem (s : State) (as : List Nat) : (s.clearParity as).mem = s.mem := by
  unfold State.clearParity
  split <;> rfl

@[simp] theorem State.clearParity_curCore (s : State) (as : List Nat) : (s.clearParity as).curCore = s.curCore := by
  unfold State.clearParity
  split <;> rfl

/-- The cells that several ranges of a window come to. -/
def State.cells (s : State) (core slot : Nat) (ws : List (Nat × List Byte)) : List Host.Cell :=
  ws.flatMap fun w => (s.winAddrs ⟨core, slot, w.1⟩ w.2.length).zip w.2

theorem State.regPuts_kept (s : State) (core slot : Nat) (ws : List (Nat × List Byte)) :
    Kept s (s.regPuts core slot ws) := by
  unfold State.regPuts
  have h1 := Kept.memory s ((s.cells core slot ws).foldl (fun m p => memPut m p.1 p.2) s.mem) s.parity
  have h2 := h1.trans (State.clearParity_kept _ ((s.cells core slot ws).map Prod.fst))
  refine h2.trans ?_
  have h3 := Kept.updCore (State.clearParity { s with mem := (s.cells core slot ws).foldl (fun m p => memPut m p.1 p.2) s.mem }
    ((s.cells core slot ws).map Prod.fst)) (·.remember (s.cells core slot ws)) (fun _ => rfl) (fun _ => rfl)
  rw [State.clearParity_curCore] at h3
  exact h3

theorem State.regPuts_cur (s : State) (core slot : Nat) (ws : List (Nat × List Byte)) :
    (s.regPuts core slot ws).cur = s.cur := by
  unfold State.regPuts
  dsimp only
  rw [State.cur_updCore (f := fun x : Core => x.remember _) _ (fun _ => rfl), State.clearParity_cur]
  rfl

theorem State.regPuts_mem (s : State) (core slot : Nat) (ws : List (Nat × List Byte)) :
    (s.regPuts core slot ws).mem = (s.cells core slot ws).foldl (fun m p => memPut m p.1 p.2) s.mem := by
  unfold State.regPuts
  simp [State.cells]

/-- A byte that lies in none of the ranges is as it was. -/
theorem State.regPuts_out {s : State} (h : Memory.wf s.mem = true) {core slot u : Nat} {ws : List (Nat × List Byte)}
    (hu : ∀ w ∈ ws, ∀ k, k < w.2.length → u ≠ s.winAddr ⟨core, slot, w.1 + k⟩) :
    memGet (s.regPuts core slot ws).mem u = memGet s.mem u := by
  rw [State.regPuts_mem]
  refine memGet_memCells h fun p hp => ?_
  simp only [State.cells, List.mem_flatMap] at hp
  obtain ⟨w, hw, hp⟩ := hp
  have hm := (List.of_mem_zip (a := p.1) (b := p.2) hp).1
  simp only [State.winAddrs, List.mem_map, List.mem_range] at hm
  obtain ⟨k, hk, e⟩ := hm
  exact fun he => hu w hw k hk (he ▸ e.symm)

/-! ## The results of lanes -/

theorem Acc.wrote_kept (q : Acc) (s : State) : Kept s (q.wrote s) := by
  unfold Acc.wrote
  split
  · exact Kept.refl s
  · exact Kept.updCur s _

@[simp] theorem Acc.wrote_mem (q : Acc) (s : State) : (q.wrote s).mem = s.mem := by
  unfold Acc.wrote
  split <;> simp

theorem Acc.wrote_cur (q : Acc) (s : State) : { (q.wrote s).cur with ports := [] } = { s.cur with ports := [] } := by
  unfold Acc.wrote
  split
  · rfl
  · rw [State.cur_updCur]

/-- Lanes written: nothing else of the device changes, and of the slot only its ports and `out.msg`. -/
theorem Acc.putLanes_kept (s : State) (q : Acc) (w : Nat) (raws : List Nat) : Kept s (q.putLanes s w raws) := by
  unfold Acc.putLanes
  split
  · exact Kept.refl s
  · split
    · exact Kept.updCur s _
    · exact (State.regPuts_kept s _ _ _).trans (Acc.wrote_kept _ _)

theorem Acc.putLanes_cur (s : State) (q : Acc) (w : Nat) (raws : List Nat) :
    { (q.putLanes s w raws).cur with ports := [], outMsg := [] } = { s.cur with ports := [], outMsg := [] } := by
  unfold Acc.putLanes
  split
  · rfl
  · split
    · rw [State.cur_updCur]
    · refine (congrArg (fun x : Slot => { x with outMsg := [] }) (Acc.wrote_cur q _)).trans ?_
      rw [State.regPuts_cur]

/-! ## Retiring -/

@[simp] theorem State.noteIssue_mem (s p : State) : (s.noteIssue p).mem = s.mem := rfl

@[simp] theorem State.noteIssue_curCore (s p : State) : (s.noteIssue p).curCore = s.curCore := rfl

/-- What a core issued last may change, on any core. -/
theorem Kept.issued (s : State) (c p k : Nat) (q : Option Issued) :
    Kept s (s.updCore c fun x => { x with issued := mput x.issued p k, iss := q }) := by
  by_cases h : c = s.curCore
  · exact h ▸ Kept.updCore s _ (fun _ => rfl) fun _ => rfl
  · refine ⟨rfl, fun i hi => ?_, ?_, fun j _ => State.slot_updCore s rfl _ _⟩
    · by_cases e : i = c
      · rw [e, State.core_updCore_self]
        rfl
      · rw [State.core_updCore_ne s _ e]
    · exact congrArg Core.frame0 (State.core_updCore_ne s _ (Ne.symm h))

theorem State.noteIssue_kept (s p : State) : Kept s (s.noteIssue p) := Kept.issued s _ _ _ _

theorem State.noteIssue_cur (s p : State) : (s.noteIssue p).cur = s.cur :=
  State.cur_updCore (f := fun x : Core => { x with issued := mput x.issued p.cur.pri p.curSlot,
                                                   iss := some ⟨s.now, p.curSlot, p.cur.ctx, p.cur.here.toNat, p.cur.scrum.isSome⟩ })
    s (fun _ => rfl) _

@[simp] theorem State.count_mem (s : State) (c ev : Nat) : (s.count c ev).mem = s.mem := by
  unfold State.count
  split <;> simp

@[simp] theorem State.count_curCore (s : State) (c ev : Nat) : (s.count c ev).curCore = s.curCore := by
  unfold State.count
  split <;> simp

theorem Core.count_frame (x : Core) (ev n : Nat) : (x.count ev n).frame0 = x.frame0 := by
  unfold Core.count
  split <;> rfl

theorem Core.count_slots (x : Core) (ev n : Nat) : (x.count ev n).slots = x.slots := by
  unfold Core.count
  split <;> rfl

theorem State.count_kept (s : State) (ev : Nat) : Kept s (s.count s.curCore ev) := by
  unfold State.count
  split
  · exact Kept.refl s
  · exact Kept.updCore s _ (fun x => Core.count_frame x ev 1) fun x => Core.count_slots x ev 1

theorem State.count_cur (s : State) (c ev : Nat) : (s.count c ev).cur = s.cur := by
  unfold State.count
  split
  · rfl
  · exact State.cur_updCore s (fun x => Core.count_slots x ev 1) _

@[simp] theorem State.retire_mem (s : State) (len : Nat) : (s.retire len).mem = s.mem := by
  unfold State.retire
  dsimp only
  split
  · split <;> simp
  · simp

theorem State.retire_kept (s : State) (len : Nat) : Kept s (s.retire len) := by
  unfold State.retire
  dsimp only
  split
  · split <;> exact Kept.updCur s _
  · exact Kept.updCur s _

theorem Slot.atBlock_frame (s : State) (x : Slot) (pc : Nat) (jumped : Bool) :
    (x.atBlock s pc jumped).frame0 = x.frame0 := by
  unfold Slot.atBlock
  dsimp only
  split
  · split <;> rfl
  · split
    all_goals split <;> rfl

theorem Slot.nextPass_frame (x : Slot) (r : Rep) : (x.nextPass r).frame0 = x.frame0 := by
  unfold Slot.nextPass
  split
  · rfl
  · split <;> rfl

/-- Reading a landed token discards run-ahead entries and nothing else. -/
theorem State.acquired_frame (s : State) (x : Slot) : (s.acquired x).frame0 = x.frame0 := by
  unfold State.acquired
  split
  · rfl
  · split
    · rfl
    · split <;> rfl

/-- What the slot waits for is no part of its frame. -/
theorem Slot.waits_frame (x : Slot) : { x with wait := .none, waitOn := [], waitExp := none, waitRem := none }.frame0 = x.frame0 := rfl

theorem Slot.pc_frame (x : Slot) (pc : BitVec 24) : { x with pc := pc }.frame0 = x.frame0 := rfl

/-- Retiring changes nothing else in the slot. -/
theorem State.retire_cur (s : State) (len : Nat) : s.cur.retires (s.retire len).cur := by
  unfold State.retire Slot.retires
  dsimp only
  split
  · split
    · rw [State.cur_updCur]
      split
      · rw [Slot.pc_frame, Slot.nextPass_frame, State.acquired_frame, Slot.waits_frame]
      · rw [Slot.atBlock_frame, Slot.nextPass_frame, State.acquired_frame, Slot.waits_frame]
    · rw [State.cur_updCur, Slot.pc_frame, Slot.atBlock_frame, State.acquired_frame, Slot.waits_frame]
  · rw [State.cur_updCur, Slot.pc_frame, Slot.atBlock_frame, State.acquired_frame, Slot.waits_frame]

theorem State.retireTo_mem (s : State) (pc : Nat) : (s.retireTo pc).mem = s.mem := rfl

theorem State.retireTo_kept (s : State) (pc : Nat) : Kept s (s.retireTo pc) := Kept.updCur s _

theorem State.retireTo_cur (s : State) (pc : Nat) : s.cur.retires (s.retireTo pc).cur := by
  unfold State.retireTo Slot.retires
  rw [State.cur_updCur, Slot.pc_frame, Slot.atBlock_frame, State.acquired_frame, Slot.waits_frame]

/-- What an instruction that retires leaves as it was, when its own effect left as much. -/
theorem State.retired_kept {s s' : State} (i : Instr) (h : Kept s s') : Kept s (s.retired i s') := by
  have h1 := h.trans (State.noteIssue_kept s' s)
  have h2 := State.count_kept (s'.noteIssue s) 2
  rw [h1.curCore] at h2
  exact (h1.trans h2).trans (State.retire_kept _ _)

@[simp] theorem State.retired_mem (s : State) (i : Instr) (s' : State) : (s.retired i s').mem = s'.mem := by
  simp [State.retired]

theorem State.retired_cur (s : State) (i : Instr) (s' : State) : s'.cur.retires (s.retired i s').cur := by
  have := State.retire_cur ((s'.noteIssue s).count s.curCore 2) (instrLen i)
  rwa [State.count_cur, State.noteIssue_cur] at this

theorem State.jumped_kept {s s' : State} (pc : Nat) (h : Kept s s') : Kept s (s.jumped pc s') := by
  have h1 := h.trans (State.noteIssue_kept s' s)
  have h2 := State.count_kept (s'.noteIssue s) 2
  rw [h1.curCore] at h2
  exact (h1.trans h2).trans (State.retireTo_kept _ _)

@[simp] theorem State.jumped_mem (s : State) (pc : Nat) (s' : State) : (s.jumped pc s').mem = s'.mem := by
  simp [State.jumped, State.retireTo_mem]

theorem State.jumped_cur (s : State) (pc : Nat) (s' : State) : s'.cur.retires (s.jumped pc s').cur := by
  have := State.retireTo_cur ((s'.noteIssue s).count s.curCore 2) pc
  rwa [State.count_cur, State.noteIssue_cur] at this

end Sys2Proof.Machine
end

