-- ==== Sys2Proof/Laws/PerInstr.lean ====
section
/-!
SUPPORT. Per-instruction families. `FirstBit`: what the words of each instruction say of their own length (R199).
-/

/-- R199: bit 0 of the first halfword gives the length: 0 for one halfword, 1 for two (four with a trailing word). An event
has no words. -/
def Sys2Proof.Laws.FirstBit.Statement (i : Sys2Proof.Instr) : Prop :=
  match Sys2Proof.encode i with
  | [] => True
  | h :: t => h.getLsbD 0 = !t.isEmpty ∧ (t.length = 0 ∨ t.length = 1 ∨ t.length = 3)

namespace Sys2Proof.Laws.FirstBit

/-- The low bit of a vector that ends in one bit. -/
theorem low_append {n : Nat} (x : BitVec n) (y : BitVec 1) : (x ++ y).getLsbD 0 = y.getLsbD 0 := by
  rw [BitVec.getLsbD_append]; simp

theorem packShort_low (op : BitVec 4) (a : Bool) (s d : BitVec 5) : (packShort op a s d).getLsbD 0 = false := by
  exact low_append _ _

theorem packT_low (m : BitVec 5) (o : BitVec 2) (b a d j : BitVec 6) : (packT m o b a d j).getLsbD 0 = true := by
  exact low_append _ _

theorem packQ_low (n : Bool) (c b a d j : BitVec 6) : (packQ n c b a d j).getLsbD 0 = true := by
  exact low_append _ _

theorem packI_low (i : BitVec 13) (a d j : BitVec 6) : (packI i a d j).getLsbD 0 = true := by
  exact low_append _ _

theorem packG_low (m : BitVec 3) (b a d : BitVec 6) (n : Bool) (g : BitVec 3) (j : BitVec 6) :
    (packG m b a d n g j).getLsbD 0 = true := by
  exact low_append _ _

theorem packB_low (f : BitVec 20) (k n : Bool) (g : BitVec 3) (j : BitVec 6) : (packB f k n g j).getLsbD 0 = true := by
  exact low_append _ _

theorem hint_low (h : BitVec 3) (x : BitVec 20) :
    ((3 : BitVec 2) ++ h ++ x ++ (63 : BitVec 6) ++ (1 : BitVec 1)).getLsbD 0 = true := by
  exact low_append _ _

/-- What `FirstBit` asks of the words of one instruction of two halfwords. -/
theorem of_word {i : Instr} {w : W32} (e : encode i = word32 w) (h : w.getLsbD 0 = true) : Statement i := by
  simp [Statement, e, word32, h]

/-- As `of_word`, of an instruction with a trailing word. -/
theorem of_long {i : Instr} {w x : W32} (e : encode i = word32 w ++ word32 x) (h : w.getLsbD 0 = true) : Statement i := by
  simp [Statement, e, word32, h]

/-- As `of_word`, of a short instruction. -/
theorem of_short {i : Instr} {h : Half} (e : encode i = [h]) (b : h.getLsbD 0 = false) : Statement i := by
  simp only [Statement, e]
  exact ⟨b, .inl rfl⟩

end Sys2Proof.Laws.FirstBit

open Sys2Proof.Laws.FirstBit (packShort_low packT_low packQ_low packI_low packG_low packB_low hint_low of_word of_long of_short)

theorem Sys2Proof.Laws.FirstBit.movShort : ∀ x0 x1 x2, Sys2Proof.Laws.FirstBit.Statement (.movShort x0 x1 x2) :=
  fun _ _ _ => of_short rfl (packShort_low ..)

theorem Sys2Proof.Laws.FirstBit.addShort : ∀ x0 x1 x2, Sys2Proof.Laws.FirstBit.Statement (.addShort x0 x1 x2) :=
  fun _ _ _ => of_short rfl (packShort_low ..)

theorem Sys2Proof.Laws.FirstBit.subShort : ∀ x0 x1 x2, Sys2Proof.Laws.FirstBit.Statement (.subShort x0 x1 x2) :=
  fun _ _ _ => of_short rfl (packShort_low ..)

theorem Sys2Proof.Laws.FirstBit.rsubShort : ∀ x0 x1 x2, Sys2Proof.Laws.FirstBit.Statement (.rsubShort x0 x1 x2) :=
  fun _ _ _ => of_short rfl (packShort_low ..)

theorem Sys2Proof.Laws.FirstBit.mulShort : ∀ x0 x1 x2, Sys2Proof.Laws.FirstBit.Statement (.mulShort x0 x1 x2) :=
  fun _ _ _ => of_short rfl (packShort_low ..)

theorem Sys2Proof.Laws.FirstBit.minShort : ∀ x0 x1 x2, Sys2Proof.Laws.FirstBit.Statement (.minShort x0 x1 x2) :=
  fun _ _ _ => of_short rfl (packShort_low ..)

theorem Sys2Proof.Laws.FirstBit.maxShort : ∀ x0 x1 x2, Sys2Proof.Laws.FirstBit.Statement (.maxShort x0 x1 x2) :=
  fun _ _ _ => of_short rfl (packShort_low ..)

theorem Sys2Proof.Laws.FirstBit.andShort : ∀ x0 x1 x2, Sys2Proof.Laws.FirstBit.Statement (.andShort x0 x1 x2) :=
  fun _ _ _ => of_short rfl (packShort_low ..)

theorem Sys2Proof.Laws.FirstBit.orShort : ∀ x0 x1 x2, Sys2Proof.Laws.FirstBit.Statement (.orShort x0 x1 x2) :=
  fun _ _ _ => of_short rfl (packShort_low ..)

theorem Sys2Proof.Laws.FirstBit.xorShort : ∀ x0 x1 x2, Sys2Proof.Laws.FirstBit.Statement (.xorShort x0 x1 x2) :=
  fun _ _ _ => of_short rfl (packShort_low ..)

theorem Sys2Proof.Laws.FirstBit.andnShort : ∀ x0 x1 x2, Sys2Proof.Laws.FirstBit.Statement (.andnShort x0 x1 x2) :=
  fun _ _ _ => of_short rfl (packShort_low ..)

theorem Sys2Proof.Laws.FirstBit.shlShort : ∀ x0 x1 x2, Sys2Proof.Laws.FirstBit.Statement (.shlShort x0 x1 x2) :=
  fun _ _ _ => of_short rfl (packShort_low ..)

theorem Sys2Proof.Laws.FirstBit.shrShort : ∀ x0 x1 x2, Sys2Proof.Laws.FirstBit.Statement (.shrShort x0 x1 x2) :=
  fun _ _ _ => of_short rfl (packShort_low ..)

theorem Sys2Proof.Laws.FirstBit.sarShort : ∀ x0 x1 x2, Sys2Proof.Laws.FirstBit.Statement (.sarShort x0 x1 x2) :=
  fun _ _ _ => of_short rfl (packShort_low ..)

theorem Sys2Proof.Laws.FirstBit.negShort : ∀ x0 x1 x2, Sys2Proof.Laws.FirstBit.Statement (.negShort x0 x1 x2) :=
  fun _ _ _ => of_short rfl (packShort_low ..)

theorem Sys2Proof.Laws.FirstBit.absShort : ∀ x0 x1 x2, Sys2Proof.Laws.FirstBit.Statement (.absShort x0 x1 x2) :=
  fun _ _ _ => of_short rfl (packShort_low ..)

theorem Sys2Proof.Laws.FirstBit.mov : ∀ x0 x1 x2, Sys2Proof.Laws.FirstBit.Statement (.mov x0 x1 x2) :=
  fun _ _ _ => of_word rfl (packT_low ..)

theorem Sys2Proof.Laws.FirstBit.add : ∀ x0 x1 x2 x3, Sys2Proof.Laws.FirstBit.Statement (.add x0 x1 x2 x3) :=
  fun _ _ _ _ => of_word rfl (packT_low ..)

theorem Sys2Proof.Laws.FirstBit.sub : ∀ x0 x1 x2 x3, Sys2Proof.Laws.FirstBit.Statement (.sub x0 x1 x2 x3) :=
  fun _ _ _ _ => of_word rfl (packT_low ..)

theorem Sys2Proof.Laws.FirstBit.rsub : ∀ x0 x1 x2 x3, Sys2Proof.Laws.FirstBit.Statement (.rsub x0 x1 x2 x3) :=
  fun _ _ _ _ => of_word rfl (packT_low ..)

theorem Sys2Proof.Laws.FirstBit.mul : ∀ x0 x1 x2 x3, Sys2Proof.Laws.FirstBit.Statement (.mul x0 x1 x2 x3) :=
  fun _ _ _ _ => of_word rfl (packT_low ..)

theorem Sys2Proof.Laws.FirstBit.mulh : ∀ x0 x1 x2 x3, Sys2Proof.Laws.FirstBit.Statement (.mulh x0 x1 x2 x3) :=
  fun _ _ _ _ => of_word rfl (packT_low ..)

theorem Sys2Proof.Laws.FirstBit.div : ∀ x0 x1 x2 x3, Sys2Proof.Laws.FirstBit.Statement (.div x0 x1 x2 x3) :=
  fun _ _ _ _ => of_word rfl (packT_low ..)

theorem Sys2Proof.Laws.FirstBit.rem : ∀ x0 x1 x2 x3, Sys2Proof.Laws.FirstBit.Statement (.rem x0 x1 x2 x3) :=
  fun _ _ _ _ => of_word rfl (packT_low ..)

theorem Sys2Proof.Laws.FirstBit.min : ∀ x0 x1 x2 x3, Sys2Proof.Laws.FirstBit.Statement (.min x0 x1 x2 x3) :=
  fun _ _ _ _ => of_word rfl (packT_low ..)

theorem Sys2Proof.Laws.FirstBit.max : ∀ x0 x1 x2 x3, Sys2Proof.Laws.FirstBit.Statement (.max x0 x1 x2 x3) :=
  fun _ _ _ _ => of_word rfl (packT_low ..)

theorem Sys2Proof.Laws.FirstBit.abs : ∀ x0 x1 x2, Sys2Proof.Laws.FirstBit.Statement (.abs x0 x1 x2) :=
  fun _ _ _ => of_word rfl (packT_low ..)

theorem Sys2Proof.Laws.FirstBit.neg : ∀ x0 x1 x2, Sys2Proof.Laws.FirstBit.Statement (.neg x0 x1 x2) :=
  fun _ _ _ => of_word rfl (packT_low ..)

theorem Sys2Proof.Laws.FirstBit.clamp : ∀ x0 x1 x2 x3, Sys2Proof.Laws.FirstBit.Statement (.clamp x0 x1 x2 x3) :=
  fun _ _ _ _ => of_word rfl (packT_low ..)

theorem Sys2Proof.Laws.FirstBit.abd : ∀ x0 x1 x2 x3, Sys2Proof.Laws.FirstBit.Statement (.abd x0 x1 x2 x3) :=
  fun _ _ _ _ => of_word rfl (packT_low ..)

theorem Sys2Proof.Laws.FirstBit.avg : ∀ x0 x1 x2 x3, Sys2Proof.Laws.FirstBit.Statement (.avg x0 x1 x2 x3) :=
  fun _ _ _ _ => of_word rfl (packT_low ..)

theorem Sys2Proof.Laws.FirstBit.adds : ∀ x0 x1 x2 x3, Sys2Proof.Laws.FirstBit.Statement (.adds x0 x1 x2 x3) :=
  fun _ _ _ _ => of_word rfl (packT_low ..)

theorem Sys2Proof.Laws.FirstBit.subs : ∀ x0 x1 x2 x3, Sys2Proof.Laws.FirstBit.Statement (.subs x0 x1 x2 x3) :=
  fun _ _ _ _ => of_word rfl (packT_low ..)

theorem Sys2Proof.Laws.FirstBit.and : ∀ x0 x1 x2 x3, Sys2Proof.Laws.FirstBit.Statement (.and x0 x1 x2 x3) :=
  fun _ _ _ _ => of_word rfl (packT_low ..)

theorem Sys2Proof.Laws.FirstBit.or : ∀ x0 x1 x2 x3, Sys2Proof.Laws.FirstBit.Statement (.or x0 x1 x2 x3) :=
  fun _ _ _ _ => of_word rfl (packT_low ..)

theorem Sys2Proof.Laws.FirstBit.xor : ∀ x0 x1 x2 x3, Sys2Proof.Laws.FirstBit.Statement (.xor x0 x1 x2 x3) :=
  fun _ _ _ _ => of_word rfl (packT_low ..)

theorem Sys2Proof.Laws.FirstBit.andn : ∀ x0 x1 x2 x3, Sys2Proof.Laws.FirstBit.Statement (.andn x0 x1 x2 x3) :=
  fun _ _ _ _ => of_word rfl (packT_low ..)

theorem Sys2Proof.Laws.FirstBit.not : ∀ x0 x1 x2, Sys2Proof.Laws.FirstBit.Statement (.not x0 x1 x2) :=
  fun _ _ _ => of_word rfl (packT_low ..)

theorem Sys2Proof.Laws.FirstBit.shl : ∀ x0 x1 x2 x3, Sys2Proof.Laws.FirstBit.Statement (.shl x0 x1 x2 x3) :=
  fun _ _ _ _ => of_word rfl (packT_low ..)

theorem Sys2Proof.Laws.FirstBit.shr : ∀ x0 x1 x2 x3, Sys2Proof.Laws.FirstBit.Statement (.shr x0 x1 x2 x3) :=
  fun _ _ _ _ => of_word rfl (packT_low ..)

theorem Sys2Proof.Laws.FirstBit.sar : ∀ x0 x1 x2 x3, Sys2Proof.Laws.FirstBit.Statement (.sar x0 x1 x2 x3) :=
  fun _ _ _ _ => of_word rfl (packT_low ..)

theorem Sys2Proof.Laws.FirstBit.rol : ∀ x0 x1 x2 x3, Sys2Proof.Laws.FirstBit.Statement (.rol x0 x1 x2 x3) :=
  fun _ _ _ _ => of_word rfl (packT_low ..)

theorem Sys2Proof.Laws.FirstBit.ror : ∀ x0 x1 x2 x3, Sys2Proof.Laws.FirstBit.Statement (.ror x0 x1 x2 x3) :=
  fun _ _ _ _ => of_word rfl (packT_low ..)

theorem Sys2Proof.Laws.FirstBit.clz : ∀ x0 x1 x2, Sys2Proof.Laws.FirstBit.Statement (.clz x0 x1 x2) :=
  fun _ _ _ => of_word rfl (packT_low ..)

theorem Sys2Proof.Laws.FirstBit.ctz : ∀ x0 x1 x2, Sys2Proof.Laws.FirstBit.Statement (.ctz x0 x1 x2) :=
  fun _ _ _ => of_word rfl (packT_low ..)

theorem Sys2Proof.Laws.FirstBit.popc : ∀ x0 x1 x2, Sys2Proof.Laws.FirstBit.Statement (.popc x0 x1 x2) :=
  fun _ _ _ => of_word rfl (packT_low ..)

theorem Sys2Proof.Laws.FirstBit.brev : ∀ x0 x1 x2, Sys2Proof.Laws.FirstBit.Statement (.brev x0 x1 x2) :=
  fun _ _ _ => of_word rfl (packT_low ..)

theorem Sys2Proof.Laws.FirstBit.bfx : ∀ x0 x1 x2 x3, Sys2Proof.Laws.FirstBit.Statement (.bfx x0 x1 x2 x3) :=
  fun _ _ _ _ => of_word rfl (packT_low ..)

theorem Sys2Proof.Laws.FirstBit.bfi : ∀ x0 x1 x2 x3, Sys2Proof.Laws.FirstBit.Statement (.bfi x0 x1 x2 x3) :=
  fun _ _ _ _ => of_word rfl (packT_low ..)

theorem Sys2Proof.Laws.FirstBit.sxt : ∀ x0 x1 x2 x3, Sys2Proof.Laws.FirstBit.Statement (.sxt x0 x1 x2 x3) :=
  fun _ _ _ _ => of_word rfl (packT_low ..)

theorem Sys2Proof.Laws.FirstBit.zxt : ∀ x0 x1 x2 x3, Sys2Proof.Laws.FirstBit.Statement (.zxt x0 x1 x2 x3) :=
  fun _ _ _ _ => of_word rfl (packT_low ..)

theorem Sys2Proof.Laws.FirstBit.cvt : ∀ x0 x1 x2, Sys2Proof.Laws.FirstBit.Statement (.cvt x0 x1 x2) :=
  fun _ _ _ => of_word rfl (packT_low ..)

theorem Sys2Proof.Laws.FirstBit.cvts : ∀ x0 x1 x2 x3, Sys2Proof.Laws.FirstBit.Statement (.cvts x0 x1 x2 x3) :=
  fun _ _ _ _ => of_word rfl (packT_low ..)

theorem Sys2Proof.Laws.FirstBit.rcp : ∀ x0 x1 x2, Sys2Proof.Laws.FirstBit.Statement (.rcp x0 x1 x2) :=
  fun _ _ _ => of_word rfl (packT_low ..)

theorem Sys2Proof.Laws.FirstBit.rsq : ∀ x0 x1 x2, Sys2Proof.Laws.FirstBit.Statement (.rsq x0 x1 x2) :=
  fun _ _ _ => of_word rfl (packT_low ..)

theorem Sys2Proof.Laws.FirstBit.sqrt : ∀ x0 x1 x2, Sys2Proof.Laws.FirstBit.Statement (.sqrt x0 x1 x2) :=
  fun _ _ _ => of_word rfl (packT_low ..)

theorem Sys2Proof.Laws.FirstBit.exp2 : ∀ x0 x1 x2, Sys2Proof.Laws.FirstBit.Statement (.exp2 x0 x1 x2) :=
  fun _ _ _ => of_word rfl (packT_low ..)

theorem Sys2Proof.Laws.FirstBit.log2 : ∀ x0 x1 x2, Sys2Proof.Laws.FirstBit.Statement (.log2 x0 x1 x2) :=
  fun _ _ _ => of_word rfl (packT_low ..)

theorem Sys2Proof.Laws.FirstBit.floor : ∀ x0 x1 x2, Sys2Proof.Laws.FirstBit.Statement (.floor x0 x1 x2) :=
  fun _ _ _ => of_word rfl (packT_low ..)

theorem Sys2Proof.Laws.FirstBit.ceil : ∀ x0 x1 x2, Sys2Proof.Laws.FirstBit.Statement (.ceil x0 x1 x2) :=
  fun _ _ _ => of_word rfl (packT_low ..)

theorem Sys2Proof.Laws.FirstBit.rndn : ∀ x0 x1 x2, Sys2Proof.Laws.FirstBit.Statement (.rndn x0 x1 x2) :=
  fun _ _ _ => of_word rfl (packT_low ..)

theorem Sys2Proof.Laws.FirstBit.fma : ∀ x0 x1 x2 x3, Sys2Proof.Laws.FirstBit.Statement (.fma x0 x1 x2 x3) :=
  fun _ _ _ _ => of_word rfl (packQ_low ..)

theorem Sys2Proof.Laws.FirstBit.fnma : ∀ x0 x1 x2 x3, Sys2Proof.Laws.FirstBit.Statement (.fnma x0 x1 x2 x3) :=
  fun _ _ _ _ => of_word rfl (packQ_low ..)

theorem Sys2Proof.Laws.FirstBit.fms : ∀ x0 x1 x2 x3, Sys2Proof.Laws.FirstBit.Statement (.fms x0 x1 x2 x3) :=
  fun _ _ _ _ => of_word rfl (packQ_low ..)

theorem Sys2Proof.Laws.FirstBit.fnms : ∀ x0 x1 x2 x3, Sys2Proof.Laws.FirstBit.Statement (.fnms x0 x1 x2 x3) :=
  fun _ _ _ _ => of_word rfl (packQ_low ..)

theorem Sys2Proof.Laws.FirstBit.addi : ∀ x0 x1 x2, Sys2Proof.Laws.FirstBit.Statement (.addi x0 x1 x2) :=
  fun _ _ _ => of_word rfl (packI_low ..)

theorem Sys2Proof.Laws.FirstBit.andi : ∀ x0 x1 x2, Sys2Proof.Laws.FirstBit.Statement (.andi x0 x1 x2) :=
  fun _ _ _ => of_word rfl (packI_low ..)

theorem Sys2Proof.Laws.FirstBit.ori : ∀ x0 x1 x2, Sys2Proof.Laws.FirstBit.Statement (.ori x0 x1 x2) :=
  fun _ _ _ => of_word rfl (packI_low ..)

theorem Sys2Proof.Laws.FirstBit.xori : ∀ x0 x1 x2, Sys2Proof.Laws.FirstBit.Statement (.xori x0 x1 x2) :=
  fun _ _ _ => of_word rfl (packI_low ..)

theorem Sys2Proof.Laws.FirstBit.shli : ∀ x0 x1 x2, Sys2Proof.Laws.FirstBit.Statement (.shli x0 x1 x2) :=
  fun _ _ _ => of_word rfl (packI_low ..)

theorem Sys2Proof.Laws.FirstBit.shri : ∀ x0 x1 x2, Sys2Proof.Laws.FirstBit.Statement (.shri x0 x1 x2) :=
  fun _ _ _ => of_word rfl (packI_low ..)

theorem Sys2Proof.Laws.FirstBit.sari : ∀ x0 x1 x2, Sys2Proof.Laws.FirstBit.Statement (.sari x0 x1 x2) :=
  fun _ _ _ => of_word rfl (packI_low ..)

theorem Sys2Proof.Laws.FirstBit.movi : ∀ x0 x1, Sys2Proof.Laws.FirstBit.Statement (.movi x0 x1) :=
  fun _ _ => of_word rfl (packI_low ..)

theorem Sys2Proof.Laws.FirstBit.li : ∀ x0 x1, Sys2Proof.Laws.FirstBit.Statement (.li x0 x1) :=
  fun _ _ => of_long rfl (packI_low ..)

theorem Sys2Proof.Laws.FirstBit.near : ∀ x0 x1, Sys2Proof.Laws.FirstBit.Statement (.near x0 x1) :=
  fun _ _ => of_long rfl (packI_low ..)

theorem Sys2Proof.Laws.FirstBit.spwn : ∀ x0 x1 x2 x3, Sys2Proof.Laws.FirstBit.Statement (.spwn x0 x1 x2 x3) :=
  fun _ _ _ _ => of_long rfl (packI_low ..)

theorem Sys2Proof.Laws.FirstBit.lea : ∀ x0 x1 x2 x3, Sys2Proof.Laws.FirstBit.Statement (.lea x0 x1 x2 x3) :=
  fun _ _ _ _ => of_word rfl (packT_low ..)

theorem Sys2Proof.Laws.FirstBit.adda : ∀ x0 x1 x2 x3, Sys2Proof.Laws.FirstBit.Statement (.adda x0 x1 x2 x3) :=
  fun _ _ _ _ => of_word rfl (packT_low ..)

theorem Sys2Proof.Laws.FirstBit.lcore : ∀ x0 x1 x2, Sys2Proof.Laws.FirstBit.Statement (.lcore x0 x1 x2) :=
  fun _ _ _ => of_word rfl (packT_low ..)

theorem Sys2Proof.Laws.FirstBit.cmp : ∀ x0 x1 x2 x3 x4, Sys2Proof.Laws.FirstBit.Statement (.cmp x0 x1 x2 x3 x4) :=
  fun _ _ _ _ _ => of_word rfl (packT_low ..)

theorem Sys2Proof.Laws.FirstBit.cmpm : ∀ x0 x1 x2 x3 x4, Sys2Proof.Laws.FirstBit.Statement (.cmpm x0 x1 x2 x3 x4) :=
  fun _ _ _ _ _ => of_word rfl (packT_low ..)

theorem Sys2Proof.Laws.FirstBit.gand : ∀ x0 x1 x2, Sys2Proof.Laws.FirstBit.Statement (.gand x0 x1 x2) :=
  fun _ _ _ => of_word rfl (packT_low ..)

theorem Sys2Proof.Laws.FirstBit.gor : ∀ x0 x1 x2, Sys2Proof.Laws.FirstBit.Statement (.gor x0 x1 x2) :=
  fun _ _ _ => of_word rfl (packT_low ..)

theorem Sys2Proof.Laws.FirstBit.gxor : ∀ x0 x1 x2, Sys2Proof.Laws.FirstBit.Statement (.gxor x0 x1 x2) :=
  fun _ _ _ => of_word rfl (packT_low ..)

theorem Sys2Proof.Laws.FirstBit.gnot : ∀ x0 x1, Sys2Proof.Laws.FirstBit.Statement (.gnot x0 x1) :=
  fun _ _ => of_word rfl (packT_low ..)

theorem Sys2Proof.Laws.FirstBit.gmov : ∀ x0 x1 x2, Sys2Proof.Laws.FirstBit.Statement (.gmov x0 x1 x2) :=
  fun _ _ _ => of_word rfl (packT_low ..)

theorem Sys2Proof.Laws.FirstBit.st : ∀ x0 x1 x2 x3 x4 x5, Sys2Proof.Laws.FirstBit.Statement (.st x0 x1 x2 x3 x4 x5) :=
  fun _ _ _ _ _ _ => of_word rfl (packG_low ..)

theorem Sys2Proof.Laws.FirstBit.sts : ∀ x0 x1 x2 x3 x4 x5, Sys2Proof.Laws.FirstBit.Statement (.sts x0 x1 x2 x3 x4 x5) :=
  fun _ _ _ _ _ _ => of_word rfl (packG_low ..)

theorem Sys2Proof.Laws.FirstBit.sel : ∀ x0 x1 x2 x3 x4, Sys2Proof.Laws.FirstBit.Statement (.sel x0 x1 x2 x3 x4) :=
  fun _ _ _ _ _ => of_word rfl (packG_low ..)

theorem Sys2Proof.Laws.FirstBit.selm : ∀ x0 x1 x2 x3 x4, Sys2Proof.Laws.FirstBit.Statement (.selm x0 x1 x2 x3 x4) :=
  fun _ _ _ _ _ => of_word rfl (packG_low ..)

theorem Sys2Proof.Laws.FirstBit.aadd : ∀ x0 x1 x2 x3 x4, Sys2Proof.Laws.FirstBit.Statement (.aadd x0 x1 x2 x3 x4) :=
  fun _ _ _ _ _ => of_word rfl (packG_low ..)

theorem Sys2Proof.Laws.FirstBit.amin : ∀ x0 x1 x2 x3 x4, Sys2Proof.Laws.FirstBit.Statement (.amin x0 x1 x2 x3 x4) :=
  fun _ _ _ _ _ => of_word rfl (packG_low ..)

theorem Sys2Proof.Laws.FirstBit.amax : ∀ x0 x1 x2 x3 x4, Sys2Proof.Laws.FirstBit.Statement (.amax x0 x1 x2 x3 x4) :=
  fun _ _ _ _ _ => of_word rfl (packG_low ..)

theorem Sys2Proof.Laws.FirstBit.aand : ∀ x0 x1 x2 x3 x4, Sys2Proof.Laws.FirstBit.Statement (.aand x0 x1 x2 x3 x4) :=
  fun _ _ _ _ _ => of_word rfl (packG_low ..)

theorem Sys2Proof.Laws.FirstBit.aor : ∀ x0 x1 x2 x3 x4, Sys2Proof.Laws.FirstBit.Statement (.aor x0 x1 x2 x3 x4) :=
  fun _ _ _ _ _ => of_word rfl (packG_low ..)

theorem Sys2Proof.Laws.FirstBit.axor : ∀ x0 x1 x2 x3 x4, Sys2Proof.Laws.FirstBit.Statement (.axor x0 x1 x2 x3 x4) :=
  fun _ _ _ _ _ => of_word rfl (packG_low ..)

theorem Sys2Proof.Laws.FirstBit.aswp : ∀ x0 x1 x2 x3 x4, Sys2Proof.Laws.FirstBit.Statement (.aswp x0 x1 x2 x3 x4) :=
  fun _ _ _ _ _ => of_word rfl (packG_low ..)

theorem Sys2Proof.Laws.FirstBit.acas : ∀ x0 x1 x2 x3 x4, Sys2Proof.Laws.FirstBit.Statement (.acas x0 x1 x2 x3 x4) :=
  fun _ _ _ _ _ => of_word rfl (packG_low ..)

theorem Sys2Proof.Laws.FirstBit.ainc : ∀ x0 x1 x2 x3 x4, Sys2Proof.Laws.FirstBit.Statement (.ainc x0 x1 x2 x3 x4) :=
  fun _ _ _ _ _ => of_word rfl (packG_low ..)

theorem Sys2Proof.Laws.FirstBit.cpy : ∀ x0 x1 x2 x3 x4 x5 x6, Sys2Proof.Laws.FirstBit.Statement (.cpy x0 x1 x2 x3 x4 x5 x6) :=
  fun _ _ _ _ _ _ _ => of_long rfl (packG_low ..)

theorem Sys2Proof.Laws.FirstBit.cpys : ∀ x0 x1 x2 x3 x4 x5 x6, Sys2Proof.Laws.FirstBit.Statement (.cpys x0 x1 x2 x3 x4 x5 x6) :=
  fun _ _ _ _ _ _ _ => of_long rfl (packG_low ..)

theorem Sys2Proof.Laws.FirstBit.gath : ∀ x0 x1 x2 x3 x4 x5 x6, Sys2Proof.Laws.FirstBit.Statement (.gath x0 x1 x2 x3 x4 x5 x6) :=
  fun _ _ _ _ _ _ _ => of_long rfl (packG_low ..)

theorem Sys2Proof.Laws.FirstBit.scat : ∀ x0 x1 x2 x3 x4 x5 x6, Sys2Proof.Laws.FirstBit.Statement (.scat x0 x1 x2 x3 x4 x5 x6) :=
  fun _ _ _ _ _ _ _ => of_long rfl (packG_low ..)

theorem Sys2Proof.Laws.FirstBit.fill : ∀ x0 x1 x2 x3 x4 x5 x6, Sys2Proof.Laws.FirstBit.Statement (.fill x0 x1 x2 x3 x4 x5 x6) :=
  fun _ _ _ _ _ _ _ => of_long rfl (packG_low ..)

theorem Sys2Proof.Laws.FirstBit.red : ∀ x0 x1 x2 x3 x4 x5 x6, Sys2Proof.Laws.FirstBit.Statement (.red x0 x1 x2 x3 x4 x5 x6) :=
  fun _ _ _ _ _ _ _ => of_long rfl (packG_low ..)

theorem Sys2Proof.Laws.FirstBit.ratm : ∀ x0 x1 x2 x3 x4 x5 x6 x7, Sys2Proof.Laws.FirstBit.Statement (.ratm x0 x1 x2 x3 x4 x5 x6 x7) :=
  fun _ _ _ _ _ _ _ _ => of_long rfl (packG_low ..)

theorem Sys2Proof.Laws.FirstBit.bsig : ∀ x0 x1 x2 x3, Sys2Proof.Laws.FirstBit.Statement (.bsig x0 x1 x2 x3) :=
  fun _ _ _ _ => of_long rfl (packG_low ..)

theorem Sys2Proof.Laws.FirstBit.rinv : ∀ x0 x1 x2 x3 x4, Sys2Proof.Laws.FirstBit.Statement (.rinv x0 x1 x2 x3 x4) :=
  fun _ _ _ _ _ => of_long rfl (packG_low ..)

theorem Sys2Proof.Laws.FirstBit.wqryQuery : ∀ x0 x1 x2 x3 x4, Sys2Proof.Laws.FirstBit.Statement (.wqryQuery x0 x1 x2 x3 x4) :=
  fun _ _ _ _ _ => of_long rfl (packG_low ..)

theorem Sys2Proof.Laws.FirstBit.wqryExtend : ∀ x0 x1 x2 x3 x4, Sys2Proof.Laws.FirstBit.Statement (.wqryExtend x0 x1 x2 x3 x4) :=
  fun _ _ _ _ _ => of_long rfl (packG_low ..)

theorem Sys2Proof.Laws.FirstBit.br : ∀ x0 x1 x2 x3, Sys2Proof.Laws.FirstBit.Statement (.br x0 x1 x2 x3) :=
  fun _ _ _ _ => of_word rfl (packB_low ..)

theorem Sys2Proof.Laws.FirstBit.brl : ∀ x0 x1 x2 x3, Sys2Proof.Laws.FirstBit.Statement (.brl x0 x1 x2 x3) :=
  fun _ _ _ _ => of_word rfl (packB_low ..)

theorem Sys2Proof.Laws.FirstBit.loop : ∀ x0 x1, Sys2Proof.Laws.FirstBit.Statement (.loop x0 x1) :=
  fun _ _ => of_word rfl (packI_low ..)

theorem Sys2Proof.Laws.FirstBit.nop : Sys2Proof.Laws.FirstBit.Statement .nop :=
  of_word rfl (packT_low ..)

theorem Sys2Proof.Laws.FirstBit.endFiring : Sys2Proof.Laws.FirstBit.Statement .endFiring :=
  of_word rfl (packT_low ..)

theorem Sys2Proof.Laws.FirstBit.trig : Sys2Proof.Laws.FirstBit.Statement .trig :=
  of_word rfl (packT_low ..)

theorem Sys2Proof.Laws.FirstBit.halt : Sys2Proof.Laws.FirstBit.Statement .halt :=
  of_word rfl (packT_low ..)

theorem Sys2Proof.Laws.FirstBit.yld : Sys2Proof.Laws.FirstBit.Statement .yld :=
  of_word rfl (packT_low ..)

theorem Sys2Proof.Laws.FirstBit.wfe : Sys2Proof.Laws.FirstBit.Statement .wfe :=
  of_word rfl (packT_low ..)

theorem Sys2Proof.Laws.FirstBit.sev : Sys2Proof.Laws.FirstBit.Statement .sev :=
  of_word rfl (packT_low ..)

theorem Sys2Proof.Laws.FirstBit.evclr : Sys2Proof.Laws.FirstBit.Statement .evclr :=
  of_word rfl (packT_low ..)

theorem Sys2Proof.Laws.FirstBit.algn : Sys2Proof.Laws.FirstBit.Statement .algn :=
  of_word rfl (packT_low ..)

theorem Sys2Proof.Laws.FirstBit.jr : ∀ x0 x1, Sys2Proof.Laws.FirstBit.Statement (.jr x0 x1) :=
  fun _ _ => of_word rfl (packT_low ..)

theorem Sys2Proof.Laws.FirstBit.jrl : ∀ x0 x1, Sys2Proof.Laws.FirstBit.Statement (.jrl x0 x1) :=
  fun _ _ => of_word rfl (packT_low ..)

theorem Sys2Proof.Laws.FirstBit.ret : Sys2Proof.Laws.FirstBit.Statement .ret :=
  of_word rfl (packT_low ..)

theorem Sys2Proof.Laws.FirstBit.bcst : ∀ x0 x1 x2, Sys2Proof.Laws.FirstBit.Statement (.bcst x0 x1 x2) :=
  fun _ _ _ => of_word rfl (packT_low ..)

theorem Sys2Proof.Laws.FirstBit.perm : ∀ x0 x1 x2 x3, Sys2Proof.Laws.FirstBit.Statement (.perm x0 x1 x2 x3) :=
  fun _ _ _ _ => of_word rfl (packT_low ..)

theorem Sys2Proof.Laws.FirstBit.shfl : ∀ x0 x1 x2 x3, Sys2Proof.Laws.FirstBit.Statement (.shfl x0 x1 x2 x3) :=
  fun _ _ _ _ => of_word rfl (packT_low ..)

theorem Sys2Proof.Laws.FirstBit.slide : ∀ x0 x1 x2 x3, Sys2Proof.Laws.FirstBit.Statement (.slide x0 x1 x2 x3) :=
  fun _ _ _ _ => of_word rfl (packT_low ..)

theorem Sys2Proof.Laws.FirstBit.zip : ∀ x0 x1 x2 x3, Sys2Proof.Laws.FirstBit.Statement (.zip x0 x1 x2 x3) :=
  fun _ _ _ _ => of_word rfl (packT_low ..)

theorem Sys2Proof.Laws.FirstBit.unzp : ∀ x0 x1 x2 x3, Sys2Proof.Laws.FirstBit.Statement (.unzp x0 x1 x2 x3) :=
  fun _ _ _ _ => of_word rfl (packT_low ..)

theorem Sys2Proof.Laws.FirstBit.cmpr : ∀ x0 x1 x2, Sys2Proof.Laws.FirstBit.Statement (.cmpr x0 x1 x2) :=
  fun _ _ _ => of_word rfl (packT_low ..)

theorem Sys2Proof.Laws.FirstBit.expd : ∀ x0 x1 x2, Sys2Proof.Laws.FirstBit.Statement (.expd x0 x1 x2) :=
  fun _ _ _ => of_word rfl (packT_low ..)

theorem Sys2Proof.Laws.FirstBit.redadd : ∀ x0 x1 x2, Sys2Proof.Laws.FirstBit.Statement (.redadd x0 x1 x2) :=
  fun _ _ _ => of_word rfl (packT_low ..)

theorem Sys2Proof.Laws.FirstBit.redmax : ∀ x0 x1 x2, Sys2Proof.Laws.FirstBit.Statement (.redmax x0 x1 x2) :=
  fun _ _ _ => of_word rfl (packT_low ..)

theorem Sys2Proof.Laws.FirstBit.redmin : ∀ x0 x1 x2, Sys2Proof.Laws.FirstBit.Statement (.redmin x0 x1 x2) :=
  fun _ _ _ => of_word rfl (packT_low ..)

theorem Sys2Proof.Laws.FirstBit.scan : ∀ x0 x1 x2, Sys2Proof.Laws.FirstBit.Statement (.scan x0 x1 x2) :=
  fun _ _ _ => of_word rfl (packT_low ..)

theorem Sys2Proof.Laws.FirstBit.dot4 : ∀ x0 x1 x2 x3, Sys2Proof.Laws.FirstBit.Statement (.dot4 x0 x1 x2 x3) :=
  fun _ _ _ _ => of_word rfl (packT_low ..)

theorem Sys2Proof.Laws.FirstBit.dot2 : ∀ x0 x1 x2 x3, Sys2Proof.Laws.FirstBit.Statement (.dot2 x0 x1 x2 x3) :=
  fun _ _ _ _ => of_word rfl (packT_low ..)

theorem Sys2Proof.Laws.FirstBit.view : ∀ x0 x1 x2 x3, Sys2Proof.Laws.FirstBit.Statement (.view x0 x1 x2 x3) :=
  fun _ _ _ _ => of_word rfl (packT_low ..)

theorem Sys2Proof.Laws.FirstBit.vget : ∀ x0 x1 x2, Sys2Proof.Laws.FirstBit.Statement (.vget x0 x1 x2) :=
  fun _ _ _ => of_word rfl (packT_low ..)

theorem Sys2Proof.Laws.FirstBit.vset : ∀ x0 x1 x2, Sys2Proof.Laws.FirstBit.Statement (.vset x0 x1 x2) :=
  fun _ _ _ => of_word rfl (packT_low ..)

theorem Sys2Proof.Laws.FirstBit.rfil : ∀ x0 x1 x2, Sys2Proof.Laws.FirstBit.Statement (.rfil x0 x1 x2) :=
  fun _ _ _ => of_word rfl (packT_low ..)

theorem Sys2Proof.Laws.FirstBit.repx : Sys2Proof.Laws.FirstBit.Statement .repx :=
  of_word rfl (packT_low ..)

theorem Sys2Proof.Laws.FirstBit.advr : ∀ x0 x1, Sys2Proof.Laws.FirstBit.Statement (.advr x0 x1) :=
  fun _ _ => of_word rfl (packI_low ..)

theorem Sys2Proof.Laws.FirstBit.advw : ∀ x0 x1, Sys2Proof.Laws.FirstBit.Statement (.advw x0 x1) :=
  fun _ _ => of_word rfl (packI_low ..)

theorem Sys2Proof.Laws.FirstBit.repb : ∀ x0 x1 x2, Sys2Proof.Laws.FirstBit.Statement (.repb x0 x1 x2) :=
  fun _ _ _ => of_word rfl (packI_low ..)

theorem Sys2Proof.Laws.FirstBit.ld : ∀ x0 x1 x2 x3 x4, Sys2Proof.Laws.FirstBit.Statement (.ld x0 x1 x2 x3 x4) :=
  fun _ _ _ _ _ => of_word rfl (packT_low ..)

theorem Sys2Proof.Laws.FirstBit.lds : ∀ x0 x1 x2 x3 x4, Sys2Proof.Laws.FirstBit.Statement (.lds x0 x1 x2 x3 x4) :=
  fun _ _ _ _ _ => of_word rfl (packT_low ..)

theorem Sys2Proof.Laws.FirstBit.fenceC : Sys2Proof.Laws.FirstBit.Statement .fenceC :=
  of_word rfl (packT_low ..)

theorem Sys2Proof.Laws.FirstBit.fenceD : Sys2Proof.Laws.FirstBit.Statement .fenceD :=
  of_word rfl (packT_low ..)

theorem Sys2Proof.Laws.FirstBit.fenceP : Sys2Proof.Laws.FirstBit.Statement .fenceP :=
  of_word rfl (packT_low ..)

theorem Sys2Proof.Laws.FirstBit.fenceF : Sys2Proof.Laws.FirstBit.Statement .fenceF :=
  of_word rfl (packT_low ..)

theorem Sys2Proof.Laws.FirstBit.bind : ∀ x0 x1 x2, Sys2Proof.Laws.FirstBit.Statement (.bind x0 x1 x2) :=
  fun _ _ _ => of_word rfl (packT_low ..)

theorem Sys2Proof.Laws.FirstBit.unbd : ∀ x0 x1 x2, Sys2Proof.Laws.FirstBit.Statement (.unbd x0 x1 x2) :=
  fun _ _ _ => of_word rfl (packT_low ..)

theorem Sys2Proof.Laws.FirstBit.acq : ∀ x0 x1, Sys2Proof.Laws.FirstBit.Statement (.acq x0 x1) :=
  fun _ _ => of_word rfl (packT_low ..)

theorem Sys2Proof.Laws.FirstBit.rel : ∀ x0 x1, Sys2Proof.Laws.FirstBit.Statement (.rel x0 x1) :=
  fun _ _ => of_word rfl (packT_low ..)

theorem Sys2Proof.Laws.FirstBit.trya : ∀ x0 x1 x2, Sys2Proof.Laws.FirstBit.Statement (.trya x0 x1 x2) :=
  fun _ _ _ => of_word rfl (packT_low ..)

theorem Sys2Proof.Laws.FirstBit.bar : ∀ x0 x1, Sys2Proof.Laws.FirstBit.Statement (.bar x0 x1) :=
  fun _ _ => of_word rfl (packT_low ..)

theorem Sys2Proof.Laws.FirstBit.bara : ∀ x0 x1, Sys2Proof.Laws.FirstBit.Statement (.bara x0 x1) :=
  fun _ _ => of_word rfl (packT_low ..)

theorem Sys2Proof.Laws.FirstBit.barw : ∀ x0 x1, Sys2Proof.Laws.FirstBit.Statement (.barw x0 x1) :=
  fun _ _ => of_word rfl (packT_low ..)

theorem Sys2Proof.Laws.FirstBit.semp : ∀ x0 x1 x2, Sys2Proof.Laws.FirstBit.Statement (.semp x0 x1 x2) :=
  fun _ _ _ => of_word rfl (packT_low ..)

theorem Sys2Proof.Laws.FirstBit.semw : ∀ x0 x1 x2, Sys2Proof.Laws.FirstBit.Statement (.semw x0 x1 x2) :=
  fun _ _ _ => of_word rfl (packT_low ..)

theorem Sys2Proof.Laws.FirstBit.objq : ∀ x0 x1 x2, Sys2Proof.Laws.FirstBit.Statement (.objq x0 x1 x2) :=
  fun _ _ _ => of_word rfl (packT_low ..)

theorem Sys2Proof.Laws.FirstBit.send : ∀ x0 x1 x2 x3, Sys2Proof.Laws.FirstBit.Statement (.send x0 x1 x2 x3) :=
  fun _ _ _ _ => of_word rfl (packT_low ..)

theorem Sys2Proof.Laws.FirstBit.sendi : ∀ x0 x1 x2 x3, Sys2Proof.Laws.FirstBit.Statement (.sendi x0 x1 x2 x3) :=
  fun _ _ _ _ => of_word rfl (packT_low ..)

theorem Sys2Proof.Laws.FirstBit.msgq : ∀ x0 x1 x2, Sys2Proof.Laws.FirstBit.Statement (.msgq x0 x1 x2) :=
  fun _ _ _ => of_word rfl (packT_low ..)

theorem Sys2Proof.Laws.FirstBit.ceq : ∀ x0 x1 x2, Sys2Proof.Laws.FirstBit.Statement (.ceq x0 x1 x2) :=
  fun _ _ _ => of_word rfl (packT_low ..)

theorem Sys2Proof.Laws.FirstBit.fld : ∀ x0 x1 x2 x3 x4, Sys2Proof.Laws.FirstBit.Statement (.fld x0 x1 x2 x3 x4) :=
  fun _ _ _ _ _ => of_word rfl (packT_low ..)

theorem Sys2Proof.Laws.FirstBit.fst : ∀ x0 x1 x2 x3 x4, Sys2Proof.Laws.FirstBit.Statement (.fst x0 x1 x2 x3 x4) :=
  fun _ _ _ _ _ => of_word rfl (packT_low ..)

theorem Sys2Proof.Laws.FirstBit.fatmAdd : ∀ x0 x1 x2 x3, Sys2Proof.Laws.FirstBit.Statement (.fatmAdd x0 x1 x2 x3) :=
  fun _ _ _ _ => of_word rfl (packT_low ..)

theorem Sys2Proof.Laws.FirstBit.fatmMin : ∀ x0 x1 x2 x3, Sys2Proof.Laws.FirstBit.Statement (.fatmMin x0 x1 x2 x3) :=
  fun _ _ _ _ => of_word rfl (packT_low ..)

theorem Sys2Proof.Laws.FirstBit.fatmMax : ∀ x0 x1 x2 x3, Sys2Proof.Laws.FirstBit.Statement (.fatmMax x0 x1 x2 x3) :=
  fun _ _ _ _ => of_word rfl (packT_low ..)

theorem Sys2Proof.Laws.FirstBit.fatmAnd : ∀ x0 x1 x2 x3, Sys2Proof.Laws.FirstBit.Statement (.fatmAnd x0 x1 x2 x3) :=
  fun _ _ _ _ => of_word rfl (packT_low ..)

theorem Sys2Proof.Laws.FirstBit.fatmOr : ∀ x0 x1 x2 x3, Sys2Proof.Laws.FirstBit.Statement (.fatmOr x0 x1 x2 x3) :=
  fun _ _ _ _ => of_word rfl (packT_low ..)

theorem Sys2Proof.Laws.FirstBit.fatmXor : ∀ x0 x1 x2 x3, Sys2Proof.Laws.FirstBit.Statement (.fatmXor x0 x1 x2 x3) :=
  fun _ _ _ _ => of_word rfl (packT_low ..)

theorem Sys2Proof.Laws.FirstBit.fatmSwp : ∀ x0 x1 x2 x3, Sys2Proof.Laws.FirstBit.Statement (.fatmSwp x0 x1 x2 x3) :=
  fun _ _ _ _ => of_word rfl (packT_low ..)

theorem Sys2Proof.Laws.FirstBit.fatmCas : ∀ x0 x1 x2 x3, Sys2Proof.Laws.FirstBit.Statement (.fatmCas x0 x1 x2 x3) :=
  fun _ _ _ _ => of_word rfl (packT_low ..)

theorem Sys2Proof.Laws.FirstBit.fatmInc : ∀ x0 x1 x2 x3, Sys2Proof.Laws.FirstBit.Statement (.fatmInc x0 x1 x2 x3) :=
  fun _ _ _ _ => of_word rfl (packT_low ..)

theorem Sys2Proof.Laws.FirstBit.fxm : ∀ x0 x1 x2 x3, Sys2Proof.Laws.FirstBit.Statement (.fxm x0 x1 x2 x3) :=
  fun _ _ _ _ => of_word rfl (packT_low ..)

theorem Sys2Proof.Laws.FirstBit.fmrk : ∀ x0 x1, Sys2Proof.Laws.FirstBit.Statement (.fmrk x0 x1) :=
  fun _ _ => of_word rfl (packT_low ..)

theorem Sys2Proof.Laws.FirstBit.cend : ∀ x0 x1, Sys2Proof.Laws.FirstBit.Statement (.cend x0 x1) :=
  fun _ _ => of_word rfl (packT_low ..)

theorem Sys2Proof.Laws.FirstBit.mlw : ∀ x0 x1 x2, Sys2Proof.Laws.FirstBit.Statement (.mlw x0 x1 x2) :=
  fun _ _ _ => of_word rfl (packT_low ..)

theorem Sys2Proof.Laws.FirstBit.mlwC : ∀ x0 x1 x2, Sys2Proof.Laws.FirstBit.Statement (.mlwC x0 x1 x2) :=
  fun _ _ _ => of_word rfl (packT_low ..)

theorem Sys2Proof.Laws.FirstBit.mfmt : ∀ x0 x1, Sys2Proof.Laws.FirstBit.Statement (.mfmt x0 x1) :=
  fun _ _ => of_word rfl (packT_low ..)

theorem Sys2Proof.Laws.FirstBit.mma : ∀ x0 x1 x2, Sys2Proof.Laws.FirstBit.Statement (.mma x0 x1 x2) :=
  fun _ _ _ => of_word rfl (packT_low ..)

theorem Sys2Proof.Laws.FirstBit.msc : ∀ x0 x1 x2, Sys2Proof.Laws.FirstBit.Statement (.msc x0 x1 x2) :=
  fun _ _ _ => of_word rfl (packT_low ..)

theorem Sys2Proof.Laws.FirstBit.mdr : ∀ x0 x1, Sys2Proof.Laws.FirstBit.Statement (.mdr x0 x1) :=
  fun _ _ => of_word rfl (packT_low ..)

theorem Sys2Proof.Laws.FirstBit.mdrZ : ∀ x0 x1, Sys2Proof.Laws.FirstBit.Statement (.mdrZ x0 x1) :=
  fun _ _ => of_word rfl (packT_low ..)

theorem Sys2Proof.Laws.FirstBit.mdrp : ∀ x0 x1 x2 x3, Sys2Proof.Laws.FirstBit.Statement (.mdrp x0 x1 x2 x3) :=
  fun _ _ _ _ => of_word rfl (packT_low ..)

theorem Sys2Proof.Laws.FirstBit.mclr : ∀ x0 x1, Sys2Proof.Laws.FirstBit.Statement (.mclr x0 x1) :=
  fun _ _ => of_word rfl (packT_low ..)

theorem Sys2Proof.Laws.FirstBit.msta : ∀ x0 x1, Sys2Proof.Laws.FirstBit.Statement (.msta x0 x1) :=
  fun _ _ => of_word rfl (packT_low ..)

theorem Sys2Proof.Laws.FirstBit.cmps : ∀ x0, Sys2Proof.Laws.FirstBit.Statement (.cmps x0) :=
  fun _ => of_word rfl (packT_low ..)

theorem Sys2Proof.Laws.FirstBit.dcmp : Sys2Proof.Laws.FirstBit.Statement .dcmp :=
  of_word rfl (packT_low ..)

theorem Sys2Proof.Laws.FirstBit.cmpq : ∀ x0 x1, Sys2Proof.Laws.FirstBit.Statement (.cmpq x0 x1) :=
  fun _ _ => of_word rfl (packT_low ..)

theorem Sys2Proof.Laws.FirstBit.trap : ∀ x0 x1, Sys2Proof.Laws.FirstBit.Statement (.trap x0 x1) :=
  fun _ _ => of_word rfl (packT_low ..)

theorem Sys2Proof.Laws.FirstBit.sys : ∀ x0 x1, Sys2Proof.Laws.FirstBit.Statement (.sys x0 x1) :=
  fun _ _ => of_word rfl (packT_low ..)

theorem Sys2Proof.Laws.FirstBit.eret : Sys2Proof.Laws.FirstBit.Statement .eret :=
  of_word rfl (packT_low ..)

theorem Sys2Proof.Laws.FirstBit.svs : ∀ x0 x1, Sys2Proof.Laws.FirstBit.Statement (.svs x0 x1) :=
  fun _ _ => of_word rfl (packT_low ..)

theorem Sys2Proof.Laws.FirstBit.rss : ∀ x0 x1, Sys2Proof.Laws.FirstBit.Statement (.rss x0 x1) :=
  fun _ _ => of_word rfl (packT_low ..)

theorem Sys2Proof.Laws.FirstBit.ts : ∀ x0 x1, Sys2Proof.Laws.FirstBit.Statement (.ts x0 x1) :=
  fun _ _ => of_word rfl (packT_low ..)

theorem Sys2Proof.Laws.FirstBit.pmc : ∀ x0 x1 x2, Sys2Proof.Laws.FirstBit.Statement (.pmc x0 x1 x2) :=
  fun _ _ _ => of_word rfl (packT_low ..)

theorem Sys2Proof.Laws.FirstBit.bist : ∀ x0 x1 x2, Sys2Proof.Laws.FirstBit.Statement (.bist x0 x1 x2) :=
  fun _ _ _ => of_word rfl (packT_low ..)

theorem Sys2Proof.Laws.FirstBit.sigq : ∀ x0 x1 x2, Sys2Proof.Laws.FirstBit.Statement (.sigq x0 x1 x2) :=
  fun _ _ _ => of_word rfl (packT_low ..)

theorem Sys2Proof.Laws.FirstBit.ckpt : Sys2Proof.Laws.FirstBit.Statement .ckpt :=
  of_word rfl (packT_low ..)

theorem Sys2Proof.Laws.FirstBit.idle : Sys2Proof.Laws.FirstBit.Statement .idle :=
  of_word rfl (packT_low ..)

theorem Sys2Proof.Laws.FirstBit.rds : ∀ x0 x1, Sys2Proof.Laws.FirstBit.Statement (.rds x0 x1) :=
  fun _ _ => of_word rfl (packI_low ..)

theorem Sys2Proof.Laws.FirstBit.wrs : ∀ x0 x1, Sys2Proof.Laws.FirstBit.Statement (.wrs x0 x1) :=
  fun _ _ => of_word rfl (packI_low ..)

theorem Sys2Proof.Laws.FirstBit.nopH : ∀ x0 x1, Sys2Proof.Laws.FirstBit.Statement (.nopH x0 x1) :=
  fun _ _ => of_word rfl (hint_low ..)

theorem Sys2Proof.Laws.FirstBit.rsPwrWrite : ∀ x0 x1, Sys2Proof.Laws.FirstBit.Statement (.rsPwrWrite x0 x1) :=
  fun _ _ => trivial

theorem Sys2Proof.Laws.FirstBit.mxTeamWrite : ∀ x0 x1 x2, Sys2Proof.Laws.FirstBit.Statement (.mxTeamWrite x0 x1 x2) :=
  fun _ _ _ => trivial

theorem Sys2Proof.Laws.FirstBit.mgVWrite : ∀ x0 x1 x2, Sys2Proof.Laws.FirstBit.Statement (.mgVWrite x0 x1 x2) :=
  fun _ _ _ => trivial

theorem Sys2Proof.Laws.FirstBit.registerWrite : ∀ x0 x1 x2 x3, Sys2Proof.Laws.FirstBit.Statement (.registerWrite x0 x1 x2 x3) :=
  fun _ _ _ _ => trivial

theorem Sys2Proof.Laws.FirstBit.dispatch : ∀ x0 x1, Sys2Proof.Laws.FirstBit.Statement (.dispatch x0 x1) :=
  fun _ _ => trivial

theorem Sys2Proof.Laws.FirstBit.messageArrival : ∀ x0, Sys2Proof.Laws.FirstBit.Statement (.messageArrival x0) :=
  fun _ => trivial

theorem Sys2Proof.Laws.FirstBit.tokenLanding : ∀ x0, Sys2Proof.Laws.FirstBit.Statement (.tokenLanding x0) :=
  fun _ => trivial

theorem Sys2Proof.Laws.FirstBit.remoteLoadReply : ∀ x0, Sys2Proof.Laws.FirstBit.Statement (.remoteLoadReply x0) :=
  fun _ => trivial

theorem Sys2Proof.Laws.FirstBit.nearRequest : ∀ x0, Sys2Proof.Laws.FirstBit.Statement (.nearRequest x0) :=
  fun _ => trivial

theorem Sys2Proof.Laws.FirstBit.remoteAtomic : ∀ x0, Sys2Proof.Laws.FirstBit.Statement (.remoteAtomic x0) :=
  fun _ => trivial

theorem Sys2Proof.Laws.FirstBit.objectOperation : ∀ x0, Sys2Proof.Laws.FirstBit.Statement (.objectOperation x0) :=
  fun _ => trivial

theorem Sys2Proof.Laws.FirstBit.withholdNotice : ∀ x0, Sys2Proof.Laws.FirstBit.Statement (.withholdNotice x0) :=
  fun _ => trivial

theorem Sys2Proof.Laws.FirstBit.keeperPost : ∀ x0, Sys2Proof.Laws.FirstBit.Statement (.keeperPost x0) :=
  fun _ => trivial

theorem Sys2Proof.Laws.FirstBit.keeperSumRow : ∀ x0, Sys2Proof.Laws.FirstBit.Statement (.keeperSumRow x0) :=
  fun _ => trivial

theorem Sys2Proof.Laws.FirstBit.clOpRow : ∀ x0, Sys2Proof.Laws.FirstBit.Statement (.clOpRow x0) :=
  fun _ => trivial

theorem Sys2Proof.Laws.FirstBit.mdrpAdd : ∀ x0, Sys2Proof.Laws.FirstBit.Statement (.mdrpAdd x0) :=
  fun _ => trivial

theorem Sys2Proof.Laws.FirstBit.engineCommandStart : ∀ x0, Sys2Proof.Laws.FirstBit.Statement (.engineCommandStart x0) :=
  fun _ => trivial

theorem Sys2Proof.Laws.FirstBit.translationWalk : ∀ x0 x1 x2 x3, Sys2Proof.Laws.FirstBit.Statement (.translationWalk x0 x1 x2 x3) :=
  fun _ _ _ _ => trivial

theorem Sys2Proof.Laws.FirstBit.flushMarker : ∀ x0 x1 x2 x3 x4, Sys2Proof.Laws.FirstBit.Statement (.flushMarker x0 x1 x2 x3 x4) :=
  fun _ _ _ _ _ => trivial

theorem Sys2Proof.Laws.FirstBit.fabricRequest : ∀ x0 x1 x2 x3, Sys2Proof.Laws.FirstBit.Statement (.fabricRequest x0 x1 x2 x3) :=
  fun _ _ _ _ => trivial

theorem Sys2Proof.Laws.FirstBit.fabricReply : ∀ x0 x1 x2, Sys2Proof.Laws.FirstBit.Statement (.fabricReply x0 x1 x2) :=
  fun _ _ _ => trivial

theorem Sys2Proof.Laws.FirstBit.lossNotice : ∀ x0 x1 x2, Sys2Proof.Laws.FirstBit.Statement (.lossNotice x0 x1 x2) :=
  fun _ _ _ => trivial

theorem Sys2Proof.Laws.FirstBit.requesterTimeOut : ∀ x0 x1, Sys2Proof.Laws.FirstBit.Statement (.requesterTimeOut x0 x1) :=
  fun _ _ => trivial

theorem Sys2Proof.Laws.FirstBit.tagHoldExpiry : ∀ x0 x1, Sys2Proof.Laws.FirstBit.Statement (.tagHoldExpiry x0 x1) :=
  fun _ _ => trivial

theorem Sys2Proof.Laws.FirstBit.flitDiscard : ∀ x0, Sys2Proof.Laws.FirstBit.Statement (.flitDiscard x0) :=
  fun _ => trivial

theorem Sys2Proof.Laws.FirstBit.linkErrorRateChange : ∀ x0 x1 x2, Sys2Proof.Laws.FirstBit.Statement (.linkErrorRateChange x0 x1 x2) :=
  fun _ _ _ => trivial

theorem Sys2Proof.Laws.FirstBit.trapMessage : ∀ x0, Sys2Proof.Laws.FirstBit.Statement (.trapMessage x0) :=
  fun _ => trivial

theorem Sys2Proof.Laws.FirstBit.dependentLaunchStart : ∀ x0, Sys2Proof.Laws.FirstBit.Statement (.dependentLaunchStart x0) :=
  fun _ => trivial

theorem Sys2Proof.Laws.FirstBit.composeGrant : ∀ x0, Sys2Proof.Laws.FirstBit.Statement (.composeGrant x0) :=
  fun _ => trivial

theorem Sys2Proof.Laws.FirstBit.preemption : ∀ x0 x1, Sys2Proof.Laws.FirstBit.Statement (.preemption x0 x1) :=
  fun _ _ => trivial

theorem Sys2Proof.Laws.FirstBit.resume : ∀ x0 x1, Sys2Proof.Laws.FirstBit.Statement (.resume x0 x1) :=
  fun _ _ => trivial

theorem Sys2Proof.Laws.FirstBit.rollback : ∀ x0 x1, Sys2Proof.Laws.FirstBit.Statement (.rollback x0 x1) :=
  fun _ _ => trivial

theorem Sys2Proof.Laws.FirstBit.timeSliceExpiry : ∀ x0 x1, Sys2Proof.Laws.FirstBit.Statement (.timeSliceExpiry x0 x1) :=
  fun _ _ => trivial

theorem Sys2Proof.Laws.FirstBit.waitTimeOut : ∀ x0 x1, Sys2Proof.Laws.FirstBit.Statement (.waitTimeOut x0 x1) :=
  fun _ _ => trivial

theorem Sys2Proof.Laws.FirstBit.composeWaitBound : ∀ x0, Sys2Proof.Laws.FirstBit.Statement (.composeWaitBound x0) :=
  fun _ => trivial

theorem Sys2Proof.Laws.FirstBit.algnHoldExpiry : ∀ x0 x1, Sys2Proof.Laws.FirstBit.Statement (.algnHoldExpiry x0 x1) :=
  fun _ _ => trivial

theorem Sys2Proof.Laws.FirstBit.deadlineMiss : ∀ x0 x1, Sys2Proof.Laws.FirstBit.Statement (.deadlineMiss x0 x1) :=
  fun _ _ => trivial

theorem Sys2Proof.Laws.FirstBit.watchdogTrip : ∀ x0, Sys2Proof.Laws.FirstBit.Statement (.watchdogTrip x0) :=
  fun _ => trivial

theorem Sys2Proof.Laws.FirstBit.benchRemap : ∀ x0, Sys2Proof.Laws.FirstBit.Statement (.benchRemap x0) :=
  fun _ => trivial

theorem Sys2Proof.Laws.FirstBit.windowZeroed : ∀ x0 x1, Sys2Proof.Laws.FirstBit.Statement (.windowZeroed x0 x1) :=
  fun _ _ => trivial

theorem Sys2Proof.Laws.FirstBit.bankReady : ∀ x0 x1, Sys2Proof.Laws.FirstBit.Statement (.bankReady x0 x1) :=
  fun _ _ => trivial

theorem Sys2Proof.Laws.FirstBit.retentionWake : ∀ x0 x1, Sys2Proof.Laws.FirstBit.Statement (.retentionWake x0 x1) :=
  fun _ _ => trivial

theorem Sys2Proof.Laws.FirstBit.bindComplete : ∀ x0 x1, Sys2Proof.Laws.FirstBit.Statement (.bindComplete x0 x1) :=
  fun _ _ => trivial

theorem Sys2Proof.Laws.FirstBit.umpireCheck : ∀ x0 x1 x2 x3, Sys2Proof.Laws.FirstBit.Statement (.umpireCheck x0 x1 x2 x3) :=
  fun _ _ _ _ => trivial

theorem Sys2Proof.Laws.FirstBit.bistComplete : ∀ x0 x1 x2, Sys2Proof.Laws.FirstBit.Statement (.bistComplete x0 x1 x2) :=
  fun _ _ _ => trivial

theorem Sys2Proof.Laws.FirstBit.railSettled : ∀ x0 x1, Sys2Proof.Laws.FirstBit.Statement (.railSettled x0 x1) :=
  fun _ _ => trivial

theorem Sys2Proof.Laws.FirstBit.setRotation : ∀ x0, Sys2Proof.Laws.FirstBit.Statement (.setRotation x0) :=
  fun _ => trivial

theorem Sys2Proof.Laws.FirstBit.pcSample : ∀ x0 x1, Sys2Proof.Laws.FirstBit.Statement (.pcSample x0 x1) :=
  fun _ _ => trivial

theorem Sys2Proof.Laws.FirstBit.temperatureUpdate : ∀ x0 x1, Sys2Proof.Laws.FirstBit.Statement (.temperatureUpdate x0 x1) :=
  fun _ _ => trivial

theorem Sys2Proof.Laws.FirstBit.snapshotTrigger : Sys2Proof.Laws.FirstBit.Statement .snapshotTrigger :=
  trivial

theorem Sys2Proof.Laws.FirstBit.loopbackStart : ∀ x0 x1, Sys2Proof.Laws.FirstBit.Statement (.loopbackStart x0 x1) :=
  fun _ _ => trivial

theorem Sys2Proof.Laws.FirstBit.planeOut : ∀ x0 x1, Sys2Proof.Laws.FirstBit.Statement (.planeOut x0 x1) :=
  fun _ _ => trivial

theorem Sys2Proof.Laws.FirstBit.loopbackDone : ∀ x0 x1, Sys2Proof.Laws.FirstBit.Statement (.loopbackDone x0 x1) :=
  fun _ _ => trivial

theorem Sys2Proof.Laws.FirstBit.bindRecordWrite : ∀ x0 x1 x2, Sys2Proof.Laws.FirstBit.Statement (.bindRecordWrite x0 x1 x2) :=
  fun _ _ _ => trivial

theorem Sys2Proof.Laws.FirstBit.preemptionRequest : ∀ x0 x1, Sys2Proof.Laws.FirstBit.Statement (.preemptionRequest x0 x1) :=
  fun _ _ => trivial

theorem Sys2Proof.Laws.FirstBit.fenceWrite : ∀ x0, Sys2Proof.Laws.FirstBit.Statement (.fenceWrite x0) :=
  fun _ => trivial

theorem Sys2Proof.Laws.FirstBit.inboxWrite : ∀ x0 x1 x2, Sys2Proof.Laws.FirstBit.Statement (.inboxWrite x0 x1 x2) :=
  fun _ _ _ => trivial

theorem Sys2Proof.Laws.FirstBit.statusFree : ∀ x0 x1, Sys2Proof.Laws.FirstBit.Statement (.statusFree x0 x1) :=
  fun _ _ => trivial

theorem Sys2Proof.Laws.FirstBit.create : ∀ x0 x1 x2 x3 x4 x5 x6 x7 x8 x9 x10 x11, Sys2Proof.Laws.FirstBit.Statement (.create x0 x1 x2 x3 x4 x5 x6 x7 x8 x9 x10 x11) :=
  fun _ _ _ _ _ _ _ _ _ _ _ _ => trivial

theorem Sys2Proof.Laws.FirstBit.loadImage : ∀ x0 x1 x2 x3 x4, Sys2Proof.Laws.FirstBit.Statement (.loadImage x0 x1 x2 x3 x4) :=
  fun _ _ _ _ _ => trivial

theorem Sys2Proof.Laws.FirstBit.report : ∀ x0 x1 x2 x3, Sys2Proof.Laws.FirstBit.Statement (.report x0 x1 x2 x3) :=
  fun _ _ _ _ => trivial

theorem Sys2Proof.Laws.FirstBit.destroy : ∀ x0 x1, Sys2Proof.Laws.FirstBit.Statement (.destroy x0 x1) :=
  fun _ _ => trivial

theorem Sys2Proof.Laws.FirstBit.invalidate : ∀ x0 x1 x2 x3, Sys2Proof.Laws.FirstBit.Statement (.invalidate x0 x1 x2 x3) :=
  fun _ _ _ _ => trivial

theorem Sys2Proof.Laws.FirstBit.fabricRegisterRead : ∀ x0 x1, Sys2Proof.Laws.FirstBit.Statement (.fabricRegisterRead x0 x1) :=
  fun _ _ => trivial

theorem Sys2Proof.Laws.FirstBit.fabricRegisterWrite : ∀ x0 x1 x2, Sys2Proof.Laws.FirstBit.Statement (.fabricRegisterWrite x0 x1 x2) :=
  fun _ _ _ => trivial

theorem Sys2Proof.Laws.FirstBit.peerTableWrite : ∀ x0 x1 x2 x3 x4, Sys2Proof.Laws.FirstBit.Statement (.peerTableWrite x0 x1 x2 x3 x4) :=
  fun _ _ _ _ _ => trivial

theorem Sys2Proof.Laws.FirstBit.debugHalt : ∀ x0 x1 x2 x3, Sys2Proof.Laws.FirstBit.Statement (.debugHalt x0 x1 x2 x3) :=
  fun _ _ _ _ => trivial

theorem Sys2Proof.Laws.FirstBit.debugRelease : ∀ x0 x1 x2 x3, Sys2Proof.Laws.FirstBit.Statement (.debugRelease x0 x1 x2 x3) :=
  fun _ _ _ _ => trivial

theorem Sys2Proof.Laws.FirstBit.readState : ∀ x0 x1 x2 x3 x4, Sys2Proof.Laws.FirstBit.Statement (.readState x0 x1 x2 x3 x4) :=
  fun _ _ _ _ _ => trivial

theorem Sys2Proof.Laws.FirstBit.writeState : ∀ x0 x1 x2 x3 x4 x5, Sys2Proof.Laws.FirstBit.Statement (.writeState x0 x1 x2 x3 x4 x5) :=
  fun _ _ _ _ _ _ => trivial

theorem Sys2Proof.Laws.FirstBit.traceControl : ∀ x0 x1 x2, Sys2Proof.Laws.FirstBit.Statement (.traceControl x0 x1 x2) :=
  fun _ _ _ => trivial

theorem Sys2Proof.Laws.FirstBit.watchpoint : ∀ x0 x1 x2 x3 x4 x5 x6, Sys2Proof.Laws.FirstBit.Statement (.watchpoint x0 x1 x2 x3 x4 x5 x6) :=
  fun _ _ _ _ _ _ _ => trivial

theorem Sys2Proof.Laws.FirstBit.snapshotArm : ∀ x0 x1, Sys2Proof.Laws.FirstBit.Statement (.snapshotArm x0 x1) :=
  fun _ _ => trivial

theorem Sys2Proof.Laws.FirstBit.snapshotRead : ∀ x0 x1 x2, Sys2Proof.Laws.FirstBit.Statement (.snapshotRead x0 x1 x2) :=
  fun _ _ _ => trivial

theorem Sys2Proof.Laws.FirstBit.errorLogRead : ∀ x0 x1, Sys2Proof.Laws.FirstBit.Statement (.errorLogRead x0 x1) :=
  fun _ _ => trivial

theorem Sys2Proof.Laws.FirstBit.defectMapRead : ∀ x0, Sys2Proof.Laws.FirstBit.Statement (.defectMapRead x0) :=
  fun _ => trivial

theorem Sys2Proof.Laws.FirstBit.reliabilityRegisterRead : ∀ x0 x1 x2, Sys2Proof.Laws.FirstBit.Statement (.reliabilityRegisterRead x0 x1 x2) :=
  fun _ _ _ => trivial

theorem Sys2Proof.Laws.FirstBit.reliabilityRegisterWrite : ∀ x0 x1 x2 x3, Sys2Proof.Laws.FirstBit.Statement (.reliabilityRegisterWrite x0 x1 x2 x3) :=
  fun _ _ _ _ => trivial

theorem Sys2Proof.Laws.FirstBit.sysRelease : ∀ x0, Sys2Proof.Laws.FirstBit.Statement (.sysRelease x0) :=
  fun _ => trivial

theorem Sys2Proof.Laws.FirstBit.sysPost : ∀ x0, Sys2Proof.Laws.FirstBit.Statement (.sysPost x0) :=
  fun _ => trivial

theorem Sys2Proof.Laws.FirstBit.hostMemoryRead : ∀ x0 x1 x2, Sys2Proof.Laws.FirstBit.Statement (.hostMemoryRead x0 x1 x2) :=
  fun _ _ _ => trivial

theorem Sys2Proof.Laws.FirstBit.hostMemoryWrite : ∀ x0 x1 x2 x3, Sys2Proof.Laws.FirstBit.Statement (.hostMemoryWrite x0 x1 x2 x3) :=
  fun _ _ _ _ => trivial

theorem Sys2Proof.Laws.FirstBit.cxlViral : Sys2Proof.Laws.FirstBit.Statement .cxlViral :=
  trivial

theorem Sys2Proof.Laws.FirstBit.powerCap : ∀ x0, Sys2Proof.Laws.FirstBit.Statement (.powerCap x0) :=
  fun _ => trivial

theorem Sys2Proof.Laws.FirstBit.reset : Sys2Proof.Laws.FirstBit.Statement .reset :=
  trivial

theorem Sys2Proof.Laws.FirstBit.messageInjection : ∀ x0, Sys2Proof.Laws.FirstBit.Statement (.messageInjection x0) :=
  fun _ => trivial

theorem Sys2Proof.Laws.FirstBit.clearingNotice : ∀ x0, Sys2Proof.Laws.FirstBit.Statement (.clearingNotice x0) :=
  fun _ => trivial

theorem Sys2Proof.Laws.FirstBit.peerTableHandshake : ∀ x0 x1 x2 x3, Sys2Proof.Laws.FirstBit.Statement (.peerTableHandshake x0 x1 x2 x3) :=
  fun _ _ _ _ => trivial
end

