-- ==== Sys2Proof/Tests/Slice0.lean ====
section
/-!
SUPPORT. The model's own tests: the checks of `WellFormed`, a word of every instruction, witnesses that meet the hypotheses of the
statements, and single steps whose results the spec gives.
-/

namespace Sys2Proof.Tests

open Sys2Proof.Machine Sys2Proof.Claims

set_option Elab.async false

/-! ## WellFormed refuses, by name -/

theorem test_wf_zero_halfword : (Instr.movShort false 0 0).wfError = some .zeroHalfword := by decide
theorem test_wf_handle_56 : (Instr.add 0 2 56 1).wfError = some .reservedHandle := by decide
theorem test_wf_handle_55 : (Instr.add 0 2 55 1).WellFormed := by decide
theorem test_wf_guard_destination_7 : (Instr.gand 1 2 7).wfError = some .reservedGuard := by decide
theorem test_wf_guard_source_8 : (Instr.gnot 8 1).wfError = some .reservedGuard := by decide
theorem test_wf_advance_of_0 : (Instr.advr 0 1).wfError = some .reservedCount := by decide
theorem test_wf_advance_of_257 : (Instr.advw 257 1).wfError = some .reservedCount := by decide
theorem test_wf_repeat_of_9 : (Instr.repb 1 1 8).wfError = some .reservedRepeat := by decide
theorem test_wf_stagger_of_48 : (Instr.repb 48 1 7).wfError = some .reservedRepeat := by decide
theorem test_wf_special_number : (Instr.rds 0x043 1).wfError = some .reservedNumber := by decide
theorem test_wf_spawn_literal : (Instr.spwn 1 2 3 0x1000000).wfError = some .reservedLiteral := by decide
theorem test_wf_copy_option_4 : (Instr.cpy 1 2 3 4 false 7 4).wfError = some .reservedOption := by decide
theorem test_wf_fill_option_2 : (Instr.fill 1 2 3 4 false 7 2).wfError = some .reservedOption := by decide
theorem test_wf_red_type_0 : (Instr.red 1 2 3 4 false 7 0).wfError = some .reservedOption := by decide
theorem test_wf_ratm_and_of_f32 : (Instr.ratm 0 2 3 4 5 false 7 0x38).wfError = some .reservedOption := by decide
theorem test_wf_ratm_compare_field : (Instr.ratm 1 2 3 4 5 false 7 0x06).wfError = some .reservedWord := by decide
theorem test_wf_event_core : (Instr.dispatch 12288 0).wfError = some .eventRange := by decide
theorem test_wf_event_slot : (Instr.resume 12287 4).wfError = some .eventRange := by decide

/-- R209: a word whose unused field is not zero, one of a reserved minor and one of a reserved major decode to nothing. -/
theorem test_decode_reserved_words :
    decodeTableWord 32 0x5208_4083 = none ∧ decodeTableWord 32 0xFA00_4083 = none ∧ decodeTableWord 32 0x0000_0051 = none ∧
    decodeTableWord 16 0 = none := by decide +kernel

/-! ## Small states -/

/-- R54: a descriptor of a base, type, shape and elements per row. -/
def dsc (base : Nat) (ty : Ty) (shape len : Nat) : BitVec 128 :=
  BitVec.ofNat 128 ((mkDesc ty.code shape len 0).toNat + base)

/-- R54: a ring of n32 words: a base, slots and fill. -/
def dscRing (base cnt fill : Nat) : BitVec 128 :=
  BitVec.ofNat 128 ((mkDesc 6 0 1 1).toNat + base + (cnt - 1) * 2 ^ 95 + fill * 2 ^ 119)

/-- The views of the small state: words h0 to h2, a 64-bit word h3, four and two raw words h4 and h5, sixteen words h6 and h7, one row of an
f32 and an i32 accumulator h8 and h9, a ring h10 of four slots with two filled, four words h11, sixteen bytes h12, eight
halfwords h13, an i32 word h14, an f32 word h15, a ring of raw words h16, and an i8 tile h17 of sixteen rows of four. -/
def views : List (Nat × BitVec 128) :=
  [(0, dsc 0 .n32 0 1), (1, dsc 4 .n32 0 1), (2, dsc 8 .n32 0 1), (3, dsc 16 .n64 0 1), (4, dsc 32 .b 1 4), (5, dsc 48 .b 1 2),
   (6, dsc 64 .n32 1 16), (7, dsc 128 .n32 1 16), (8, dsc 256 .f32 3 16), (9, dsc 320 .i32 3 16), (10, dscRing 384 4 2),
   (11, dsc 448 .n32 1 4), (12, dsc 512 .n8 1 16), (13, dsc 544 .n16 1 8), (14, dsc 576 .i32 0 1), (15, dsc 580 .f32 0 1),
   (16, dscRing 640 4 2 ||| BitVec.ofNat 128 (15 * 2 ^ 44)), (17, dsc 1024 .i8 2 4 ||| BitVec.ofNat 128 (15 * 2 ^ 72 + 64 * 2 ^ 52))]

/-- A firing in slot 0 of core 0 with these views; h1 holds 5, h2 holds 3. -/
def one : State :=
  (((State.reset.withFetchWord 32 0).updCur fun x => { x with views := views }).winPut ⟨0, 0, 4⟩ (toLe 4 5)).winPut ⟨0, 0, 8⟩ (toLe 4 3)

/-- As `one`, h1 holding v. -/
def oneAt (v : Nat) : State := one.winPut ⟨0, 0, 4⟩ (toLe 4 v)

/-- As `one`, with another slot. -/
def oneWith (f : Slot → Slot) : State := one.updCur f

/-- As `one`, of a firing of a system slot (R317). -/
def sysOne : State := oneWith fun x => { x with bind := x.bind ||| BitVec.ofNat 256 (2 ^ 254) }

theorem all_ok {l : List LOut} (h : (l.all fun r => match r with | .ok _ => true | _ => false) = true) :
    ∀ r ∈ l, ∃ v, r = .ok v := by
  intro r hr
  have := List.all_eq_true.mp h r hr
  revert this
  cases r <;> simp

def isOk {α β : Type} (x : Except α β) : Bool := match x with | .ok _ => true | .error _ => false
theorem except_ok {α β : Type} {x : Except α β} (h : isOk x = true) : ∃ c, x = .ok c := by
  cases x with
  | ok c => exact ⟨c, rfl⟩
  | error e => simp [isOk] at h

/-- An empty message, a place for a token, a launch with a trigger, and an engine command of slot 0 of core 0. -/
def msg0 : Msg := ⟨0, [], 0, 0, 0, 0⟩
def ret0 : Ret := ⟨0, 0, 0, 1, ⟨0, 0, 0⟩, 4⟩
def launch0 : Launch := ⟨1, 0, 0, true, false, none, 0, none, [], none, msg0, none, false, [], 0, 0, 0, [], false, false⟩
def cmd0 : Cmd := ⟨0, 0, 0, 0, 0, 0, 0, 0, 0, 0, 0, none, ret0, []⟩

theorem sent_ok {x : Sent} (h : (match x with | .ok _ => true | _ => false) = true) : ∃ u, x = .ok u := by
  cases x with
  | ok u => exact ⟨u, rfl⟩
  | wait => simp at h
  | fail s v => simp at h

/-! ## Decoding: one word of every instruction, its operands written into the fields of the spec's encoding tables -/

/-- Every word of a list of (bits, word, instruction) decodes to its instruction. -/
def reads (l : List (Nat × Nat × Instr)) : Bool := l.all fun p => decide (decodeTableWord p.1 p.2.1 = some p.2.2)

theorem test_decode_short_forms : reads [
    (16, 0x8C20, .movShort true 3 1), (16, 0x8C22, .addShort true 3 1), (16, 0x8C24, .subShort true 3 1),
    (16, 0x8C26, .rsubShort true 3 1), (16, 0x8C28, .mulShort true 3 1), (16, 0x8C2A, .minShort true 3 1),
    (16, 0x8C2C, .maxShort true 3 1), (16, 0x8C2E, .andShort true 3 1), (16, 0x8C30, .orShort true 3 1),
    (16, 0x8C32, .xorShort true 3 1), (16, 0x8C34, .andnShort true 3 1), (16, 0x8C36, .shlShort true 3 1),
    (16, 0x8C38, .shrShort true 3 1), (16, 0x8C3A, .sarShort true 3 1), (16, 0x8C3C, .negShort true 3 1),
    (16, 0x8C3E, .absShort true 3 1)] = true := by decide +kernel

theorem test_decode_integer_arithmetic_a : reads [
    (32, 0x0200_4083, .mov 1 2 1), (32, 0x0A18_4083, .add 1 3 2 1), (32, 0x1218_4083, .sub 1 3 2 1),
    (32, 0x1A18_4083, .rsub 1 3 2 1), (32, 0x2218_4083, .mul 1 3 2 1), (32, 0x2A18_4083, .mulh 1 3 2 1),
    (32, 0x3218_4083, .div 1 3 2 1), (32, 0x3A18_4083, .rem 1 3 2 1), (32, 0x4218_4083, .min 1 3 2 1),
    (32, 0x4A18_4083, .max 1 3 2 1), (32, 0x5200_4083, .abs 1 2 1), (32, 0x5A00_4083, .neg 1 2 1),
    (32, 0x6218_4083, .clamp 1 3 2 1), (32, 0x6A18_4083, .abd 1 3 2 1), (32, 0x7218_4083, .avg 1 3 2 1),
    (32, 0x7A18_4083, .adds 1 3 2 1)] = true := by decide +kernel

theorem test_decode_integer_arithmetic_b : reads [
    (32, 0x8218_4083, .subs 1 3 2 1), (32, 0x8A18_4083, .and 1 3 2 1), (32, 0x9218_4083, .or 1 3 2 1),
    (32, 0x9A18_4083, .xor 1 3 2 1), (32, 0xA218_4083, .andn 1 3 2 1), (32, 0xAA00_4083, .not 1 2 1),
    (32, 0xB218_4083, .shl 1 3 2 1), (32, 0xBA18_4083, .shr 1 3 2 1), (32, 0xC218_4083, .sar 1 3 2 1),
    (32, 0xCA18_4083, .rol 1 3 2 1), (32, 0xD218_4083, .ror 1 3 2 1), (32, 0xDA00_4083, .clz 1 2 1),
    (32, 0xE200_4083, .ctz 1 2 1), (32, 0xEA00_4083, .popc 1 2 1), (32, 0xF200_4083, .brev 1 2 1)] = true := by decide +kernel

theorem test_decode_bit_fields_and_floats_a : reads [
    (32, 0x0218_4085, .bfx 1 3 2 1), (32, 0x0A18_4085, .bfi 1 3 2 1), (32, 0x1218_4085, .sxt 1 3 2 1),
    (32, 0x1A18_4085, .zxt 1 3 2 1), (32, 0x2200_4085, .cvt 1 2 1), (32, 0x2A18_4085, .cvts 1 3 2 1),
    (32, 0x3200_4085, .rcp 1 2 1), (32, 0x3A00_4085, .rsq 1 2 1), (32, 0x4200_4085, .sqrt 1 2 1),
    (32, 0x4A00_4085, .exp2 1 2 1), (32, 0x5200_4085, .log2 1 2 1), (32, 0x5A00_4085, .floor 1 2 1),
    (32, 0x6200_4085, .ceil 1 2 1), (32, 0x6A00_4085, .rndn 1 2 1), (32, 0x0818_4087, .fma 4 3 2 1),
    (32, 0x8818_4087, .fnma 4 3 2 1)] = true := by decide +kernel

theorem test_decode_bit_fields_and_floats_b : reads [
    (32, 0x0818_4089, .fms 4 3 2 1), (32, 0x8818_4089, .fnms 4 3 2 1)] = true := by decide +kernel

theorem test_decode_immediates_and_literals : reads [
    (32, 0x0038_408B, .addi 7 2 1), (32, 0x0038_408D, .andi 7 2 1), (32, 0x0038_408F, .ori 7 2 1),
    (32, 0x0038_4091, .xori 7 2 1), (32, 0x0038_4093, .shli 7 2 1), (32, 0x0038_4095, .shri 7 2 1),
    (32, 0x0038_4097, .sari 7 2 1), (32, 0x0038_0099, .movi 7 1), (32, 0x0218_409D, .lea 1 3 2 1),
    (32, 0x0A18_409D, .adda 1 3 2 1), (32, 0x1200_409D, .lcore 1 2 1)] = true := by decide +kernel

theorem test_decode_compares_and_guards : reads [
    (32, 0x2218_409F, .cmp 4 1 3 2 1), (32, 0x6218_409F, .cmpm 4 1 3 2 1), (32, 0x8018_409F, .gand 3 2 1),
    (32, 0x8818_409F, .gor 3 2 1), (32, 0x9018_409F, .gxor 3 2 1), (32, 0x9800_409F, .gnot 2 1),
    (32, 0xA200_409F, .gmov 1 2 1), (32, 0x0184_0D23, .sel 3 2 1 true 2), (32, 0x2184_0D23, .selm 3 2 1 true 2)] = true := by decide +kernel

theorem test_decode_stores_and_atomics : reads [
    (32, 0x4184_3521, .st 2 3 2 6 true 2), (32, 0xA184_3521, .sts true 3 2 6 true 2), (32, 0x0184_0D25, .aadd 3 2 1 true 2),
    (32, 0x2184_0D25, .amin 3 2 1 true 2), (32, 0x4184_0D25, .amax 3 2 1 true 2), (32, 0x6184_0D25, .aand 3 2 1 true 2),
    (32, 0x8184_0D25, .aor 3 2 1 true 2), (32, 0xA184_0D25, .axor 3 2 1 true 2), (32, 0xC184_0D25, .aswp 3 2 1 true 2),
    (32, 0xE184_0D25, .acas 3 2 1 true 2), (32, 0x0184_0D27, .ainc 3 2 1 true 2)] = true := by decide +kernel

theorem test_decode_branches_and_control : reads [
    (32, 0x0000_6D2D, .br 6 true true 2), (32, 0x0000_6D2F, .brl 6 true true 2), (32, 0x0038_00B1, .loop 7 1),
    (32, 0x0000_0033, .nop), (32, 0x0800_0033, .endFiring), (32, 0x1000_0033, .trig), (32, 0x1800_0033, .halt),
    (32, 0x2000_0033, .yld), (32, 0x2800_0033, .wfe), (32, 0x3000_0033, .sev), (32, 0x3800_0033, .evclr),
    (32, 0x4000_0033, .algn), (32, 0x4A00_4033, .jr 1 2), (32, 0x5200_4033, .jrl 1 2), (32, 0x5800_0033, .ret)] = true := by decide +kernel

theorem test_decode_lanes_and_views_a : reads [
    (32, 0x0200_40B5, .bcst 1 2 1), (32, 0x0A18_40B5, .perm 1 3 2 1), (32, 0x1218_40B5, .shfl 1 3 2 1),
    (32, 0x1A18_40B5, .slide 1 3 2 1), (32, 0x2218_40B5, .zip 1 3 2 1), (32, 0x2A18_40B5, .unzp 1 3 2 1),
    (32, 0x3200_40B5, .cmpr 1 2 1), (32, 0x3A00_40B5, .expd 1 2 1), (32, 0x4200_40B5, .redadd 1 2 1),
    (32, 0x4A00_40B5, .redmax 1 2 1), (32, 0x5200_40B5, .redmin 1 2 1), (32, 0x5A00_40B5, .scan 1 2 1),
    (32, 0x6218_40B5, .dot4 1 3 2 1), (32, 0x6A18_40B5, .dot2 1 3 2 1), (32, 0x0218_40B7, .view 1 3 2 1),
    (32, 0x0A00_40B7, .vget 1 2 1)] = true := by decide +kernel

theorem test_decode_lanes_and_views_b : reads [
    (32, 0x1200_40B7, .vset 1 2 1), (32, 0x1A00_40B7, .rfil 1 2 1), (32, 0x2000_0037, .repx), (32, 0x0008_00B9, .advr 1 1),
    (32, 0x0008_00BB, .advw 1 1), (32, 0x0018_80BD, .repb 3 4 1)] = true := by decide +kernel

theorem test_decode_loads_fences_objects_a : reads [
    (32, 0x1230_40BF, .ld 2 1 6 2 1), (32, 0x2A30_40BF, .lds true 1 6 2 1), (32, 0x3000_003F, .fenceC),
    (32, 0x3800_003F, .fenceD), (32, 0x4000_003F, .fenceP), (32, 0x4800_003F, .fenceF), (32, 0x0218_4041, .bind 1 3 2),
    (32, 0x0A18_4041, .unbd 1 3 2), (32, 0x1200_4041, .acq 1 2), (32, 0x1A00_4041, .rel 1 2),
    (32, 0x2200_40C1, .trya 1 2 1), (32, 0x2A00_4041, .bar 1 2), (32, 0x3200_4041, .bara 1 2), (32, 0x3A00_4041, .barw 1 2),
    (32, 0x4218_4041, .semp 1 3 2), (32, 0x4A18_4041, .semw 1 3 2)] = true := by decide +kernel

theorem test_decode_loads_fences_objects_b : reads [
    (32, 0x5200_40C1, .objq 1 2 1)] = true := by decide +kernel

theorem test_decode_messages_and_engine_profile_a : reads [
    (32, 0x0218_40C3, .send 1 3 2 1), (32, 0x0A18_40C3, .sendi 1 3 2 1), (32, 0x1200_40C3, .msgq 1 2 1),
    (32, 0x1A00_40C3, .ceq 1 2 1), (32, 0x1230_40C5, .fld 2 1 6 2 1), (32, 0x3218_4345, .fst 2 1 3 2 6),
    (32, 0x4218_40C5, .fatmAdd 1 3 2 1), (32, 0x4A18_40C5, .fatmMin 1 3 2 1), (32, 0x5218_40C5, .fatmMax 1 3 2 1),
    (32, 0x5A18_40C5, .fatmAnd 1 3 2 1), (32, 0x6218_40C5, .fatmOr 1 3 2 1), (32, 0x6A18_40C5, .fatmXor 1 3 2 1),
    (32, 0x7218_40C5, .fatmSwp 1 3 2 1), (32, 0x7A18_40C5, .fatmCas 1 3 2 1), (32, 0x8218_40C5, .fatmInc 1 3 2 1),
    (32, 0x8A18_40C5, .fxm 1 3 2 1)] = true := by decide +kernel

theorem test_decode_messages_and_engine_profile_b : reads [
    (32, 0x9200_4045, .fmrk 1 2), (32, 0x9A00_4045, .cend 1 2)] = true := by decide +kernel

theorem test_decode_matrix_and_compose : reads [
    (32, 0x0218_4047, .mlw 1 3 2), (32, 0x0A18_4047, .mlwC 1 3 2), (32, 0x1200_4047, .mfmt 1 2),
    (32, 0x1A00_40C7, .mma 1 2 1), (32, 0x2218_4047, .msc 1 3 2), (32, 0x2A00_4047, .mdr 1 2), (32, 0x3200_4047, .mdrZ 1 2),
    (32, 0x3A18_40C7, .mdrp 1 3 2 1), (32, 0x4200_00C7, .mclr 1 1), (32, 0x4A00_00C7, .msta 1 1),
    (32, 0x0200_0049, .cmps 1), (32, 0x0800_0049, .dcmp), (32, 0x1200_00C9, .cmpq 1 1)] = true := by decide +kernel

theorem test_decode_system : reads [
    (32, 0x0200_404B, .trap 1 2), (32, 0x0A00_404B, .sys 1 2), (32, 0x1000_004B, .eret), (32, 0x1A00_404B, .svs 1 2),
    (32, 0x2200_404B, .rss 1 2), (32, 0x2A00_00CB, .ts 1 1), (32, 0x3200_40CB, .pmc 1 2 1), (32, 0x3A00_40CB, .bist 1 2 1),
    (32, 0x4200_40CB, .sigq 1 2 1), (32, 0x4800_004B, .ckpt), (32, 0x5000_004B, .idle), (32, 0x0080_00CD, .rds 16 1),
    (32, 0x0080_404F, .wrs 16 2), (32, 0xE800_04FF, .nopH 5 9)] = true := by decide +kernel
/-! ## Witnesses: arithmetic, lanes, views, repetitions -/

/-- A source, a three-source form of a core, a short form with its advance, a select and a near address meet `FormReady`. -/
theorem wit_add : form one (.add 0 2 1 0) = some ⟨false, 0, 0, [.hnd 1, .hnd 2], semAdd, {}⟩ ∧
    FormReady one ⟨false, 0, 0, [.hnd 1, .hnd 2], semAdd, {}⟩ :=
  ⟨rfl, by decide +kernel, by decide, by decide +kernel, by decide +kernel, by decide +kernel, by decide, by decide, by decide,
    all_ok (by decide +kernel)⟩
theorem wit_fma : ∃ f, form one (.fma 15 15 15 15) = some f ∧ f.core = true ∧ FormReady one f :=
  ⟨_, rfl, rfl, by decide +kernel, by decide +kernel, by decide +kernel, by decide +kernel, by decide +kernel, by decide, by decide,
    by decide, all_ok (by decide +kernel)⟩
theorem wit_short_advance : ∃ f, form one (.addShort true 10 0) = some f ∧ f.x.adv.isSome = true ∧ FormReady one f :=
  ⟨_, rfl, rfl, by decide +kernel, by decide +kernel, by decide +kernel, by decide +kernel, by decide +kernel, by decide, by decide,
    by decide +kernel, all_ok (by decide +kernel)⟩
theorem wit_select : ∃ f, form one (.sel 2 1 0 false 7) = some f ∧ FormReady one f :=
  ⟨_, rfl, by decide +kernel, by decide +kernel, by decide +kernel, by decide +kernel, by decide +kernel, by decide, by decide +kernel,
    by decide +kernel, all_ok (by decide +kernel)⟩
theorem wit_near : ∃ f, form one (.near 0 0x17FFF) = some f ∧ FormReady one f :=
  ⟨_, rfl, by decide +kernel, by decide +kernel, by decide +kernel, by decide +kernel, by decide +kernel, by decide +kernel, by decide +kernel,
    by decide +kernel, all_ok (by decide +kernel)⟩
theorem wit_integer_results :
    (arithTy 0 [.hnd 1, .hnd 2] one).isInt = true ∧ one.cur.runs = true ∧
    (∀ q ∈ arithAccs 0 0 [.hnd 1, .hnd 2] {} one, q.ready one = true) ∧
    mismatch .any .none (arithTy 0 [.hnd 1, .hnd 2] one) (one.view 0) [one.view 1, one.view 2] = [] ∧
    noTrap (arithOpnd 0 0 [.hnd 1, .hnd 2] {} one) = true := by decide +kernel
theorem wit_integer_fit : Ty.i8.isInt = true ∧ Ty.i8.minInt ≤ (127 : Int) ∧ (127 : Int) ≤ Ty.i8.maxInt ∧ Ty.i8.maxInt < (128 : Int) ∧
    (-129 : Int) < Ty.i8.minInt := by decide +kernel
/-- R99, R231: a float form, its sixteen-bit and its special operands; R229: a shift. -/
theorem wit_float_results : ∃ f r, form one (.fma 15 15 15 15) = some f ∧ floatRule (.fma 15 15 15 15) = some r ∧
    (arithTy f.d f.srcs one).isFloat = true ∧ FormReady one f :=
  ⟨_, _, rfl, rfl, by decide +kernel, by decide +kernel, by decide +kernel, by decide +kernel, by decide +kernel, by decide +kernel, by decide,
    by decide, by decide, all_ok (by decide +kernel)⟩
theorem wit_float_operands : (∀ t ∈ fiveFloats, finCode t t.maxFin) ∧ isFin (Ty.f32.num 0x7F800000) = false ∧ (3 : Nat) < 4 := by
  unfold finCode
  decide +kernel
theorem wit_bit_results : ∃ f r, form one (.shl 0 2 1 0) = some f ∧ bitRule (.shl 0 2 1 0) = some r ∧
    (arithTy f.d f.srcs one).isInt = true ∧ FormReady one f :=
  ⟨_, _, rfl, rfl, by decide +kernel, by decide +kernel, by decide, by decide +kernel, by decide +kernel, by decide +kernel, by decide, by decide,
    by decide, all_ok (by decide +kernel)⟩
/-- R200, R204: a short form and `ADDI` on integers; R109, R228, R233: a move, a conversion of the f32 h15 to an integer, and a literal. -/
theorem wit_short_integer : ∃ f g, form one (.subShort false 1 0) = some f ∧ shortInt (.subShort false 1 0) = some g ∧
    (arithTy f.d f.srcs one).isInt = true ∧ FormReady one f :=
  ⟨_, _, rfl, rfl, by decide +kernel, by decide +kernel, by decide, by decide +kernel, by decide +kernel, by decide +kernel, by decide, by decide,
    by decide, all_ok (by decide +kernel)⟩
theorem wit_addi : ∃ f g, form one (.addi (-1) 1 0) = some f ∧ shortInt (.addi (-1) 1 0) = some g ∧
    (arithTy f.d f.srcs one).isInt = true ∧ FormReady one f :=
  ⟨_, _, rfl, rfl, by decide +kernel, by decide +kernel, by decide, by decide +kernel, by decide +kernel, by decide +kernel, by decide, by decide,
    by decide, all_ok (by decide +kernel)⟩
theorem wit_conversion : ∃ f r, form one (.cvt 0 15 0) = some f ∧ moveRule one (.cvt 0 15 0) = some r ∧ FormReady one f :=
  ⟨_, _, rfl, rfl, by decide +kernel, by decide, by decide +kernel, by decide +kernel, by decide +kernel, by decide, by decide, by decide,
    all_ok (by decide +kernel)⟩
theorem wit_scaled_conversion : ∃ f r, form one (.cvts 0 1 15 0) = some f ∧ moveRule one (.cvts 0 1 15 0) = some r ∧ FormReady one f :=
  ⟨_, _, rfl, rfl, by decide +kernel, by decide, by decide +kernel, by decide +kernel, by decide +kernel, by decide, by decide, by decide,
    all_ok (by decide +kernel)⟩
theorem wit_literal : ∃ f r, form one (.li 0 0xFFFFFFFF) = some f ∧ moveRule one (.li 0 0xFFFFFFFF) = some r ∧ FormReady one f :=
  ⟨_, _, rfl, rfl, by decide +kernel, by decide, by decide +kernel, by decide +kernel, by decide +kernel, by decide, by decide, by decide,
    all_ok (by decide +kernel)⟩
/-- R279: a restartable firing that reads a reply which has landed. -/
theorem wit_reply_commits : (let s := oneWith fun x => { x with restart := true, rpl := [{ msg0 with words := [5] }] }
    ∃ f, form s (.mov 0 49 0) = some f ∧ FormReady (s.updCur fun x => { x with restart := false }) f ∧ s.cur.canCommit = true ∧
      ∃ q ∈ arithAccs f.o f.d f.srcs f.x s, q.v.h = 49 ∧ q.out = false) :=
  ⟨_, rfl, ⟨by decide +kernel, by decide, by decide +kernel, by decide +kernel, by decide +kernel, by decide, by decide, by decide,
    all_ok (by decide +kernel)⟩, by decide +kernel, by decide +kernel⟩

/-- R59, R200: the ring that a short form with its advance bit moves is a view of the slot. -/
theorem wit_advance_frame : (∃ f, form one (.addShort true 10 0) = some f ∧ f.x.adv = some 10) ∧ (one.view 10).entry = none ∧
    (one.view 10).fixed = false ∧ ∃ t, exec (.addShort true 10 0) one = .next t :=
  ⟨⟨_, rfl, rfl⟩, by decide +kernel, by decide +kernel, ⟨_, rfl⟩⟩
theorem wit_arithmetic_frame : ∃ t, exec (.add 0 2 1 0) one = .next t := ⟨_, rfl⟩

/-- R262: a slide of the sixteen words of h6 by h1 = 5 into h7. -/
theorem wit_lane_movement : moveForm (.slide 0 1 6 7) = some (0, 1, 6, 7, mvSlide) ∧ one.onCore ∧
    (∀ q ∈ moveAccs 0 1 6 7 mvSlide one, q.ready one = true) ∧ moveMism 1 6 7 mvSlide one = [] ∧
    noTrap (moveOpnd 0 1 6 7 mvSlide one) = true ∧ mvSlide.okB (moveIdx 1 mvSlide one) = true ∧
    ∀ r ∈ moveOuts 0 1 6 7 mvSlide one, ∃ v, r = .ok v :=
  ⟨rfl, ⟨by decide +kernel, by decide⟩, by decide +kernel, by decide +kernel, by decide +kernel, by decide +kernel,
    all_ok (by decide +kernel)⟩
theorem wit_reduction : reduceForm (.redadd 0 6 0) = some (0, 0, 6, 0, rdAdd) ∧ one.onCore ∧
    (∀ q ∈ reduceAccs 0 0 6 0 rdAdd one, q.ready one = true) ∧ reduceMism 0 6 0 rdAdd one = [] ∧
    noTrap (reduceOpnd 0 0 6 0 rdAdd one) = true := ⟨rfl, ⟨by decide +kernel, by decide⟩, by decide +kernel, by decide +kernel, by decide +kernel⟩
theorem wit_dot_product : reduceForm (.dot4 0 12 12 11) = some (0, 12, 12, 11, rdDot 4) ∧
    (∀ q ∈ reduceAccs 0 12 12 11 (rdDot 4) one, q.ready one = true) ∧ reduceMism 12 12 11 (rdDot 4) one = [] ∧
    noTrap (reduceOpnd 0 12 12 11 (rdDot 4) one) = true := ⟨rfl, by decide +kernel, by decide +kernel, by decide +kernel⟩
theorem wit_lane_picks : (15 : Nat) < 16 ∧ 15 < (List.replicate 16 (LVal.num .nan)).length := by decide
theorem wit_reduction_element : (3 : Int) ∈ [3, -1] := by decide

/-- R266: `VIEW h0, h6, h1`; R267: `VGET` and `VSET` of the sixteen bytes of h4, `RFIL` of the ring h10. -/
theorem wit_view : one.onCore ∧ (one.view 0).fixed = false ∧ (one.view 6).fixed = false ∧ (one.view 0).isPort = false ∧
    (one.view 6).isPort = false ∧
    ((one.view 1).h = 54 ∨ ((one.view 1).fixed = false ∧ (one.view 1).shape = 0 ∧ (one.view 1).ring = false ∧ idxOk (one.view 1) = true)) ∧
    (plain one 1 false 1).ready one = true ∧
    (0 : Int) ≤ (one.view 6).base + (plain one 1 false 1).int one ∧ (one.view 6).base + (plain one 1 false 1).int one ≤ (0x7FFF : Int) ∧
    one.viewPending (one.view 0) = false := ⟨⟨by decide +kernel, by decide⟩, by decide +kernel⟩
theorem wit_descriptor_moves : (one.view 4).is16 = true ∧ (one.view 4).fixed = false ∧ (one.view 6).fixed = false ∧
    (plain one 4 true 0).ready one = true ∧ (plain one 4 false 0).ready one = true ∧ (one.view 6).isPort = false ∧
    one.viewPending (one.view 6) = false ∧ one.fillOf (one.view 10) = some 2 ∧ (plain one 10 false 1).invalid one = false ∧
    (one.view 0).ty.isFloat = false ∧ (one.view 0).ring = false ∧ (one.view 0).shape < 2 ∧ (plain one 0 true 1).ready one = true := by
  decide +kernel
/-- R269: an advance of both filled slots, and of both free ones. -/
theorem wit_advances : AdvanceReady one (one.view 10) false 2 ∧ AdvanceReady one (one.view 10) true 2 := by
  constructor <;> constructor <;> first | exact ⟨by decide +kernel, by decide⟩ | decide +kernel
theorem wit_ring_moves : (one.view 10).ring = true ∧ (one.view 10).fixed = false ∧ dF (one.view 10).d 119 9 ≤ dF (one.view 10).d 95 8 + 1 ∧
    2 ≤ dF (one.view 10).d 119 9 ∧ 2 ≤ dF (one.view 10).d 95 8 + 1 - dF (one.view 10).d 119 9 := by decide +kernel

/-- R270, R271: the code of `repeated` is the `REPB` of one instruction, then `ADD h0, h1, h2`. -/
def repeated : State := one.setBytes (codeAddr 0 0) (leBytes 8 (0x0810_2003 * 2 ^ 32 + 0x0000_003D))
/-- R209: a reserved encoding in the body of a `REPB`. -/
theorem wit_repeat_reserved : (let s := one.setBytes (codeAddr 0 0) (leBytes 8 0x0000_003D); s.onCore ∧ (s.capture 1 2).resv = some 2) :=
  ⟨⟨by decide +kernel, by decide⟩, by decide +kernel⟩
theorem wit_repeat : repeated.onCore ∧ repeated.capture 1 ((repeated.cur.pc.toNat + 2) % 2 ^ 24) = ⟨[(.add 0 2 1 0, 2, 2)], false, false, none⟩ ∧
    staggerBad 1 0 [(.add 0 2 1 0, 2, 2)] = none ∧ repeated.cur.scrum = none := ⟨⟨by decide +kernel, by decide⟩, by decide +kernel⟩
/-- R142: a body that is one block of its own, after the `REPB` of a scrum. -/
theorem wit_repeat_in_scrum : (let s := (repeated.updCur fun x => { x with scrum := some ⟨2, 0, 64⟩ }).updCtx 0 fun c =>
      { c with image := some { bareImage with sigs := [BitVec.ofNat 64 (2 * 2 ^ 32), BitVec.ofNat 64 (2 * 2 ^ 40 + 2 * 2 ^ 32)] } }
    s.cur.scrum ≠ none ∧ s.bodyOneBlock 2 4 = true) := by decide +kernel
/-- R272, R274: a captured body of two instructions, in its first pass and its last. -/
def passes (k j : Nat) : State := oneWith fun x => { x with rep := some ⟨[(.nop, 2, 2), (.nop, 4, 2)], 2, 1, k, j, true, 6, false⟩ }
theorem wit_repeat_again : (passes 0 0).onCore ∧ ∃ r, (passes 0 0).cur.rep = some r := ⟨⟨by decide +kernel, by decide⟩, _, rfl⟩
theorem wit_passes : (∃ r, (passes 0 0).cur.rep = some r ∧ r.active = true ∧ r.j + 1 < r.body.length) ∧
    (∃ r, (passes 0 1).cur.rep = some r ∧ r.active = true ∧ r.body.length ≤ r.j + 1 ∧ r.k + 1 < r.count) ∧
    (∃ r, (passes 1 1).cur.rep = some r ∧ r.active = true ∧ r.body.length ≤ r.j + 1 ∧ r.count ≤ r.k + 1) :=
  ⟨⟨_, rfl, by decide⟩, ⟨_, rfl, by decide⟩, ⟨_, rfl, by decide⟩⟩

/-! ## Witnesses: guards, branches, control -/

theorem wit_compares : CompareReady one false 0 2 1 0 ∧ CompareReady one true 0 6 7 6 ∧ CompareReady one true 0 1 55 0 := by
  refine ⟨?_, ?_, ?_⟩ <;> constructor <;> decide +kernel
/-- R90: the bytes of h1 pending. -/
def pendingAt (held restart : Bool) : State :=
  oneWith fun x => { x with pend := [⟨9, ⟨0, 0, 4⟩, 4, held, false, false⟩], restart := restart }
theorem wit_compare_pending : CompareReady (pendingAt false false) false 0 2 1 0 ∧
    (∃ q ∈ [cmpA (pendingAt false false) false 0 2 1, cmpB (pendingAt false false) false 2 1], q.marks (pendingAt false false) ≠ []) ∧
    readsIn (pendingAt false false) [cmpA (pendingAt false false) false 0 2 1, cmpB (pendingAt false false) false 2 1] = pendingAt false false := by
  refine ⟨?_, by decide +kernel, by decide +kernel⟩
  constructor <;> decide +kernel
/-- R279: bytes that a held effect of a restartable firing fills: it commits first. -/
theorem wit_compare_commits : (let s := pendingAt true true
    let l := [cmpA s false 0 2 1, cmpB s false 2 1]
    CompareReady s false 0 2 1 0 ∧ readsMay s l ∧ s.cur.canCommit = true ∧ (l.any fun q => (q.marks s).any fun p => p.1 == s.curSlot && p.2.held) = true) := by
  refine ⟨?_, fun _ _ => by decide +kernel, by decide +kernel⟩
  constructor <;> decide +kernel
theorem wit_compare_free : readsMay one [cmpA one false 0 2 1, cmpB one false 2 1] ∧
    ∀ q ∈ [cmpA one false 0 2 1, cmpB one false 2 1], q.marks one = [] := ⟨fun h => absurd h (by decide +kernel), by decide +kernel⟩
/-- R90: guard 0 waits for mark 9 and guard 3 for mark 8 too, guard 1 for guard 0, guard 2 moves what mark 9 brings. -/
def guarding : Slot :=
  let q : GSrc := ⟨6, false, [5], ⟨0, 0, 4⟩, [9]⟩
  { Slot.reset with guards := [(0, ⟨0, some (.cmp 2 0 q { q with waits := [] })⟩), (1, ⟨0, some (.not (.idx 0))⟩), (2, ⟨0, some (.mov q)⟩),
    (3, ⟨0, some (.cmp 2 0 q { q with waits := [8] })⟩), (4, ⟨0, some (.and (.idx 0) (.val 3))⟩)] }
theorem wit_guards_resolve : (∃ a b, guarding.guard 0 = ⟨0, some (.cmp 2 0 a b)⟩ ∧ ∀ w ∈ a.waits ++ b.waits, w = 9) ∧
    guarding.guard 1 = ⟨0, some (.not (.idx 0))⟩ ∧ guarding.guard 4 = ⟨0, some (.and (.idx 0) (.val 3))⟩ ∧
    (∃ a, guarding.guard 2 = ⟨0, some (.mov a)⟩ ∧ ∀ w ∈ a.waits, w = 9) ∧
    ∃ a b, guarding.guard 3 = ⟨0, some (.cmp 2 0 a b)⟩ ∧ ∃ w ∈ a.waits ++ b.waits, w ≠ 9 :=
  ⟨⟨_, _, rfl, by decide⟩, rfl, rfl, ⟨_, rfl, by decide⟩, ⟨_, _, rfl, by decide⟩⟩
/-- R90, R91: guard 1 unresolved. -/
theorem wit_guard_unresolved : (let s := oneWith fun x => { x with guards := [(1, ⟨0, some (.not (.idx 2))⟩)] }
    s.cur.runs = true ∧ (s.cur.guard 0).src = none ∧ (s.cur.guard 1).src.isSome = true) ∧
    (plain (pendingAt false false) 1 false 1).readyButPending (pendingAt false false) = true ∧
    (plain (pendingAt false false) 1 false 1).marks (pendingAt false false) ≠ [] ∧ readsMay (pendingAt false false) [plain (pendingAt false false) 1 false 1] :=
  ⟨by decide +kernel, by decide +kernel, by decide +kernel, fun h => absurd h (by decide +kernel)⟩
theorem wit_compare_conditions : (cmpType Ty.i32 .n32).isFloat = false ∧ (cmpType Ty.f32 .f32).isFloat = true ∧
    Ty.f32.num 0x7FC00000 = .nan ∧ Ty.f32.num 0 ≠ .nan := by decide +kernel
theorem wit_guard_operations : one.cur.runs = true ∧ (one.cur.guard 0).src = none ∧ one.cur.guard 7 = ⟨0xFFFF, none⟩ ∧
    one.cur.guard 1 = ⟨0, none⟩ ∧ idxOk (one.view 1) = true ∧ (plain one 1 false 1).ready one = true ∧
    (offsets 0 (some (one.view 1)) none).bad = none := by decide +kernel
/-- R240: a branch that goes to the last halfword of the code, and one whose guard does not hold. -/
theorem wit_branches : one.cur.runs = true ∧ one.cur.guardOpen 7 = false ∧ one.cur.guardOn 7 false = true ∧
    canGo one (one.cur.pc.toNat + (3 : BitVec 20).toInt) ∧ one.cur.guardOn 7 true = false :=
  ⟨by decide +kernel, by decide +kernel, by decide +kernel, ⟨by decide +kernel, by decide +kernel, by decide +kernel⟩, by decide +kernel⟩
theorem wit_jumps : (⟨one.view 2, (offsets 0 (some (one.view 2)) none).src, false, 1⟩ : Acc).ready one = true ∧ idxOk (one.view 2) = true ∧
    (offsets 0 (some (one.view 2)) none).bad = none ∧ canGo one ((plain one 2 false 1).int one) ∧ canGo one one.cur.lnk.toNat :=
  ⟨by decide +kernel, by decide +kernel, by decide +kernel, ⟨by decide +kernel, by decide +kernel, by decide +kernel⟩,
    ⟨by decide +kernel, by decide +kernel, by decide +kernel⟩⟩
/-- R243: with 5 and with 1 in h1. -/
theorem wit_loop : (∀ s ∈ [oneAt 5, oneAt 1], s.cur.runs = true ∧ idxOk (s.view 1) = true ∧ (plain s 1 true 1).ready s = true ∧
      (plain s 1 false 1).ready s = true) ∧
    ((plain (oneAt 1) 1 false 1).elem (oneAt 1) 0 + 2 ^ 32 - 1) % 2 ^ 32 = 0 ∧
    ((plain (oneAt 5) 1 false 1).elem (oneAt 5) 0 + 2 ^ 32 - 1) % 2 ^ 32 ≠ 0 ∧ canGo (oneAt 5) ((oneAt 5).cur.pc.toNat + (3 : BitVec 13).toInt) :=
  ⟨by decide +kernel, by decide +kernel, by decide +kernel, by decide +kernel, by decide +kernel, by decide +kernel⟩
theorem wit_wait_for_event : (oneWith fun x => { x with ev := true, restart := false }).cur.ev = true ∧
    (oneWith fun x => { x with ev := true, restart := false }).cur.restart = false ∧
    (oneWith fun x => { x with ev := true, restart := true }).cur.canCommit = true ∧
    ((oneWith fun x => { x with ev := true, restart := true }).commit 0 0).cur.ev = true := by decide +kernel
/-- R137: a scrum of core 0. -/
def scrumOne : State := oneWith fun x => { x with scrum := some ⟨2, 0, 64⟩ }
theorem wit_align_in_scrum : scrumOne.onCore ∧ scrumOne.cur.scrum.isSome = true := ⟨⟨by decide +kernel, by decide⟩, by decide +kernel⟩
theorem wit_align : one.onCore ∧ one.cur.scrum = none ∧ one.cur.wait = .none ∧
    ∀ q ∈ one.alignSet, q ≠ (one.curCore, one.curSlot, one.cur.fid) → one.aligned one.cur.pc q = true :=
  ⟨⟨by decide +kernel, by decide⟩, by decide +kernel⟩
theorem wit_end : EndReady one ∧ ((atEnd one).commit one.curCore one.curSlot).cur.pend = [] ∧
    ((atEnd one).commit one.curCore one.curSlot).writesOut 0 0 = false ∧ (blockEnded one).cur.canCommit = true :=
  ⟨⟨⟨by decide +kernel, by decide⟩, by decide +kernel, by decide +kernel, by decide +kernel⟩, by decide +kernel, by decide +kernel, by decide +kernel⟩
/-- R420: `END` in a block that starts at halfword 0. -/
theorem wit_end_of_block : (let s := oneWith fun x => { x with blk := some 0 }
    EndReady s ∧ s.cur.blk = some 0 ∧ (blockEnded s).cur.canCommit = false) :=
  ⟨⟨⟨by decide +kernel, by decide⟩, by decide +kernel, by decide +kernel, by decide +kernel⟩, by decide +kernel, by decide +kernel⟩
theorem wit_end_again : (oneWith fun x => { x with ending := true }).onCore ∧
    (oneWith fun x => { x with ending := true }).cur.ending = true ∧
    (oneWith fun x => { x with ending := true }).cur.pend = [] ∧
    (oneWith fun x => { x with ending := true }).writesOut 0 0 = false := ⟨⟨by decide +kernel, by decide⟩, by decide +kernel, by decide +kernel⟩
/-- R249: a firing of a launch with a trigger. -/
def launched : State := { (oneWith fun x => { x with launch := 1 }) with launches := [launch0] }
theorem wit_trigger_open : launched.onCore ∧ launched.trigOpen = true ∧ launched.cur.holdWaits = false :=
  ⟨⟨by decide +kernel, by decide⟩, by decide +kernel⟩
theorem wit_trigger_closed : one.onCore ∧ one.trigOpen = false := ⟨⟨by decide +kernel, by decide⟩, by decide +kernel⟩
theorem wit_control_frame : one.cur.runs = true ∧ goes one .nop ∧ bits (one.ctx one.cur.ctx).trace.toNat 30 1 = 0 ∧
    goes one (.br 1 false false 7) := ⟨by decide +kernel, trivial, by decide +kernel, by decide +kernel, fun _ => ⟨by decide +kernel, by decide +kernel, by decide +kernel⟩⟩

/-! ## Witnesses: near memory, atomics, objects -/

/-- The last word of the own slice, and the first word of the next core's. -/
theorem wit_load_own : LoadReady (oneAt 0x17FFC) 2 0 0 1 0 0x17FFC ∧ (oneAt 0x17FFC).ownSlice 0x17FFC = true ∧
    (oneAt 0x17FFC).testing 0x17FFC 4 = false ∧ (oneAt 0x17FFC).poisoned 0x17FFC 4 = false ∧ (oneAt 0x17FFC).cur.ra = [] := by
  refine ⟨?_, by decide +kernel⟩
  constructor <;> decide +kernel
theorem wit_load_remote : LoadReady (oneAt 0x20000) 2 0 0 1 0 0x20000 ∧ LoadReady (oneAt 0x20000) 2 0 0 1 54 0x20000 ∧
    (oneAt 0x20000).ownSlice 0x20000 = false ∧ (oneAt 0x20000).cur.pendFull = false ∧ ((oneAt 0x20000).view 54).h = 54 := by
  refine ⟨?_, ?_, by decide +kernel⟩ <;> constructor <;> decide +kernel
/-- R246: the word at 0x100 in the run-ahead buffer. -/
def buffered : State := (oneAt 0x100).updCur fun x => { x with ra := [⟨0, 0x100, 4, toLe 4 7⟩] }
theorem wit_load_hit : LoadReady buffered 2 0 0 1 0 0x100 ∧
    ((buffered.acquired buffered.cur).ra.find? fun e => e.addr == 0x100 && e.size == 4) = some ⟨0, 0x100, 4, toLe 4 7⟩ ∧ (buffered.view 0).h ≠ 50 := by
  refine ⟨?_, by decide +kernel⟩
  constructor <;> decide +kernel
/-- R155, R277: an atomic on the word that the load reads is still held. -/
theorem wit_load_held : (let s := (oneAt 0x20000).updCur fun x => { x with restart := true, cbuf := [.atomic ⟨0, 0, 0, 0x20000, 6, 1, 0, ret0, false⟩] }
    LoadReady s 2 0 0 1 0 0x20000 ∧ s.cur.heldOn 0x20000 4 = true ∧ s.cur.holdWaits = false ∧ s.cur.pendFull = false ∧ s.ownSlice 0x20000 = false) := by
  refine ⟨?_, by decide +kernel⟩
  constructor <;> decide +kernel
/-- R167: a load of another word behind a fence that the held atomic has not passed. -/
theorem wit_load_fenced : (let s := (oneAt 0x20000).updCur fun x =>
      { x with restart := true, cbuf := [.atomic ⟨0, 0, 0, 0x30000, 6, 1, 0, ret0, false⟩, .fence 2 []] }
    LoadReady s 2 0 0 1 0 0x20000 ∧ s.cur.heldFence = true ∧ s.cur.heldOn 0x20000 4 = false ∧ s.cur.holdWaits = false ∧ s.ownSlice 0x20000 = false) := by
  refine ⟨?_, by decide +kernel⟩
  constructor <;> decide +kernel
theorem wit_load_unheld : (oneAt 0x20000).cur.heldOn 0x20000 4 = false ∧ (oneAt 0x20000).cur.heldFence = false ∧
    (oneAt 0x17FFC).fenceOpen = false := by decide +kernel
/-- R411: a watchpoint of action 1 on the last word of the own slice. -/
theorem wit_watch_halts : (let s := (oneAt 0x17FFC).updCtx 0 fun c => { c with watch := [(0, ⟨false, 0x17FC0, -1, 1⟩)] }
    StoreReady s 4 0x17FFC 1 2 0 false 7 ∧ ¬ noHalt (s.storeOwn [(0x17FFC, storeBytes s 2 4)]) 0x17FFC 4) := by
  refine ⟨?_, ?_⟩
  · constructor <;> decide +kernel
  · unfold noHalt
    decide +kernel
theorem wit_store_own : StoreReady (oneAt 0x17FFC) 4 0x17FFC 1 2 0 false 7 ∧ (oneAt 0x17FFC).ownSlice 0x17FFC = true ∧
    (oneAt 0x17FFC).cur.jrnWaits 1 = false ∧ (oneAt 0x17FFC).scrumWaits = false ∧ (oneAt 0x17FFC).testing 0x17FFC 4 = false ∧
    noHalt ((oneAt 0x17FFC).storeOwn [(0x17FFC, storeBytes (oneAt 0x17FFC) 2 4)]) 0x17FFC 4 := by
  refine ⟨?_, by decide +kernel, by decide +kernel, by decide +kernel, by decide +kernel, .inr (by decide +kernel)⟩
  constructor <;> decide +kernel
/-- R426: while a self-test runs on block 23 of core 0 a load from it waits. -/
theorem test_load_waits_for_test :
    (match exec (.ld 2 0 0 1 0) ((oneAt 0x17FFC).updCore 0 fun x => { x with bist := [(2, 23, ret0)] }) with
      | .next t => t.cur.wait == .drain
      | _ => false) = true := by decide +kernel
theorem wit_store_remote : StoreReady (oneAt 0x20000) 4 0x20000 1 2 0 false 7 ∧ (oneAt 0x20000).ownSlice 0x20000 = false ∧
    (oneAt 0x20000).storesOut 0 0 < 32 ∧ noHalt (((oneAt 0x20000).updCur (·.dropWords 0x20000 4)).push
      (.nearSt 0 0 0 false 0x20000 (storeBytes (oneAt 0x20000) 2 4))) 0x20000 4 := by
  refine ⟨?_, by decide +kernel, by decide +kernel, .inr (by decide +kernel)⟩
  constructor <;> decide +kernel
theorem wit_store_off : one.cur.runs = true ∧ one.cur.guardOpen 7 = false ∧ one.cur.guardOn 7 true = false ∧
    (plain one 1 false 1).marks one = [] ∧ (plain one 2 false 1).marks one = [] := by decide +kernel
theorem wit_load_and_store_frame : Memory.wf (oneAt 0x17FFC).mem = true ∧ (oneAt 0x17FFC).testing 0x17FFC 4 = false ∧ (oneAt 0x17FFC).touchesLive 0x17FFC 4 = false ∧
    (oneAt 0x17FFC).cur.jrn.length < 512 ∧ ((oneAt 0x17FFC).ctx 0).watch = [] ∧
    (∃ t, exec (.ld 2 0 0 1 0) (oneAt 0x17FFC) = .next t) ∧ ∃ t, exec (.st 2 2 1 0 false 7) (oneAt 0x17FFC) = .next t :=
  ⟨by decide +kernel, by decide +kernel, by decide +kernel, by decide +kernel, by decide +kernel, ⟨_, rfl⟩, ⟨_, rfl⟩⟩

/-- R67: the skew tile at 0x1000 of the own slice enabled. -/
def skewed : State := (oneAt 0x1000).updCore 0 fun x => { x with skew := [(0, 0x80001000)] }
/-- R68: the cells of the first row of that tile. -/
def skewRow : List Nat := skewCells 0 0x1000 0x1000 false
theorem wit_skew : skewed.onCore ∧ baseTrap (skewed.view 1) = none ∧ skewed.skewAt 0x1000 false = some skewRow ∧
    (∀ c ∈ skewRow, skewed.testing c 4 = false ∧ skewed.poisoned c 4 = false) ∧ (loadDst skewed 0 1 7 0).ready skewed = true ∧
    (loadBase skewed 0 1 7).ready skewed = true ∧ skewOk (skewed.view 7) = true ∧
    (offsets 0 (some (skewed.view 1)) (some (skewed.view 7))).bad = none ∧
    nearForm ((loadBase skewed 0 1 7).nat skewed) 0 4 = some 0x1000 ∧ (plain skewed 1 false 1).ready skewed = true ∧
    (plain skewed 6 false 0).ready skewed = true ∧ skewOk (skewed.view 6) = true ∧ skewed.cur.guardOpen 7 = false ∧
    skewed.cur.guardOn 7 false = true ∧ skewed.cur.jrnWaits 16 = false ∧ skewed.scrumWaits = false ∧
    ∀ c ∈ skewRow, noHalt (skewed.storeOwn (skewRow.mapIdx fun k c => (c, toLe 4 ((plain skewed 6 false 0).elem skewed k)))) c 4 := by
  refine ⟨⟨by decide +kernel, by decide⟩, ?_⟩
  unfold noHalt
  decide +kernel
theorem wit_skew_places : (31 : Nat) < 32 ∧ (15 : Nat) < 16 := by decide
theorem wit_fences : one.cur.runs = true ∧ one.nearOut 0 = false ∧ one.nearOut 1 = false ∧ one.nearOut 2 = false ∧ one.nearOut 3 = false ∧
    one.farOut = false ∧ one.cur.fenceHolds 0 3 = false := by decide +kernel
/-- R277, R166: a restartable firing that holds an atomic on a word of another cluster. -/
def holdsAtomic : State := (oneAt 0x200000).updCur fun x => { x with restart := true, cbuf := [.atomic ⟨0, 0, 0, 0x200000, 6, 1, 0, ret0, false⟩] }
theorem wit_fence_held : holdsAtomic.cur.fenceHolds 0 0 = false ∧ holdsAtomic.cur.fenceHolds 0 2 = true ∧ holdsAtomic.nearOut 3 = false := by decide +kernel
/-- R166, R167: a fence behind which a held atomic stands takes its place in the commit buffer, and a load of another word then waits there. -/
theorem test_fence_orders_held : (match exec .fenceP holdsAtomic with
    | .next t => t.cur.cbuf.length == 2 && t.cur.heldFence && t.cur.heldLen == 1
    | _ => false) = true := by decide +kernel

theorem wit_atomic_own : AtomReady (oneAt 0x17FFC) 0 0x17FFC 2 1 0 false 7 ∧ (oneAt 0x17FFC).ownSlice 0x17FFC = true ∧
    (oneAt 0x17FFC).cur.jrnWaits 1 = false ∧ (oneAt 0x17FFC).testing 0x17FFC 4 = false ∧ (oneAt 0x17FFC).poisoned 0x17FFC 4 = false ∧ (oneAt 0x17FFC).touchesLive 0x17FFC 4 = false ∧ (oneAt 0x17FFC).scrumWaits = false ∧
    (∀ h ∈ hitsAt (oneAt 0x17FFC) 0x17FFC 4, h.2 ≠ 1) := by
  refine ⟨?_, by decide +kernel⟩
  constructor <;> decide +kernel
theorem wit_atomic_compare : AtomReady (oneAt 0x100) 7 0x100 5 1 0 false 7 := by constructor <;> decide +kernel
theorem wit_atomic_remote : AtomReady (oneAt 0x20000) 0 0x20000 2 1 0 false 7 ∧ AtomReady (oneAt 0x20000) 0 0x20000 2 1 54 false 7 ∧
    (oneAt 0x20000).ownSlice 0x20000 = false ∧ (oneAt 0x20000).cur.holdWaits = false ∧ (oneAt 0x20000).cur.pendFull = false := by
  refine ⟨?_, ?_, by decide +kernel⟩ <;> constructor <;> decide +kernel
theorem wit_atomic_exchange : Memory.wf one.mem = true ∧ one.touchesLive 0x17FFC 4 = false := by decide +kernel
theorem wit_atomic_operation : (2 ^ 31 : Nat) < 2 ^ Ty.i32.bits ∧ (2 ^ 32 - 1 : Nat) < 2 ^ Ty.b.bits := by decide

/-- R291, R292: h3 holds the reference of a block at 0x200 of the own slice, of a kind and a parameter. -/
def withObj (kind parm : Nat) : State := (one.winPut ⟨0, 0, 16⟩ (toLe 8 0x200)).setBytes 0x200 (toLe 4 kind ++ toLe 4 parm)
theorem notSent_of {s : State} (h : s.cur.wait = .none) : notSent s :=
  by unfold notSent; rw [h]; exact ⟨by decide, fun v e => (by cases e), fun c e => (by cases e)⟩
theorem wit_object_leaves :
    (∀ p ∈ [(1, 0, ObjOp.acq), (2, 1, .bar), (2, 2 ^ 24, .barw), (3, 2 ^ 31 - 1, .semw), (1, 0, .trya), (1, 0, .objq)],
      (withObj p.1 p.2.1).refTraps 3 0x200 p.2.2 = none) ∧
    RefReady (withObj 1 0) .acq 0 3 none ∧ RefReady (withObj 2 1) .bar 0 3 none ∧ RefReady (withObj 2 (2 ^ 24)) .barw 0 3 none ∧
    RefReady (withObj 3 0) .semw 0 3 none ∧ RefReady (withObj 1 0) .trya 0 3 (some ((withObj 1 0).view 0)) ∧
    RefReady (withObj 1 0) .objq 0 3 (some ((withObj 1 0).view 4)) := by
  refine ⟨by decide +kernel, ?_, ?_, ?_, ?_, ?_, ?_⟩ <;> constructor <;> first | exact ⟨by decide +kernel, by decide⟩ | decide +kernel
theorem wit_object_operands : notSent (withObj 3 0) ∧ mayBlock (withObj 3 0) ∧ (withObj 3 0).cur.locks.length < 8 ∧
    (plain (withObj 3 0) 1 false 1).ready (withObj 3 0) = true ∧ ((withObj 3 0).view 1).isN32 = true ∧
    1 ≤ (plain (withObj 3 0) 1 false 1).nat (withObj 3 0) ∧ (plain (withObj 3 0) 1 false 1).nat (withObj 3 0) ≤ 65535 ∧
    (loadDst (withObj 3 0) 0 3 0 1).ready (withObj 3 0) = true ∧ ((withObj 3 0).view 0).isN32 = true ∧
    (loadDst (withObj 3 0) 0 3 4 0).ready (withObj 3 0) = true ∧ ((withObj 3 0).view 4).isB 4 = true :=
  ⟨notSent_of (by decide +kernel), by intro _; decide +kernel, by decide +kernel⟩
theorem wit_object_answer : (oneWith fun x => { x with wait := .answer [1] }).onCore ∧
    (oneWith fun x => { x with wait := .answer [1] }).cur.wait = .answer [1] := ⟨⟨by decide +kernel, by decide⟩, by decide +kernel⟩
/-- R296: as `withObj`, the firing holding the lock at 0x200. -/
def holding : State := (withObj 1 0).updCur fun x => { x with locks := [0x200] }
theorem wit_object_releases : holding.cur.holdWaits = false ∧ RefReady holding .rel 0 3 none ∧
    holding.cur.locks.contains (lockKey (refOf holding 0 3 none)) = true ∧ RefReady (withObj 2 1) .bara 0 3 none ∧
    RefReady (withObj 3 0) .semp 0 3 none := by
  refine ⟨by decide +kernel, ?_, by decide +kernel, ?_, ?_⟩ <;> constructor <;> first | exact ⟨by decide +kernel, by decide⟩ | decide +kernel
/-- R160: h4 holds the region of 64 bytes at 0x400 of the own slice, which is bound where `bound` says. -/
def withRegion (bound : Bool) : State :=
  ((withObj 1 0).winPut ⟨0, 0, 32⟩ (toLe 8 0x400 ++ toLe 8 64)).updCtx 0 fun c => { c with binds := if bound then [⟨0x200, 0x400, 64, false⟩] else [] }
theorem wit_bind : BindReady (withRegion false) false 0 3 4 ∧ BindReady (withRegion true) true 0 3 4 ∧ notSent (withRegion false) ∧
    mayBlock (withRegion false) := by
  refine ⟨?_, ?_, notSent_of (by decide +kernel), by intro _; decide +kernel⟩ <;> constructor <;>
    first | exact ⟨by decide +kernel, by decide⟩ | decide +kernel | exact except_ok (by decide +kernel)
/-- R292: a live block of a kind at 0x200, with a count and a holder word, and an operation on it. -/
def liveObj (kind parm cnt hold : Nat) : State := { (withObj kind parm).setObj 0x200 cnt 0 hold with homes := [(0x200, [])] }
def objReq (op : ObjOp) (arg : Nat) : ObjReq := ⟨op, 0x200, arg, 0, 0, 0, 0, none⟩
theorem wit_objects_at_home :
    (∀ p ∈ [(1, 0, ObjOp.acq), (1, 0, .rel), (2, 2, .bara), (2, 1, .bar), (2, 1, .barw), (1, 0, .trya), (3, 0, .semw), (3, 0, .semp), (3, 0, .objq)],
      (liveObj p.1 p.2.1 0 holdFree).objSuits 0x200 p.2.2 = true ∧ (liveObj p.1 p.2.1 0 holdFree).liveBlock 0x200 = true) ∧
    (liveObj 1 0 0 holdFree).objHold 0x200 = holdFree ∧ (liveObj 1 0 0 (2 ^ 31)).objHold 0x200 ≠ holdFree ∧
    (liveObj 1 0 0 (2 ^ 31)).objHold 0x200 = (liveObj 1 0 0 (2 ^ 31)).holdWord (objReq .rel 0) ∧
    (liveObj 2 1 0 holdFree).objCnt 0x200 + 1 = (liveObj 2 1 0 holdFree).objParm 0x200 ∧
    (liveObj 2 2 0 holdFree).objCnt 0x200 + 1 ≠ (liveObj 2 2 0 holdFree).objParm 0x200 ∧ Memory.wf (liveObj 2 2 0 holdFree).mem = true ∧
    (objReq .semw 1).arg ≤ (liveObj 3 0 1 holdFree).objCnt 0x200 ∧ (liveObj 3 0 0 holdFree).objCnt 0x200 < (objReq .semw 1).arg := by
  decide +kernel
/-- R160: an overlapping region; one that fits; a bad one; one to unbind. -/
theorem wit_binding_rules :
    (let c := (withRegion true).ctx 0
     c.binds.any (fun b => b.far == false && decide (b.start < 0x43F + 64 ∧ 0x43F < b.start + b.len)) = true ∧
     c.binds.any (fun b => b.far == false && decide (b.start < 0x440 + 64 ∧ 0x440 < b.start + b.len)) = false ∧
     (⟨0x200, 0x400, 64, false⟩ : Binding) ∈ c.binds ∧ (⟨0x200, 0x440, 64, false⟩ : Binding) ∉ c.binds) ∧
    regionBad (0x17FC0, 64, false) = false ∧ regionBad (0x17FC0, 128, false) = true ∧
    1024 ≤ (List.replicate 1024 (⟨0x200, 0x400, 64, false⟩ : Binding)).length := by decide +kernel
/-- R294: a wait for the phase after the one its firing recorded, and one of a firing that recorded none; and a post of 2 before which 5 and 1 wait. -/
theorem wit_barrier_waits : (let s := (liveObj 2 1 0 holdFree).updCur fun x => { x with phases := [(0x200, 7)] }
    (mfind (s.firing 0 0 s.cur.fid).phases 0x200).getD (s.objPhase 0x200) ≠ s.objPhase 0x200) ∧
    (let s := liveObj 2 1 0 holdFree
     (mfind (s.firing 0 0 s.cur.fid).phases 0x200).getD (s.objPhase 0x200) = s.objPhase 0x200) := by decide +kernel
theorem test_post_passes_a_large_wait :
    serveSem [objReq .semw 5, objReq .semw 1] 2 = ([objReq .semw 1], [objReq .semw 5], 1) := by decide +kernel

/-! ## Witnesses: messages, engine commands, the engine profile -/

/-- h2 holds a control word; the target h1 is 5. -/
def ctl (w : Nat) : State := one.winPut ⟨0, 0, 8⟩ (toLe 4 w)
theorem wit_send : SendReady (ctl 0) false 0 2 1 0 ∧ SendReady (ctl 1) false 0 2 1 0 ∧ SendReady (ctl (2 ^ 27)) true 0 2 1 0 ∧
    SendReady ((ctl (2 ^ 27)).winPut ⟨0, 0, 4⟩ (toLe 4 0x3FFF)) true 0 2 1 0 := by
  refine ⟨?_, ?_, ?_, ?_⟩ <;> constructor <;> first | exact ⟨by decide +kernel, by decide⟩ | decide +kernel
theorem wit_spawn : SpawnReady (ctl 0) 2 3 1 := by constructor <;> first | exact ⟨by decide +kernel, by decide⟩ | decide +kernel
theorem wit_sent_message : (oneWith fun x => { x with restart := true }).cur.restart = true ∧ one.cur.cbuf.length < 64 ∧
    bits (2 ^ 27 + 1) 27 2 < 2 ∧ (oneWith fun x => { x with restart := true }).onCore ∧ (plain one 0 true 1).v.entry = none :=
  ⟨by decide +kernel, by decide +kernel, by decide, ⟨by decide +kernel, by decide⟩, by decide +kernel⟩
theorem wit_counts : CountReady one 0 1 0 ∧ (∀ k ∈ [0, 1, 2, 3], (srcOf (oneAt k) 0 1 0 1).nat (oneAt k) = k) ∧
    4 ≤ (srcOf one 0 1 0 1).nat one := by
  refine ⟨?_, by decide +kernel⟩
  constructor <;> first | exact ⟨by decide +kernel, by decide⟩ | decide +kernel
/-- R305: a copy kicked at once, and a held `BSIG`. -/
theorem wit_commands : (∃ f, cmdForm (.cpy 1 1 1 0 false 7 3) = some f ∧ CmdReady one f ∧ one.cur.guardOn f.g f.n = true) ∧
    (∃ f, cmdForm (.bsig 1 0 false 7) = some f ∧ 5 ≤ f.code ∧ CmdReady one f) := by
  refine ⟨⟨_, rfl, ?_, by decide +kernel⟩, ⟨_, rfl, by decide, ?_⟩⟩ <;> constructor <;>
    first | exact ⟨by decide +kernel, by decide⟩ | decide +kernel
/-- R92: a copy behind a held command of its slot. -/
theorem wit_command_behind : (let s := oneWith fun x => { x with restart := true, cbuf := [.cmd { cmd0 with code := 5 }] }
    ∃ f, cmdForm (.cpy 1 1 1 0 false 7 3) = some f ∧ s.cur.holdsCmd f.code = true ∧ CmdReady s f) := by
  refine ⟨_, rfl, by decide +kernel, ?_⟩
  constructor <;> first | exact ⟨by decide +kernel, by decide⟩ | decide +kernel
theorem wit_command_off : one.onCore ∧ one.cur.guardOpen 7 = false ∧ one.cur.guardOn 7 true = false ∧ (plain one 0 true 1).marks one = [] ∧
    (cmdAcc (one.view 1)).marks one = [] := ⟨⟨by decide +kernel, by decide⟩, by decide +kernel⟩

/-- R306, R313: the microcode of engine 0 with a command in progress, the first 2^19 far bytes translated to HBM (0) or to peer 1 (2); h1
holds v and h2 holds w. -/
def microcode (tgt v w : Nat) : State :=
  let s := ((((State.reset.withFetchWord 32 0x45).updCur fun x => { x with views := views }).winPut ⟨engineKey 0, 0, 4⟩ (toLe 4 v)).winPut
    ⟨engineKey 0, 0, 8⟩ (toLe 4 w)).updEngine 0 fun en => { en with cur := some cmd0, tlb := [⟨0, 0, 2 ^ 19, tgt, 1, 0, true⟩] }
  { (s.updCtx 0 fun c => { c with live := true, peers := [(1, 0x8000)] }) with fab := { Fab.reset with pod := 3 } }
theorem wit_far_load : FarLoadReady (microcode 0 0 0) cmd0 2 0 0 3 0 ∧
    (microcode 0 0 0).xlat 0 cmd0 0 false = (.ok ⟨0, 1, 0, 0, 2 ^ 19, true⟩, microcode 0 0 0) ∧
    (⟨0, 1, 0, 0, 2 ^ 19, true⟩ : Frame).addr.isSome = true ∧ (microcode 0 0 0).tamperedAt (hbmAddr 0) 4 = false ∧
    (microcode 0 0 0).poisoned (hbmAddr 0) 4 = false := by
  refine ⟨?_, by decide +kernel, by decide +kernel, by decide +kernel, by decide +kernel⟩
  constructor <;> first | exact ⟨⟨by decide +kernel, by decide⟩, by decide +kernel⟩ | decide +kernel
/-- R374: eight bytes over the end of a page, both pages translated. -/
theorem wit_far_load_across : (let s := (microcode 0 0x7FFFC 0).updEngine 0 fun en => { en with
      tlb := [⟨0, 0, 2 ^ 19, 0, 1, 0, true⟩, ⟨0, 2 ^ 19, 2 ^ 19, 0, 1, 0, true⟩] }
    onePage 0x7FFFC 8 = false ∧ isOk (s.farBytes cmd0 (cuts 8 8 0 0x7FFFC false true)) = true) ∧ onePage 0 4 = true := by decide +kernel
theorem wit_far_load_peer : FarLoadReady (microcode 2 0 0) cmd0 2 0 0 3 0 ∧
    (microcode 2 0 0).xlat 0 cmd0 0 false = (.ok ⟨2, 1, 0, 0, 2 ^ 19, true⟩, microcode 2 0 0) ∧
    (⟨2, 1, 0, 0, 2 ^ 19, true⟩ : Frame).addr = none ∧ ((microcode 2 0 0).view 0).h ≠ 50 ∧
    ∃ u, (let m := (microcode 2 0 0).mark (dstOf (microcode 2 0 0) 0 3 0 1) 4 false false true
          m.2.sendReq 0 0 1 ⟨0, 0, 0, 2, 0, [], false, 0, .reg m.1, 0⟩) = .ok u := by
  refine ⟨?_, by decide +kernel, by decide +kernel, by decide +kernel, sent_ok (by decide +kernel)⟩
  constructor <;> first | exact ⟨⟨by decide +kernel, by decide⟩, by decide +kernel⟩ | decide +kernel
theorem wit_far_store : FarStoreReady (microcode 0 0 0) cmd0 2 0 2 3 0 ∧
    ∃ t, (microcode 0 0 0).engineFar 0 cmd0 0 (storeBytes (microcode 0 0 0) 2 4) false = .ok t := by
  refine ⟨?_, sent_ok (by decide +kernel)⟩
  constructor <;> first | exact ⟨⟨by decide +kernel, by decide⟩, by decide +kernel⟩ | decide +kernel
theorem wit_far_atomic : FarAtomReady (microcode 0 0 0) cmd0 0 0 2 3 0 ∧
    (microcode 0 0 0).xlat 0 cmd0 0 true = (.ok ⟨0, 1, 0, 0, 2 ^ 19, true⟩, microcode 0 0 0) ∧
    ((microcode 0 0 0).updCur fun x => { x with wait := .sent }).onEngine ∧ ((microcode 0 0 0).engine 0).outst = 0 := by
  refine ⟨?_, by decide +kernel, ⟨by decide +kernel, by decide⟩, by decide +kernel⟩
  constructor <;> first | exact ⟨⟨by decide +kernel, by decide⟩, by decide +kernel⟩ | decide +kernel
theorem wit_image : ImageReady (microcode 0 0x10000 0x100) cmd0 0 2 1 0 0x100 64 ∧
    ∃ t, (let s := microcode 0 0x10000 0x100
          let m := s.mark (dstOf s 0 1 0 1) 4 false false true
          m.2.sendImage cmd0 1 0 (s.bytesAt 0x100 64) (s.poisoned 0x100 64) m.1) = .ok t := by
  refine ⟨?_, sent_ok (by decide +kernel)⟩
  constructor <;> first | exact ⟨⟨by decide +kernel, by decide⟩, by decide +kernel⟩ | decide +kernel
theorem wit_engine_ends : EngineReady (microcode 0 1 0) cmd0 ∧ SoloReady (microcode 0 1 0) 0 1 ∧ baseTrap ((microcode 0 1 0).view 1) = none ∧
    ((microcode 0 1 0).view 1).isN32 = true ∧ ((microcode 0 1 0).engine 0).outst = 0 ∧ (microcode 0 1 0).nearOut 3 = false ∧
    (microcode 0 1 0).writesOut (engineKey 0) 0 = false :=
  ⟨⟨⟨by decide +kernel, by decide⟩, by decide +kernel⟩, ⟨by decide +kernel, by decide +kernel⟩, by decide +kernel⟩

/-! ## Witnesses: matrix work, composed cores -/

/-- R119, R120: as `one`, the array holding a tile of i8 ones of depth 1 and taking i8 rows; h1 holds v. -/
def mx (v : Nat) : State := (oneAt v).updCore 0 fun x =>
  { x with arr := { x.arr with tile := some ⟨0, 1, List.replicate 16 [1], 0, [], 0⟩, afmt := 0, claim := some (0, 0) }, clop := List.replicate 16 0 }
/-- R133: the state with the array claimed. -/
def taken (s : State) : State := s.claimArray.getD s
theorem wit_array : HoldsArray one (taken one) ∧ HoldsArray (mx 0) (taken (mx 0)) :=
  ⟨⟨⟨by decide +kernel, by decide⟩, by decide +kernel⟩, ⟨⟨by decide +kernel, by decide⟩, by decide +kernel⟩⟩
theorem codesOk_of {l : List (List (Except Nat XNum))} (h : (l.all fun c => c.all isOk) = true) : codesOk l := by
  intro c hc e he
  exact except_ok (List.all_eq_true.mp (List.all_eq_true.mp h c hc) e he)
theorem wit_tiles : TileReady (taken (mx 0)) (taken (mx 0)) false 54 17 ∧ TileReady (taken (mx 0)) (blocked (taken (mx 0))) true 54 17 ∧
    16 ≤ (blocked (taken (mx 0))).curC.clop.length ∧
    mayBlock (taken (mx 0)) ∧ (plain (taken (mx 0)) 1 false 1).ready (taken (mx 0)) = true ∧ ((taken (mx 0)).view 1).isInt1 = true ∧
    afmtOk ((plain (taken (mx 0)) 1 false 1).word (taken (mx 0))) = true := by
  refine ⟨?_, ?_, by decide +kernel, by intro _; decide +kernel, by decide +kernel⟩ <;> constructor <;>
    first | decide +kernel | exact codesOk_of (by decide +kernel)
theorem wit_mma_ring : MmaReady (taken (mx 0)) (taken (mx 0)) 16 9 ∧ (taken (mx 0)).mmaCommits ((taken (mx 0)).view 16) = false := by
  refine ⟨?_, by decide +kernel⟩
  constructor
  case codes => exact codesOk_of (by decide +kernel)
  all_goals decide +kernel
theorem wit_mma_clop : MmaReady (taken (mx 0)) (blocked (taken (mx 0))) 52 9 ∧ (taken (mx 0)).mmaCommits ((taken (mx 0)).view 52) = true ∧ mayBlock (taken (mx 0)) := by
  refine ⟨?_, by decide +kernel, by intro _; decide +kernel⟩
  constructor
  case codes => exact codesOk_of (by decide +kernel)
  all_goals decide +kernel
theorem wit_accumulation : (2 ^ 31 - 1 : Nat) < 2 ^ 32 := by decide
theorem wit_drains : (wholeOf (taken (mx 0)) 9 true).ready (taken (mx 0)) = true ∧ (wholeOf (taken (mx 0)) 9 false).ready (taken (mx 0)) = true ∧
    ((taken (mx 0)).view 9).fixed = false ∧ ((taken (mx 0)).view 9).shape = 3 ∧
    (plain (taken (mx 0)) 0 true 1).ready (taken (mx 0)) = true ∧
    ((taken (mx 0)).view 0).isN32 = true ∧ ((taken (mx 0)).view 0).fixed = false ∧ (plain (taken (mx 0)) 1 false 1).ready (taken (mx 0)) = true ∧
    mdrpOk ((plain (taken (mx 0)) 1 false 1).word (taken (mx 0))) = true ∧ (taken (mx 0)).cur.pendFull = false ∧
    (taken (mx 0)).cur.holdWaits = false := by decide +kernel
theorem wit_matrix_status : (∀ t, (mx 0).curC.arr.tile = some t → t.fmt < 16 ∧ 1 ≤ t.kt ∧ t.kt ≤ 256 ∧ t.sform < 4) ∧
    (plain (taken (mx 0)) 0 true 1).ready (taken (mx 0)) = true ∧ ((taken (mx 0)).view 0).isInt1 = true := by
  refine ⟨fun t h => ?_, by decide +kernel⟩
  rw [show (mx 0).curC.arr.tile = some ⟨0, 1, List.replicate 16 [1], 0, [], 0⟩ from by decide +kernel] at h
  cases h
  decide
/-- R123: a multicast to the core itself, as it issues and as it waits for a row that has been taken. -/
theorem wit_multicast : HoldsArray (mx 1) (taken (mx 1)) ∧ (taken (mx 1)).cur.wait = .none ∧
    (plain (taken (mx 1)) 1 false 1).ready (taken (mx 1)) = true ∧ (wholeOf (taken (mx 1)) 6 false).ready (taken (mx 1)) = true ∧
    ((taken (mx 1)).view 1).isInt1 = true ∧ ((taken (mx 1)).view 6).fixed = false ∧ ((taken (mx 1)).view 6).ring = false ∧
    ((taken (mx 1)).view 6).shape = 1 ∧ ((taken (mx 1)).view 6).rowBytes ≤ 64 ∧ bits ((plain (taken (mx 1)) 1 false 1).word (taken (mx 1))) 0 16 = 1 ∧
    (taken (mx 1)).placed 1 = true ∧ mayBlock (taken (mx 1)) :=
  ⟨⟨⟨by decide +kernel, by decide⟩, by decide +kernel⟩, by and_intros <;> first | decide +kernel | (intro _; decide +kernel)⟩
theorem wit_multicast_done : (let s := (mx 1).updCur fun x => { x with wait := .ring 118 9 true }
    HoldsArray s (taken s) ∧ (taken s).cur.wait = .ring 118 9 true ∧ (taken s).rowOut 9 = false) :=
  ⟨⟨⟨by decide +kernel, by decide⟩, by decide +kernel⟩, by decide +kernel, by decide +kernel⟩

/-- R136 to R138: cores 0 and 1, their slots 0 of windows of equal length admitted to a scrum and core 1's idle. -/
def composable : State :=
  (oneWith fun x => { x with bind := x.bind ||| BitVec.ofNat 256 (2 ^ 253) }).updSlot 1 0 fun x =>
    { x with st := .idle, bind := BitVec.ofNat 256 (2 ^ 255 + 2 ^ 253 + 511 * 2 ^ 210) }
theorem wit_compose : composable.onCore ∧ composable.cur.pend = [] ∧ composable.cur.scrum = none ∧ composable.composeBad 2 = false ∧
    composable.misplaced 2 = false ∧
    ((scrumOthers composable.curCore 2).any fun m => composable.composing m && decide (memberOf m < memberOf composable.curCore)) = false ∧
    composable.canCompose 0 2 = true ∧ composable.preemptFirst 0 = false := ⟨⟨by decide +kernel, by decide⟩, by decide +kernel⟩
/-- R138: core 1 issues a `CMPS` while core 0, of lower index, waits in its own. -/
def lowerWaits : State := { (composable.updSlot 0 0 fun x => { x with wait := .compose 2 }).updSlot 1 0 fun x => { x with st := .running } with curCore := 1 }
theorem wit_compose_lower : lowerWaits.onCore ∧ lowerWaits.cur.pend = [] ∧ lowerWaits.composeBad 2 = false ∧ lowerWaits.misplaced 2 = false ∧
    ((scrumOthers lowerWaits.curCore 2).any fun m => lowerWaits.composing m && decide (memberOf m < memberOf lowerWaits.curCore)) = true :=
  ⟨⟨by decide +kernel, by decide⟩, by decide +kernel⟩
theorem wit_decompose : scrumOne.onCore ∧ scrumOne.cur.scrum ≠ none ∧ scrumOne.cur.pend = [] :=
  ⟨⟨by decide +kernel, by decide⟩, by decide +kernel⟩
theorem wit_compose_query : (loneDst one 0 0 1).ready one = true ∧ (offsets 0 none (some (one.view 0))).bad = none ∧
    (one.view 0).isN32 = true := by decide +kernel

/-! ## Witnesses: traps, system instructions, special registers -/

/-- R318, R319: the trap entry at halfword 2 with fault codes 0, 5 and 0x38 in the mask. -/
def trapping : State := one.updCtx 0 fun c => { c with image := some { bareImage with actors := [{ bareActor with trapent := 2, tmask := 2 ^ 56 + 0x21 }] } }
/-- R319: as `trapping`, in its trap, with a resume word. -/
def inTrap (r : Nat) : State := (trapping.winPut ⟨0, 0, 0x7FF4⟩ (toLe 4 r)).updCur fun x => { x with trapAct := true }
theorem wit_trap_and_return : one.onCore ∧ (loneSrc one 0 1 1).ready one = true ∧ (offsets 0 (some (one.view 1)) none).bad = none ∧
    (one.view 1).isN32 = true ∧ (inTrap 3).cur.trapAct = true ∧ (inTrap 3).resumeWord 0 0 = 3 ∧ 3 < (inTrap 3).codeLen 0 ∧
    (inTrap 3).rawGate (((inTrap 3).win 0 0).2 - 12) 4 = none ∧ (inTrap 3).cur.scrum = none ∧ (inTrap 4).codeLen 0 ≤ (inTrap 4).resumeWord 0 0 ∧ one.cur.trapAct = false :=
  ⟨⟨by decide +kernel, by decide⟩, by decide +kernel⟩
theorem wit_trap_handled : trapping.onCore ∧ (loneSrc trapping 0 1 1).ready trapping = true ∧ (trapping.view 1).isN32 = true ∧
    (∃ a, handled trapping a 0x38) ∧ trapping.cur.scrum = none ∧ (trapping.ctx 0).trace = 0 :=
  ⟨⟨by decide +kernel, by decide⟩, by decide +kernel, by decide +kernel,
    ⟨{ bareActor with trapent := 2, tmask := 2 ^ 56 + 0x21 }, by decide +kernel, by decide, by decide, by decide +kernel⟩, by decide +kernel⟩
/-- R142: a return in a scrum, to the start of a block. -/
theorem wit_return_in_scrum : (let s := ((inTrap 3).updCur fun x => { x with scrum := some ⟨2, 0, 64⟩ }).updCtx 0 fun c =>
      { c with image := some { bareImage with sigs := [BitVec.ofNat 64 (3 * 2 ^ 40 + 2 ^ 32)] } }
    s.cur.scrum ≠ none ∧ s.blockAt 0 3 = true) := by decide +kernel
theorem wit_trap_entry : (∃ a, handled trapping a 5 ∧ a.trapent = 2) ∧ ¬alwaysParks 5 ∧ trapping.cur.scrum = none ∧
    16 ≤ (trapping.win 0 0).2 ∧ (trapping.ctx 0).trace = 0 :=
  ⟨⟨{ bareActor with trapent := 2, tmask := 2 ^ 56 + 0x21 }, ⟨by decide +kernel, by decide, by decide, by decide +kernel⟩, rfl⟩,
    by unfold alwaysParks; decide, by decide +kernel⟩
/-- R318: in its trap, an always parking code, a code past the mask, a clear mask bit. -/
theorem wit_trap_parks : (inTrap 0).cur.trapAct = true ∧ alwaysParks 0x08 ∧ alwaysParks 0x0C ∧ alwaysParks 0x14 ∧
    (∃ a, one.actorOf one.cur = some a ∧ bits a.tmask.toNat 5 1 = 0) ∧ one.cur.scrum = none :=
  ⟨by decide +kernel, .inl rfl, .inr (.inl rfl), .inr (.inr ⟨by decide, by decide⟩), ⟨bareActor, by decide +kernel, by decide⟩, by decide +kernel⟩
theorem wit_supervisor_call : one.onCore ∧ notSent one ∧ (loneSrc one 0 4 4).ready one = true ∧ (offsets 0 (some (one.view 4)) none).bad = none ∧
    (one.view 4).isB 4 = true ∧ mayBlock one :=
  ⟨⟨by decide +kernel, by decide⟩, notSent_of (by decide +kernel), by decide +kernel, by decide +kernel, by decide +kernel, by intro _; decide +kernel⟩

/-- R321: slot 1 of core 0 halted; h5 names the area at 0x1000 of the own slice and slot 1. -/
def areas : State := (sysOne.winPut ⟨0, 0, 48⟩ (toLe 4 0x1000 ++ toLe 4 1)).updSlot 0 1 fun x =>
  { x with st := .halted, hid := 1, bind := BitVec.ofNat 256 (2 ^ 255) }
/-- R321: an area of zeros at 0x1000 with its checksum. -/
def zeroArea : State := areas.setBytes 0x10FC (toLe 2 0x9116)
def savedOne : Saved := ⟨0, 1, 0x1000, zeroArea.areaHead 0x1000, areas.slot 0 1, none, []⟩
def saved : State := { zeroArea with saves := [(0x1000, savedOne)] }
theorem wit_save : AreaReady areas 0 5 (fun _ _ => false) := by constructor <;> first | exact ⟨by decide +kernel, by decide⟩ | decide +kernel
set_option maxRecDepth 100000 in
theorem wit_restore : AreaReady saved 0 5 State.areaBad ∧ (loneSrc saved 0 5 2).elem saved 0 = 0x1000 ∧ saved.areaOk 0x1000 = true ∧
    saved.areaOf 0x1000 = some (false, savedOne) ∧ AreaReady { saved with saved := [savedOne] } 0 5 State.areaBad ∧
    ({ saved with saved := [savedOne] } : State).areaOk 0x1000 = true ∧
    ({ saved with saved := [savedOne] } : State).areaOf 0x1000 = some (true, savedOne) := by
  refine ⟨?_, by decide +kernel, by decide +kernel, by decide +kernel, ?_, by decide +kernel, by decide +kernel⟩ <;>
    constructor <;> first | exact ⟨by decide +kernel, by decide⟩ | decide +kernel

/-- R324: h5 takes 64 bits, h16 of `six` the six words of `PMC`. -/
def six (v : Nat) : State := (oneAt v).updCur fun x => { x with views := mput x.views 5 (dsc 96 .b 1 6) }
theorem wit_system_reads : one.onCore ∧ (regAcc (one.view 3) true (offsets 0 none (some (one.view 3))).dst).ready one = true ∧
    (offsets 0 none (some (one.view 3))).bad = none ∧ PairReady (six 31) 0 1 5 6 ∧ ((six 31).view 5).ty = .b ∧ 6 ≤ ((six 31).view 5).len ∧
    (srcOf (six 19) 0 1 5 1).nat (six 19) = 19 ∧ bits 19 2 2 = 0 ∧ PairReady one 0 1 3 1 ∧ PairReady one 0 1 5 2 ∧ (one.view 1).isInt1 = true := by
  refine ⟨⟨by decide +kernel, by decide⟩, by decide +kernel, by decide +kernel, ?_, by decide +kernel, by decide +kernel, by decide +kernel,
    by decide, ?_, ?_, by decide +kernel⟩ <;> constructor <;> decide +kernel
theorem wit_system_control : sysOne.onCore ∧ mayBlock sysOne ∧ (blocked (oneWith fun x => { x with ev := true })).cur.ev = true ∧
    sysOne.cur.sysFlag = true ∧ (plain sysOne 0 true 1).ready sysOne = true ∧ (srcOf sysOne 0 1 0 1).ready sysOne = true ∧
    (sysOne.view 0).isN32 = true ∧ (sysOne.view 0).fixed = false ∧ (sysOne.view 0).ring = false ∧ (sysOne.view 1).isInt1 = true ∧
    sysOne.cur.pendFull = false := ⟨⟨by decide +kernel, by decide⟩, by intro _; decide +kernel, by decide +kernel⟩
/-- R322: a read of `sys.lcore` and of 0x200 by a system firing; a write of `sys.lnk` and of `mx.team`. -/
theorem wit_special_registers : one.cur.runs = true ∧ (srAcc 0x002).isSome = true ∧ srPrivate 0x002 = false ∧ (srAcc 0x200).isSome = true ∧
    sysOne.cur.sysFlag = true ∧ (regAcc (one.view 0) (srWide 0x002) 0).ready one = true ∧ srLocked 0x005 false = false ∧
    (plain one 1 false 1).ready one = true ∧ (0x005 : Nat) ≠ 0x41 ∧ one.teamRefused ((plain one 1 false 1).nat one) = false ∧
    one.curC.arrayBusy = false := by decide +kernel
theorem wit_privileged : one.onCore ∧ one.cur.sysFlag = false ∧ (srAcc 0x200).isSome = true ∧ srAcc 0x010 = some .rwSys ∧
    srAcc 0x002 = some .ro ∧ srAcc 0x2FF = none := ⟨⟨by decide +kernel, by decide⟩, by decide +kernel⟩
theorem wit_register_rows : (12287 : Nat) < numCores ∧ ({ one with curCore := 0, curSlot := 0 } : State).teamRefused 0 = false ∧
    (one.core 0).arrayBusy = false ∧ (srAcc 0x108).isSome = true ∧ srLocked 0x108 true = false ∧
    (0x108 : Nat) ∉ [0x10, 0x41, 0x210, 0x211, 0x212, 0x213] := by decide +kernel

/-! ## Witnesses: deliveries and the networks -/

/-- `one` with items in flight, its peer 1 reachable. -/
def flying (l : List Pkt) : State :=
  { (one.updCtx 0 fun c => { c with peers := [(1, 0x8000)] }) with net := l, fab := { Fab.reset with pod := 3 } }
/-- The targets of a message: the host, a core, a core of peer 1. -/
theorem wit_deliveries :
    (∀ tgt ∈ [toHost, 5, toPeer 1 0], (flying [.msg msg0 tgt none]).earlier 0 (·.sameRoute msg0 tgt) = false) ∧ (5 : Nat) < toHost ∧
    (flying []).moving 5 = false ∧ toHost < toPeer 1 0 ∧
    (((flying [.msg msg0 (toPeer 1 0) none]).taken 0).peerReply msg0 (toPeer 1 0) none).isSome = true ∧
    (flying [.token ret0 0]).net[0]? = some (.token ret0 0) ∧ (flying [.ldReply ret0 [0, 0, 0, 0] none]).net[0]? = some (.ldReply ret0 [0, 0, 0, 0] none) ∧
    (flying [.nearLd 0 0 false 0x100 4 ret0]).nearWaits 0 (.nearLd 0 0 false 0x100 4 ret0) = false ∧
    (flying [.nearSt 0 0 0 false 0x100 [1]]).nearWaits 0 (.nearSt 0 0 0 false 0x100 [1]) = false ∧
    (flying [.atomic ⟨0, 0, 0, 0x20000, 6, 1, 0, ret0, false⟩]).nearWaits 0 (.atomic ⟨0, 0, 0, 0x20000, 6, 1, 0, ret0, false⟩) = false ∧
    (flying [.trig 0 0 0 1]).earlier 0 (·.writes 0 0) = false ∧ (flying []).poisoned 0x20000 4 = false ∧ (flying [.obj (objReq .acq 0)]).objWaits 0 (objReq .acq 0) = false ∧
    refPeer (objReq .acq 0).ref.toNat = false ∧ (flying []).moving 0 = false ∧
    refPeer (2 ^ 36 + 2 ^ 31) = true ∧ (((flying []).taken 0).peerObj { objReq .acq 0 with ref := 2 ^ 36 + 2 ^ 31 }).isSome = true := by
  decide +kernel

/-- R127: a keeper, core 0, for itself alone, with one row to send and its own scales posted. -/
def keeping : State := one.updCore 0 fun x =>
  { x with team := 0x80000001, keeper := { x.keeper with posts := [(0, (0, [127, 127, 127, 127]))], queue := [⟨[127], 1, 1, 0, [(0, (0, [127, 127, 127, 127]))]⟩] } }
theorem wit_keeper : ∃ r rest, (keeping.core 0).keeper.queue = r :: rest ∧ (keeping.core 0).keeper.stall = false ∧
    (keeping.core 0).isKeeper (memberOf 0) = true ∧ (∀ b, b < max r.blocks r.scales.length → r.scale b ≠ 0xFF) ∧
    (∀ m, m < 16 → bits (bits (keeping.core 0).team.toNat 0 16) m 1 = 1 → (mfind r.posts m).isSome = true ∨ (mfind (keeping.core 0).keeper.posts m).isSome = true) ∧
    ∀ c ∈ teamCores 0 (bits (keeping.core 0).team.toNat 0 16), (keeping.core c).kpRoom = true :=
  ⟨⟨[127], 1, 1, 0, [(0, (0, [127, 127, 127, 127]))]⟩, [], by decide +kernel, by decide +kernel, by decide +kernel, by decide +kernel, by decide +kernel,
    by decide +kernel⟩
/-- R131: drained rows for a window of the context, and for none. -/
def drained (off : Nat) : MdrpReq := ⟨0, 0, off, 8, [0], ret0, 0, false⟩
/-- R160: a `BIND` of slot 0 that has been sent; its word stands at its address. -/
def binding (w : Nat) : State :=
  ((withRegion false).setBytes (codeAddr 0 0) (leBytes 4 w)).updCur fun x => { x with wait := .sent }
theorem wit_network_events :
    (let s := one.updCore 0 fun x => { x with sendQ := [⟨0, 0, some (msg0, 5, none)⟩] }
     (s.core 0).sendHead false = some ⟨0, 0, some (msg0, 5, none)⟩ ∧ ((s.core 0).sendHead true).isNone = true) ∧
    postFirst 1 [] (flying [.clRow 0 1 0]).net = false ∧ (flying [.mdrp (drained 0)]).scrumBehind 0 (.mdrp (drained 0)) = false ∧
    (flying [.kpost 0 1 0 []]).earlier 0 (·.postOf 0 1) = false ∧
    (flying [.clRow 0 1 0]).earlier 0 (·.otherRow 0 1) = false ∧ (flying [.clRow 0 1 0]).net.all ((flying [.clRow 0 1 0]).rowFits 1) = true ∧
    ((flying []).core 0).windowOf 0 (drained 0x7FC0).off 64 = true ∧ ((flying []).core 0).windowOf 0 (drained 0x7FC1).off 64 = false ∧
    ((flying [.trap 0]).taken 0).net.findIdx? (·.sameTrap 0) = none ∧ (((flying [.trap 0]).taken 0).backstopTakes 0).isSome = true ∧
    ((binding 0x0018_8041).slot 0 0).st = .running ∧ ((binding 0x0018_8041).slot 0 0).wait = .sent ∧
    (binding 0x0018_8041).fetchAt ((binding 0x0018_8041).slot 0 0).here.toNat = some (.bind 0 3 4, 2) ∧
    (binding 0x0818_8041).fetchAt ((binding 0x0818_8041).slot 0 0).here.toNat = some (.unbd 0 3 4, 2) := by decide +kernel
/-- R78, R87: a notice of a live halt, and one that clears the mark of it. -/
def halted0 (l : List Pkt) : State := { flying l with halts := [⟨0, 1, 0, 0, 0, 0, 0, 0, 0⟩], marks := [⟨1, 0, .home 0x200⟩] }
theorem wit_notices : (halted0 [.notice 1 0 0 (.home 0x200)]).enginePublishes 0 (.home 0x200) = false ∧ (halted0 [.notice 1 0 0 (.home 0x200)]).earlier 0 (·.updates 0 (.home 0x200)) = false ∧
    (∃ h ∈ ((halted0 [.notice 1 0 0 (.home 0x200)]).taken 0).halts, h.hid = 1 ∧ h.ctx = 0) ∧
    (halted0 [.clear 1 0 0 (.home 0x200)]).earlier 0 (fun p => p.noticeOf 1 0 == some (.home 0x200)) = false ∧
    ((halted0 [.clear 1 0 0 (.home 0x200)]).taken 0).marks[0]? = some ⟨1, 0, .home 0x200⟩ := by decide +kernel

/-! ## Witnesses: slots and cores -/

/-- R11, R14: slot 1 of core 0, a handler idle with a message in its queue. -/
def ready1 : State := ((one.updSlot 0 1 fun x => { x with st := .idle, bind := BitVec.ofNat 256 (2 ^ 255 + 2 ^ 231) })).updCore 0 fun x =>
  { x with loQ := [⟨msg0, none⟩] }
theorem wit_dispatch : ∃ c, ready1.nextFire 0 0 = some (1, c) := ⟨_, rfl⟩
theorem wit_launch_start : (let s : State := { one with launches := [{ launch0 with waiting := true, after := some 2 }, { launch0 with id := 2, trigDone := true }] }
    (∃ l, s.launchOf 1 = some l ∧ l.waiting = true ∧ l.after = some 2) ∧ ∃ b, s.launchOf 2 = some b ∧ b.trigDone = true) :=
  ⟨⟨_, rfl, rfl, rfl⟩, ⟨_, rfl, rfl⟩⟩
/-- R138: core 0 waiting in its `CMPS`, its bound passed. -/
def grantable : State := { composable.updSlot 0 0 fun x => { x with wait := .compose 2, waitExp := some 5 } with now := 5 }
theorem wit_compose_grant : grantable.composing 0 = true ∧ grantable.canCompose 0 (grantable.composeK 0) = true ∧ grantable.preemptFirst 0 = false ∧
    (grantable.slot 0 0).waitExp = some 5 ∧ 5 ≤ grantable.now.toNat := by decide +kernel
/-- Slot 0 of core 0 waiting, at clock 256. -/
def waits (w : Wait) (f : Slot → Slot) : State := { (oneWith fun x => f { x with wait := w }) with now := 256 }
theorem wit_slot_events :
    ((waits (.align []) id).slot 0 0).since + 256 ≤ (waits (.align []) id).now.toNat ∧
    ((waits .rollback fun x => { x with restart := true }).slot 0 0).restart = true ∧ ((waits .rollback fun x => { x with restart := true }).slot 0 0).pend = [] ∧
    ((waits .rollback fun x => { x with restart := false }).slot 0 0).restart = false ∧ ((waits .rollback id).slot 0 0).doom = 0 ∧
    ((waits .rollback fun x => { x with doom := 7 }).slot 0 0).doom ≠ 0 ∧ ((waits .rollback id).slot 0 0).wait = .rollback ∧
    ((waits .sent fun x => { x with waitExp := some 256 }).slot 0 0).waitExp = some 256 ∧ (256 : Nat) ≤ (waits .sent id).now.toNat ∧
    ((waits .none fun x => { x with dl := 256 }).slot 0 0).claimed = false ∧ ((waits .none fun x => { x with dl := 256 }).slot 0 0).dl ≠ 0 ∧
    ((waits .none fun x => { x with dl := 256 }).slot 0 0).dl.toNat ≤ (waits .none id).now.toNat ∧
    State.reset.bindRefused 0 3 0 = false ∧ (State.reset.slot 0 3).st = .unbound ∧ one.bindRefused 0 0 0 = false ∧ (one.slot 0 0).st = .running := by
  decide +kernel
theorem wit_preemption : (let s := one.updCore 0 fun x => { x with preq := 1 }
    canSave s 0 0 ∧ (s.seated 0 0).st = .running ∧ bits (s.core 0).preq.toNat 0 1 = 1) :=
  ⟨⟨by decide, by decide, by decide +kernel, by decide +kernel⟩, by decide +kernel⟩
/-- R149: slot 0 of core 1, which the scrum of core 0 holds. -/
theorem wit_preemption_of_scrum : (let s := (((oneWith fun x => { x with scrum := some ⟨2, 0, 64⟩ }).updSlot 1 0 fun x =>
      { x with st := .running, claimed := true, member := some 0 }).updCore 1 fun x => { x with preq := 1 })
    canSave s 1 0 ∧ s.ownerOf 1 0 = (0, 0) ∧ (s.seated 1 0).st = .running ∧ bits (s.core 1).preq.toNat 0 1 = 1) :=
  ⟨⟨by decide, by decide, by decide +kernel, by decide +kernel⟩, by decide +kernel⟩
/-- R365: a handler in slot 0 of lower priority than the message that waits. -/
theorem wit_gives_way : (let s := (oneWith fun x => { x with bind := x.bind ||| BitVec.ofNat 256 (2 ^ 231) }).updCore 0 fun x =>
      { x with loQ := [⟨{ msg0 with hdr := BitVec.ofNat 128 (2 ^ 29) }, none⟩] }
    canSave s 0 0 ∧ bits (s.core 0).preq.toNat 0 1 = 0 ∧ s.givesWay 0 0 = true) :=
  ⟨⟨by decide, by decide, by decide +kernel, by decide +kernel⟩, by decide +kernel⟩
/-- R365: a slice that is over, claimed by a saved firing of the slot; and that firing once the slot is idle (R368). -/
def sliced : State :=
  let s := oneWith fun x => { x with bind := x.bind ||| BitVec.ofNat 256 (4096 * 2 ^ 177), ran := 4096 }
  { s with saved := [⟨0, 0, 0, [], s.slot 0 0, some msg0, []⟩] }
theorem wit_slice : canSave sliced 0 0 ∧ (sliced.slot 0 0).sliceLen ≠ 0 ∧ (sliced.slot 0 0).sliceLen ≤ (sliced.slot 0 0).ran ∧
    sliced.sliceClaimed 0 0 = true :=
  ⟨⟨by decide, by decide, by decide +kernel, by decide +kernel⟩, by decide +kernel⟩
theorem wit_resume : (let s : State := { (oneWith fun x => { x with st := .idle }) with saved := [⟨0, 0, 0, [], one.slot 0 0, some msg0, []⟩] }
    (∃ v, s.nextSaved 0 0 = some v ∧ (s.slot 0 0).bind = v.body.bind) ∧ (s.slot 0 0).st = .idle ∧ (s.slot 0 0).zeroing = false ∧
    (s.core 0).fenced = false ∧ s.reservedFor 0 = none) :=
  ⟨⟨⟨0, 0, 0, [], one.slot 0 0, some msg0, []⟩, by decide +kernel, by decide +kernel⟩, by decide +kernel⟩
theorem wit_core_events :
    (let s := one.updCore 0 fun x => { x with wdog := 1, wdCnt := 1024 }
     (s.core 0).wdog ≠ 0 ∧ (s.core 0).wdog.toNat * 1024 ≤ (s.core 0).wdCnt) ∧
    (let s := one.updCore 0 fun x => { x with fenced := true, remap := true }
     (s.core 0).fenced = true ∧ (s.core 0).remap = true) ∧
    ((oneWith fun x => { x with zeroing := true }).slot 0 0).zeroing = true ∧
    (let s := { one.updCore 0 fun x => { x with bankAt := [(3, 7)] } with now := 7 }
     mfind (s.core 0).bankAt 3 = some 7 ∧ (7 : Nat) ≤ s.now.toNat) ∧
    (let s := (oneWith fun x => { x with wait := .bank [(0, 0)] }).updCore 0 fun x => { x with pwr := 1 }
     (s.core 0).bank 0 = 1 ∧ (s.slot 0 0).wait = .bank [(0, 0)]) ∧
    (let s := oneWith fun x => { x with checks := [⟨0, none, 0, 0⟩] }
     (s.slot 0 0).checks = [⟨0, none, 0, 0⟩] ∧ s.checkOk 0 ⟨0, none, 0, 0⟩ 0 0 = false) ∧
    ((one.updCore 0 fun x => { x with bist := [(1, 0, ret0)] }).core 0).bist = [(1, 0, ret0)] ∧
    (let s := { one.updCore 0 fun x => { x with pmRot := 1 } with now := 1024 }
     bits (s.core 0).pmRot.toNat 0 16 ≠ 0 ∧ (s.core 0).pmAt + bits (s.core 0).pmRot.toNat 0 16 * 1024 ≤ s.now.toNat) ∧
    ({ one with snapAt := some 0 } : State).snapAt = some 0 ∧
    (let s := one.updCtx 0 fun c => { c with trace := 0x80000000 }
     (s.ctx 0).live = true ∧ bits (s.ctx 0).trace.toNat 31 1 = 1) ∧
    (let s := { one.updCtx 0 fun c => { c with trace := 0x80000001 } with now := 128 }
     s.sampleTick 0 = true ∧ (s.ctx 0).live = true ∧ bits (s.ctx 0).trace.toNat 31 1 = 1) ∧ one.sampleTick 0 = false := by decide +kernel

/-- R368: a token on its way follows the firing that is restored into slot 2. -/
theorem test_rehome : ((flying [.token ret0 5]).rehome ⟨0, 0, 0, 2⟩).net = [.token { ret0 with slot := 2, place := ⟨0, 2, 0⟩ } 5] := by
  decide +kernel

/-! ## Witnesses: the copy engine and the fabric -/

/-- R373: context 0 with tables at 0x10000 and 0x20000 that map far 0 to 2^34 onto HBM 0, writable. -/
def mapped : State :=
  ((one.updCtx 0 fun c => { c with root := 0x10000 }).setBytes (hbmAddr 0x10000) (toLe 8 (2 ^ 63 + 0x20000))).setBytes (hbmAddr 0x20000)
    (toLe 8 (2 ^ 63 + 2 ^ 62 + 2 ^ 61 + 2 ^ 60))

/-- `mapped` with a command under way in engine 0. -/
def working : State := mapped.updEngine 0 fun en => { en with cur := some cmd0, todo := [.put (.far 0x100) [1] false] }
theorem wit_engine : (let u := one.takeKicks 0 one.net.length;
      (u.engine 0).hid = 0 ∧ (u.engine 0).cur = none) ∧
    (let u := working.takeKicks 0 working.net.length;
      (u.engine 0).hid = 0 ∧ (u.engine 0).cur = some cmd0 ∧ (u.engine 0).ucode = false) ∧
    (working.engine 0).cur = some cmd0 ∧ (working.engine 0).hid = 0 ∧ (working.engine 0).todo = [.put (.far 0x100) [1] false] ∧
    ((0x100, true) : Nat × Bool) ∈ (Micro.put (.far 0x100) [1] false).fars ∧ isOk (working.xlat 0 cmd0 0x100 true).1 = true := by decide +kernel

/-- R306: a kick on its way to engine 0, which it reaches. -/
theorem wit_engine_takes : (let s : State := { one with net := [.kick cmd0] };
    let u := s.takeKicks 0 s.net.length;
    (u.engine 0).hid = 0 ∧ (u.engine 0).cur = none ∧ (u.engine 0).parked = [] ∧ (u.engine 0).queue = [cmd0] ∧ cmd0.guard = none ∧
    u.cmdMoves cmd0 = false ∧ (u.engine 0).ucode = false ∧ cmd0.code ≠ 7) := by decide +kernel

/-- `one` at position 2 with peer 1 in its context's table. -/
def peered : State := { (one.updCtx 0 fun c => { c with peers := [(1, 0x8000)] }) with pos := 2, fab := { Fab.reset with pod := 7 } }
/-- R382: headers from peer 1: a marker, a read, a message, a far release, an answer to tag 5 of generation 3. -/
def peerHdr (op size : Nat) : BitVec 128 := fabHdr op 0 1 2 0 5 3 9 0 0 size 0
theorem wit_requests : (∀ p ∈ [(4, 0), (0, 2), (3, 0), (3, 1)], hdrBad (peerHdr p.1 p.2) = false ∧ (State.reset.ctx (dF (peerHdr p.1 p.2) 104 8)).live = false ∧ dF (peerHdr p.1 p.2) 112 5 = peered.pos.toNat ∧
      dF (peerHdr p.1 p.2) 124 4 = p.1 ∧ dF (peerHdr p.1 p.2) 57 4 = p.2) ∧
    (peered.ctx (dF (peerHdr 0 2) 104 8)).live = true ∧ bits (one.peerEntry 0 (dF (peerHdr 0 2) 117 5)) 15 1 = 0 ∧ bits (peered.peerEntry 0 (dF (peerHdr 0 2) 117 5)) 15 1 = 1 ∧
    peered.moving (dF (peerHdr 3 0) 0 14) = false := by decide +kernel
/-- R386: tag 5 of engine 0 waiting for the value of a command, and one waiting for far bytes. -/
def tagged (c : Cont) : State :=
  { peered.updEngine 0 fun en => { en with cur := some cmd0, tags := [(5, { Tag.reset with busy := true, gen := 3, cont := c })] } with now := 24576 }
theorem wit_reply : hdrBad (peerHdr 8 0) = false ∧ 5 ≤ dF (peerHdr 8 0) 124 4 ∧ dF (peerHdr 8 0) 112 5 = peered.pos.toNat ∧
    (peered.ctx (dF (peerHdr 8 0) 104 8)).live = true ∧
    ∀ c ∈ [Cont.ack, .tok ret0, .obj (objReq .acq 0), .near 0x100 4, .value, .reg ret0],
      let s := { tagged c with now := 24575 }
      let t := mget (s.engine 0).tags (dF (peerHdr 8 0) 94 10) Tag.reset
      t.busy = true ∧ dF (peerHdr 8 0) 90 4 = t.gen.toNat ∧ s.now.toNat < t.sent + s.fab.tmo.toNat * 256 := by decide +kernel
/-- R386: a reply in the cycle of its tag's time-out is stale. -/
theorem test_reply_in_time_out_cycle : (match exec (.fabricReply 0 (peerHdr 8 0) [0, 0, 0, 0]) (tagged .ack) with
      | .next t => mget (t.ctx 0).stale 0 0 == 1
      | _ => false) = true := by decide +kernel
theorem wit_tags : (let t := mget ((tagged .ack).engine 0).tags 5 Tag.reset
      t.busy = true ∧ t.sent + (tagged .ack).fab.tmo.toNat * 256 ≤ (tagged .ack).now.toNat) ∧
    (let s := { one.updEngine 0 fun en => { en with tags := [(5, { Tag.reset with hold := true })] } with now := 65536 }
     let t := mget (s.engine 0).tags 5 Tag.reset
     t.hold = true ∧ t.sent + 65536 ≤ s.now.toNat) := by decide +kernel
theorem wit_links : one.linkKept 95 31 ≤ relink (one.linkKept 95 31) (64 - 4) ∧ relink (one.linkKept 95 31) (64 - 4) ≠ 0 ∧
    one.linkKept 95 31 ≠ 0 ∧ relink (one.linkKept 95 31) (64 - 64) = 0 ∧
    ((one.updPlane 95 (·.start 7)).plane 95).run = true ∧ (31 : Nat) ≠ one.pos.toNat ∧ (one.ctx 0).live = true := by decide +kernel

/-! ## Witnesses: the host (R346 to R357) -/

/-- R349: a submission to core 5 with status slot 63. -/
def submission : List Byte := toLe 64 (63 * 2 ^ 106 + 5 * 2 ^ 32)
theorem wit_inbox : submission.length = 64 ∧ (one.ctx 0).live = true ∧ (one.ctx 0).fenced = false ∧
    bits (leNat (submission.take 16)) 106 6 = 63 ∧ statusSt (one.status 0 63) = 0 ∧ one.moving 5 = false ∧ (0xFC0 : Nat) % 64 = 0 ∧
    (one.ctx 255).live = false ∧ (1 : Nat) % 64 ≠ 0 ∧ statusSt ((one.setStatus 0 63 1 0 0 0).status 0 63) ≠ 0 := by decide +kernel
/-- R320: the two requests of `SYS`. -/
def asking (ws : List W32) : State := { one with net := [.sysReq 0 0 0 0 ws] }
theorem wit_sys : (asking [1, 7, 1, 0]).net[0]? = some (.sysReq 0 0 0 0 [1, 7, 1, 0]) ∧ (asking [1, 7, 1, 0]).sysWaits 0 0 = false ∧
    ((asking [1, 7, 1, 0]).ctx 0).sup = 0 ∧ (7 : W32) = BitVec.ofNat 32 7 ∧ (asking [2, 7, 1, 0]).sysWaits 0 0 = false := by decide +kernel
theorem wit_host_memory : mapped.hostPlace 0 0x40000 false = some (hbmAddr 0x40000) ∧ mapped.hostPlace 0 0x40000 true = some (hbmAddr 0x40000) ∧
    mapped.tamperedAt (hbmAddr 0x40000) 256 = false ∧ mapped.poisoned (hbmAddr 0x40000) 256 = false := by decide +kernel
set_option maxRecDepth 100000 in
theorem wit_reset : State.reset.ouvaBad = false ∧ State.reset.mapOk = true ∧ (0, one.ctx 0) ∈ one.ctxs ∧ (one.ctx 0).live = true := by
  decide +kernel

/-- R327: an image of one halfword of code, one actor that is not valid, and one signature entry. -/
def smallImage : List Byte :=
  toLe 64 (0x495A5953 + 2 ^ 32 + 64 * 2 ^ 64 + 2 ^ 96 + 128 * 2 ^ 128 + 2 ^ 160 + 192 * 2 ^ 192 + 2 ^ 224) ++ toLe 64 0 ++ toLe 64 0 ++ toLe 8 (2 ^ 32)
/-- `mapped` with that image at far 0x40000. -/
def imaged : State := mapped.setBytes (hbmAddr 0x40000) smallImage
set_option maxRecDepth 100000 in
theorem wit_images : imaged.farPlaces 0 0x40000 200 false = some [(hbmAddr 0x40000, 200)] ∧
    imaged.poisoned (hbmAddr 0x40000) 200 = false ∧ imaged.imageTag 0 0x40000 200 = none ∧ imaged.spanTag 0 0x7FFFF 2956 true = none := by decide +kernel
set_option maxRecDepth 100000 in
theorem wit_image_parses : (parseImage smallImage).isSome = true := by decide +kernel
theorem wit_image_loads : (imaged.loadImage 0 (imaged.gather [(hbmAddr 0x40000, 200)]) [0, 12287]).isSome = true := by decide +kernel
theorem wit_report : imaged.farPlaces 0 0x7FFFF 2956 true = some [(hbmAddr 0x7FFFF, 1), (hbmAddr 0x80000, 2955)] ∧ imaged.leaf < 2 ^ 20 := by decide +kernel

/-- `one`, its context debuggable. -/
def debugged : State := one.updCtx 0 fun c => { c with debug := true }
theorem wit_mailbox : mayCommand one 0 0 ∧ (one.ctx 7).live = false ∧ one.ouvaBad = false ∧ ({ one with ouvaBad := true } : State).ouvaBad = true ∧
    createOk 7 1 0 0x2000 0 0x2000 0x10000 0 0 = true ∧ mayDebug debugged 0 0 ∧ canHalt debugged 0 0 0 ∧
    (2 ^ 57 - 2 ^ 19 : Nat) % 2 ^ 19 = 0 ∧ one.translating 0 = false :=
  ⟨⟨by decide, .inl rfl, by decide +kernel⟩, by decide +kernel, by decide +kernel, by decide +kernel, by decide +kernel,
    ⟨⟨by decide, .inl rfl, by decide +kernel⟩, by decide +kernel⟩,
    ⟨by decide, by decide, by decide +kernel, by decide +kernel, by decide +kernel, by decide +kernel⟩, by decide, by decide +kernel⟩
/-- R403: the slot halted. -/
def stopped : State := debugged.updCur fun x => { x with st := .halted }
theorem wit_items : (∀ i ∈ [DbgItem.window 0x7FFF 1, .desc 47, .guard 6, .special 0x005],
      namesItem stopped 0 0 0 i ∧ stopped.itemPending 0 0 i = false ∧ stopped.itemTakes 0 0 i (stopped.itemBytes 0 0 i).length = true) ∧
    mayDebug stopped 0 0 ∧ stopped.ownerOf 0 0 = (0, 0) ∧ (stopped.slot 0 0).st = .halted := by
  refine ⟨?_, ⟨⟨by decide, .inl rfl, by decide +kernel⟩, by decide +kernel⟩, by decide +kernel⟩
  unfold namesItem
  decide +kernel
theorem wit_observation : (2 ^ 57 - 64 : Nat) % 64 = 0 ∧ one.now.toNat + 4096 ≤ (4096 : W64).toNat ∧ snapBlocks - 1 < snapBlocks ∧
    ({ one with errLog := [5] } : State).errLog[0]? = some 5 ∧ srPrivate 0x200 = true ∧ (srAcc 0x200).isSome = true ∧
    srLocked 0x210 true = false ∧ (srAcc 0x210).isSome = true ∧ srPrivate 0x210 = true := by decide +kernel
/-- R346, R401: functions, contexts: not the PF; not live; fenced; not debuggable. -/
theorem wit_refusals : (7 : Nat) ≠ 0 ∧ (one.ctx 7).live = false ∧ ((one.updCtx 0 fun c => { c with fenced := true }).ctx 0).fenced = true ∧
    (one.ctx 0).debug = false := by decide +kernel
theorem wit_bare_debug : mayCommand one 0 0 := ⟨by decide, .inl rfl, by decide +kernel⟩

/-! ## Witnesses: the whole machine -/

/-- A firing at the word of an `ADD`, one at a reserved halfword, one past a code of four halfwords. -/
def atWord (w : Nat) : State := State.reset.withFetchWord 32 w
def pastCode : State := (oneWith fun x => { x with pc := 4 }).updCtx 0 fun c => { c with image := some { bareImage with codelen := 4 } }
theorem wit_step : (∀ w ∈ [0b00001_01_000011_000010_000001_000001_1, 0], (atWord w).agenda = [] ∧ (atWord w).issueOrder 0 = [0] ∧
      (atWord w).cur.nextBody = none ∧ (atWord w).cur.pc.toNat < (atWord w).codeEnd) ∧
    isOk (decode (halves ((atWord 0b00001_01_000011_000010_000001_000001_1).bytesAt (codeAt one 0) 8))) = true ∧
    isOk (decode (halves ((atWord 0).bytesAt (codeAt one 0) 8))) = false ∧
    State.reset.issueOrder 0 = [] ∧ pastCode.codeEnd ≤ pastCode.cur.pc.toNat ∧ encode (.powerCap true) = [] := by decide +kernel
/-- R272: a repetition that is under way. -/
theorem wit_step_repeated : (oneWith fun x => { x with rep := some ⟨[(.nop, 0, 1)], 2, 0, 0, 0, true, 1, false⟩ }).cur.nextBody = some .nop := by
  decide +kernel
theorem wit_canonical : Memory.wf State.reset.mem = true ∧ Memory.wf one.mem = true := by decide +kernel
theorem wit_round_trip : (Instr.add 0 3 2 1).WellFormed ∧ encode (.add 0 3 2 1) ≠ [] ∧
    isOk (decode [0b1_00011_00010_0001_0#16]) = true := by decide +kernel
theorem wit_guard_numbers : 7 ≤ (63 : BitVec 6).toNat ∧ 8 ≤ (8 : BitVec 6).toNat ∧ (6 : BitVec 6).toNat < 7 ∧ (55 : BitVec 6).toNat < 56 := by
  decide
theorem wit_mesh : (95 : Nat) < 96 ∧ (127 : Nat) < 128 ∧ (767 : Nat) < 768 ∧ (15 : Nat) < 16 ∧ 127 * 96 + 95 < numCores := by decide

/-- R127: a firing that owes the trap of its keeper's stream. -/
theorem wit_step_keeper : (let s := oneWith fun x => { x with kfault := some 2 }
    s.agenda = [] ∧ s.issueOrder s.curCore = [0] ∧ (seatedAt s 0).cur.kfault = some 2) := by decide +kernel

/-! ## Results that the spec gives, one step each -/

/-- The four bytes of a word view of `one` after an instruction, as a number. -/
def wordAfter (i : Instr) (s : State) (off : Nat) : Nat := match exec i s with | .next t => leNat (t.winGet ⟨0, 0, off⟩ 4) | _ => 0
/-- The state after an instruction. -/
def after (i : Instr) (s : State) : State := match exec i s with | .next t => t | _ => s

/-- R96: n32 wraps; R97 and the table of R226: a subtraction's order, saturation, a high half. -/
theorem test_add_wraps : wordAfter (.add 0 2 1 0) (oneAt (2 ^ 32 - 1)) 0 = 2 := by decide +kernel
theorem test_sub_order : wordAfter (.sub 0 2 1 0) one 0 = 2 ∧ wordAfter (.rsub 0 2 1 0) one 0 = 2 ^ 32 - 2 := by decide +kernel
theorem test_adds_saturates : wordAfter (.adds 0 2 1 0) (oneAt (2 ^ 32 - 1)) 0 = 2 ^ 32 - 1 ∧ wordAfter (.subs 0 1 2 0) one 0 = 0 := by decide +kernel
theorem test_mulh : wordAfter (.mulh 0 1 1 0) (oneAt (2 ^ 32 - 1)) 0 = 2 ^ 32 - 2 := by decide +kernel
/-- A source that is also the destination. -/
theorem test_mul_square : wordAfter (.mul 0 1 1 1) (oneAt 0x10001) 4 = 0x20001 := by decide +kernel
theorem test_andn_not : wordAfter (.andn 0 2 1 0) one 0 = 4 ∧ wordAfter (.not 0 1 0) one 0 = 2 ^ 32 - 6 := by decide +kernel
theorem test_rotates : wordAfter (.rol 0 2 1 0) (oneAt 0x80000001) 0 = 0xC ∧ wordAfter (.ror 0 2 1 0) (oneAt 0x80000001) 0 = 0x30000000 := by
  decide +kernel
theorem test_counts : wordAfter (.clz 0 1 0) one 0 = 29 ∧ wordAfter (.ctz 0 1 0) (oneAt 8) 0 = 3 ∧ wordAfter (.popc 0 1 0) one 0 = 2 ∧
    wordAfter (.brev 0 1 0) one 0 = 0xA0000000 := by decide +kernel
/-- R233: a literal as bits; R234: the near address of a slice's last byte. -/
theorem test_li : wordAfter (.li 1 0x89ABCDEF) one 4 = 0x89ABCDEF ∧ wordAfter (.near 1 0x17FFF) one 4 = 0x17FFF := by decide +kernel
/-- R235: the worked example: `ADDA` and `LEA` from byte 0x1_7FFC of core 5 by 8, here with b = 8. -/
theorem test_adda_lea : wordAfter (.adda 0 2 1 0) ((oneAt 0x000B7FFC).winPut ⟨0, 0, 8⟩ (toLe 4 8)) 0 = 0x000C0004 ∧
    wordAfter (.lea 0 2 1 0) ((oneAt 0x000B7FFC).winPut ⟨0, 0, 8⟩ (toLe 4 8)) 0 = 0x000B8004 := by decide +kernel
theorem test_lcore : wordAfter (.lcore 0 1 0) (oneAt (2 * 2 ^ 16 + 3)) 0 = 195 ∧ wordAfter (.lcore 0 1 0) (oneAt 96) 0 = 2 ^ 32 - 1 := by
  decide +kernel
/-- R237, R238: a compare and what `SEL` takes. -/
theorem test_cmp : ((after (.cmp 2 0 1 2 0) one).cur.guard 0).m = 0xFFFF ∧ ((after (.cmp 2 0 2 1 0) one).cur.guard 0).m = 0 := by decide +kernel
theorem test_sel : wordAfter (.sel 2 1 0 false 7) one 0 = 5 ∧ wordAfter (.sel 2 1 0 true 7) one 0 = 3 := by decide +kernel
/-- R240: the halfword a branch goes to; R243: the count of a loop. -/
theorem test_br : (after (.br 3 false false 7) one).cur.pc = 3 ∧ (after (.br 3 false true 7) one).cur.pc = 2 := by decide +kernel
theorem test_loop : wordAfter (.loop 3 1) one 4 = 4 ∧ (after (.loop 3 1) one).cur.pc = 3 ∧ wordAfter (.loop 3 1) (oneAt 1) 4 = 0 ∧
    (after (.loop 3 1) (oneAt 1)).cur.pc = 2 := by decide +kernel
/-- R262: a slide by 5 of the words 1 to 16: past the last one it reads zero; R263, R110: their sum, and the fourth prefix sum. -/
def ramp : State := one.winPut ⟨0, 0, 64⟩ ((List.range 16).flatMap fun i => toLe 4 (i + 1))
theorem test_slide : wordAfter (.slide 0 1 6 7) ramp 128 = 6 ∧ wordAfter (.slide 0 1 6 7) ramp (128 + 4 * 11) = 0 := by decide +kernel
theorem test_redadd : wordAfter (.redadd 0 6 0) ramp 0 = 136 ∧ wordAfter (.scan 0 6 7) ramp 140 = 10 := by decide +kernel
/-- R99: 1.0 + 1.0 in f32. -/
theorem test_add_f32 : wordAfter (.add 0 15 15 15) (one.winPut ⟨0, 0, 580⟩ (toLe 4 0x3F800000)) 580 = 0x40000000 := by decide +kernel
/-- R224: a class mix is refused, its handles named. -/
theorem test_class_mix : mismatch .any .none (arithTy 0 [.hnd 1, .hnd 15] one) (one.view 0) [one.view 1, one.view 15] ≠ [] := by decide +kernel

/-! ## Worked examples of the rules on numbers -/

/-- R115: the table at its end: two products of 2^-24 added to 1.0 in bf16, and in e4m3 with scales 0x73 and 0x7F. -/
theorem test_sum_orders :
    (let w := Ty.bf16.num 0x3980
     mmaElem .bf16 .bf16 0x3F800000 [w, w] [w, w] []).1 = 0x3F800000 ∧
    (let w := Ty.e4m3.num 0x08
     mmaElem .e4m3 .e4m3 0x3F800000 [w, w] [w, w] [scaleSum 0x73 0x7F]).1 = 0x3F800001 := by decide +kernel
/-- R115: an i8 sum past the range of i32 wraps and says so. -/
theorem test_i8_overflow : mmaElem .i8 .i8 0x7FFFFFFF [Ty.i8.num 1] [Ty.i8.num 1] [] = (0x80000000, true) := by decide +kernel
/-- R216: the CRC of "123456789", and of no bytes. -/
theorem test_crc : crc16 [0x31, 0x32, 0x33, 0x34, 0x35, 0x36, 0x37, 0x38, 0x39] = 0x29B1 ∧ crc16 [] = 0xFFFF := by decide +kernel
/-- R217: the block of the worked example, `END` alone at halfword 9: its fields, both signatures, and the entry they make. -/
theorem test_signatures : sigFields 0x0800_0033 0 = [0x19, 0, 0, 0, 0xFF] ∧ dsigOf [(9, 0x0800_0033, 0)] = 0xA3DA ∧
    (successors .endFiring 9 11).map ssigOf = some 0xFFFF := by decide +kernel
/-- R140: the positions of the block at 0x1234. -/
theorem test_positions : [2, 4, 8, 16].map (fun k => scrumPos k 0x1234) = [1, 2, 1, 8] := by decide +kernel
end Sys2Proof.Tests
end

/-! ## The logical mesh (R2 to R4)

A core is its column and its row. The die, the cluster and the member index are read from these two, and a cluster's number and a member
index give the column and the row back in parts: `_ / 4` from the cluster, `_ % 4` from the member. -/

section
namespace Sys2Proof.Machine

/-! ### Column and row -/

theorem coreNumber_lt {x y : Nat} (hx : x < 96) (hy : y < 128) : y * 96 + x < numCores := by
  unfold numCores; omega

theorem coreX_coreNumber {x : Nat} (y : Nat) (hx : x < 96) : coreX (y * 96 + x) = x := by
  unfold coreX; omega

theorem coreY_coreNumber {x : Nat} (y : Nat) (hx : x < 96) : coreY (y * 96 + x) = y := by
  unfold coreY; omega

theorem coreX_lt (c : Nat) : coreX c < 96 := Nat.mod_lt _ (by decide)

theorem coreY_lt {c : Nat} (hc : c < numCores) : coreY c < 128 := by
  unfold numCores at hc; unfold coreY; omega

theorem coreNumber_coreY_coreX (c : Nat) : coreY c * 96 + coreX c = c := Nat.div_add_mod' c 96

/-- The keys of the copy engines begin past the last logical core. -/
theorem isEngine_of_lt_numCores {c : Nat} (hc : c < numCores) : isEngine c = false := by
  unfold numCores at hc
  exact decide_eq_false (by omega)

/-! ### Die, cluster and member of a logical core -/

theorem dieOf_core {c : Nat} (hc : c < numCores) : dieOf c = 2 * (coreY c / 64) + coreX c / 48 := by
  simp [dieOf, isEngine_of_lt_numCores hc]

theorem clusterOf_core {c : Nat} (hc : c < numCores) : clusterOf c = coreY c / 4 * 24 + coreX c / 4 := by
  simp [clusterOf, isEngine_of_lt_numCores hc]

theorem clusterOf_lt {c : Nat} (hc : c < numCores) : clusterOf c < 768 := by
  have hx := coreX_lt c
  have hy := coreY_lt hc
  rw [clusterOf_core hc]; omega

theorem memberOf_lt (c : Nat) : memberOf c < 16 := by
  unfold memberOf; omega

theorem clusterOf_div {c : Nat} (hc : c < numCores) : clusterOf c / 24 = coreY c / 4 := by
  have hx := coreX_lt c
  rw [clusterOf_core hc]; omega

theorem clusterOf_mod {c : Nat} (hc : c < numCores) : clusterOf c % 24 = coreX c / 4 := by
  have hx := coreX_lt c
  rw [clusterOf_core hc]; omega

theorem memberOf_div (c : Nat) : memberOf c / 4 = coreY c % 4 := by
  unfold memberOf; omega

theorem memberOf_mod (c : Nat) : memberOf c % 4 = coreX c % 4 := by
  unfold memberOf; omega

/-- R4: no cluster crosses a die boundary, for the dies' sides of 48 columns and 64 rows are multiples of 4: the cluster alone tells the
die. -/
theorem dieOf_eq_of_cluster {c : Nat} (hc : c < numCores) :
    dieOf c = 2 * (clusterOf c / 24 / 16) + clusterOf c % 24 / 12 := by
  rw [dieOf_core hc, clusterOf_div hc, clusterOf_mod hc, Nat.div_div_eq_div_mul, Nat.div_div_eq_div_mul]

/-! ### The core of a cluster's member -/

theorem memberColumn_lt (k i : Nat) : k % 24 * 4 + i % 4 < 96 := by omega

theorem coreX_coreOfMember (k i : Nat) : coreX (coreOfMember k i) = k % 24 * 4 + i % 4 :=
  coreX_coreNumber _ (memberColumn_lt k i)

theorem coreY_coreOfMember (k i : Nat) : coreY (coreOfMember k i) = k / 24 * 4 + i / 4 :=
  coreY_coreNumber _ (memberColumn_lt k i)

theorem coreOfMember_lt {k i : Nat} (hk : k < 768) (hi : i < 16) : coreOfMember k i < numCores :=
  coreNumber_lt (memberColumn_lt k i) (by omega)

theorem clusterOf_coreOfMember {k i : Nat} (hk : k < 768) (hi : i < 16) : clusterOf (coreOfMember k i) = k := by
  rw [clusterOf_core (coreOfMember_lt hk hi), coreX_coreOfMember, coreY_coreOfMember]; omega

theorem memberOf_coreOfMember (k : Nat) {i : Nat} (hi : i < 16) : memberOf (coreOfMember k i) = i := by
  rw [memberOf, coreX_coreOfMember, coreY_coreOfMember]; omega

theorem coreOfMember_clusterOf_memberOf {c : Nat} (hc : c < numCores) : coreOfMember (clusterOf c) (memberOf c) = c :=
  calc coreOfMember (clusterOf c) (memberOf c)
      = (coreY c / 4 * 4 + coreY c % 4) * 96 + (coreX c / 4 * 4 + coreX c % 4) := by
        rw [coreOfMember, clusterOf_div hc, clusterOf_mod hc, memberOf_div, memberOf_mod]
    _ = coreY c * 96 + coreX c := by rw [Nat.div_add_mod', Nat.div_add_mod']
    _ = c := coreNumber_coreY_coreX c

/-- Settles O39: the formulas of R3 and R4 at the column and the row of a core, R4's die of a cluster, and the two inverse laws of
`coreOfMember`. -/
theorem meshNumbers : Obligations.MeshNumbers := by
  refine ⟨fun x y hx hy => ?_, fun c e hc he hce => ?_, fun k i hk hi => ?_, fun c hc => ?_⟩
  · have hc := coreNumber_lt hx hy
    have hX := coreX_coreNumber y hx
    have hY := coreY_coreNumber y hx
    refine ⟨hc, ?_, ?_, clusterOf_lt hc, ?_, memberOf_lt _⟩
    · rw [dieOf_core hc, hX, hY]
    · rw [clusterOf_core hc, hX, hY]
    · rw [memberOf, hX, hY]
  · rw [dieOf_eq_of_cluster hc, dieOf_eq_of_cluster he, hce]
  · exact ⟨coreOfMember_lt hk hi, clusterOf_coreOfMember hk hi, memberOf_coreOfMember k hi⟩
  · exact coreOfMember_clusterOf_memberOf hc

end Sys2Proof.Machine
end

/-! ## Fields of a descriptor, and the rings they describe (R54, R57, R59)

A field of a descriptor is read and written bit by bit: a bit of the field written is the value's, every other bit stays. The ring's own
fields lie above the ones that lay its shape out, so neither a move of the ring nor its ring bit changes the layout. -/

section
namespace Sys2Proof.Machine

/-! ### Bits of a word -/

theorem testBit_bits (v lo n i : Nat) : (bits v lo n).testBit i = (decide (i < n) && v.testBit (lo + i)) := by
  rw [bits, Nat.testBit_mod_two_pow, Nat.testBit_div_two_pow, Nat.add_comm i lo]

/-- A word is what stands above a field, the field, and what stands below it. -/
theorem setBits_eq (v lo n x : Nat) :
    setBits v lo n x = 2 ^ lo * (2 ^ n * (v / 2 ^ (lo + n)) + x % 2 ^ n) + v % 2 ^ lo := by
  have hlow : 2 ^ lo * (v / 2 ^ lo) + v % 2 ^ lo = v := Nat.div_add_mod v (2 ^ lo)
  have hfield : 2 ^ n * (v / 2 ^ (lo + n)) + bits v lo n = v / 2 ^ lo := by
    rw [Nat.pow_add, ← Nat.div_div_eq_div_mul]; exact Nat.div_add_mod _ _
  have hv : v = 2 ^ lo * (2 ^ n * (v / 2 ^ (lo + n))) + bits v lo n * 2 ^ lo + v % 2 ^ lo := by
    rw [Nat.mul_comm (bits v lo n), ← Nat.mul_add, hfield, hlow]
  rw [setBits, Nat.mul_add, Nat.mul_comm (2 ^ lo) (x % 2 ^ n)]
  omega

theorem testBit_setBits (v lo n x i : Nat) :
    (setBits v lo n x).testBit i = if lo ≤ i ∧ i < lo + n then x.testBit (i - lo) else v.testBit i := by
  rw [setBits_eq, Nat.testBit_two_pow_mul_add _ (Nat.mod_lt _ (Nat.two_pow_pos lo))]
  by_cases hbelow : i < lo
  · rw [if_pos hbelow, if_neg (by omega), Nat.testBit_mod_two_pow, decide_eq_true hbelow, Bool.true_and]
  rw [if_neg hbelow, Nat.testBit_two_pow_mul_add _ (Nat.mod_lt _ (Nat.two_pow_pos n))]
  by_cases hin : i < lo + n
  · have hk : i - lo < n := by omega
    rw [if_pos hk, if_pos ⟨by omega, hin⟩, Nat.testBit_mod_two_pow, decide_eq_true hk, Bool.true_and]
  · rw [if_neg (by omega), if_neg (by omega), Nat.testBit_div_two_pow]
    congr 1; omega

/-! ### Fields of a descriptor -/

theorem testBit_dF (d : BitVec 128) (lo n i : Nat) : (dF d lo n).testBit i = (decide (i < n) && d.getLsbD (lo + i)) :=
  testBit_bits d.toNat lo n i

theorem getLsbD_dSet (d : BitVec 128) (lo n x i : Nat) : (dSet d lo n x).getLsbD i =
    (decide (i < 128) && if lo ≤ i ∧ i < lo + n then x.testBit (i - lo) else d.getLsbD i) := by
  rw [dSet, BitVec.getLsbD_ofNat, testBit_setBits, BitVec.testBit_toNat]

theorem dF_lt (d : BitVec 128) (lo n : Nat) : dF d lo n < 2 ^ n := Nat.mod_lt _ (Nat.two_pow_pos n)

theorem dF_dSet_same (d : BitVec 128) {lo n x : Nat} (hn : lo + n ≤ 128) (hx : x < 2 ^ n) : dF (dSet d lo n x) lo n = x := by
  apply Nat.eq_of_testBit_eq
  intro i
  rw [testBit_dF, getLsbD_dSet, Nat.add_sub_cancel_left]
  by_cases hi : i < n
  · rw [if_pos ⟨by omega, by omega⟩, decide_eq_true hi, decide_eq_true (by omega), Bool.true_and, Bool.true_and]
  · rw [decide_eq_false hi, Bool.false_and, Nat.testBit_lt_two_pow (hx.trans_le (Nat.pow_le_pow_right (by decide) (by omega)))]

theorem dF_dSet_of_disjoint (d : BitVec 128) {lo n lo' n' : Nat} (x : Nat) (h : lo' + n' ≤ lo ∨ lo + n ≤ lo') :
    dF (dSet d lo n x) lo' n' = dF d lo' n' := by
  apply Nat.eq_of_testBit_eq
  intro i
  rw [testBit_dF, testBit_dF, getLsbD_dSet]
  by_cases hi : i < n'
  · rw [if_neg (by omega)]
    by_cases htop : lo' + i < 128
    · rw [decide_eq_true htop, Bool.true_and]
    · rw [decide_eq_false htop, Bool.false_and, BitVec.getLsbD_of_ge _ _ (by omega)]
  · rw [decide_eq_false hi, Bool.false_and, Bool.false_and]

/-! ### Slots of a ring (R57) -/

theorem View.start_of_ring {v : View} (hr : v.ring = true) (k : Nat) (out : Bool) :
    v.start k out = v.base + (dF v.d (if out then 111 else 103) 8 + k) % v.cnt * v.slotBytes := if_pos hr

theorem View.start_of_not_ring {v : View} (hr : v.ring = false) (k : Nat) (out : Bool) : v.start k out = v.base :=
  if_neg (by rw [hr]; decide)

/-- The view of the same shape that is no ring: its ring bit cleared. -/
def View.unringed (v : View) : View := { v with d := dSet v.d 84 1 0 }

/-- The cleared bit is in none of the fields below it: type, shape, length, rows, pitch and base. -/
theorem View.dF_unringed (v : View) {lo n : Nat} (h : lo + n ≤ 84) : dF v.unringed.d lo n = dF v.d lo n :=
  dF_dSet_of_disjoint v.d 0 (.inl h)

/- Rewritten, not left to `rfl`: comparing the two views by unfolding evaluates their whole descriptors. -/
@[simp] theorem View.h_unringed (v : View) : v.unringed.h = v.h := by rw [View.unringed]

@[simp] theorem View.fixed_unringed (v : View) : v.unringed.fixed = v.fixed := congrArg (fun h => decide (48 ≤ h)) v.h_unringed

theorem View.ring_unringed {v : View} (hf : v.fixed = false) : v.unringed.ring = false := by
  have hbit : dF v.unringed.d 84 1 = 0 := dF_dSet_same v.d (by decide) (by decide)
  rw [View.ring, View.fixed_unringed, hf, hbit]; rfl

@[simp] theorem View.ty_unringed (v : View) : v.unringed.ty = v.ty := congrArg Ty.ofCode (v.dF_unringed (by decide))
@[simp] theorem View.shape_unringed (v : View) : v.unringed.shape = v.shape := v.dF_unringed (by decide)
@[simp] theorem View.len_unringed (v : View) : v.unringed.len = v.len := congrArg (· + 1) (v.dF_unringed (by decide))
@[simp] theorem View.rows_unringed (v : View) : v.unringed.rows = v.rows := congrArg (· + 1) (v.dF_unringed (by decide))
@[simp] theorem View.pitch_unringed (v : View) : v.unringed.pitch = v.pitch := v.dF_unringed (by decide)
@[simp] theorem View.base_unringed (v : View) : v.unringed.base = v.base := v.dF_unringed (by decide)
@[simp] theorem View.rowBytes_unringed (v : View) : v.unringed.rowBytes = v.rowBytes := by
  rw [View.rowBytes, View.len_unringed, View.ty_unringed, View.rowBytes]

/-- R48: the ranges of an access whose shape is laid out from a given byte of the window. -/
def Acc.rangesFrom (q : Acc) (st : Nat) : List (Nat × Nat) :=
  if q.n ≠ 0 then [(st, (q.n * q.v.ty.bits + 7) / 8)]
  else if q.v.shape ≤ 1 then [(st, q.v.rowBytes)]
  else (List.range q.v.rows).map fun r => (st + r * q.v.pitch, q.v.rowBytes)

theorem Acc.ranges_eq_rangesFrom {q : Acc} (hf : q.v.fixed = false) : q.ranges = q.rangesFrom (q.v.start q.o q.out) :=
  if_neg (by rw [hf]; decide)

/-- The layout moves with the byte it starts from. -/
theorem Acc.rangesFrom_eq_map (q : Acc) (st base : Nat) :
    q.rangesFrom st = (q.rangesFrom base).map fun r => (st + (r.1 - base), r.2) := by
  unfold Acc.rangesFrom
  split
  · simp
  split
  · simp
  · simp [Function.comp_def]

theorem Acc.rangesFrom_unringed (q : Acc) (st : Nat) : ({ q with v := q.v.unringed } : Acc).rangesFrom st = q.rangesFrom st := by
  simp [Acc.rangesFrom]

/-- R57: within a slot the shape addresses bytes as it would at the base. -/
theorem Acc.ranges_eq_map_unringed {q : Acc} (hf : q.v.fixed = false) :
    q.ranges = ({ q with v := q.v.unringed } : Acc).ranges.map fun r => (q.v.start q.o q.out + (r.1 - q.v.base), r.2) := by
  have hbase : ({ q with v := q.v.unringed } : Acc).ranges = q.rangesFrom q.v.base := by
    rw [Acc.ranges_eq_rangesFrom (q := { q with v := q.v.unringed }) (q.v.fixed_unringed.trans hf),
      View.start_of_not_ring (View.ring_unringed hf), View.base_unringed, Acc.rangesFrom_unringed]
  rw [hbase, Acc.ranges_eq_rangesFrom hf]
  exact q.rangesFrom_eq_map _ _

/-! ### Moves of a ring (R59) -/

/-- A pointer that wraps at the slot count fits its field. -/
theorem wrapped_lt (d : BitVec 128) (p : Nat) : p % (dF d 95 8 + 1) < 2 ^ 8 :=
  (Nat.mod_lt p (Nat.succ_pos _)).trans_le (dF_lt d 95 8)

theorem readPtr_dMove_read (d : BitVec 128) (n : Nat) :
    dF (dMove d false n) 103 8 = (dF d 103 8 + n) % (dF d 95 8 + 1) :=
  (dF_dSet_of_disjoint _ _ (by decide)).trans (dF_dSet_same d (by decide) (wrapped_lt d _))

theorem writePtr_dMove_write (d : BitVec 128) (n : Nat) :
    dF (dMove d true n) 111 8 = (dF d 111 8 + n) % (dF d 95 8 + 1) :=
  (dF_dSet_of_disjoint _ _ (by decide)).trans (dF_dSet_same d (by decide) (wrapped_lt d _))

theorem fill_dMove_read (d : BitVec 128) (n : Nat) : dF (dMove d false n) 119 9 = dF d 119 9 - n :=
  dF_dSet_same _ (by decide) ((Nat.sub_le _ _).trans_lt (dF_lt d 119 9))

theorem fill_dMove_write (d : BitVec 128) {n : Nat} (hfit : dF d 119 9 + n ≤ dF d 95 8 + 1) :
    dF (dMove d true n) 119 9 = dF d 119 9 + n :=
  dF_dSet_same _ (by decide) (hfit.trans_lt (Nat.succ_lt_succ (dF_lt d 95 8) |>.trans_le (by decide)))

/-- A move of the read side leaves each field that meets neither the read pointer nor the fill. -/
theorem dF_dMove_read (d : BitVec 128) (n : Nat) {lo k : Nat} (hptr : lo + k ≤ 103 ∨ 111 ≤ lo) (hfill : lo + k ≤ 119) :
    dF (dMove d false n) lo k = dF d lo k :=
  (dF_dSet_of_disjoint _ _ (.inl hfill)).trans (dF_dSet_of_disjoint d _ hptr)

/-- A move of the write side leaves each field below the write pointer. -/
theorem dF_dMove_write (d : BitVec 128) (n : Nat) {lo k : Nat} (h : lo + k ≤ 111) :
    dF (dMove d true n) lo k = dF d lo k :=
  (dF_dSet_of_disjoint _ _ (.inl (h.trans (by decide)))).trans (dF_dSet_of_disjoint d _ (.inl h))

/-- Settles O8: R57's place of slot k on each side, its shape laid out there as at the base, and R59's moves of either side. -/
theorem ringMoves : Obligations.RingMoves := by
  refine ⟨fun v k hr => ⟨View.start_of_ring hr k false, View.start_of_ring hr k true⟩,
    fun q hf => Acc.ranges_eq_map_unringed hf, fun d n hfill => ⟨fun _ => ?_, fun hn => ?_⟩⟩
  · exact ⟨readPtr_dMove_read d n, fill_dMove_read d n, dF_dMove_read d n (.inl (by decide)) (by decide),
      dF_dMove_read d n (.inr (by decide)) (by decide)⟩
  · exact ⟨writePtr_dMove_write d n, fill_dMove_write d (by omega), dF_dMove_write d n (by decide)⟩

end Sys2Proof.Machine
end

/-! ## Guard slot numbers in the words of compares and guard operations (R197, R236 to R238)

All of these are form T of major 0x0F. Their word reads back as the instruction that made it, so whether it is taken is whether the
instruction is well-formed, and that is a bound on each of its handle-width fields. -/

section
namespace Sys2Proof

/-! ### Fields of form T (R201) -/

section
variable (m : BitVec 5) (o : BitVec 2) (b a d j : BitVec 6)

/-- Above the major stand the operand fields and the minor. -/
theorem packT_extract_above {lo : Nat} (n : Nat) (h : 7 ≤ lo) :
    (packT m o b a d j).extractLsb' lo n = (m ++ o ++ b ++ a ++ d).extractLsb' (lo - 7) n := by
  have hfirst : 1 ≤ lo := by omega
  have hmajor : 6 ≤ lo - 1 := by omega
  exact (BitVec.extractLsb'_append_eq_of_le hfirst).trans (BitVec.extractLsb'_append_eq_of_le hmajor)

theorem packT_major : (packT m o b a d j).extractLsb' 1 6 = j :=
  (BitVec.extractLsb'_append_eq_of_le le_rfl).trans BitVec.extractLsb'_append_eq_right

theorem packT_d : (packT m o b a d j).extractLsb' 7 6 = d :=
  (packT_extract_above m o b a d j 6 (by decide)).trans BitVec.extractLsb'_append_eq_right

theorem packT_a : (packT m o b a d j).extractLsb' 13 6 = a := by
  rw [packT_extract_above m o b a d j 6 (by decide), BitVec.extractLsb'_append_eq_of_le (by decide)]
  exact BitVec.extractLsb'_append_eq_right

theorem packT_b : (packT m o b a d j).extractLsb' 19 6 = b := by
  rw [packT_extract_above m o b a d j 6 (by decide), BitVec.extractLsb'_append_eq_of_le (by decide),
    BitVec.extractLsb'_append_eq_of_le (by decide)]
  exact BitVec.extractLsb'_append_eq_right

theorem packT_o : (packT m o b a d j).extractLsb' 25 2 = o := by
  rw [packT_extract_above m o b a d j 2 (by decide), BitVec.extractLsb'_append_eq_of_le (by decide),
    BitVec.extractLsb'_append_eq_of_le (by decide), BitVec.extractLsb'_append_eq_of_le (by decide)]
  exact BitVec.extractLsb'_append_eq_right

theorem packT_minor : (packT m o b a d j).extractLsb' 27 5 = m := by
  rw [packT_extract_above m o b a d j 5 (by decide), BitVec.extractLsb'_append_eq_of_le (by decide),
    BitVec.extractLsb'_append_eq_of_le (by decide), BitVec.extractLsb'_append_eq_of_le (by decide)]
  exact BitVec.extractLsb'_append_eq_left

end

theorem parseWord_packT_0F (m : BitVec 5) (o : BitVec 2) (b a d : BitVec 6) :
    parseWord (packT m o b a d 15) = parse0F m.toNat o b a d := by
  simp only [parseWord, packT_major, packT_d, packT_a, packT_b, packT_o, packT_minor]
  rfl

/-! ### Reading back a word of one instruction (R199, R209) -/

/-- The halfwords of a word, joined again. -/
theorem word32_join (w : W32) : w.extractLsb' 16 16 ++ w.extractLsb' 0 16 = w := by
  rw [BitVec.extractLsb'_append_extractLsb'_eq_extractLsb' (by decide)]
  exact BitVec.extractLsb'_eq_self

theorem decode_word32 {w : W32} (rest : List Half) (hlow : w.getLsbD 0 = true)
    (hmajor : majorAssigned (w.extractLsb' 1 6).toNat = true) (hone : hasTrailing (w.extractLsb' 1 6).toNat = false) :
    decode (word32 w ++ rest) = finish (parseWord w) 2 := by
  have hbit : (w.extractLsb' 0 16).getLsbD 0 = true := by
    rw [BitVec.getLsbD_extractLsb']; exact hlow
  simp only [word32, List.cons_append, List.nil_append, decode, word32_join, hbit, hmajor, hone, Bool.true_eq_false,
    Bool.false_eq_true, if_false]

theorem finish_eq_ok_iff {i : Instr} {n : Nat} : finish (some i) n = .ok (i, n) ↔ i.WellFormed := by
  cases h : i.wfError <;> simp [finish, Instr.WellFormed, h]

theorem finish_eq_error_iff {i : Instr} {n : Nat} : (∃ e, finish (some i) n = .error e) ↔ ¬ i.WellFormed := by
  cases h : i.wfError <;> simp [finish, Instr.WellFormed, h]

/-- The words of an instruction of two halfwords are parsed as that instruction, whatever follows them: only the check of its field values
(R209) is left. -/
def ReadsBack (i : Instr) : Prop := ∀ rest : List Half, decode (encode i ++ rest) = finish (some i) 2

section
variable {i : Instr} (hread : ReadsBack i) (rest : List Half)
include hread

theorem ReadsBack.taken_iff : decode (encode i ++ rest) = .ok (i, 2) ↔ i.WellFormed := by
  rw [hread rest, finish_eq_ok_iff]

theorem ReadsBack.refused_iff : (∃ e, decode (encode i ++ rest) = .error e) ↔ ¬ i.WellFormed := by
  rw [hread rest, finish_eq_error_iff]

end

theorem readsBack_of_parse0F {m : BitVec 5} {o : BitVec 2} {b a d : BitVec 6} {i : Instr}
    (hword : encode i = word32 (packT m o b a d 15)) (hparse : parse0F m.toNat o b a d = some i) : ReadsBack i := by
  intro rest
  rw [hword, decode_word32 rest (Laws.FirstBit.packT_low ..), parseWord_packT_0F, hparse]
  · rw [packT_major]; decide
  · rw [packT_major]; decide

/-! ### The forms of major 0x0F read back (R218, R237, R238) -/

/-- R237: a compare's minor is 8 times 0 or 1, for `CMP` and `CMPM`, and its condition. -/
theorem compareMinor_toNat (k : BitVec 2) (c : BitVec 3) : (k ++ c).toNat = 8 * k.toNat + c.toNat := by
  rw [BitVec.toNat_append, ← Nat.shiftLeft_add_eq_or_of_lt c.isLt, Nat.shiftLeft_eq, Nat.mul_comm]

theorem compareMinor_condition (k : BitVec 2) (c : BitVec 3) : BitVec.ofNat 3 (k ++ c).toNat = c :=
  (BitVec.ofNat_toNat 3 (k ++ c)).trans BitVec.setWidth_append_eq_right

section
variable (c : BitVec 3) (o : BitVec 2) (b a d : BitVec 6)

theorem readsBack_cmp : ReadsBack (.cmp c o b a d) := by
  have hminor : ((0 : BitVec 2) ++ c).toNat < 8 := by
    rw [compareMinor_toNat]; exact (Nat.zero_add _).trans_lt c.isLt
  refine readsBack_of_parse0F rfl ?_
  unfold parse0F
  rw [if_pos hminor, compareMinor_condition]

theorem readsBack_cmpm : ReadsBack (.cmpm c o b a d) := by
  have hlow : ¬ ((1 : BitVec 2) ++ c).toNat < 8 := by
    rw [compareMinor_toNat]; exact Nat.not_lt.mpr (Nat.le_add_right 8 _)
  have hhigh : ((1 : BitVec 2) ++ c).toNat < 16 := by
    rw [compareMinor_toNat]; exact Nat.add_lt_add_left c.isLt 8
  refine readsBack_of_parse0F rfl ?_
  unfold parse0F
  rw [if_neg hlow, if_pos hhigh, compareMinor_condition]

theorem readsBack_gand : ReadsBack (.gand b a d) := readsBack_of_parse0F rfl rfl

theorem readsBack_gor : ReadsBack (.gor b a d) := readsBack_of_parse0F rfl rfl

theorem readsBack_gxor : ReadsBack (.gxor b a d) := readsBack_of_parse0F rfl rfl

theorem readsBack_gnot : ReadsBack (.gnot a d) := readsBack_of_parse0F rfl rfl

theorem readsBack_gmov : ReadsBack (.gmov o a d) := readsBack_of_parse0F rfl rfl

end

/-! ### When these forms are well-formed (R196, R197) -/

theorem Reject.orElse_eq_none {x y : Option Reject} : Reject.orElse x y = none ↔ x = none ∧ y = none := by
  cases x <;> simp [Reject.orElse]

theorem Reject.handle_eq_none {h : BitVec 6} : Reject.handle h = none ↔ h.toNat < 56 := by
  simp [Reject.handle]

theorem Reject.guardSrc_eq_none {g : BitVec 6} : Reject.guardSrc g = none ↔ g.toNat < 8 := by
  simp [Reject.guardSrc]

theorem Reject.guardDst_eq_none {g : BitVec 6} : Reject.guardDst g = none ↔ g.toNat < 7 := by
  simp [Reject.guardDst]

section
variable (c : BitVec 3) (o : BitVec 2) (b a d : BitVec 6)

theorem wellFormed_cmp_iff : (Instr.cmp c o b a d).WellFormed ↔ a.toNat < 56 ∧ b.toNat < 56 ∧ d.toNat < 7 :=
  Reject.orElse_eq_none.trans <| and_congr Reject.handle_eq_none <|
    Reject.orElse_eq_none.trans <| and_congr Reject.handle_eq_none Reject.guardDst_eq_none

theorem wellFormed_cmpm_iff : (Instr.cmpm c o b a d).WellFormed ↔ (Instr.cmp c o b a d).WellFormed := Iff.rfl

theorem wellFormed_gand_iff : (Instr.gand b a d).WellFormed ↔ a.toNat < 8 ∧ b.toNat < 8 ∧ d.toNat < 7 :=
  Reject.orElse_eq_none.trans <| and_congr Reject.guardSrc_eq_none <|
    Reject.orElse_eq_none.trans <| and_congr Reject.guardSrc_eq_none Reject.guardDst_eq_none

theorem wellFormed_gor_iff : (Instr.gor b a d).WellFormed ↔ (Instr.gand b a d).WellFormed := Iff.rfl

theorem wellFormed_gxor_iff : (Instr.gxor b a d).WellFormed ↔ (Instr.gand b a d).WellFormed := Iff.rfl

theorem wellFormed_gnot_iff : (Instr.gnot a d).WellFormed ↔ a.toNat < 8 ∧ d.toNat < 7 :=
  Reject.orElse_eq_none.trans <| and_congr Reject.guardSrc_eq_none Reject.guardDst_eq_none

theorem wellFormed_gmov_iff : (Instr.gmov o a d).WellFormed ↔ a.toNat < 56 ∧ d.toNat < 7 :=
  Reject.orElse_eq_none.trans <| and_congr Reject.handle_eq_none Reject.guardDst_eq_none

end

end Sys2Proof
end

section
namespace Sys2Proof.Machine

/-! ### Reading a guard (R236) -/

/-- R236: a guard is read as whether its mask is not zero, under the sense. -/
theorem Slot.guardOn_eq (x : Slot) (g : BitVec 3) (n : Bool) : x.guardOn g n = (decide ((x.guard g.toNat).m ≠ 0) != n) := by
  rw [decide_not]; rfl

theorem Slot.guard_seven (x : Slot) : x.guard 7 = ⟨0xFFFF, none⟩ := if_pos rfl

/-- Settles O38: each word reads back, so it is taken just when its fields keep the bounds of R196 and R197. -/
theorem guardNumbers : Obligations.GuardNumbers := by
  refine ⟨fun x g n => ⟨x.guardOn_eq g n, x.guard_seven⟩, fun c o b a d rest => ?_⟩
  simp only [ReadsBack.refused_iff, ReadsBack.taken_iff, readsBack_cmp, readsBack_cmpm, readsBack_gand, readsBack_gor,
    readsBack_gxor, readsBack_gnot, readsBack_gmov,
    wellFormed_cmpm_iff, wellFormed_gor_iff, wellFormed_gxor_iff, wellFormed_cmp_iff, wellFormed_gand_iff,
    wellFormed_gnot_iff, wellFormed_gmov_iff]
  exact ⟨fun hd => by omega, fun ha => by omega, fun hb => by omega, fun hd ha hb => by omega, fun hd ha hb => by omega⟩

end Sys2Proof.Machine
end

/-! ## Commands in a repetition (R20, R272, R346)

The slots of a core whose instructions wait are passed over in one turn, so one step can run the bodies of several repetitions. The type of a
body admits any instruction, a mailbox command too: `Destroy` in one slot and `Create` in the next put another context in the place of a
living one within one step. -/

section
namespace Sys2Proof.Machine

/-! ### A turn of a core, slot by slot -/

theorem State.issueSlot_repeated {s : State} {c k : Nat} {i : Instr} (ho : s.ownerOf c k = (c, k))
    (hk : (s.slot c k).kfault = none) (hb : (s.slot c k).nextBody = some i) :
    s.issueSlot c k = exec i { s with curCore := c, curSlot := k } := by
  have hfault : (if (s.slot c k).midMatrix then none else (s.slot c k).kfault) = none := by rw [hk, ite_self]
  have hcur : ({ s with curCore := c, curSlot := k } : State).cur = s.slot c k := rfl
  simp only [State.issueSlot, ho, hcur, hfault, hb]

theorem State.issueList_cons_waits {s t : State} {c k : Nat} (rest : List Nat) (hi : s.issueSlot c k = .next t)
    (hw : t.slotWaits c k = true) : s.issueList c (k :: rest) = t.issueList c rest := by
  rw [State.issueList, hi]
  exact if_pos hw

theorem step_of_agenda_nil {s : State} (h : s.agenda = []) : step s = s.issueList s.curCore (s.issueOrder s.curCore) := by
  rw [step, h, State.issueOn]

/-! ### The two commands -/

/-- R346: the device without a context, as `Destroy` leaves it before the mailbox answers. -/
def State.withoutCtx (s : State) (ctx : Nat) : State :=
  State.applyHeld
    { s.fenceCtx ctx with
      ctxs := mdel (s.fenceCtx ctx).ctxs ctx, launches := (s.fenceCtx ctx).launches.filter fun l => l.ctx != ctx }

theorem exec_destroy_live {s : State} {ctx : Nat} (ho : s.ouvaBad = false) (hl : (s.ctx ctx).live = true) :
    exec (.destroy 0 ctx) s = .next ((s.withoutCtx ctx).mboxAnswer 0 0) := by
  change execDestroy 0 ctx s = _
  simp [execDestroy, mailbox, ho, hl, State.withoutCtx]

/-- A context new from `Create`, debuggable, with the smallest mailbox area and object space and no trace buffer. -/
def Ctx.debuggable (key : Nat) : Ctx :=
  { Ctx.reset with live := true, debug := true, msize := 0x2000, osize := 0x10000, key := some key }

theorem exec_create_debuggable {s : State} {ctx : Nat} (hc : ctx < 256) (ho : s.ouvaBad = false) (hl : (s.ctx ctx).live = false) :
    exec (.create 0 ctx true false 0 0 0x2000 0 0 0x10000 0 0) s =
      .next ((s.newId.2.updCtx ctx fun _ => .debuggable s.newId.1).mboxAnswer 0 0) := by
  have hok : createOk ctx 0 0 0x2000 0 0 0x10000 0 0 = true := by simp [createOk, hc, numCores, hbmBytes]
  have htrace : (s.newId.2.updCtx ctx fun _ => Ctx.debuggable s.newId.1).clearTraceHeader ctx =
      s.newId.2.updCtx ctx fun _ => .debuggable s.newId.1 :=
    if_pos (by simp [State.ctx, State.updCtx, Ctx.debuggable, Ctx.reset])
  change execCreate 0 ctx true false 0 0 0x2000 0 0 0x10000 0 0 s = _
  simp only [execCreate, mailbox, ho, hl, hok]
  exact congrArg (fun t : State => Host.Outcome.next (t.mboxAnswer 0 0)) htrace

/-! ### The state that refutes O41 -/

/-- A running firing that waits, with an instruction as the body of its repetition. -/
def Slot.repeating (i : Instr) : Slot :=
  { Slot.reset with st := .running, wait := .pending, rep := some ⟨[(i, 0, 1)], 1, 0, 0, 0, true, 1, false⟩ }

/-- Context 1 is live and not debuggable; slot 0 of core 0 repeats its `Destroy`, and slot 1 a debuggable `Create` of the same number. Not
executable: the compiler's runtime has too few constructor tags for these two commands; the kernel evaluates it. -/
noncomputable def State.recreating : State :=
  ((State.reset.updCtx 1 fun c => { c with live := true }).setSlot 0 0 (.repeating (.destroy 0 1))).setSlot 0 1
    (.repeating (.create 0 1 true false 0 0 0x2000 0 0 0x10000 0 0))

theorem issueOrder_recreating : State.recreating.issueOrder 0 = [0, 1] := by rfl

/-- The device after slot 0 has issued. -/
noncomputable def State.recreatingMid : State := ({ State.recreating with curCore := 0, curSlot := 0 }.withoutCtx 1).mboxAnswer 0 0

theorem issueSlot_recreating : State.recreating.issueSlot 0 0 = .next .recreatingMid :=
  (State.issueSlot_repeated rfl rfl rfl).trans (exec_destroy_live rfl rfl)

/-- The device after slot 1 has issued too. -/
noncomputable def State.recreated : State :=
  let s : State := { State.recreatingMid with curCore := 0, curSlot := 1 }
  (s.newId.2.updCtx 1 fun _ => .debuggable s.newId.1).mboxAnswer 0 0

theorem issueSlot_recreatingMid : State.recreatingMid.issueSlot 0 1 = .next .recreated :=
  (State.issueSlot_repeated rfl rfl rfl).trans (exec_create_debuggable (by decide) rfl rfl)

/-- Both slots still wait after their commands, so the one step runs them both. -/
theorem step_recreating : step .recreating = .next .recreated :=
  calc step .recreating
      = State.recreating.issueList 0 [0, 1] := by rw [step_of_agenda_nil rfl]; exact congrArg _ issueOrder_recreating
    _ = State.recreatingMid.issueList 0 [1] := State.issueList_cons_waits [1] issueSlot_recreating rfl
    _ = State.recreated.issueList 0 [] := State.issueList_cons_waits [] issueSlot_recreatingMid rfl
    _ = .next .recreated := rfl

/-- Refutes O41: in `State.recreating` context 1 is live and not debuggable, and after one step it is live and debuggable, another context of
the same number. The statement ranges over every state; this one is not reached from reset, for a repetition captures decoded words (R271) and
a command has no encoding. -/
theorem not_debuggableIsFixed : ¬ Obligations.DebuggableIsFixed := by
  rintro ⟨hfixed, -⟩
  have hkept : (State.recreated.ctx 1).debug = (State.recreating.ctx 1).debug :=
    hfixed .recreating .recreated 1 step_recreating rfl rfl
  exact absurd hkept (by decide)

end Sys2Proof.Machine
end

/-! ## Encoding and decoding agree (R199 to R222)

A word is put together from its fields, and each field reads back. From words to instructions: what a table parses has as its words the word that
was parsed (`Words`). From instructions to words: what the encoder writes is parsed by the row it was written for (`Reads`). -/

section
namespace Sys2Proof

/-! ### Words put together from their fields -/

/-- Two adjoining fields of a word, the upper one first, are one field. -/
theorem fields_join {n : Nat} {x : BitVec n} {hi k lo l : Nat} (h : hi = lo + l) :
    x.extractLsb' hi k ++ x.extractLsb' lo l = x.extractLsb' lo (k + l) :=
  BitVec.extractLsb'_append_extractLsb'_eq_extractLsb' h

/-- A bit is a field of one bit. -/
theorem bit_getLsbD {n : Nat} (x : BitVec n) (k : Nat) : bit (x.getLsbD k) = x.extractLsb' k 1 := by
  ext i hi
  obtain rfl : i = 0 := by omega
  cases h : x.getLsbD k <;> simp [bit, h]

/-- R199: the first bit of a word of more than one halfword. -/
theorem one_eq_first {n : Nat} {x : BitVec n} (hlow : x.getLsbD 0 = true) : (1 : BitVec 1) = x.extractLsb' 0 1 := by
  rw [← bit_getLsbD, hlow]; rfl

section
variable {w : W32} {j : BitVec 6} (hlow : w.getLsbD 0 = true) (hj : w.extractLsb' 1 6 = j)
include hlow hj

theorem packT_fields :
    packT (w.extractLsb' 27 5) (w.extractLsb' 25 2) (w.extractLsb' 19 6) (w.extractLsb' 13 6) (w.extractLsb' 7 6) j = w := by
  rw [packT, ← hj, one_eq_first hlow]
  simp only [fields_join]
  exact BitVec.extractLsb'_eq_self

theorem packI_fields : packI (w.extractLsb' 19 13) (w.extractLsb' 13 6) (w.extractLsb' 7 6) j = w := by
  rw [packI, ← hj, one_eq_first hlow]
  simp only [fields_join]
  exact BitVec.extractLsb'_eq_self

theorem packQ_fields :
    packQ (w.getLsbD 31) (w.extractLsb' 25 6) (w.extractLsb' 19 6) (w.extractLsb' 13 6) (w.extractLsb' 7 6) j = w := by
  rw [packQ, bit_getLsbD, ← hj, one_eq_first hlow]
  simp only [fields_join]
  exact BitVec.extractLsb'_eq_self

theorem packG_fields :
    packG (w.extractLsb' 29 3) (w.extractLsb' 23 6) (w.extractLsb' 17 6) (w.extractLsb' 11 6) (w.getLsbD 10) (w.extractLsb' 7 3) j = w := by
  rw [packG, bit_getLsbD, ← hj, one_eq_first hlow]
  simp only [fields_join]
  exact BitVec.extractLsb'_eq_self

theorem packB_fields :
    packB (w.extractLsb' 12 20) (w.getLsbD 11) (w.getLsbD 10) (w.extractLsb' 7 3) j = w := by
  rw [packB, bit_getLsbD, bit_getLsbD, ← hj, one_eq_first hlow]
  simp only [fields_join]
  exact BitVec.extractLsb'_eq_self

theorem hint_fields : w.extractLsb' 30 2 ++ w.extractLsb' 27 3 ++ w.extractLsb' 7 20 ++ j ++ (1 : BitVec 1) = w := by
  rw [← hj, one_eq_first hlow]
  simp only [fields_join]
  exact BitVec.extractLsb'_eq_self

omit hlow hj in
/-- R198: a register number with the bit above it, which is zero. -/
theorem register_field (htop : w.getLsbD 31 = false) : (0 : BitVec 1) ++ w.extractLsb' 19 12 = w.extractLsb' 19 13 := by
  have hzero : (0 : BitVec 1) = w.extractLsb' 31 1 := by rw [← bit_getLsbD, htop]; rfl
  rw [hzero]
  exact fields_join rfl

omit hlow hj in
theorem packE_fields {x : W32} (hz : x.extractLsb' 12 12 = 0) :
    packE (x.extractLsb' 24 8) (x.extractLsb' 6 6) (x.extractLsb' 0 6) = x := by
  rw [packE, ← hz]
  simp only [fields_join]
  exact BitVec.extractLsb'_eq_self

omit hlow hj in
theorem packShort_fields {h : Half} (hlow : h.getLsbD 0 = false) :
    packShort (h.extractLsb' 1 4) (h.getLsbD 15) (h.extractLsb' 10 5) (h.extractLsb' 5 5) = h := by
  have hzero : (0 : BitVec 1) = h.extractLsb' 0 1 := by rw [← bit_getLsbD, hlow]; rfl
  rw [packShort, bit_getLsbD, hzero]
  simp only [fields_join]
  exact BitVec.extractLsb'_eq_self

end

theorem word32_halves (h1 h0 : Half) : word32 (h1 ++ h0) = [h0, h1] := by
  rw [word32, BitVec.extractLsb'_append_eq_right, BitVec.extractLsb'_append_eq_left]

/-! ### The words of an instruction that parses

R209, R218: a row of a table is parsed from just the words that the encoder gives it: where it leaves a field unused, that field is zero. -/

/-- What is parsed, if anything is, has the words `ws`. -/
def Words (p : Option Instr) (ws : List Half) : Prop := ∀ i, p = some i → encode i = ws

theorem Words.none {ws : List Half} : Words none ws := nofun

theorem Words.some_iff {i : Instr} {ws : List Half} : Words (some i) ws ↔ encode i = ws := by simp [Words]

/-- R209: a row that leaves a field unused. -/
theorem Words.ite_none {c : Prop} [Decidable c] {p : Option Instr} {ws : List Half} :
    Words (if c then p else .none) ws ↔ (c → Words p ws) := by
  split <;> simp_all [Words.none]

theorem Words.ite {c : Prop} [Decidable c] {p q : Option Instr} {ws : List Half} :
    Words (if c then p else q) ws ↔ (c → Words p ws) ∧ (¬ c → Words q ws) := by
  split <;> simp_all

section
variable {m : Nat} {o : BitVec 2} {b a d : BitVec 6}

theorem parse01_words : Words (parse01 m o b a d) (word32 (packT (BitVec.ofNat 5 m) o b a d 1)) := by
  unfold parse01
  split
  all_goals simp only [Words.ite_none, Words.some_iff, Words.none]
  all_goals (intros; subst_vars; rfl)

theorem parse02_words : Words (parse02 m o b a d) (word32 (packT (BitVec.ofNat 5 m) o b a d 2)) := by
  unfold parse02
  split
  all_goals simp only [Words.ite_none, Words.some_iff, Words.none]
  all_goals (intros; subst_vars; rfl)

theorem parse0E_words : Words (parse0E m o b a d) (word32 (packT (BitVec.ofNat 5 m) o b a d 14)) := by
  unfold parse0E
  split
  all_goals simp only [Words.ite_none, Words.some_iff, Words.none]
  all_goals (intros; subst_vars; rfl)

theorem parse19_words : Words (parse19 m o b a d) (word32 (packT (BitVec.ofNat 5 m) o b a d 25)) := by
  unfold parse19
  split
  all_goals simp only [Words.ite_none, Words.some_iff, Words.none, and_imp]
  all_goals (intros; subst_vars; rfl)

theorem parse1A_words : Words (parse1A m o b a d) (word32 (packT (BitVec.ofNat 5 m) o b a d 26)) := by
  unfold parse1A
  split
  all_goals simp only [Words.ite_none, Words.some_iff, Words.none]
  all_goals (intros; subst_vars; rfl)

theorem parse1B_words : Words (parse1B m o b a d) (word32 (packT (BitVec.ofNat 5 m) o b a d 27)) := by
  unfold parse1B
  split
  all_goals simp only [Words.ite_none, Words.some_iff, Words.none, and_imp]
  all_goals (intros; subst_vars; rfl)

theorem parse20_words : Words (parse20 m o b a d) (word32 (packT (BitVec.ofNat 5 m) o b a d 32)) := by
  unfold parse20
  split
  all_goals simp only [Words.ite_none, Words.some_iff, Words.none, and_imp]
  all_goals (intros; subst_vars; rfl)

theorem parse21_words : Words (parse21 m o b a d) (word32 (packT (BitVec.ofNat 5 m) o b a d 33)) := by
  unfold parse21
  split
  all_goals simp only [Words.ite_none, Words.some_iff, Words.none]
  all_goals (intros; subst_vars; rfl)

theorem parse23_words : Words (parse23 m o b a d) (word32 (packT (BitVec.ofNat 5 m) o b a d 35)) := by
  unfold parse23
  split
  all_goals simp only [Words.ite_none, Words.some_iff, Words.none, and_imp]
  all_goals (intros; subst_vars; rfl)

theorem parse24_words : Words (parse24 m o b a d) (word32 (packT (BitVec.ofNat 5 m) o b a d 36)) := by
  unfold parse24
  split
  all_goals simp only [Words.ite_none, Words.some_iff, Words.none, and_imp]
  all_goals (intros; subst_vars; rfl)

theorem parse25_words : Words (parse25 m o b a d) (word32 (packT (BitVec.ofNat 5 m) o b a d 37)) := by
  unfold parse25
  split
  all_goals simp only [Words.ite_none, Words.some_iff, Words.none, and_imp]
  all_goals (intros; subst_vars; rfl)

/-- R236, R283: the low bits of a minor choose within a row, and stand below the bits that name the row. -/
theorem minor_eq_append {k l m : Nat} (r : BitVec k) (hlo : 2 ^ l * r.toNat ≤ m) (hhi : m < 2 ^ l * (r.toNat + 1)) :
    BitVec.ofNat (k + l) m = r ++ BitVec.ofNat l m := by
  apply BitVec.eq_of_toNat_eq
  have hr := r.isLt
  have hm : m < 2 ^ (k + l) := by rw [Nat.pow_add']; exact hhi.trans_le (Nat.mul_le_mul_left _ hr)
  rw [BitVec.toNat_append, ← Nat.shiftLeft_add_eq_or_of_lt (BitVec.isLt _), Nat.shiftLeft_eq, BitVec.toNat_ofNat, BitVec.toNat_ofNat,
    Nat.mod_eq_of_lt hm, Nat.mul_comm]
  have hdiv : m / 2 ^ l = r.toNat := Nat.div_eq_of_lt_le (by rwa [Nat.mul_comm]) (by rwa [Nat.mul_comm])
  rw [← hdiv, Nat.div_add_mod]

theorem parse0F_words : Words (parse0F m o b a d) (word32 (packT (BitVec.ofNat 5 m) o b a d 15)) := by
  unfold parse0F
  rw [Words.ite, Words.ite]
  refine ⟨fun h => Words.some_iff.mpr ?_, fun h8 => ⟨fun h => Words.some_iff.mpr ?_, fun h16 => ?_⟩⟩
  · rw [minor_eq_append (k := 2) (l := 3) 0 (by simp) (by simpa using h)]; rfl
  · rw [minor_eq_append (k := 2) (l := 3) 1 (by simpa using h8) (by simpa using h)]; rfl
  split
  all_goals simp only [Words.ite_none, Words.some_iff, Words.none, and_imp]
  all_goals (intros; subst_vars; rfl)

theorem parse1F_words : Words (parse1F m o b a d) (word32 (packT (BitVec.ofNat 5 m) o b a d 31)) := by
  unfold parse1F
  rw [Words.ite]
  refine ⟨fun h => Words.some_iff.mpr ?_, fun h4 => ?_⟩
  · rw [minor_eq_append (k := 3) (l := 2) 0 (by simp) (by simpa using h)]; rfl
  split
  all_goals simp only [Words.ite_none, Words.some_iff, Words.none, and_imp]
  all_goals (intros; subst_vars; rfl)

theorem parse22_words : Words (parse22 m o b a d) (word32 (packT (BitVec.ofNat 5 m) o b a d 34)) := by
  unfold parse22
  rw [Words.ite, Words.ite]
  refine ⟨fun h => Words.some_iff.mpr ?_, fun h4 => ⟨fun h => Words.some_iff.mpr ?_, fun h8 => ?_⟩⟩
  · rw [minor_eq_append (k := 3) (l := 2) 0 (by simp) (by simpa using h)]; rfl
  · rw [minor_eq_append (k := 3) (l := 2) 1 (by simpa using h4) (by simpa using h)]; rfl
  split
  all_goals simp only [Words.ite_none, Words.some_iff, Words.none, and_imp]
  all_goals (intros; subst_vars; rfl)
end

section
variable {j m : Nat} {b a d : BitVec 6} {n : Bool} {g : BitVec 3}

theorem parseG_words :
    Words (parseG j m b a d n g) (word32 (packG (BitVec.ofNat 3 m) b a d n g (BitVec.ofNat 6 j))) := by
  unfold parseG
  split
  all_goals simp only [Words.some_iff, Words.none]
  all_goals rfl

theorem parseE_words {op : BitVec 8} {z : BitVec 12} {e c : BitVec 6} :
    Words (parseE j m b a d n g op z e c)
      (word32 (packG (BitVec.ofNat 3 m) b a d n g (BitVec.ofNat 6 j)) ++ word32 (packE op e c)) := by
  unfold parseE
  split
  · exact Words.none
  split
  case h_10 =>
    rw [Words.ite_none, Words.ite, Words.ite_none, Words.some_iff, Words.some_iff]
    rintro ⟨rfl, rfl⟩
    exact ⟨fun h => h ▸ rfl, fun _ h => h ▸ rfl⟩
  all_goals simp only [Words.ite_none, Words.some_iff, Words.none, and_imp]
  all_goals (intros; subst_vars; rfl)
end

section
variable {w : W32} {j : Nat} (hlow : w.getLsbD 0 = true) (hj : w.extractLsb' 1 6 = BitVec.ofNat 6 j)
include hlow hj

theorem parseRest_words : Words (parseRest j w) (word32 w) := by
  unfold parseRest
  split
  case h_1 | h_2 =>
    rw [Words.ite, Words.some_iff, Words.some_iff]
    exact ⟨fun h => congrArg word32 (h ▸ packQ_fields hlow hj),
      fun h => congrArg word32 (Bool.eq_false_of_not_eq_true h ▸ packQ_fields hlow hj)⟩
  case h_3 | h_4 | h_5 | h_6 | h_7 | h_8 | h_9 | h_16 =>
    exact Words.some_iff.mpr (congrArg word32 (packI_fields hlow hj))
  case h_10 | h_13 | h_14 | h_15 =>
    rw [Words.ite_none, Words.some_iff]
    exact fun ha => congrArg word32 (ha ▸ packI_fields hlow hj)
  case h_11 | h_12 => exact Words.some_iff.mpr (congrArg word32 (packB_fields hlow hj))
  case h_17 =>
    rw [Words.ite_none, Words.some_iff]
    rintro ⟨ha, htop⟩
    exact congrArg word32 (by rw [register_field htop, ← ha]; exact packI_fields hlow hj)
  case h_18 =>
    rw [Words.ite_none, Words.some_iff]
    rintro ⟨hd, htop⟩
    exact congrArg word32 (by rw [register_field htop, ← hd]; exact packI_fields hlow hj)
  case h_19 =>
    rw [Words.ite_none, Words.some_iff]
    exact fun htop => congrArg word32 (htop ▸ hint_fields hlow hj)
  case h_20 => exact Words.none

end

theorem eq_ofNat_of_toNat {n k : Nat} {x : BitVec n} (h : x.toNat = k) : x = BitVec.ofNat n k := by
  rw [← h, BitVec.ofNat_toNat, BitVec.setWidth_eq]

/-- R205: the field of `SPWN` below the bits that name its row. -/
theorem spawn_field (w : W32) : BitVec.ofNat 6 (w.extractLsb' 19 13).toNat = w.extractLsb' 19 6 := by
  rw [BitVec.ofNat_toNat]
  ext i hi
  simp only [BitVec.getElem_setWidth, BitVec.getLsbD_extractLsb', BitVec.getElem_extractLsb', Bool.and_eq_right_iff_imp]
  exact fun _ => decide_eq_true (by omega)

section
variable {w : W32} {j : Nat} (hlow : w.getLsbD 0 = true)
include hlow

/-- A word of form T by its minor as a number. -/
theorem packT_of_word (hj : (w.extractLsb' 1 6).toNat = j) :
    word32 (packT (BitVec.ofNat 5 (w.extractLsb' 27 5).toNat) (w.extractLsb' 25 2) (w.extractLsb' 19 6) (w.extractLsb' 13 6)
      (w.extractLsb' 7 6) (BitVec.ofNat 6 j)) = word32 w := by
  rw [← eq_ofNat_of_toNat rfl]
  exact congrArg word32 (packT_fields hlow (eq_ofNat_of_toNat hj))

/-- A word of form G by its minor as a number. -/
theorem packG_of_word (hj : (w.extractLsb' 1 6).toNat = j) :
    packG (BitVec.ofNat 3 (w.extractLsb' 29 3).toNat) (w.extractLsb' 23 6) (w.extractLsb' 17 6) (w.extractLsb' 11 6)
      (w.getLsbD 10) (w.extractLsb' 7 3) (BitVec.ofNat 6 j) = w := by
  rw [← eq_ofNat_of_toNat rfl]
  exact packG_fields hlow (eq_ofNat_of_toNat hj)

theorem parseWord_words : Words (parseWord w) (word32 w) := by
  unfold parseWord
  dsimp only
  split
  case h_1 j hj => exact packT_of_word hlow hj ▸ parse01_words
  case h_2 j hj => exact packT_of_word hlow hj ▸ parse02_words
  case h_3 j hj => exact packT_of_word hlow hj ▸ parse0E_words
  case h_4 j hj => exact packT_of_word hlow hj ▸ parse0F_words
  case h_5 | h_6 | h_7 | h_8 => exact congrArg word32 (packG_of_word hlow rfl) ▸ parseG_words
  case h_9 j hj => exact packT_of_word hlow hj ▸ parse19_words
  case h_10 j hj => exact packT_of_word hlow hj ▸ parse1A_words
  case h_11 j hj => exact packT_of_word hlow hj ▸ parse1B_words
  case h_12 j hj => exact packT_of_word hlow hj ▸ parse1F_words
  case h_13 j hj => exact packT_of_word hlow hj ▸ parse20_words
  case h_14 j hj => exact packT_of_word hlow hj ▸ parse21_words
  case h_15 j hj => exact packT_of_word hlow hj ▸ parse22_words
  case h_16 j hj => exact packT_of_word hlow hj ▸ parse23_words
  case h_17 j hj => exact packT_of_word hlow hj ▸ parse24_words
  case h_18 j hj => exact packT_of_word hlow hj ▸ parse25_words
  case h_19 => exact parseRest_words hlow (eq_ofNat_of_toNat rfl)

theorem parseLong_words (x : W32) : Words (parseLong w x) (word32 w ++ word32 x) := by
  unfold parseLong
  dsimp only
  split
  case h_1 j hj =>
    have hword {n : BitVec 13} (hn : w.extractLsb' 19 13 = n) :
        packI n (w.extractLsb' 13 6) (w.extractLsb' 7 6) 13 = w := hn ▸ packI_fields hlow (eq_ofNat_of_toNat hj)
    have hnum {k : Nat} (hk : (w.extractLsb' 19 13).toNat = k) : packI (BitVec.ofNat 13 k) (w.extractLsb' 13 6) (w.extractLsb' 7 6) 13 = w :=
      hword (eq_ofNat_of_toNat hk)
    refine Words.ite.mpr ⟨fun h0 => Words.ite_none.mpr fun ha => Words.some_iff.mpr ?_, fun _ => Words.ite.mpr ⟨fun h1 =>
      Words.ite_none.mpr fun ha => Words.some_iff.mpr ?_, fun _ => Words.ite_none.mpr fun h => Words.some_iff.mpr ?_⟩⟩
    · exact congrArg (word32 · ++ word32 x) (ha ▸ hnum h0)
    · exact congrArg (word32 · ++ word32 x) (ha ▸ hnum h1)
    · have hb : w.extractLsb' 19 13 = (1 : BitVec 7) ++ w.extractLsb' 19 6 := by
        rw [eq_ofNat_of_toNat (x := w.extractLsb' 19 13) rfl,
          minor_eq_append (k := 7) (l := 6) 1 (by simpa using h.1) (by simpa using Nat.lt_succ_of_le h.2), spawn_field]
      exact congrArg (word32 · ++ word32 x) (hword hb)
  case h_2 =>
    intro i hi
    have hz : x.extractLsb' 12 12 = 0 := by
      by_contra hz
      unfold parseE at hi
      rw [if_pos hz] at hi
      cases hi
    have hwords := parseE_words i hi
    rwa [packG_of_word hlow rfl, packE_fields hz] at hwords

end

theorem parseShort_words {h : Half} (hlow : h.getLsbD 0 = false) : Words (parseShort h) [h] := by
  have hword {k : Nat} (hk : (h.extractLsb' 1 4).toNat = k) :
      [packShort (BitVec.ofNat 4 k) (h.getLsbD 15) (h.extractLsb' 10 5) (h.extractLsb' 5 5)] = [h] := by
    rw [← hk, ← eq_ofNat_of_toNat rfl, packShort_fields hlow]
  unfold parseShort
  dsimp only
  split
  case h_17 => exact Words.none
  all_goals exact Words.some_iff.mpr (hword ‹_›)

/-! ### Decoded halfwords are the encoder's (R199) -/

theorem finish_eq_ok {p : Option Instr} {n k : Nat} {i : Instr} : finish p n = .ok (i, k) ↔ p = some i ∧ i.WellFormed ∧ k = n := by
  cases p with
  | none => simp [finish]
  | some j =>
    cases hj : j.wfError with
    | none => simp only [finish, hj, Except.ok.injEq, Prod.mk.injEq, Option.some.injEq, Instr.WellFormed, eq_comm (a := n)]; grind
    | some r => simp only [finish, hj]; grind

/-- What parses has the first n of the halfwords as its words. -/
theorem words_of_finish {p : Option Instr} {n k : Nat} {i : Instr} {hs : List Half} (hp : Words p (hs.take n)) (hn : n ≤ hs.length)
    (h : finish p n = .ok (i, k)) : i.WellFormed ∧ encode i = hs.take k ∧ k ≤ hs.length := by
  obtain ⟨hi, hwf, rfl⟩ := finish_eq_ok.mp h
  exact ⟨hwf, hp i hi, hn⟩

theorem first_bit (h0 h1 : Half) : (h1 ++ h0 : W32).getLsbD 0 = h0.getLsbD 0 := by
  rw [BitVec.getLsbD_append]; rfl

theorem words_of_decode {hs : List Half} {i : Instr} {n : Nat} (h : decode hs = .ok (i, n)) :
    i.WellFormed ∧ encode i = hs.take n ∧ n ≤ hs.length := by
  unfold decode at h
  split at h
  case h_1 => cases h
  case h_2 h0 rest =>
    split at h
    case isTrue hlow => exact words_of_finish (parseShort_words hlow) (by simp) h
    case isFalse hbit =>
      split at h
      case h_1 => cases h
      case h_2 h1 more =>
        have hlow : (h1 ++ h0 : W32).getLsbD 0 = true := by rw [first_bit]; simpa using hbit
        dsimp only at h
        split_ifs at h with _ hlong
        · split at h
          case h_1 h2 h3 tail =>
            refine words_of_finish ?_ (by simp) h
            have hwords := parseLong_words hlow (h3 ++ h2)
            rwa [word32_halves, word32_halves] at hwords
          case h_2 => cases h
        · refine words_of_finish ?_ (by simp) h
          have hwords := parseWord_words hlow
          rwa [word32_halves] at hwords


/-! ### Fields of a word that the encoder makes (R200, R203 to R208) -/

theorem getLsbD_of_field {n k : Nat} {w : BitVec n} {b : Bool} (h : w.extractLsb' k 1 = bit b) : w.getLsbD k = b := by
  rw [← bit_getLsbD] at h
  revert h
  cases w.getLsbD k <;> cases b <;> decide

section
variable (op : BitVec 4) (a : Bool) (s d : BitVec 5)

theorem packShort_field (lo len : Nat) : (packShort op a s d).extractLsb' lo len = (bit a ++ s ++ d ++ op ++ (0 : BitVec 1)).extractLsb' lo len := rfl

theorem packShort_op : (packShort op a s d).extractLsb' 1 4 = op := by
  rw [packShort_field]
  simp (disch := decide) only [BitVec.extractLsb'_append_eq_of_le, BitVec.extractLsb'_append_eq_right, Nat.reduceSub]

theorem packShort_adv : (packShort op a s d).getLsbD 15 = a := by
  apply getLsbD_of_field
  rw [packShort_field]
  simp (disch := decide) only [BitVec.extractLsb'_append_eq_of_le, BitVec.extractLsb'_eq_self, Nat.reduceSub]

theorem packShort_s : (packShort op a s d).extractLsb' 10 5 = s := by
  rw [packShort_field]
  simp (disch := decide) only [BitVec.extractLsb'_append_eq_of_le, BitVec.extractLsb'_append_eq_right, Nat.reduceSub]

theorem packShort_d : (packShort op a s d).extractLsb' 5 5 = d := by
  rw [packShort_field]
  simp (disch := decide) only [BitVec.extractLsb'_append_eq_of_le, BitVec.extractLsb'_append_eq_right, Nat.reduceSub]

end

section
variable (i : BitVec 13) (a d j : BitVec 6)

theorem packI_field (lo len : Nat) : (packI i a d j).extractLsb' lo len = (i ++ a ++ d ++ j ++ (1 : BitVec 1)).extractLsb' lo len := rfl

theorem packI_major : (packI i a d j).extractLsb' 1 6 = j := by
  rw [packI_field]
  simp (disch := decide) only [BitVec.extractLsb'_append_eq_of_le, BitVec.extractLsb'_append_eq_right, Nat.reduceSub]

theorem packI_i : (packI i a d j).extractLsb' 19 13 = i := by
  rw [packI_field]
  simp (disch := decide) only [BitVec.extractLsb'_append_eq_of_le, BitVec.extractLsb'_eq_self, Nat.reduceSub]

theorem packI_a : (packI i a d j).extractLsb' 13 6 = a := by
  rw [packI_field]
  simp (disch := decide) only [BitVec.extractLsb'_append_eq_of_le, BitVec.extractLsb'_append_eq_right, Nat.reduceSub]

theorem packI_d : (packI i a d j).extractLsb' 7 6 = d := by
  rw [packI_field]
  simp (disch := decide) only [BitVec.extractLsb'_append_eq_of_le, BitVec.extractLsb'_append_eq_right, Nat.reduceSub]

end

section
variable (n : Bool) (c b a d j : BitVec 6)

theorem packQ_field (lo len : Nat) : (packQ n c b a d j).extractLsb' lo len = (bit n ++ c ++ b ++ a ++ d ++ j ++ (1 : BitVec 1)).extractLsb' lo len := rfl

theorem packQ_major : (packQ n c b a d j).extractLsb' 1 6 = j := by
  rw [packQ_field]
  simp (disch := decide) only [BitVec.extractLsb'_append_eq_of_le, BitVec.extractLsb'_append_eq_right, Nat.reduceSub]

theorem packQ_n : (packQ n c b a d j).getLsbD 31 = n := by
  apply getLsbD_of_field
  rw [packQ_field]
  simp (disch := decide) only [BitVec.extractLsb'_append_eq_of_le, BitVec.extractLsb'_eq_self, Nat.reduceSub]

theorem packQ_c : (packQ n c b a d j).extractLsb' 25 6 = c := by
  rw [packQ_field]
  simp (disch := decide) only [BitVec.extractLsb'_append_eq_of_le, BitVec.extractLsb'_append_eq_right, Nat.reduceSub]

theorem packQ_b : (packQ n c b a d j).extractLsb' 19 6 = b := by
  rw [packQ_field]
  simp (disch := decide) only [BitVec.extractLsb'_append_eq_of_le, BitVec.extractLsb'_append_eq_right, Nat.reduceSub]

theorem packQ_a : (packQ n c b a d j).extractLsb' 13 6 = a := by
  rw [packQ_field]
  simp (disch := decide) only [BitVec.extractLsb'_append_eq_of_le, BitVec.extractLsb'_append_eq_right, Nat.reduceSub]

theorem packQ_d : (packQ n c b a d j).extractLsb' 7 6 = d := by
  rw [packQ_field]
  simp (disch := decide) only [BitVec.extractLsb'_append_eq_of_le, BitVec.extractLsb'_append_eq_right, Nat.reduceSub]

end

section
variable (m : BitVec 3) (b a d : BitVec 6) (n : Bool) (g : BitVec 3) (j : BitVec 6)

theorem packG_field (lo len : Nat) : (packG m b a d n g j).extractLsb' lo len = (m ++ b ++ a ++ d ++ bit n ++ g ++ j ++ (1 : BitVec 1)).extractLsb' lo len := rfl

theorem packG_major : (packG m b a d n g j).extractLsb' 1 6 = j := by
  rw [packG_field]
  simp (disch := decide) only [BitVec.extractLsb'_append_eq_of_le, BitVec.extractLsb'_append_eq_right, Nat.reduceSub]

theorem packG_minor : (packG m b a d n g j).extractLsb' 29 3 = m := by
  rw [packG_field]
  simp (disch := decide) only [BitVec.extractLsb'_append_eq_of_le, BitVec.extractLsb'_eq_self, Nat.reduceSub]

theorem packG_b : (packG m b a d n g j).extractLsb' 23 6 = b := by
  rw [packG_field]
  simp (disch := decide) only [BitVec.extractLsb'_append_eq_of_le, BitVec.extractLsb'_append_eq_right, Nat.reduceSub]

theorem packG_a : (packG m b a d n g j).extractLsb' 17 6 = a := by
  rw [packG_field]
  simp (disch := decide) only [BitVec.extractLsb'_append_eq_of_le, BitVec.extractLsb'_append_eq_right, Nat.reduceSub]

theorem packG_d : (packG m b a d n g j).extractLsb' 11 6 = d := by
  rw [packG_field]
  simp (disch := decide) only [BitVec.extractLsb'_append_eq_of_le, BitVec.extractLsb'_append_eq_right, Nat.reduceSub]

theorem packG_n : (packG m b a d n g j).getLsbD 10 = n := by
  apply getLsbD_of_field
  rw [packG_field]
  simp (disch := decide) only [BitVec.extractLsb'_append_eq_of_le, BitVec.extractLsb'_append_eq_right, Nat.reduceSub]

theorem packG_g : (packG m b a d n g j).extractLsb' 7 3 = g := by
  rw [packG_field]
  simp (disch := decide) only [BitVec.extractLsb'_append_eq_of_le, BitVec.extractLsb'_append_eq_right, Nat.reduceSub]

end

section
variable (f : BitVec 20) (k n : Bool) (g : BitVec 3) (j : BitVec 6)

theorem packB_field (lo len : Nat) : (packB f k n g j).extractLsb' lo len = (f ++ bit k ++ bit n ++ g ++ j ++ (1 : BitVec 1)).extractLsb' lo len := rfl

theorem packB_major : (packB f k n g j).extractLsb' 1 6 = j := by
  rw [packB_field]
  simp (disch := decide) only [BitVec.extractLsb'_append_eq_of_le, BitVec.extractLsb'_append_eq_right, Nat.reduceSub]

theorem packB_f : (packB f k n g j).extractLsb' 12 20 = f := by
  rw [packB_field]
  simp (disch := decide) only [BitVec.extractLsb'_append_eq_of_le, BitVec.extractLsb'_eq_self, Nat.reduceSub]

theorem packB_k : (packB f k n g j).getLsbD 11 = k := by
  apply getLsbD_of_field
  rw [packB_field]
  simp (disch := decide) only [BitVec.extractLsb'_append_eq_of_le, BitVec.extractLsb'_append_eq_right, Nat.reduceSub]

theorem packB_n : (packB f k n g j).getLsbD 10 = n := by
  apply getLsbD_of_field
  rw [packB_field]
  simp (disch := decide) only [BitVec.extractLsb'_append_eq_of_le, BitVec.extractLsb'_append_eq_right, Nat.reduceSub]

theorem packB_g : (packB f k n g j).extractLsb' 7 3 = g := by
  rw [packB_field]
  simp (disch := decide) only [BitVec.extractLsb'_append_eq_of_le, BitVec.extractLsb'_append_eq_right, Nat.reduceSub]

end

section
variable (op : BitVec 8) (e c : BitVec 6)

theorem packE_field (lo len : Nat) : (packE op e c).extractLsb' lo len = (op ++ (0 : BitVec 12) ++ e ++ c).extractLsb' lo len := rfl

theorem packE_op : (packE op e c).extractLsb' 24 8 = op := by
  rw [packE_field]
  simp (disch := decide) only [BitVec.extractLsb'_append_eq_of_le, BitVec.extractLsb'_eq_self, Nat.reduceSub]

theorem packE_zero : (packE op e c).extractLsb' 12 12 = (0 : BitVec 12) := by
  rw [packE_field]
  simp (disch := decide) only [BitVec.extractLsb'_append_eq_of_le, BitVec.extractLsb'_append_eq_right, Nat.reduceSub]

theorem packE_e : (packE op e c).extractLsb' 6 6 = e := by
  rw [packE_field]
  simp (disch := decide) only [BitVec.extractLsb'_append_eq_of_le, BitVec.extractLsb'_append_eq_right, Nat.reduceSub]

theorem packE_c : (packE op e c).extractLsb' 0 6 = c := by
  rw [packE_field]
  simp (disch := decide) only [BitVec.extractLsb'_append_eq_right]

end

/-- R219: a word of the hint space. -/
def hintWord (h : BitVec 3) (x : BitVec 20) : W32 := (3 : BitVec 2) ++ h ++ x ++ (63 : BitVec 6) ++ (1 : BitVec 1)

section
variable (h : BitVec 3) (x : BitVec 20)

theorem hint_field (lo len : Nat) : (hintWord h x).extractLsb' lo len = ((3 : BitVec 2) ++ h ++ x ++ (63 : BitVec 6) ++ (1 : BitVec 1)).extractLsb' lo len := rfl

theorem hint_major : (hintWord h x).extractLsb' 1 6 = (63 : BitVec 6) := by
  rw [hint_field]
  simp (disch := decide) only [BitVec.extractLsb'_append_eq_of_le, BitVec.extractLsb'_append_eq_right, Nat.reduceSub]

theorem hint_top : (hintWord h x).extractLsb' 30 2 = (3 : BitVec 2) := by
  rw [hint_field]
  simp (disch := decide) only [BitVec.extractLsb'_append_eq_of_le, BitVec.extractLsb'_eq_self, Nat.reduceSub]

theorem hint_h : (hintWord h x).extractLsb' 27 3 = h := by
  rw [hint_field]
  simp (disch := decide) only [BitVec.extractLsb'_append_eq_of_le, BitVec.extractLsb'_append_eq_right, Nat.reduceSub]

theorem hint_x : (hintWord h x).extractLsb' 7 20 = x := by
  rw [hint_field]
  simp (disch := decide) only [BitVec.extractLsb'_append_eq_of_le, BitVec.extractLsb'_append_eq_right, Nat.reduceSub]

end

/-! ### The minors and immediates that carry a field of their own (R198, R205, R236, R283) -/

section
variable {k l : Nat} (r : BitVec k) (c : BitVec l)

theorem append_toNat : (r ++ c).toNat = 2 ^ l * r.toNat + c.toNat := by
  rw [BitVec.toNat_append, ← Nat.shiftLeft_add_eq_or_of_lt c.isLt, Nat.shiftLeft_eq, Nat.mul_comm]

theorem append_low : BitVec.ofNat l (r ++ c).toNat = c :=
  (BitVec.ofNat_toNat l (r ++ c)).trans BitVec.setWidth_append_eq_right

end

/-- R283: the four sizes. -/
theorem two_bits (s : BitVec 2) : s = 0 ∨ s = 1 ∨ s = 2 ∨ s = 3 := by revert s; decide

theorem packI_register (r : BitVec 12) (a d j : BitVec 6) : (packI ((0 : BitVec 1) ++ r) a d j).extractLsb' 19 12 = r := by
  change ((0 : BitVec 1) ++ r ++ a ++ d ++ j ++ (1 : BitVec 1)).extractLsb' 19 12 = r
  simp (disch := decide) only [BitVec.extractLsb'_append_eq_of_le, BitVec.extractLsb'_append_eq_right, Nat.reduceSub]

theorem packI_register_top (r : BitVec 12) (a d j : BitVec 6) : (packI ((0 : BitVec 1) ++ r) a d j).getLsbD 31 = false := by
  apply getLsbD_of_field
  change ((0 : BitVec 1) ++ r ++ a ++ d ++ j ++ (1 : BitVec 1)).extractLsb' 31 1 = 0
  simp (disch := decide) only [BitVec.extractLsb'_append_eq_of_le, Nat.reduceSub, BitVec.extractLsb'_eq_self]

theorem packI_spawn (b a d j : BitVec 6) : (packI ((1 : BitVec 7) ++ b) a d j).extractLsb' 19 6 = b := by
  change ((1 : BitVec 7) ++ b ++ a ++ d ++ j ++ (1 : BitVec 1)).extractLsb' 19 6 = b
  simp (disch := decide) only [BitVec.extractLsb'_append_eq_of_le, BitVec.extractLsb'_append_eq_right, Nat.reduceSub]

/-! ### Reading back what the encoder writes (R199) -/

/-- The words of an instruction are parsed as that instruction, whatever follows them: only the check of its field values (R209) is
left. -/
def Reads (i : Instr) : Prop := ∀ rest : List Half, decode (encode i ++ rest) = finish (some i) (encode i).length

theorem reads_half {i : Instr} {h : Half} (henc : encode i = [h]) (hlow : h.getLsbD 0 = false) (hp : parseShort h = some i) :
    Reads i := by
  intro rest
  rw [henc, ← hp]
  exact if_pos hlow

theorem reads_word {i : Instr} {w : W32} {j : BitVec 6} (henc : encode i = word32 w) (hj : w.extractLsb' 1 6 = j)
    (hlow : w.getLsbD 0 = true) (hmajor : majorAssigned j.toNat = true) (hone : hasTrailing j.toNat = false)
    (hp : parseWord w = some i) : Reads i := by
  intro rest
  rw [henc, ← hp]
  exact decode_word32 rest hlow (hj ▸ hmajor) (hj ▸ hone)

theorem reads_long {i : Instr} {w x : W32} {j : BitVec 6} (henc : encode i = word32 w ++ word32 x) (hj : w.extractLsb' 1 6 = j)
    (hlow : w.getLsbD 0 = true) (hmajor : majorAssigned j.toNat = true) (htwo : hasTrailing j.toNat = true)
    (hp : parseLong w x = some i) : Reads i := by
  intro rest
  have hbit : (w.extractLsb' 0 16).getLsbD 0 = true := by
    rw [BitVec.getLsbD_extractLsb']; exact hlow
  rw [henc, ← hp]
  simp only [word32, List.cons_append, List.nil_append, decode, word32_join, hbit, hj, hmajor, htwo, Bool.true_eq_false, if_false,
    if_true]
  rfl

section
open Laws.FirstBit (packShort_low packT_low packQ_low packI_low packG_low packB_low hint_low)

section
variable {i : Instr} {m : BitVec 5} {o : BitVec 2} {b a d : BitVec 6}

theorem reads_parse01 (henc : encode i = word32 (packT m o b a d 1)) (hp : parse01 m.toNat o b a d = some i) : Reads i :=
  reads_word henc (packT_major ..) (packT_low ..) (by decide) (by decide) (by
    simp only [parseWord, packT_major, packT_d, packT_a, packT_b, packT_o, packT_minor]; exact hp)

theorem reads_parse02 (henc : encode i = word32 (packT m o b a d 2)) (hp : parse02 m.toNat o b a d = some i) : Reads i :=
  reads_word henc (packT_major ..) (packT_low ..) (by decide) (by decide) (by
    simp only [parseWord, packT_major, packT_d, packT_a, packT_b, packT_o, packT_minor]; exact hp)

theorem reads_parse0E (henc : encode i = word32 (packT m o b a d 14)) (hp : parse0E m.toNat o b a d = some i) : Reads i :=
  reads_word henc (packT_major ..) (packT_low ..) (by decide) (by decide) (by
    simp only [parseWord, packT_major, packT_d, packT_a, packT_b, packT_o, packT_minor]; exact hp)

theorem reads_parse0F (henc : encode i = word32 (packT m o b a d 15)) (hp : parse0F m.toNat o b a d = some i) : Reads i :=
  reads_word henc (packT_major ..) (packT_low ..) (by decide) (by decide) (by
    simp only [parseWord, packT_major, packT_d, packT_a, packT_b, packT_o, packT_minor]; exact hp)

theorem reads_parse19 (henc : encode i = word32 (packT m o b a d 25)) (hp : parse19 m.toNat o b a d = some i) : Reads i :=
  reads_word henc (packT_major ..) (packT_low ..) (by decide) (by decide) (by
    simp only [parseWord, packT_major, packT_d, packT_a, packT_b, packT_o, packT_minor]; exact hp)

theorem reads_parse1A (henc : encode i = word32 (packT m o b a d 26)) (hp : parse1A m.toNat o b a d = some i) : Reads i :=
  reads_word henc (packT_major ..) (packT_low ..) (by decide) (by decide) (by
    simp only [parseWord, packT_major, packT_d, packT_a, packT_b, packT_o, packT_minor]; exact hp)

theorem reads_parse1B (henc : encode i = word32 (packT m o b a d 27)) (hp : parse1B m.toNat o b a d = some i) : Reads i :=
  reads_word henc (packT_major ..) (packT_low ..) (by decide) (by decide) (by
    simp only [parseWord, packT_major, packT_d, packT_a, packT_b, packT_o, packT_minor]; exact hp)

theorem reads_parse1F (henc : encode i = word32 (packT m o b a d 31)) (hp : parse1F m.toNat o b a d = some i) : Reads i :=
  reads_word henc (packT_major ..) (packT_low ..) (by decide) (by decide) (by
    simp only [parseWord, packT_major, packT_d, packT_a, packT_b, packT_o, packT_minor]; exact hp)

theorem reads_parse20 (henc : encode i = word32 (packT m o b a d 32)) (hp : parse20 m.toNat o b a d = some i) : Reads i :=
  reads_word henc (packT_major ..) (packT_low ..) (by decide) (by decide) (by
    simp only [parseWord, packT_major, packT_d, packT_a, packT_b, packT_o, packT_minor]; exact hp)

theorem reads_parse21 (henc : encode i = word32 (packT m o b a d 33)) (hp : parse21 m.toNat o b a d = some i) : Reads i :=
  reads_word henc (packT_major ..) (packT_low ..) (by decide) (by decide) (by
    simp only [parseWord, packT_major, packT_d, packT_a, packT_b, packT_o, packT_minor]; exact hp)

theorem reads_parse22 (henc : encode i = word32 (packT m o b a d 34)) (hp : parse22 m.toNat o b a d = some i) : Reads i :=
  reads_word henc (packT_major ..) (packT_low ..) (by decide) (by decide) (by
    simp only [parseWord, packT_major, packT_d, packT_a, packT_b, packT_o, packT_minor]; exact hp)

theorem reads_parse23 (henc : encode i = word32 (packT m o b a d 35)) (hp : parse23 m.toNat o b a d = some i) : Reads i :=
  reads_word henc (packT_major ..) (packT_low ..) (by decide) (by decide) (by
    simp only [parseWord, packT_major, packT_d, packT_a, packT_b, packT_o, packT_minor]; exact hp)

theorem reads_parse24 (henc : encode i = word32 (packT m o b a d 36)) (hp : parse24 m.toNat o b a d = some i) : Reads i :=
  reads_word henc (packT_major ..) (packT_low ..) (by decide) (by decide) (by
    simp only [parseWord, packT_major, packT_d, packT_a, packT_b, packT_o, packT_minor]; exact hp)

theorem reads_parse25 (henc : encode i = word32 (packT m o b a d 37)) (hp : parse25 m.toNat o b a d = some i) : Reads i :=
  reads_word henc (packT_major ..) (packT_low ..) (by decide) (by decide) (by
    simp only [parseWord, packT_major, packT_d, packT_a, packT_b, packT_o, packT_minor]; exact hp)

end

section
variable {i : Instr} {m g : BitVec 3} {b a d j : BitVec 6} {n : Bool}

theorem reads_parseG (hj : j = 16 ∨ j = 17 ∨ j = 18 ∨ j = 19) (henc : encode i = word32 (packG m b a d n g j))
    (hp : parseG j.toNat m.toNat b a d n g = some i) : Reads i := by
  have hparse : parseWord (packG m b a d n g j) = some i := by
    simp only [parseWord, packG_major, packG_d, packG_a, packG_b, packG_n, packG_g, packG_minor]
    rcases hj with rfl | rfl | rfl | rfl <;> exact hp
  exact reads_word henc (packG_major ..) (packG_low ..) (by rcases hj with rfl | rfl | rfl | rfl <;> rfl)
    (by rcases hj with rfl | rfl | rfl | rfl <;> rfl) hparse

theorem reads_parseE {op : BitVec 8} {e c : BitVec 6} (hj : j = 20 ∨ j = 21)
    (henc : encode i = word32 (packG m b a d n g j) ++ word32 (packE op e c))
    (hp : parseE j.toNat m.toNat b a d n g op 0 e c = some i) : Reads i := by
  have hparse : parseLong (packG m b a d n g j) (packE op e c) = some i := by
    simp only [parseLong, packG_major, packG_d, packG_a, packG_b, packG_n, packG_g, packG_minor,
      packE_op, packE_zero, packE_e, packE_c]
    rcases hj with rfl | rfl <;> exact hp
  exact reads_long henc (packG_major ..) (packG_low ..) (by rcases hj with rfl | rfl <;> rfl)
    (by rcases hj with rfl | rfl <;> rfl) hparse

end

theorem reads_of_encode (i : Instr) (hne : encode i ≠ []) : Reads i := by
  cases i
  case movShort | addShort | subShort | rsubShort | mulShort | minShort | maxShort | andShort | orShort | xorShort | andnShort |
      shlShort | shrShort | sarShort | negShort | absShort =>
    exact reads_half rfl (packShort_low ..) (by
      simp only [parseShort, packShort_op, packShort_adv, packShort_s, packShort_d]; rfl)
  case mov | add | sub | rsub | mul | mulh | div | rem | min | max | abs | neg | clamp | abd | avg | adds | subs | and | or |
      xor | andn | not | shl | shr | sar | rol | ror | clz | ctz | popc | brev =>
    exact reads_parse01 rfl rfl
  case bfx | bfi | sxt | zxt | cvt | cvts | rcp | rsq | sqrt | exp2 | log2 | floor | ceil | rndn =>
    exact reads_parse02 rfl rfl
  case lea | adda | lcore =>
    exact reads_parse0E rfl rfl
  case gand | gor | gxor | gnot | gmov =>
    exact reads_parse0F rfl rfl
  case nop | endFiring | trig | halt | yld | wfe | sev | evclr | algn | jr | jrl | ret =>
    exact reads_parse19 rfl rfl
  case bcst | perm | shfl | slide | zip | unzp | cmpr | expd | redadd | redmax | redmin | scan | dot4 | dot2 =>
    exact reads_parse1A rfl rfl
  case view | vget | vset | rfil | repx =>
    exact reads_parse1B rfl rfl
  case fenceC | fenceD | fenceP | fenceF =>
    exact reads_parse1F rfl rfl
  case bind | unbd | acq | rel | trya | bar | bara | barw | semp | semw | objq =>
    exact reads_parse20 rfl rfl
  case send | sendi | msgq | ceq =>
    exact reads_parse21 rfl rfl
  case fatmAdd | fatmMin | fatmMax | fatmAnd | fatmOr | fatmXor | fatmSwp | fatmCas | fatmInc | fxm | fmrk | cend =>
    exact reads_parse22 rfl rfl
  case mlw | mlwC | mfmt | mma | msc | mdr | mdrZ | mdrp | mclr | msta =>
    exact reads_parse23 rfl rfl
  case cmps | dcmp | cmpq =>
    exact reads_parse24 rfl rfl
  case trap | sys | eret | svs | rss | ts | pmc | bist | sigq | ckpt | idle =>
    exact reads_parse25 rfl rfl
  case fma | fnma | fms | fnms =>
    exact reads_word rfl (packQ_major ..) (packQ_low ..) (by decide) (by decide) (by
      simp only [parseWord, parseRest, packQ_major, packQ_n, packQ_c, packQ_b, packQ_a, packQ_d]; rfl)
  case addi | andi | ori | xori | shli | shri | sari | movi | loop | advr | advw | repb =>
    exact reads_word rfl (packI_major ..) (packI_low ..) (by decide) (by decide) (by
      simp only [parseWord, parseRest, packI_major, packI_i, packI_a, packI_d]; rfl)
  case sel | selm | aadd | amin | amax | aand | aor | axor | aswp | acas | ainc =>
    exact reads_parseG (by decide) rfl rfl
  case br | brl =>
    exact reads_word rfl (packB_major ..) (packB_low ..) (by decide) (by decide) (by
      simp only [parseWord, parseRest, packB_major, packB_f, packB_k, packB_n, packB_g]; rfl)
  case cpy | cpys | gath | scat | fill | red | ratm | rinv | wqryQuery | wqryExtend | bsig =>
    exact reads_parseE (by decide) rfl rfl
  case li | near =>
    exact reads_long rfl (packI_major ..) (packI_low ..) (by decide) (by decide) (by
      simp only [parseLong, packI_major, packI_i, packI_a, packI_d]; rfl)
  case spwn b a d lit =>
    refine reads_long rfl (packI_major ..) (packI_low ..) (by decide) (by decide) ?_
    have hnum : 64 ≤ ((1 : BitVec 7) ++ b).toNat ∧ ((1 : BitVec 7) ++ b).toNat ≤ 0x7F := by
      rw [append_toNat]; exact ⟨Nat.le_add_right .., Nat.add_le_add_left (Nat.le_of_lt_succ b.isLt) 64⟩
    simp only [parseLong, packI_major, packI_i, packI_a, packI_d, packI_spawn]
    exact (if_neg (by omega)).trans ((if_neg (by omega)).trans (if_pos hnum))
  case cmp c o b a d => exact readsBack_cmp c o b a d
  case cmpm c o b a d => exact readsBack_cmpm c o b a d
  case ld s o f a d =>
    refine reads_parse1F rfl ?_
    have hlow : ((0 : BitVec 3) ++ s).toNat < 4 := by rw [append_toNat]; exact (Nat.zero_add _).trans_lt s.isLt
    exact (if_pos hlow).trans (by rw [append_low])
  case fld s o f a d =>
    refine reads_parse22 rfl ?_
    have hlow : ((0 : BitVec 3) ++ s).toNat < 4 := by rw [append_toNat]; exact (Nat.zero_add _).trans_lt s.isLt
    exact (if_pos hlow).trans (by rw [append_low])
  case fst s o b a f =>
    refine reads_parse22 rfl ?_
    have hlow : ¬ ((1 : BitVec 3) ++ s).toNat < 4 := by rw [append_toNat]; exact Nat.not_lt.mpr (Nat.le_add_right ..)
    have hhigh : ((1 : BitVec 3) ++ s).toNat < 8 := by rw [append_toNat]; exact Nat.add_lt_add_left s.isLt 4
    exact (if_neg hlow).trans ((if_pos hhigh).trans (by rw [append_low]))
  case lds m o f a d =>
    cases m
    all_goals exact reads_parse1F rfl rfl
  case sts m b a f n g =>
    cases m
    all_goals exact reads_parseG (by decide) rfl rfl
  case st s b a f n g =>
    rcases two_bits s with rfl | rfl | rfl | rfl
    all_goals exact reads_parseG (by decide) rfl rfl
  case rds | wrs =>
    exact reads_word rfl (packI_major ..) (packI_low ..) (by decide) (by decide) (by
      simp only [parseWord, parseRest, packI_major, packI_a, packI_d, packI_register, packI_register_top]; rfl)
  case nopH h x =>
    exact reads_word (w := hintWord h x) rfl (hint_major ..) (hint_low ..) (by decide) (by decide) (by
      simp only [parseWord, parseRest, hint_major, hint_top, hint_h, hint_x]; rfl)
  all_goals exact absurd rfl hne

end

/-- Settles O33: what the encoder writes is parsed back row by row (`reads_of_encode`), and what parses is what the encoder writes
(`words_of_decode`). -/
theorem encodeRoundTrip : Obligations.EncodeRoundTrip := by
  refine ⟨fun i rest hwf hne => ?_, fun _ _ _ => words_of_decode⟩
  rw [reads_of_encode i hne rest, finish_eq_ok]
  exact ⟨rfl, hwf, rfl⟩

end Sys2Proof
end

/-! ## Every step goes on (R17, R209)

Each instruction and each event answers a next state, so every issue, every entry of the agenda and every step does. -/

section
namespace Sys2Proof.Machine

theorem exec_goesOn (i : Instr) (s : State) : ∃ t, exec i s = .next t := by
  cases i
  all_goals exact ⟨_, rfl⟩

theorem State.issueSlot_goesOn (s : State) (c k : Nat) : ∃ t, s.issueSlot c k = .next t := by
  unfold State.issueSlot
  dsimp only
  split
  · exact ⟨_, rfl⟩
  · exact exec_goesOn ..
  · split
    · exact ⟨_, rfl⟩
    · split
      · exact exec_goesOn ..
      · exact ⟨_, rfl⟩

theorem State.issueList_goesOn (s : State) (c : Nat) (l : List Nat) : ∃ t, s.issueList c l = .next t := by
  induction l generalizing s with
  | nil => exact ⟨s, rfl⟩
  | cons k rest ih =>
    obtain ⟨t, ht⟩ := s.issueSlot_goesOn c k
    rw [State.issueList, ht]
    dsimp only
    split
    · exact ih t
    · exact ⟨t, rfl⟩

theorem State.issueOn_goesOn (s : State) (c : Nat) : ∃ t, s.issueOn c = .next t := s.issueList_goesOn c _

theorem State.act_goesOn (s : State) (a : Act) : ∃ t, s.act a = .next t := by
  cases a with
  | issue c => exact s.issueOn_goesOn c
  | event i =>
    rw [State.act]
    split
    · exact exec_goesOn i s
    · exact ⟨s, rfl⟩
  | _ => exact ⟨_, rfl⟩

theorem step_goesOn (s : State) : ∃ t, step s = .next t := by
  unfold step
  split
  · exact s.issueOn_goesOn _
  · exact State.act_goesOn ..

theorem run_succ (M : Host.Core) {k : Nat} {s t : M.State} (h : M.step s = .next t) : M.run (k + 1) s = M.run k t := by
  rw [Host.Core.run, h]

/-- Settles O34: by induction on the number of steps, each of which answers a next state. -/
theorem everyStepGoesOn : Obligations.EveryStepGoesOn := by
  intro k
  induction k with
  | zero => exact fun s => ⟨s, rfl⟩
  | succ k ih =>
    intro s
    obtain ⟨t, ht⟩ := step_goesOn s
    obtain ⟨u, hu⟩ := ih t
    exact ⟨u, (run_succ core ht).trans hu⟩

/-! ## Decoded words and reset (R199 to R208, R359) -/

/-- Settles O32: each word decodes by computation. -/
theorem decodeWords : Obligations.DecodeWords := ⟨rfl, rfl, rfl, rfl, rfl, rfl, rfl, rfl, rfl, rfl, rfl⟩

theorem slot_reset (c k : Nat) : State.reset.slot c k = Slot.reset := rfl

theorem readSr_reset_skew (c k : Nat) {n : Nat} (h0 : 0x20 ≤ n) (h1 : n ≤ 0x23) : State.reset.readSr c k n = 0 := by
  obtain rfl | rfl | rfl | rfl : n = 0x20 ∨ n = 0x21 ∨ n = 0x22 ∨ n = 0x23 := by omega
  all_goals rfl

theorem bank_reset (b : Nat) : Core.reset.bank b = 0 := by
  simp [Core.bank, Core.reset, bits]

/-- Settles O35: reset's tables are empty, so each register reads its reset value. -/
theorem resetState : Obligations.ResetState := by
  refine ⟨rfl, rfl, rfl, fun c k => ⟨rfl, ?_, fun h => rfl, rfl, rfl, rfl, fun n => readSr_reset_skew c k, ?_, rfl, rfl, ?_, ?_,
    fun b _ => bank_reset b⟩, rfl, rfl, rfl, rfl⟩
  · rw [slot_reset]; decide
  · change Core.reset.mxStat = 0x00F00000; decide
  · change Core.reset.clampWord = 0; decide
  · rfl

end Sys2Proof.Machine
end

/-! ## What an arithmetic form comes to (R223, R224, R257) -/

section
namespace Sys2Proof.Machine
open Claims

/-- The instruction of an arithmetic form issues the pipeline with the form's operands and operation. -/
theorem exec_form {s : State} {i : Instr} {f : Claims.Form} (h : form s i = some f) :
    ∃ v, exec i s = .next (s.issueAs i (!f.core) true v) ∧ v s = arith f.o f.d f.srcs f.sem f.x s := by
  cases i
  case movShort | addShort | subShort | rsubShort | mulShort | minShort | maxShort | andShort | orShort | xorShort | andnShort |
      shlShort | shrShort | sarShort | negShort | absShort | mov | add | sub | rsub | mul | mulh | div | rem | min | max | abs | neg |
      clamp | abd | avg | adds | subs | and | or | xor | andn | not | shl | shr | sar | rol | ror | clz | ctz | popc | brev | bfx |
      bfi | sxt | zxt | cvts | rcp | rsq | sqrt | exp2 | log2 | floor | ceil | rndn | fma | fnma | fms | fnms | addi | andi | ori |
      xori | shli | shri | sari | movi | li | near | lea | adda | lcore | sel | selm =>
    obtain rfl := Option.some.inj h
    exact ⟨_, rfl, rfl⟩
  case cvt o a d =>
    by_cases hb : (s.view d.toNat).ty = .b
    · obtain rfl := Option.some.inj ((if_pos hb).symm.trans h)
      exact ⟨_, rfl, if_pos hb⟩
    · obtain rfl := Option.some.inj ((if_neg hb).symm.trans h)
      exact ⟨_, rfl, if_neg hb⟩
  all_goals cases h

theorem State.issueAs_runs {s : State} {i : Instr} {onEngine onCore : Bool} {v : State → Verdict} (hruns : s.cur.runs = true)
    (hagent : s.profileOk onEngine onCore = true) : s.issueAs i onEngine onCore v = s.conclude i (v s) := by
  rw [State.issueAs, if_pos hruns, if_pos hagent]

theorem profileOk_of_form {s : State} {f : Claims.Form} (h : f.core = true → isEngine s.curCore = false) :
    s.profileOk (!f.core) true = true := by
  unfold State.profileOk
  split
  · cases hc : f.core
    · rfl
    · simp_all
  · rfl

theorem laneBits_ok {l : List LOut} (h : ∀ r ∈ l, ∃ v, r = .ok v) : (l.map laneBits).map LOut.ok = l := by
  rw [List.map_map]
  refine (List.map_congr_left fun r hr => ?_).trans l.map_id
  obtain ⟨v, rfl⟩ := h r hr
  rfl

/-- Lanes that all have a value are written as they stand. -/
theorem finishLanes_laneBits {s : State} {dst : Acc} {site : Nat → Nat → Nat × Nat} {w : Nat} {l : List LOut}
    (h : ∀ r ∈ l, ∃ v, r = .ok v) : finishLanes s dst site w l = .ok (dst.putLanes s w (l.map laneBits)) := by
  conv_lhs => rw [← laneBits_ok h]
  exact finishLanes_ok _

section
variable {s : State} {f : Claims.Form}

theorem arith_lanes (hok : ∀ r ∈ arithOuts f.o f.d f.srcs f.sem f.x s, ∃ v, r = .ok v) :
    finishLanes s (arithDst f.o f.d f.srcs s) (arithSite f.srcs s) (arithTy f.d f.srcs s).bits
      (arithOuts f.o f.d f.srcs f.sem f.x s) = .ok (formWritten s f) := finishLanes_laneBits hok

/-- R223: a form that nothing stops is done, with its lanes written and its ring advanced. -/
theorem arith_of_formReady (h : FormReady s f) : arith f.o f.d f.srcs f.sem f.x s = .done (formResult s f) := by
  unfold arith
  rw [h.mism, State.gated_ready h.accs h.opnd h.late, arith_lanes h.lanes, formResult, h.guard]
  cases hadv : f.x.adv with
  | none => simp
  | some r => simp [h.room (by simp [hadv])]

/-- R223, R200: such a form retires. -/
theorem exec_of_formReady (h : FormReady s f) {i : Instr} (hf : form s i = some f) : exec i s = .next (s.retired i (formResult s f)) := by
  obtain ⟨v, hexec, hv⟩ := exec_form hf
  rw [hexec, State.issueAs_runs h.runs (profileOk_of_form h.agent), hv, arith_of_formReady h]
  rfl

end
end Sys2Proof.Machine
end

/-! ## Integers fitted to a type (R94, R96) -/

section
namespace Sys2Proof.Machine
open Claims

theorem wrap_lt (w : Nat) (v : Int) : wrap w v < 2 ^ w := by
  have h0 : (0 : Int) < (2 ^ w : Nat) := by positivity
  have := Int.emod_nonneg v h0.ne'
  have := Int.emod_lt_of_pos v h0
  unfold wrap
  omega

theorem wrap_cast (w : Nat) (v : Int) : (wrap w v : Int) = v % (2 ^ w : Nat) :=
  Int.toNat_of_nonneg (Int.emod_nonneg v (by positivity))

/-- R94: a number of w bits is below half the range, or reads as negative where its type is signed. -/
theorem intOf_of_lt {signed : Bool} {w r : Nat} (h : r < 2 ^ w) :
    intOf signed w r = if signed = true ∧ 2 ^ (w - 1) ≤ r then (r : Int) - (2 ^ w : Nat) else r := by
  simp [intOf, Nat.mod_eq_of_lt h]

theorem Ty.two_pow_bits (t : Ty) : 2 ^ t.bits = 2 * 2 ^ (t.bits - 1) := by
  cases t <;> rfl

theorem Ty.minInt_le_maxInt (t : Ty) : t.minInt ≤ t.maxInt := by
  have := t.two_pow_bits
  have : 0 < 2 ^ (t.bits - 1) := by positivity
  unfold Ty.minInt Ty.maxInt
  split <;> omega

/-- R96: an integer in range, wrapped, reads back. -/
theorem Ty.intVal_wrap (t : Ty) {v : Int} (hlo : t.minInt ≤ v) (hhi : v ≤ t.maxInt) : t.intVal (wrap t.bits v) = v := by
  have hpow := t.two_pow_bits
  have hpos : 0 < 2 ^ (t.bits - 1) := by positivity
  have hw := wrap_cast t.bits v
  have hlt := wrap_lt t.bits v
  rw [Ty.intVal, intOf_of_lt hlt]
  unfold Ty.minInt at hlo
  unfold Ty.maxInt at hhi
  rw [hpow] at hw hlt hhi ⊢
  generalize 2 ^ (t.bits - 1) = half at *
  have hmod : v % (2 * half : Nat) = if v < 0 then v + (2 * half : Nat) else v := by
    split
    · rw [← Int.add_emod_right, Int.emod_eq_of_lt] <;> split at hlo <;> omega
    · exact Int.emod_eq_of_lt (by omega) (by split at hhi <;> omega)
  rw [hmod] at hw
  cases hs : t.isSigned <;> simp only [hs, Bool.false_eq_true, if_false, if_true, false_and, true_and] at hlo hhi ⊢ <;>
    split_ifs at hw ⊢ <;> omega

theorem Ty.fit_false (t : Ty) (v : Int) : t.fit false v = wrap t.bits v := rfl

theorem Ty.fit_true (t : Ty) (v : Int) : t.fit true v = wrap t.bits (t.clampInt v) := rfl

/-- Settles O3: a value in range is its own clamp and reads back from its low bits; one out of range is clamped to the nearer end. -/
theorem integerFit : Obligations.IntegerFit := by
  intro t v _
  have hrange := t.minInt_le_maxInt
  refine ⟨wrap_lt _ _, ?_, fun hlo hhi => ⟨t.intVal_wrap hlo hhi, ?_⟩, fun h => ?_, fun h => ?_⟩
  · rw [t.fit_false, wrap_cast, Int.emod_emod]
  · rw [t.fit_true, Ty.clampInt, min_eq_right hhi, max_eq_right hlo, t.intVal_wrap hlo hhi]
  · rw [t.fit_true, Ty.clampInt, min_eq_left h.le, max_eq_right hrange, t.intVal_wrap hrange le_rfl]
  · rw [t.fit_true, Ty.clampInt, min_eq_right (h.le.trans hrange), max_eq_left h.le, t.intVal_wrap le_rfl hrange]

end Sys2Proof.Machine
end

/-! ## Deliveries (R34, R37, R66, R69, R155, R176, R289, R294) -/
section
namespace Sys2Proof.Machine
open Sys2Proof.Claims

variable {s : State} {k : Nat}

/-! ### Events by their own functions -/

theorem exec_messageArrival_eq (k : _) (s : State) : exec (.messageArrival k) s = execMessageArrival k s := rfl

theorem exec_tokenLanding_eq (k : _) (s : State) : exec (.tokenLanding k) s = execTokenLanding k s := rfl

theorem exec_remoteLoadReply_eq (k : _) (s : State) : exec (.remoteLoadReply k) s = execRemoteLoadReply k s := rfl

theorem exec_nearRequest_eq (k : _) (s : State) : exec (.nearRequest k) s = execNearRequest k s := rfl

theorem exec_remoteAtomic_eq (k : _) (s : State) : exec (.remoteAtomic k) s = execRemoteAtomic k s := rfl

theorem exec_objectOperation_eq (k : _) (s : State) : exec (.objectOperation k) s = execObjectOperation k s := rfl

theorem exec_messageInjection_eq (core : _) (s : State) : exec (.messageInjection core) s = execMessageInjection core s := rfl

theorem exec_keeperPost_eq (k : _) (s : State) : exec (.keeperPost k) s = execKeeperPost k s := rfl

theorem exec_keeperSumRow_eq (core : _) (s : State) : exec (.keeperSumRow core) s = execKeeperSumRow core s := rfl

theorem exec_clOpRow_eq (k : _) (s : State) : exec (.clOpRow k) s = execClOpRow k s := rfl

theorem exec_mdrpAdd_eq (k : _) (s : State) : exec (.mdrpAdd k) s = execMdrpAdd k s := rfl

theorem exec_trapMessage_eq (k : _) (s : State) : exec (.trapMessage k) s = execTrapMessage k s := rfl

theorem exec_bindComplete_eq (core : _) (slot : _) (s : State) : exec (.bindComplete core slot) s = execBindComplete core slot s := rfl

theorem exec_withholdNotice_eq (k : _) (s : State) : exec (.withholdNotice k) s = execWithholdNotice k s := rfl

theorem exec_clearingNotice_eq (k : _) (s : State) : exec (.clearingNotice k) s = execClearingNotice k s := rfl

theorem exec_engineCommandStart_eq (cluster : _) (s : State) : exec (.engineCommandStart cluster) s = execEngineCommandStart cluster s := rfl

theorem exec_translationWalk_eq (cluster : _) (ctx : _) (va : _) (write : _) (s : State) : exec (.translationWalk cluster ctx va write) s = execTranslationWalk cluster ctx va write s := rfl

theorem exec_flushMarker_eq (cluster : _) (src : _) (plane : _) (cls : _) (seq : _) (s : State) : exec (.flushMarker cluster src plane cls seq) s = execFlushMarker cluster src plane cls seq s := rfl

theorem exec_fabricRequest_eq (cluster : _) (plane : _) (hdr : _) (payload : _) (s : State) : exec (.fabricRequest cluster plane hdr payload) s = execFabricRequest cluster plane hdr payload s := rfl

theorem exec_fabricReply_eq (cluster : _) (hdr : _) (payload : _) (s : State) : exec (.fabricReply cluster hdr payload) s = execFabricReply cluster hdr payload s := rfl

theorem exec_lossNotice_eq (cluster : _) (sdev : _) (plane : _) (s : State) : exec (.lossNotice cluster sdev plane) s = execLossNotice cluster sdev plane s := rfl

theorem exec_requesterTimeOut_eq (cluster : _) (tag : _) (s : State) : exec (.requesterTimeOut cluster tag) s = execRequesterTimeOut cluster tag s := rfl

theorem exec_tagHoldExpiry_eq (cluster : _) (tag : _) (s : State) : exec (.tagHoldExpiry cluster tag) s = execTagHoldExpiry cluster tag s := rfl

theorem exec_linkErrorRateChange_eq (plane : _) (peer : _) (q : _) (s : State) : exec (.linkErrorRateChange plane peer q) s = execLinkErrorRateChange plane peer q s := rfl

theorem exec_loopbackStart_eq (plane : _) (len : _) (s : State) : exec (.loopbackStart plane len) s = execLoopbackStart plane len s := rfl

theorem exec_planeOut_eq (plane : _) (out : _) (s : State) : exec (.planeOut plane out) s = execPlaneOut plane out s := rfl

theorem exec_loopbackDone_eq (plane : _) (errs : _) (s : State) : exec (.loopbackDone plane errs) s = execLoopbackDone plane errs s := rfl

theorem exec_peerTableHandshake_eq (pos : _) (answers : _) (ctx : _) (pf : _) (s : State) : exec (.peerTableHandshake pos answers ctx pf) s = execPeerTableHandshake pos answers ctx pf s := rfl

theorem exec_inboxWrite_eq (fn : _) (off : _) (bytes : _) (s : State) : exec (.inboxWrite fn off bytes) s = execInboxWrite fn off bytes s := rfl

theorem exec_statusFree_eq (fn : _) (slot : _) (s : State) : exec (.statusFree fn slot) s = execStatusFree fn slot s := rfl

theorem exec_sysRelease_eq (k : _) (s : State) : exec (.sysRelease k) s = execSysRelease k s := rfl

theorem exec_sysPost_eq (k : _) (s : State) : exec (.sysPost k) s = execSysPost k s := rfl

theorem exec_hostMemoryRead_eq (fn : _) (src : _) (n : _) (s : State) : exec (.hostMemoryRead fn src n) s = execHostMemoryRead fn src n s := rfl

theorem exec_hostMemoryWrite_eq (fn : _) (va : _) (bytes : _) (poisoned : _) (s : State) : exec (.hostMemoryWrite fn va bytes poisoned) s = execHostMemoryWrite fn va bytes poisoned s := rfl

theorem exec_reset_eq (s : State) : exec .reset s = execReset s := rfl

theorem exec_dispatch_eq (core : _) (pick : _) (s : State) : exec (.dispatch core pick) s = execDispatch core pick s := rfl

theorem exec_dependentLaunchStart_eq (l : _) (s : State) : exec (.dependentLaunchStart l) s = execDependentLaunchStart l s := rfl

theorem exec_composeGrant_eq (core : _) (s : State) : exec (.composeGrant core) s = execComposeGrant core s := rfl

theorem exec_composeWaitBound_eq (core : _) (s : State) : exec (.composeWaitBound core) s = execComposeWaitBound core s := rfl

theorem exec_algnHoldExpiry_eq (core : _) (slot : _) (s : State) : exec (.algnHoldExpiry core slot) s = execAlgnHoldExpiry core slot s := rfl

theorem exec_rollback_eq (core : _) (slot : _) (s : State) : exec (.rollback core slot) s = execRollback core slot s := rfl

theorem exec_waitTimeOut_eq (core : _) (slot : _) (s : State) : exec (.waitTimeOut core slot) s = execWaitTimeOut core slot s := rfl

theorem exec_deadlineMiss_eq (core : _) (slot : _) (s : State) : exec (.deadlineMiss core slot) s = execDeadlineMiss core slot s := rfl

theorem exec_bindRecordWrite_eq (core : _) (slot : _) (rec : _) (s : State) : exec (.bindRecordWrite core slot rec) s = execBindRecordWrite core slot rec s := rfl

theorem exec_preemptionRequest_eq (core : _) (slot : _) (s : State) : exec (.preemptionRequest core slot) s = execPreemptionRequest core slot s := rfl

theorem exec_preemption_eq (core : _) (slot : _) (s : State) : exec (.preemption core slot) s = execPreemption core slot s := rfl

theorem exec_timeSliceExpiry_eq (core : _) (slot : _) (s : State) : exec (.timeSliceExpiry core slot) s = execTimeSliceExpiry core slot s := rfl

theorem exec_resume_eq (core : _) (slot : _) (s : State) : exec (.resume core slot) s = execResume core slot s := rfl

theorem exec_watchdogTrip_eq (core : _) (s : State) : exec (.watchdogTrip core) s = execWatchdogTrip core s := rfl

theorem exec_fenceWrite_eq (core : _) (s : State) : exec (.fenceWrite core) s = execFenceWrite core s := rfl

theorem exec_benchRemap_eq (core : _) (s : State) : exec (.benchRemap core) s = execBenchRemap core s := rfl

theorem exec_windowZeroed_eq (core : _) (slot : _) (s : State) : exec (.windowZeroed core slot) s = execWindowZeroed core slot s := rfl

theorem exec_bankReady_eq (core : _) (bank : _) (s : State) : exec (.bankReady core bank) s = execBankReady core bank s := rfl

theorem exec_umpireCheck_eq (core : _) (slot : _) (dsig : _) (ssig : _) (s : State) : exec (.umpireCheck core slot dsig ssig) s = execUmpireCheck core slot dsig ssig s := rfl

theorem exec_bistComplete_eq (core : _) (fail : _) (first : _) (s : State) : exec (.bistComplete core fail first) s = execBistComplete core fail first s := rfl

theorem exec_railSettled_eq (die : _) (rail : _) (s : State) : exec (.railSettled die rail) s = execRailSettled die rail s := rfl

theorem exec_temperatureUpdate_eq (die : _) (temp : _) (s : State) : exec (.temperatureUpdate die temp) s = execTemperatureUpdate die temp s := rfl

theorem exec_setRotation_eq (core : _) (s : State) : exec (.setRotation core) s = execSetRotation core s := rfl

theorem exec_snapshotTrigger_eq (s : State) : exec .snapshotTrigger s = execSnapshotTrigger s := rfl

theorem exec_pcSample_eq (ctx : _) (cores : _) (s : State) : exec (.pcSample ctx cores) s = execPcSample ctx cores s := rfl

/-- R34: a message that nothing before it holds up, at the host. -/
theorem exec_messageArrival_host {m : Msg} {r : Option Ret} (h : s.net[k]? = some (.msg m toHost r))
    (he : s.earlier k (·.sameRoute m toHost) = false) :
    exec (.messageArrival k) s = .next (((s.taken k).hostReply m).2.tokenTo r ((s.taken k).hostReply m).1) := by
  simp only [exec_messageArrival_eq, execMessageArrival, h, he, Bool.false_eq_true, if_false, if_true]

/-- R34: the same at a core that no copy to a spare and no launch's self-test holds up. -/
theorem exec_messageArrival_core {m : Msg} {tgt : Nat} {r : Option Ret} (h : s.net[k]? = some (.msg m tgt r))
    (he : s.earlier k (·.sameRoute m tgt) = false) (ht : tgt < toHost) (hm : s.moving tgt = false)
    (hl : tgt = 0x3FFF → s.launchTests m.ctx m.hix = false) :
    exec (.messageArrival k) s = .next (((s.taken k).arrive tgt m).2.tokenTo r ((s.taken k).arrive tgt m).1) := by
  have hne : tgt ≠ toHost := by omega
  have hlt : ¬ toHost < tgt := by omega
  have hl' : (tgt == 0x3FFF && s.launchTests m.ctx m.hix) = false := by
    by_cases h : tgt = 0x3FFF <;> simp [h, hl]
  simp only [exec_messageArrival_eq, execMessageArrival, h, he, hne, hlt, hm, hl', Bool.or_self, Bool.false_eq_true, if_false]

/-- R301: the same for a core of a peer, whose request leaves. -/
theorem exec_messageArrival_peer {m : Msg} {tgt : Nat} {r : Option Ret} {u : State} (h : s.net[k]? = some (.msg m tgt r))
    (he : s.earlier k (·.sameRoute m tgt) = false) (ht : toHost < tgt) (hu : (s.taken k).peerReply m tgt r = some u) :
    exec (.messageArrival k) s = .next u := by
  have hne : tgt ≠ toHost := by omega
  simp only [exec_messageArrival_eq, execMessageArrival, h, he, hne, ht, hu, Option.getD_some, Bool.false_eq_true, if_false, if_true]

theorem exec_tokenLanding {r : Ret} {v : BitVec 32} (h : s.net[k]? = some (.token r v)) (hm : s.moving r.core = false) :
    exec (.tokenLanding k) s = .next ((s.taken k).landToken r v) := by
  simp only [exec_tokenLanding_eq, execTokenLanding, h, hm, Bool.false_eq_true, if_false]

theorem exec_remoteLoadReply {r : Ret} {bs : List Byte} (h : s.net[k]? = some (.ldReply r bs none)) (hm : s.moving r.core = false) :
    exec (.remoteLoadReply k) s = .next ((s.taken k).land r bs) := by
  simp only [exec_remoteLoadReply_eq, execRemoteLoadReply, h, hm, Bool.false_eq_true, if_false]

theorem exec_nearRequest_load {c j : Nat} {o a n : _} {r : Ret} (h : s.net[k]? = some (.nearLd c j o a n r))
    (hw : s.nearWaits k (.nearLd c j o a n r) = false) :
    exec (.nearRequest k) s = .next (((s.taken k).updFiring r.core r.slot r.fid (·.dropWords a n)).push
      (.ldReply r (toLe r.len (leNat (s.bytesAt a n))) (if s.poisoned a n then some a else none))) := by
  simp only [exec_nearRequest_eq, execNearRequest, h, hw, Bool.false_eq_true, if_false]

theorem exec_nearRequest_store {c j f : Nat} {o a bs : _} (h : s.net[k]? = some (.nearSt c j f o a bs))
    (hw : s.nearWaits k (.nearSt c j f o a bs) = false) :
    exec (.nearRequest k) s = .next ((s.taken k).storeBy c j f a bs) := by
  simp only [exec_nearRequest_eq, execNearRequest, h, hw, Bool.false_eq_true, if_false]

theorem exec_remoteAtomic {q : AtomReq} (h : s.net[k]? = some (.atomic q)) (hw : s.nearWaits k (.atomic q) = false)
    (hp : s.poisoned q.addr ((Ty.ofCode q.ty).bits / 8) = false) :
    let n := (Ty.ofCode q.ty).bits / 8
    let d := (s.taken k).atomAt (s.writer q.core q.slot q.ret.fid) q.op (Ty.ofCode q.ty) q.addr q.b0.toNat q.b1.toNat
    let u := if s.touchesLive q.addr n then d.2 else d.2.watchAgent q.core q.addr n
    exec (.remoteAtomic k) s = .next (if q.ret.id = 0 then u else u.push (.ldReply q.ret (toLe n d.1) none)) := by
  simp only [exec_remoteAtomic_eq, execRemoteAtomic, h, hw, hp, Bool.false_eq_true, if_false]

theorem exec_objectOperation_trig {c j l id : _} (h : s.net[k]? = some (.trig c j l id))
    (he : s.earlier k (·.writes c j) = false) : exec (.objectOperation k) s = .next ((s.taken k).countTrig id) := by
  simp only [exec_objectOperation_eq, execObjectOperation, h, he, Bool.false_eq_true, if_false]

theorem exec_objectOperation_home {o : ObjReq} (h : s.net[k]? = some (.obj o)) (hw : s.objWaits k o = false)
    (hp : refPeer o.ref.toNat = false) (hm : s.moving (refHome o.ref.toNat / 2 ^ 17) = false)
    (ht : s.testing (refHome o.ref.toNat) 64 = false) :
    exec (.objectOperation k) s = .next ((s.taken k).applyObj o) := by
  simp only [exec_objectOperation_eq, execObjectOperation, h, hw, hp, hm, ht, Bool.or_self, Bool.false_eq_true, if_false]

theorem exec_objectOperation_peer {o : ObjReq} {u : State} (h : s.net[k]? = some (.obj o)) (hw : s.objWaits k o = false)
    (hp : refPeer o.ref.toNat = true) (hu : (s.taken k).peerObj o = some u) :
    exec (.objectOperation k) s = .next u := by
  simp only [exec_objectOperation_eq, execObjectOperation, h, hw, hp, hu, Option.getD_some, Bool.false_eq_true, if_false, if_true]

/-- Settles O25: each delivery by the rule of its event. -/
theorem deliveriesComplete : Obligations.DeliveriesComplete := by
  intro s k
  refine ⟨fun m tgt r h he => ⟨?_, exec_messageArrival_core h he, fun u => exec_messageArrival_peer h he⟩,
    fun r v => exec_tokenLanding, fun r bs => exec_remoteLoadReply, fun c j o a n r => exec_nearRequest_load,
    fun c j f o a bs h hw => ?_, fun q => exec_remoteAtomic, fun c j l id => exec_objectOperation_trig,
    fun o h hw => ⟨exec_objectOperation_home h hw, fun u => exec_objectOperation_peer h hw⟩⟩
  · rintro rfl
    exact exec_messageArrival_host h he
  · exact exec_nearRequest_store h hw

end Sys2Proof.Machine
end

/-! ## The networks, the keeper and the notices of a halt (R300, R396, R124, R127, R131, R160, R371, R87) -/
section
namespace Sys2Proof.Machine
open Sys2Proof.Claims

variable {s : State} {k core slot : Nat}

theorem State.injectEntry_msg {e : SendEntry} {m : Msg} {tgt : Nat} {r : Option Ret} (hm : e.msg = some (m, tgt, r)) :
    s.injectEntry core e =
      (s.updCore core fun x => { x with sendQ := dropOne e x.sendQ }).push (.msg (m.stamped s.now) tgt r) := by
  simp only [State.injectEntry, hm]

/-- R396: the head of a channel is the entry injected where the other channel has none, or timing lets it go first. -/
theorem State.inject_head {rpl : Bool} {e : SendEntry} (h : (s.core core).sendHead rpl = some e)
    (hgo : ((s.core core).sendHead !rpl).isNone = true ∨ Config.trapsMeet s.fresh = !rpl) :
    s.inject core =
      (if ((s.core core).sendHead !rpl).isNone = true then s else { s with fresh := s.fresh + 1 }).injectEntry core e := by
  cases rpl with
  | false =>
    rw [Bool.not_false] at hgo ⊢
    cases h' : (s.core core).sendHead true with
    | none => simp [State.inject, h, h']
    | some d =>
      have hw : Config.trapsMeet s.fresh = true := by simpa [h'] using hgo
      simp [State.inject, h, h', State.meets, hw]
  | true =>
    rw [Bool.not_true] at hgo ⊢
    cases h' : (s.core core).sendHead false with
    | none => simp [State.inject, h, h']
    | some d =>
      have hw : Config.trapsMeet s.fresh = false := by simpa [h'] using hgo
      simp [State.inject, h, h', State.meets, hw]

theorem exec_messageInjection {rpl : Bool} {e : SendEntry} {m : Msg} {tgt : Nat} {r : Option Ret}
    (h : (s.core core).sendHead rpl = some e) (hm : e.msg = some (m, tgt, r))
    (hgo : ((s.core core).sendHead !rpl).isNone = true ∨ Config.trapsMeet s.fresh = !rpl) :
    exec (.messageInjection core) s = .next
      (((if ((s.core core).sendHead !rpl).isNone = true then s else { s with fresh := s.fresh + 1 }).updCore core
        fun x => { x with sendQ := dropOne e x.sendQ }).push (.msg (m.stamped s.now) tgt r)) := by
  have hn : (if ((s.core core).sendHead !rpl).isNone = true then s else { s with fresh := s.fresh + 1 }).now = s.now := by
    split <;> rfl
  simp only [exec_messageInjection_eq, execMessageInjection, State.inject_head h hgo, State.injectEntry_msg hm, hn]

theorem exec_keeperPost {kc m ep sc : _} (h : s.net[k]? = some (.kpost kc m ep sc))
    (he : s.earlier k (·.postOf kc m) = false) :
    exec (.keeperPost k) s = .next ((s.taken k).updCore kc fun x =>
      { x with keeper := { x.keeper with posts := mput x.keeper.posts m (ep, sc) } }) := by
  simp only [exec_keeperPost_eq, execKeeperPost, h, he, Bool.false_eq_true, if_false]

/-- R127: the keeper's oldest row, once no scale of it is missing, every member has posted and every core has room. -/
theorem exec_keeperSumRow {r : KRow} {rest : List KRow} (hq : (s.core core).keeper.queue = r :: rest)
    (hst : (s.core core).keeper.stall = false) (hk : (s.core core).isKeeper (memberOf core) = true)
    (hb : ∀ b, b < max r.blocks r.scales.length → r.scale b ≠ 0xFF)
    (hp : ∀ m, m < 16 → bits (bits (s.core core).team.toNat 0 16) m 1 = 1 →
      (mfind r.posts m).isSome = true ∨ (mfind (s.core core).keeper.posts m).isSome = true)
    (hr : ∀ c ∈ teamCores core (bits (s.core core).team.toNat 0 16), (s.core c).kpRoom = true) :
    exec (.keeperSumRow core) s = .next ((teamCores core (bits (s.core core).team.toNat 0 16)).foldl
      (fun t c => t.updCore c fun x => { x with
        kpscl := x.kpscl ++ [⟨r.sumRow (s.core core).keeper.posts (bits (s.core core).team.toNat 0 16), r.kt, r.fmt⟩],
        kpLast := some (r.sumRow (s.core core).keeper.posts (bits (s.core core).team.toNat 0 16)) })
      (s.updCore core fun x => { x with keeper := { x.keeper with queue := rest } })) := by
  have hb' : (List.range (max r.blocks r.scales.length)).find? (fun b => r.scale b == 0xFF) = none := by
    simpa [List.find?_eq_none] using hb
  have hp' : ((List.range 16).filter fun m => bits (bits (s.core core).team.toNat 0 16) m 1 == 1).any
      (fun m => (mfind r.posts m).isNone && (mfind (s.core core).keeper.posts m).isNone) = false := by
    simp only [List.any_eq_false, List.mem_filter, List.mem_range, beq_iff_eq, Bool.and_eq_true, Option.isNone_iff_eq_none,
      not_and, and_imp]
    intro m hm hbit h1 h2
    simpa [h1, h2] using hp m hm hbit
  have hr' : ((teamCores core (bits (s.core core).team.toNat 0 16)).any fun c => !(s.core c).kpRoom) = false := by
    simpa using hr
  simp only [exec_keeperSumRow_eq, execKeeperSumRow, hq, hst, hk, hb', hp', hr', Bool.false_eq_true, Bool.true_eq_false, or_self, if_false]

theorem exec_clOpRow {c id : Nat} {row : BitVec 512} (h : s.net[k]? = some (.clRow c id row))
    (he : s.earlier k (·.otherRow c id) = false) (hp : postFirst id [] s.net = false) (hf : s.net.all (s.rowFits id) = true) :
    exec (.clOpRow k) s = .next (s.deliverRow id row) := by
  simp only [exec_clOpRow_eq, execClOpRow, h, he, hp, hf, Bool.or_self, Bool.false_eq_true, if_false, if_true]

theorem exec_mdrpAdd {r : _} (h : s.net[k]? = some (.mdrp r)) (hm : s.moving r.core = false)
    (hb : s.scrumBehind k (.mdrp r) = false) :
    exec (.mdrpAdd k) s = .next (if (s.core r.core).windowOf r.ctx r.off (64 * r.rows.length) then
      ((List.range r.rows.length).foldl (fun t i => t.addRowAt r.core (r.off + 64 * i) (Ty.ofCode r.ty) (r.rows.getD i 0))
        ((s.taken k).readTarget r)).push (.token r.ret 0)
      else (s.taken k).push (.token r.ret 0x20)) := by
  simp only [exec_mdrpAdd_eq, execMdrpAdd, h, hm, hb, Bool.or_self, Bool.false_eq_true, if_false]

theorem exec_trapMessage {m : _} {u : State} (h : s.net[k]? = some (.trap m))
    (hn : (s.taken k).net.findIdx? (·.sameTrap m) = none) (hu : (s.taken k).backstopTakes m = some u) :
    exec (.trapMessage k) s = .next u := by
  simp only [exec_trapMessage_eq, execTrapMessage, h, hn, hu, Option.getD_some]

/-- R160: the binding a slot waits for, as the instruction it stands at says. -/
theorem exec_bindComplete (hst : (s.slot core slot).st = .running) (hw : (s.slot core slot).wait = .sent) {i : Instr} {n : Nat}
    (hi : ({ s with curCore := core, curSlot := slot } : State).fetchAt (s.slot core slot).here.toNat = some (i, n)) :
    exec (.bindComplete core slot) s = .next
      (let t : State := { s with curCore := core, curSlot := slot }
       let u := match i with
        | .bind o b a => t.bindDone false (t.bindAccs o b a)
        | .unbd o b a => t.bindDone true (t.bindAccs o b a)
        | _ => t
       { u with curCore := s.curCore, curSlot := s.curSlot }) := by
  simp only [exec_bindComplete_eq, execBindComplete, hst, hw, hi, and_self, if_true]
  cases i <;> rfl

theorem exec_withholdNotice {hid ctx src : _} {o : Obj} (h : s.net[k]? = some (.notice hid ctx src o))
    (he : s.earlier k (·.updates src o) = false) (hp : s.enginePublishes src o = false)
    (hh : ∃ h ∈ (s.taken k).halts, h.hid = hid ∧ h.ctx = ctx) :
    exec (.withholdNotice k) s = .next
      (({ s.taken k with
          marks := if (s.taken k).marks.contains (Mark.mk hid ctx o) then (s.taken k).marks
            else (s.taken k).marks ++ [Mark.mk hid ctx o] } : State).showMarks o).reachHalts.freezeHalted := by
  have hh' : (s.taken k).halts.any (fun h => h.hid == hid && h.ctx == ctx) = true := by simpa using hh
  simp only [exec_withholdNotice_eq, execWithholdNotice, h, he, hp, hh', Bool.or_self, Bool.false_eq_true, if_false, if_true]

/-- R87: the mark a clearing notice takes is the first that is its own. -/
theorem exec_clearingNotice {hid ctx src : _} {o : Obj} {j : Nat} (h : s.net[k]? = some (.clear hid ctx src o))
    (he : s.earlier k (fun p => p.noticeOf hid ctx == some o) = false)
    (hj : (s.taken k).marks[j]? = some ⟨hid, ctx, o⟩) (hfirst : ∀ i, i < j → (s.taken k).marks[i]? ≠ some ⟨hid, ctx, o⟩) :
    exec (.clearingNotice k) s = .next (({ s.taken k with marks := (s.taken k).marks.eraseIdx j } : State).afterClear) := by
  have hi : (s.taken k).marks.findIdx? (fun m => m.hid == hid && m.ctx == ctx && m.obj == o) = some j := by
    rw [List.findIdx?_eq_some_iff_getElem]
    obtain ⟨hlt, hget⟩ := List.getElem?_eq_some_iff.mp hj
    refine ⟨hlt, by simp [hget], fun i hij => ?_⟩
    have hne := hfirst i hij
    rw [List.getElem?_eq_getElem (by omega)] at hne
    have hne' : (s.taken k).marks[i]'(by omega) ≠ ⟨hid, ctx, o⟩ := fun e => hne (congrArg some e)
    intro hm
    simp only [Bool.and_eq_true, beq_iff_eq] at hm
    obtain ⟨⟨h1, h2⟩, h3⟩ := hm
    refine hne' ?_
    generalize (s.taken k).marks[i]'(by omega) = m at h1 h2 h3
    subst h1 h2 h3
    rfl
  simp only [exec_clearingNotice_eq, execClearingNotice, h, he, hi, Bool.false_eq_true, if_false]

/-- Settles O26: each event by its rule. -/
theorem networkEventsComplete : Obligations.NetworkEventsComplete := by
  intro s k core slot
  refine ⟨fun rpl e m tgt r h hm hgo => exec_messageInjection h hm hgo, fun kc m ep sc => exec_keeperPost,
    fun r rest => exec_keeperSumRow, fun c id row => exec_clOpRow, fun r h hm hb => ⟨fun hw => ?_, fun hw => ?_⟩,
    fun m u => exec_trapMessage, fun hst hw => ⟨fun o b a n hi => ?_, fun o b a n hi => ?_⟩,
    fun hid ctx src o => exec_withholdNotice, fun hid ctx src o j => exec_clearingNotice⟩
  · rw [exec_mdrpAdd h hm hb, if_pos hw]
  · rw [exec_mdrpAdd h hm hb, if_neg (by simp [hw])]
  · exact exec_bindComplete hst hw hi
  · exact exec_bindComplete hst hw hi

end Sys2Proof.Machine
end

/-! ## The copy engines (R306, R169, R173, R174, R374, R382 to R388) -/
section
namespace Sys2Proof.Machine
open Sys2Proof.Claims

variable {s : State} {e n plane : Nat} {h : BitVec 128} {bs : List (BitVec 8)}

theorem exec_engineCommandStart_idle (hh : ((s.takeKicks e s.net.length).engine e).hid = 0)
    (hc : ((s.takeKicks e s.net.length).engine e).cur = none) :
    exec (.engineCommandStart e) s = .next ((s.takeKicks e s.net.length).takeCmd e) := by
  simp only [exec_engineCommandStart_eq, execEngineCommandStart, hh, hc, ne_eq, not_true_eq_false, if_false]

/-- R91: the oldest command of the queue is taken where none is parked, its guard is resolved and no copy to a spare holds it. -/
theorem State.takeCmd_head {u : State} {q : Cmd} {rest : List Cmd} (hp : (u.engine e).parked = [])
    (hq : (u.engine e).queue = q :: rest) (hg : q.guard = none) (hm : u.cmdMoves q = false) (hu : (u.engine e).ucode = false)
    (h7 : q.code ≠ 7) :
    u.takeCmd e = State.runCmd (u.updEngine e fun en => { en with queue := rest }) e q := by
  have hcg : u.cmdGuard q = some true := by simp only [State.cmdGuard, hg]
  simp only [State.takeCmd, hp, List.find?_nil, hq, hcg, hm, hg, hu, h7, false_and, Bool.false_eq_true, if_false]

theorem exec_engineCommandStart_runs {q : Cmd} (hh : ((s.takeKicks e s.net.length).engine e).hid = 0)
    (hc : ((s.takeKicks e s.net.length).engine e).cur = some q) (hu : ((s.takeKicks e s.net.length).engine e).ucode = false) :
    exec (.engineCommandStart e) s =
      .next ((s.takeKicks e s.net.length).runTodo e ((s.takeKicks e s.net.length).engine e).todo.length) := by
  simp only [exec_engineCommandStart_eq, execEngineCommandStart, hh, hc, hu, ne_eq, not_true_eq_false, Bool.false_eq_true, if_false]

theorem exec_translationWalk {q : Cmd} {m : Micro} {rest : List Micro} {va : Nat} {w : Bool} {f : Frame}
    (hc : (s.engine e).cur = some q) (ht : (s.engine e).todo = m :: rest) (hh : (s.engine e).hid = 0) (hm : (va, w) ∈ m.fars)
    (hx : (s.xlat e q va w).1 = .ok f) : exec (.translationWalk e q.ctx va w) s = .next (s.xlat e q va w).2 := by
  have hm' : m.fars.contains (va, w) = true := by simpa using hm
  simp only [exec_translationWalk_eq, execTranslationWalk, hc, ht, hh, hm', and_self, if_true]
  generalize s.xlat e q va w = p at hx ⊢
  obtain ⟨r, t⟩ := p
  subst hx
  rfl

theorem exec_flushMarker {src sdev cls seq : Nat} (he : e < 768) (hd : sdev < 32) (hp : plane < 96) (hc : cls < 2) :
    exec (.flushMarker e ⟨sdev, src⟩ plane cls seq) s = .next (s.marker e src sdev plane cls (seq % 256)) := by
  simp only [exec_flushMarker_eq, execFlushMarker, he, hd, hp, hc, and_self, if_true]

/-- What every request of a peer needs to be looked at: it names an engine and a plane, is well formed, and is for this device. -/
structure ForHere (s : State) (e plane : Nat) (h : BitVec 128) : Prop where
  engine : e < 768
  plane : plane < 96
  wellFormed : hdrBad h = false
  device : dF h 112 5 = s.pos.toNat

/-- R382: a request that is for here, by its operation. -/
theorem exec_fabricRequest (hr : ForHere s e plane h) (hop : dF h 124 4 < 5) :
    exec (.fabricRequest e plane h bs) s = .next (
      let ctx := dF h 104 8
      if dF h 124 4 = 4 ∧ (s.ctx ctx).live = true then s.marker e (dF h 0 57) (dF h 117 5) plane (dF h 122 2) (dF h 82 8)
      else if dF h 124 4 = 3 ∧ dF h 57 4 = 1 then
        (if (s.ctx ctx).live then s else s.drop (dF h 78 4 + 1)).holdRelease e h bs
      else if !(s.ctx ctx).live then s.drop (dF h 78 4 + 1)
      else if bits (s.peerEntry ctx (dF h 117 5)) 15 1 = 0 then s.answerPeer h 7
      else if dF h 124 4 < 3 then s.serve e h bs
      else if s.imageWaits h bs then s
      else s.takeImage e h bs false) := by
  obtain ⟨h1, h2, h3, h4⟩ := hr
  have h1' : ¬ 768 ≤ e := by omega
  have h2' : ¬ 96 ≤ plane := by omega
  have h5 : decide (5 ≤ dF h 124 4) = false := by simpa using hop
  simp only [exec_fabricRequest_eq, execFabricRequest, h1', h2', h3, h4, h5, or_self, bne_self_eq_false, Bool.or_self, Bool.false_eq_true, if_false]

/-- R386, R388: a reply in time, for the tag that waits for it. -/
theorem exec_fabricReply (he : e < 768) (hb : hdrBad h = false) (hop : 5 ≤ dF h 124 4) (hd : dF h 112 5 = s.pos.toNat)
    (hl : (s.ctx (dF h 104 8)).live = true) (hbusy : (mget (s.engine e).tags (dF h 94 10) Tag.reset).busy = true)
    (hg : dF h 90 4 = (mget (s.engine e).tags (dF h 94 10) Tag.reset).gen.toNat)
    (ht : s.now.toNat < (mget (s.engine e).tags (dF h 94 10) Tag.reset).sent + s.fab.tmo.toNat * 256) :
    exec (.fabricReply e h bs) s = .next
      ((s.updEngine e fun en => { en with
          tags := mput en.tags (dF h 94 10) (mget (s.engine e).tags (dF h 94 10) Tag.reset).landed }).takeReply e
        (mget (s.engine e).tags (dF h 94 10) Tag.reset) (if dF h 124 4 = 8 then leNat (bs.take 4) else 0) bs (dF h 61 1 == 1)) := by
  have he' : ¬ 768 ≤ e := by omega
  have hop' : decide (dF h 124 4 < 5) = false := by simpa using hop
  have ht' : decide ((mget (s.engine e).tags (dF h 94 10) Tag.reset).sent + s.fab.tmo.toNat * 256 ≤ s.now.toNat) = false := by
    simpa using ht
  simp only [exec_fabricReply_eq, execFabricReply, he', hb, hop', hd, hl, hbusy, hg, ht', bne_self_eq_false, Bool.not_true, Bool.or_self,
    Bool.false_eq_true, if_false]

/-- R382: bytes that come back for near memory, which no self-test holds up. -/
theorem State.takeReply_near {u : State} {t : Tag} {a m : Nat} {q : Cmd} {psn : Bool} (hc : t.cont = .near a m)
    (hq : (u.engine e).cur = some q) (ht : u.testing a m = false) :
    u.takeReply e t 0 bs psn = (u.engineNear e q a (bs.take m) psn).answered e := by
  simp only [State.takeReply, hc, hq, ht, ne_eq, not_true_eq_false, Bool.false_eq_true, if_false]

theorem exec_lossNotice {sdev : Nat} (he : e < 768) (hd : sdev < 32) (hp : plane < 96) :
    exec (.lossNotice e sdev plane) s = .next (
      ((s.updEngine e fun en => { en with
          notices := mput en.notices (sdev * 96 + plane) (mget en.notices (sdev * 96 + plane) 0 + 1) }).updEngine e fun en =>
        { en with holding := en.holding.map (·.without en.notices) }).applyHeld) := by
  have he' : ¬ 768 ≤ e := by omega
  have hd' : ¬ 32 ≤ sdev := by omega
  have hp' : ¬ 96 ≤ plane := by omega
  simp only [exec_lossNotice_eq, execLossNotice, he', hd', hp', or_self, if_false]

theorem exec_requesterTimeOut (hb : (mget (s.engine e).tags n Tag.reset).busy = true)
    (ht : (mget (s.engine e).tags n Tag.reset).sent + s.fab.tmo.toNat * 256 ≤ s.now.toNat) :
    exec (.requesterTimeOut e n) s = .next
      ((s.updEngine e fun en => { en with
          tags := mput en.tags n ((mget (s.engine e).tags n Tag.reset).timedOut s.now.toNat) }).expire e
        (mget (s.engine e).tags n Tag.reset).cont) := by
  simp only [exec_requesterTimeOut_eq, execRequesterTimeOut, hb, ht, and_self, if_true]

theorem exec_tagHoldExpiry (hh : (mget (s.engine e).tags n Tag.reset).hold = true)
    (ht : (mget (s.engine e).tags n Tag.reset).sent + 65536 ≤ s.now.toNat) :
    exec (.tagHoldExpiry e n) s = .next (s.updEngine e fun en =>
      { en with tags := mput en.tags n { mget (s.engine e).tags n Tag.reset with hold := false, tmos := 0 } }) := by
  simp only [exec_tagHoldExpiry_eq, execTagHoldExpiry, hh, ht, and_self, if_true]

/-- Settles O27: each event of an engine by its rule, a reply by what its tag was for. -/
theorem engineEventsComplete : Obligations.EngineEventsComplete := by
  intro s e n h bs
  refine ⟨fun hh => ⟨exec_engineCommandStart_idle hh, fun q rest hc hp hq hg hm hu h7 => ?_,
      fun q => exec_engineCommandStart_runs hh⟩,
    fun q m rest va w f => exec_translationWalk, fun src sdev plane cls seq => exec_flushMarker, ?_, ?_,
    fun sdev plane => exec_lossNotice, exec_requesterTimeOut, exec_tagHoldExpiry⟩
  · rw [exec_engineCommandStart_idle hh hc, State.takeCmd_head hp hq hg hm hu h7]
  · intro plane ctx sdev he hp hb hd
    have hr : ForHere s e plane h := ⟨he, hp, hb, hd⟩
    refine ⟨fun h4 hl => ?_, fun h3 hf => ?_, fun hl h4 hn hpe => ?_, fun hl hpe => ⟨fun h3 => ?_, fun h3 hf hw => ?_⟩⟩
    · rw [exec_fabricRequest hr (by omega), if_pos ⟨h4, hl⟩]
    · rw [exec_fabricRequest hr (by omega), if_neg (by omega), if_pos ⟨h3, hf⟩]
    · rw [exec_fabricRequest hr (by omega), if_neg (by omega), if_neg hn, if_neg (by simpa using hl), if_pos hpe]
    · rw [exec_fabricRequest hr (by omega), if_neg (by omega), if_neg (by omega), if_neg (by simpa using hl),
        if_neg (by rw [show bits (s.peerEntry (dF h 104 8) (dF h 117 5)) 15 1 = 1 from hpe]; omega), if_pos h3]
    · rw [exec_fabricRequest hr (by omega), if_neg (by omega), if_neg (by omega), if_neg (by simpa using hl),
        if_neg (by rw [show bits (s.peerEntry (dF h 104 8) (dF h 117 5)) 15 1 = 1 from hpe]; omega), if_neg (by omega), if_neg (by simpa using hw)]
  · intro t u code he hb hop hd hl hbusy hg ht
    have key := exec_fabricReply (bs := bs) he hb hop hd hl hbusy hg ht
    refine ⟨fun r hc => ?_, fun hc => ?_, fun a m q hc hq hcode hte => ?_, key⟩
    · rw [key, State.takeReply, hc]
    · rw [key, State.takeReply, hc]
    · rw [key, show (if dF h 124 4 = 8 then leNat (bs.take 4) else 0) = 0 from hcode]
      exact congrArg Host.Outcome.next (State.takeReply_near hc hq hte)

end Sys2Proof.Machine
end

/-! ## The links, the planes and the peers of the fabric (R387, R389 to R394) -/
section
namespace Sys2Proof.Machine
open Sys2Proof.Claims

variable {s : State} {plane peer q : Nat}

/-- R389: the shed counts of a link that kept `old` classes and keeps `new`. -/
def shedCounts (peer old new : Nat) (m : SMap Nat) : SMap Nat :=
  [0, 1].foldl (fun m cls =>
    if new < 2 + cls ∧ 2 + cls ≤ old then mput m (peerKey peer cls) (mget m (peerKey peer cls) 0 + 1) else m) m

/-- R389: a plane whose link to a peer goes from `old` classes to `new`. -/
def Plane.relinked (peer q old new : Nat) (x : Plane) : Plane :=
  ({ x with need := mput x.need peer q, kept := mput x.kept peer new
            losses := if new = 0 ∧ old ≠ 0 then mput x.losses peer (mget x.losses peer 0 + 1) else x.losses
            sheds := shedCounts peer old new x.sheds } : Plane).counted

theorem Plane.relinked_kept (x : Plane) (old new : Nat) : mget (x.relinked peer q old new).kept peer 3 = new :=
  mget_mput_self x.kept peer new 3

theorem Plane.relinked_losses (x : Plane) {old : Nat} (h : old ≠ 0) :
    mget (x.relinked peer q old 0).losses peer 0 = mget x.losses peer 0 + 1 := by
  simp [Plane.relinked, Plane.counted, h]

/-- R389: a class is counted as shed where the link kept it and no longer does. -/
theorem mget_shedCounts (old new : Nat) (m : SMap Nat) {cls : Nat} (hc : cls < 2) :
    mget (shedCounts peer old new m) (peerKey peer cls) 0 =
      mget m (peerKey peer cls) 0 + (if new < 2 + cls ∧ 2 + cls ≤ old then 1 else 0) := by
  have h01 : peerKey peer 0 ≠ peerKey peer 1 := by simp [peerKey]
  have hstep (c : Nat) (m : SMap Nat) (k : Nat) :
      mget (if new < 2 + c ∧ 2 + c ≤ old then mput m (peerKey peer c) (mget m (peerKey peer c) 0 + 1) else m) k 0 =
        mget m k 0 + (if k = peerKey peer c ∧ new < 2 + c ∧ 2 + c ≤ old then 1 else 0) := by
    by_cases hk : k = peerKey peer c
    · subst hk; split <;> simp_all
    · split <;> simp [mget_mput_ne, hk]
  rw [shedCounts, List.foldl_cons, List.foldl_cons, List.foldl_nil, hstep, hstep]
  obtain rfl | rfl : cls = 0 ∨ cls = 1 := by omega
  · simp [h01]
  · simp [Ne.symm h01]

theorem shedCounts_grown {old new : Nat} (m : SMap Nat) (h : old ≤ new) : shedCounts peer old new m = m := by
  have hno (c : Nat) : ¬ (new < 2 + c ∧ 2 + c ≤ old) := by omega
  simp only [shedCounts, List.foldl_cons, List.foldl_nil, hno, if_false]

theorem Plane.relinked_grown (x : Plane) {old new : Nat} (h : old ≤ new) (hz : new ≠ 0 ∨ old = 0) :
    x.relinked peer q old new = ({ x with need := mput x.need peer q, kept := mput x.kept peer new } : Plane).counted := by
  have hz' : ¬ (new = 0 ∧ old ≠ 0) := by tauto
  rw [Plane.relinked, shedCounts_grown _ h, if_neg hz']

theorem State.plane_updPlane (f : Plane → Plane) : (s.updPlane plane f).plane plane = f (s.plane plane) :=
  mget_mput_self _ _ _ _

theorem exec_linkErrorRateChange (hp : plane < 96) (hr : peer < 32) :
    exec (.linkErrorRateChange plane peer q) s = .next (
      let old := s.linkKept plane peer
      let new := relink old (64 - q)
      let t := s.updPlane plane (Plane.relinked peer q old new)
      if new < old then t.free.2.mboxAnswer 0 t.free.1 else t) := by
  have hp' : ¬ 96 ≤ plane := by omega
  have hr' : ¬ 32 ≤ peer := by omega
  simp only [exec_linkErrorRateChange_eq, execLinkErrorRateChange, hp', hr', or_self, if_false]
  rfl

/-- R389: whether or not the loss of a class is reported, the plane's link has changed and no memory or core has. -/
theorem exec_linkErrorRateChange_plane (hp : plane < 96) (hr : peer < 32) :
    ∃ t, exec (.linkErrorRateChange plane peer q) s = .next t ∧
      t.plane plane = (s.plane plane).relinked peer q (s.linkKept plane peer) (relink (s.linkKept plane peer) (64 - q)) ∧
      t.mem = s.mem ∧ t.cores = s.cores := by
  refine ⟨_, exec_linkErrorRateChange hp hr, ?_⟩
  dsimp only
  split
  · exact ⟨State.plane_updPlane _, rfl, rfl⟩
  · exact ⟨State.plane_updPlane _, rfl, rfl⟩

/-- R389: a link that keeps as many classes as before, or more, is not reported and loses nothing. -/
theorem exec_linkErrorRateChange_grown (hp : plane < 96) (hr : peer < 32)
    (hle : s.linkKept plane peer ≤ relink (s.linkKept plane peer) (64 - q))
    (hz : relink (s.linkKept plane peer) (64 - q) ≠ 0 ∨ s.linkKept plane peer = 0) :
    exec (.linkErrorRateChange plane peer q) s = .next (s.updPlane plane fun x =>
      ({ x with need := mput x.need peer q, kept := mput x.kept peer (relink (s.linkKept plane peer) (64 - q)) }).counted) := by
  rw [exec_linkErrorRateChange hp hr]
  simp only [Nat.not_lt.mpr hle, if_false]
  exact congrArg (fun f => Host.Outcome.next (s.updPlane plane f)) (funext fun x => Plane.relinked_grown x hle hz)

/-- Settles O28: each event of the fabric by its rule. -/
theorem fabricEventsComplete : Obligations.FabricEventsComplete := by
  intro s n
  refine ⟨rfl, fun plane peer q => exec_linkErrorRateChange_grown, fun plane peer q cls hp hr hc => ?_,
    fun plane peer q hp hr hold hnew => ?_, fun plane len out errs hp => ⟨?_, ?_, fun hrun => ?_⟩, fun pos ctx pf hlt hne hl => ?_⟩
  · obtain ⟨t, ht, hplane, _, _⟩ := exec_linkErrorRateChange_plane (s := s) (q := q) hp hr
    refine ⟨t, ht, ?_, ?_⟩
    · exact (congrArg (fun x : Plane => mget x.kept peer 3) hplane).trans (Plane.relinked_kept _ _ _)
    · rw [hplane]
      exact mget_shedCounts _ _ _ hc
  · obtain ⟨t, ht, hplane, hmem, hcores⟩ := exec_linkErrorRateChange_plane (s := s) (q := q) hp hr
    rw [hnew] at hplane
    refine ⟨t, ht, ?_, ?_, hmem, hcores⟩
    · exact (congrArg (fun x : Plane => mget x.kept peer 3) hplane).trans (Plane.relinked_kept _ _ _)
    · rw [hplane, Plane.relinked_losses _ hold]
  · simp only [exec_loopbackStart_eq, execLoopbackStart, hp, if_true]
  · simp only [exec_planeOut_eq, execPlaneOut, hp, if_true]
  · simp only [exec_loopbackDone_eq, execLoopbackDone, hp, hrun, and_self, if_true]
  · have hno : ¬ (32 ≤ pos ∨ pos = s.pos.toNat) := by omega
    simp only [exec_peerTableHandshake_eq, execPeerTableHandshake, hno, if_false, if_true, Bool.and_true]
    exact congrArg Host.Outcome.next (if_pos hl)

end Sys2Proof.Machine
end

/-! ## The host and the management cores (R320, R348 to R351, R357 to R359) -/
section
namespace Sys2Proof.Machine
open Sys2Proof.Claims

variable {s : State} {fn off n k : Nat} {bs : List (BitVec 8)}

theorem exec_inboxWrite_submits (hfn : fn < 256) (hoff : off < 0x1000) (hal : off % 64 = 0) (hlen : bs.length = 64)
    (hl : (s.ctx fn).live = true) (hf : (s.ctx fn).fenced = false)
    (hst : statusSt (s.status fn (bits (leNat (bs.take 16)) 106 6)) = 0)
    (hm : s.moving (bits (leNat (bs.take 16)) 32 14) = false)
    (ht : bits (leNat (bs.take 16)) 32 14 = 0x3FFF → s.launchTests fn (bits (leNat (bs.take 16)) 12 12) = false) :
    exec (.inboxWrite fn off bs) s = .next (s.submit fn (leNat (bs.take 16)) (inboxWords bs)) := by
  have hr : ¬ (256 ≤ fn ∨ 0x1000 ≤ off) := by omega
  have ht' : (bits (leNat (bs.take 16)) 32 14 == 0x3FFF && s.launchTests fn (bits (leNat (bs.take 16)) 12 12)) = false := by
    by_cases h : bits (leNat (bs.take 16)) 32 14 = 0x3FFF <;> simp [h, ht]
  simp only [exec_inboxWrite_eq, execInboxWrite, hr, hl, hf, hlen, hal, hst, hm, ht', bne_self_eq_false, Bool.not_true, Bool.or_self,
    Bool.false_eq_true, if_false]

theorem exec_inboxWrite_unsupported (hfn : fn < 256) (hoff : off < 0x1000)
    (hbad : off % 64 ≠ 0 ∨ bs.length ≠ 64 ∨ statusSt (s.status fn (bits (leNat (bs.take 16)) 106 6)) ≠ 0) :
    exec (.inboxWrite fn off bs) s = .next { s with aer := s.aer + 1 } := by
  have hr : ¬ (256 ≤ fn ∨ 0x1000 ≤ off) := by omega
  have hb : (!(s.ctx fn).live || (s.ctx fn).fenced || bs.length != 64 || off % 64 != 0
      || statusSt (s.status fn (bits (leNat (bs.take 16)) 106 6)) != 0) = true := by
    simp only [Bool.or_eq_true, bne_iff_ne]
    tauto
  simp only [exec_inboxWrite_eq, execInboxWrite, hr, hb, if_false, if_true]
  rfl

theorem State.status_setStatus_ne {i j st code hid rpl : Nat} (h : j ≠ i) :
    (s.setStatus fn i st code hid rpl).status fn j = s.status fn j := by
  simp only [State.status, State.setStatus, mget_mput_self]
  exact mget_mput_ne _ _ _ h

/-- R351: a status entry written with `st` 0 and no halt shows 0. -/
theorem State.statusSt_setStatus_zero {i code rpl : Nat} :
    statusSt ((s.setStatus fn i 0 code 0 rpl).status fn i) = 0 := by
  simp only [State.status, State.setStatus, mget_mput_self, statusSt, BitVec.toNat_ofNat, bits]
  omega

theorem exec_statusFree (hfn : fn < 256) (hn : n < 64) :
    ∃ t, exec (.statusFree fn n) s = .next t ∧ statusSt (t.status fn n) = 0 ∧ t.mem = s.mem ∧ t.cores = s.cores ∧
      ∀ i, i ≠ n → t.status fn i = s.status fn i := by
  have hr : ¬ (256 ≤ fn ∨ 64 ≤ n) := by omega
  refine ⟨_, by simp only [exec_statusFree_eq, execStatusFree, hr, if_false]; rfl, ?_⟩
  split
  · next h0 => exact ⟨h0, rfl, rfl, fun _ _ => rfl⟩
  · exact ⟨State.statusSt_setStatus_zero, rfl, rfl, fun i hi => State.status_setStatus_ne hi⟩

theorem exec_sysRelease {ctx core slot fid hid act : Nat} {w1 w2 w3 : W32}
    (h : s.net[k]? = some (.sysReq ctx core slot fid [1, w1, w2, w3])) (hw : s.sysWaits k core = false)
    (hs : (s.ctx ctx).sup = core) (h1 : w1 = BitVec.ofNat 32 hid) (h2 : w2 = BitVec.ofNat 32 act) (hh : hid < 2 ^ 16) (ha : act < 2) :
    exec (.sysRelease k) s = .next (((s.taken k).releaseHalt ctx (BitVec.ofNat 16 hid) act).2.sysAnswer core slot fid
      ((s.taken k).releaseHalt ctx (BitVec.ofNat 16 hid) act).1) := by
  have e1 : w1.toNat = hid := by rw [h1, BitVec.toNat_ofNat]; omega
  have e2 : w2.toNat = act := by rw [h2, BitVec.toNat_ofNat]; omega
  have ha' : ¬ 2 ≤ act := by omega
  have hh' : ¬ 2 ^ 16 ≤ hid := by omega
  simp only [exec_sysRelease_eq, execSysRelease, h, hw, hs, List.headD_cons, List.getD_cons_succ, List.getD_cons_zero, e1, e2, ha', hh', ne_eq,
    not_true_eq_false, or_self, Bool.false_eq_true, if_false]

theorem exec_sysPost {ctx core slot fid : Nat} {w1 w2 w3 : W32}
    (h : s.net[k]? = some (.sysReq ctx core slot fid [2, w1, w2, w3])) (hw : s.sysWaits k core = false) :
    exec (.sysPost k) s = .next (((s.taken k).post
      { type := 4, ctx := ctx, lcore := core, code := 0,
        body := w1.toNat + w2.toNat * 2 ^ 32 + w3.toNat * 2 ^ 64 + slot * 2 ^ 96 }).sysAnswer core slot fid 0) := by
  have h21 : ¬ ((2 : W32) = 1) := by decide
  simp only [exec_sysPost_eq, execSysPost, h, hw, List.headD_cons, List.getD_cons_succ, List.getD_cons_zero, h21,
    or_self, Bool.false_eq_true, if_false, if_true]

theorem exec_hostMemoryRead_far {va a : Nat} (hfn : fn < 256) (hva : va % 256 + n ≤ 256) (hp : s.hostPlace fn va false = some a)
    (ht : s.tamperedAt a n = false) (hq : s.poisoned a n = false) :
    exec (.hostMemoryRead fn (.far va) n) s = .next { s with hostOut := s.hostOut ++ [(fn, s.bytesAt a n, 0)] } := by
  have hr : ¬ (256 ≤ fn ∨ 256 < va % 256 + n) := by omega
  simp only [exec_hostMemoryRead_eq, execHostMemoryRead, HostAddr.offset, hr, hp, ht, hq, Bool.not_false, Bool.false_eq_true, if_false, if_true]
  rfl

theorem exec_hostMemoryRead_bar0 {at_ : Nat} (hfn : fn < 256) (hva : at_ % 256 + n ≤ 256) (hb : at_ + n ≤ 0x10000) :
    exec (.hostMemoryRead fn (.bar0 at_) n) s = .next
      { (s.bar0Read fn at_ n).2 with hostOut := (s.bar0Read fn at_ n).2.hostOut ++ [(fn, (s.bar0Read fn at_ n).1, 0)] } := by
  have hr : ¬ (256 ≤ fn ∨ 256 < at_ % 256 + n) := by omega
  have hb' : ¬ 0x10000 < at_ + n := by omega
  simp only [exec_hostMemoryRead_eq, execHostMemoryRead, HostAddr.offset, hr, hb', if_false]
  rfl

theorem exec_hostMemoryWrite {va a : Nat} {psn : Bool} (hfn : fn < 256) (hva : va % 256 + bs.length ≤ 256) (hne : bs ≠ [])
    (hp : s.hostPlace fn va true = some a) : exec (.hostMemoryWrite fn va bs psn) s = .next (s.hostWrite fn a bs psn) := by
  have hr : ¬ (256 ≤ fn ∨ 256 < va % 256 + bs.length ∨ bs = []) := by
    rintro (h | h | h)
    · omega
    · omega
    · exact hne h
  simp only [exec_hostMemoryWrite_eq, execHostMemoryWrite, hr, hp, if_false]

/-! ### CXL's viral state -/

theorem State.ctx_updCtx (s : State) (c d : Nat) (f : Ctx → Ctx) :
    (s.updCtx c f).ctx d = if d = c then f (s.ctx c) else s.ctx d := by
  split
  · next h => subst h; exact mget_mput_self _ _ _ _
  · next h => exact mget_mput_ne _ _ _ h

/-- What `updCtx` does to a context's fence where the change keeps it. -/
theorem State.fenced_updCtx (s : State) (c d : Nat) (f : Ctx → Ctx) (hf : ∀ x, (f x).fenced = x.fenced) :
    ((s.updCtx c f).ctx d).fenced = (s.ctx d).fenced := by
  rw [State.ctx_updCtx]
  split
  · next h => rw [hf, h]
  · rfl

theorem State.fenced_refill (c : Nat) (hi : Bool) (k : Nat) (s : State) (d : Nat) :
    ((s.refill c hi k).ctx d).fenced = (s.ctx d).fenced := by
  induction k generalizing s with
  | zero => rfl
  | succ k ih =>
    rw [State.refill]
    split
    · rfl
    · split
      · rfl
      · next a rest _ =>
        rw [ih]
        exact State.fenced_updCtx s (rest.foldl Spill.first a).m.ctx d
          (fun x => { x with spills := dropOne (rest.foldl Spill.first a) x.spills }) fun _ => rfl

theorem State.fenced_refills (l : List (Nat × Core)) (s : State) (d : Nat) :
    ((l.foldl (fun t p => (t.refill p.1 true 32).refill p.1 false 32) s).ctx d).fenced = (s.ctx d).fenced := by
  induction l generalizing s with
  | nil => rfl
  | cons p l ih => rw [List.foldl_cons, ih, State.fenced_refill, State.fenced_refill]

/-- R423: a fence fences its context and no other. -/
theorem State.fenced_fenceCtx (s : State) (c d : Nat) :
    ((s.fenceCtx c).ctx d).fenced = if d = c then true else (s.ctx d).fenced := by
  rw [State.fenceCtx, State.fenced_refills]
  refine (congrArg Ctx.fenced (State.ctx_updCtx s c d fun x => { x with fenced := true, spills := [] })).trans ?_
  split <;> rfl

theorem State.fenced_fenceAll (l : List (Nat × Ctx)) (s : State) (d : Nat) :
    ((l.foldl (fun t p => t.fenceCtx p.1) s).ctx d).fenced = true ↔ (∃ p ∈ l, p.1 = d) ∨ (s.ctx d).fenced = true := by
  induction l generalizing s with
  | nil => simp
  | cons p l ih =>
    rw [List.foldl_cons, ih, State.fenced_fenceCtx]
    by_cases h : d = p.1
    · simp [h]
    · simp [h, Ne.symm h]

/-- R357: every live context is fenced. -/
theorem exec_cxlViral : ∃ t, exec .cxlViral s = .next t ∧
    ∀ c x, (c, x) ∈ s.ctxs → x = s.ctx c → x.live = true → (t.ctx c).fenced = true := by
  refine ⟨_, rfl, fun c x hm _ hl => (State.fenced_fenceAll _ _ c).mpr (Or.inl ⟨(c, x), ?_, rfl⟩)⟩
  exact List.mem_filter.mpr ⟨hm, hl⟩

theorem State.readyCode_zero (ho : s.ouvaBad = false) (hm : s.mapOk = true) : s.readyCode = 0 := by
  simp only [State.readyCode, ho, hm, Bool.false_eq_true, if_false, if_true]

theorem exec_reset_ready (ho : s.ouvaBad = false) (hm : s.mapOk = true) : exec .reset s = .next
    { State.reset with
      agenda := s.agenda, fresh := s.fresh, nextId := s.nextId, pos := s.pos, leaf := s.leaf, fuses := s.fuses,
      mem := s.mem.filter (fun p => decide (2 ^ 53 ≤ p.1 ∧ p.1 < 2 ^ 54)), dies := s.fusedDies,
      fab := { Fab.reset with pod := BitVec.ofNat 32 (2 ^ s.pos.toNat), planes := s.fusedPlanes true } } := by
  simp only [exec_reset_eq, execReset, State.readyCode_zero ho hm, ho, hm, if_true]
  rfl

/-- Settles O29: each event of the host by its rule. -/
theorem hostEventsComplete : Obligations.HostEventsComplete := by
  intro s fn off n k bs
  refine ⟨exec_inboxWrite_submits, exec_inboxWrite_unsupported, exec_statusFree,
    fun ctx core slot fid w1 w2 w3 hid act => exec_sysRelease, fun ctx core slot fid w1 w2 w3 => exec_sysPost,
    fun va a => exec_hostMemoryRead_far, fun at_ => exec_hostMemoryRead_bar0, fun va a psn hfn hva hne hp => ⟨fun hl => ?_, fun hl ht => ?_⟩,
    exec_cxlViral, fun on => rfl, exec_reset_ready⟩
  · rw [exec_hostMemoryWrite hfn hva hne hp, State.hostWrite, if_pos hl]
  · have hl' : bs.length ≠ 256 := by omega
    rw [exec_hostMemoryWrite hfn hva hne hp, State.hostWrite, if_neg hl', if_neg (by simp [ht])]

end Sys2Proof.Machine
end

/-! ## The management mailbox (R346, R356, R377, R393, R400 to R412, R424, R425, R429) -/
section
namespace Sys2Proof.Machine
open Sys2Proof.Claims

variable {s : State} {fn ctx core slot n : Nat} {f : State → State}

/-! ### Whether a command is given -/

theorem mailbox_granted (hfn : fn < 256) (ho : s.ouvaBad = false) : mailbox fn none s f = f s := by
  simp only [mailbox, Nat.not_le.mpr hfn, ho, if_false, Bool.false_eq_true]

theorem mailbox_refused {c : Nat} (hfn : fn < 256) (ho : s.ouvaBad = false) : mailbox fn (some c) s f = s.mboxAnswer fn c := by
  simp only [mailbox, Nat.not_le.mpr hfn, ho, if_false, Bool.false_eq_true]

/-- R429: while Ouva's image fails its verification every command answers that. -/
theorem mailbox_ouvaBad {r : Option Nat} (hfn : fn < 256) (ho : s.ouvaBad = true) : mailbox fn r s f = s.mboxAnswer fn 0x46 := by
  simp only [mailbox, Nat.not_le.mpr hfn, ho, if_false, if_true]

theorem mayName_of (h : fn = 0 ∨ fn = ctx) : mayName fn ctx = true := by
  simpa [mayName] using h

theorem State.ownRefusal_none (h : mayCommand s fn ctx) : s.ownRefusal fn ctx = none := by
  obtain ⟨-, hname, hl, hf⟩ := h
  simp [State.ownRefusal, mayName_of hname, hl, hf]

theorem State.pfRefusal_none (h : mayCommand s 0 ctx) : s.pfRefusal 0 ctx = none := by
  obtain ⟨-, -, hl, hf⟩ := h
  simp [State.pfRefusal, hl, hf]

theorem State.debugRefusal_none (h : mayDebug s fn ctx) : s.debugRefusal fn ctx = none := by
  obtain ⟨⟨-, hname, hl, hf⟩, hd⟩ := h
  simp [State.debugRefusal, mayName_of hname, hl, hf, hd]

theorem pfOnly_zero : pfOnly 0 = none := rfl

theorem pfOnly_of_ne (h : fn ≠ 0) : pfOnly fn = some 0x48 := if_neg h

/-- R423: a context that does not exist, or is fenced, refuses its own function and the PF alike. -/
theorem State.ownRefusal_gone (hg : (s.ctx ctx).live = false ∨ (s.ctx ctx).fenced = true) (hname : fn = 0 ∨ fn = ctx) :
    s.ownRefusal fn ctx = some 0x43 := by
  have hd : (!(s.ctx ctx).live || (s.ctx ctx).fenced) = true := by simpa using hg
  simp [State.ownRefusal, mayName_of hname, hd]

theorem State.debugRefusal_gone (hg : (s.ctx ctx).live = false ∨ (s.ctx ctx).fenced = true) (hname : fn = 0 ∨ fn = ctx) :
    s.debugRefusal fn ctx = some 0x43 := by
  have hd : (!(s.ctx ctx).live || (s.ctx ctx).fenced) = true := by simpa using hg
  simp [State.debugRefusal, mayName_of hname, hd]

/-! ### The commands -/

/-- R429: no command does anything while Ouva's image is bad. -/
theorem exec_command_ouvaBad (ho : s.ouvaBad = true) (hfn : fn < 256) {a b : Nat} {w : BitVec 32} {h : BitVec 16} {d : BitVec 64}
    {x : BitVec 256} {o : Bool} {p : BitVec 8} {item : DbgItem} {bs : List (BitVec 8)} {i : Instr}
    (hi : i ∈ [Instr.create fn ctx o o a b a b a b a b, .destroy fn ctx, .loadImage fn ctx a b [], .report fn ctx x a,
        .invalidate fn ctx a b, .fabricRegisterRead fn n, .fabricRegisterWrite fn n w, .peerTableWrite fn ctx n o p,
        .debugHalt fn ctx core slot, .debugRelease fn ctx h a, .readState fn ctx core slot item,
        .writeState fn ctx core slot item bs, .traceControl fn ctx w, .watchpoint fn ctx n o a d b, .snapshotArm fn d,
        .snapshotRead fn n a, .errorLogRead fn n, .defectMapRead fn, .reliabilityRegisterRead fn core n,
        .reliabilityRegisterWrite fn core n w]) :
    exec i s = .next (s.mboxAnswer fn 0x46) := by
  simp only [List.mem_cons, List.not_mem_nil, or_false] at hi
  rcases hi with rfl | rfl | rfl | rfl | rfl | rfl | rfl | rfl | rfl | rfl | rfl | rfl | rfl | rfl | rfl | rfl | rfl | rfl | rfl | rfl
  all_goals exact congrArg Host.Outcome.next (mailbox_ouvaBad hfn ho)

theorem exec_create {dbg pfwd : Bool} {sup mbase msize root obase osize tbase tsize : Nat} (ho : s.ouvaBad = false)
    (hl : (s.ctx ctx).live = false) (hok : createOk ctx sup mbase msize root obase osize tbase tsize = true) :
    exec (.create 0 ctx dbg pfwd sup mbase msize root obase osize tbase tsize) s = .next
      (((s.newId.2.updCtx ctx fun _ => { Ctx.reset with
        live := true, debug := dbg, pfwd := pfwd, sup := sup, mbase := mbase, msize := msize, root := root, obase := obase,
        osize := osize, tbase := tbase, tsize := tsize, key := some s.newId.1 }).clearTraceHeader ctx).mboxAnswer 0 0) := by
  change execCreate _ _ _ _ _ _ _ _ _ _ _ _ s = _
  simp only [execCreate, ne_eq, not_true_eq_false, if_false, mailbox_granted (show 0 < 256 by decide) ho, hl, hok, Bool.not_true,
    Bool.or_self, Bool.false_eq_true]

theorem exec_loadImage {va len : Nat} {cores : List Nat} {l : List (Nat × Nat)} {t : State} (ho : s.ouvaBad = false)
    (hc : mayCommand s 0 ctx) (htag : s.imageTag ctx va len = none) (htest : s.imageTests ctx va len cores = false)
    (hl : s.farPlaces ctx va len false = some l) (hp : ∀ p ∈ l, s.poisoned p.1 p.2 = false)
    (ht : s.loadImage ctx (s.gather l) cores = some t) :
    exec (.loadImage 0 ctx va len cores) s = .next (t.mboxAnswer 0 0) := by
  have hp' : (l.any fun p => s.poisoned p.1 p.2) = false := by simpa using hp
  change execLoadImage _ _ _ _ _ s = _
  simp only [execLoadImage, State.pfRefusal_none hc, mailbox_granted hc.1 ho, htag, htest, hl, hp', ht, Bool.false_eq_true, if_false]

theorem exec_report {nonce : BitVec 256} {va : Nat} {l : List (Nat × Nat)} (ho : s.ouvaBad = false) (hc : mayCommand s fn ctx)
    (hleaf : s.leaf < 2 ^ 20) (htag : s.spanTag ctx va 2956 true = none) (hl : s.farPlaces ctx va 2956 true = some l) :
    exec (.report fn ctx nonce va) s = .next
      (({ s.scatter l (s.reportBytes ctx nonce) with leaf := s.leaf + 1 } : State).mboxAnswer fn 0) := by
  change execReport _ _ _ _ s = _
  simp only [execReport, State.ownRefusal_none hc, mailbox_granted hc.1 ho, Nat.not_le.mpr hleaf, htag, hl, if_false]

theorem exec_invalidate {va len : Nat} (ho : s.ouvaBad = false) (hc : mayCommand s fn ctx) (hva : va % 2 ^ 19 = 0)
    (hlen : len % 2 ^ 19 = 0)
    (ht : ({ s with engines := s.engines.map fun p => (p.1, p.2.dropRange ctx va len) } : State).translating ctx = false) :
    exec (.invalidate fn ctx va len) s = .next
      (({ s with engines := s.engines.map fun p => (p.1, p.2.dropRange ctx va len) } : State).mboxAnswer fn 0) := by
  change execInvalidate _ _ _ _ s = _
  simp only [execInvalidate, State.ownRefusal_none hc, mailbox_granted hc.1 ho, hva, hlen, ht, ne_eq, not_true_eq_false, or_self,
    Bool.false_eq_true, if_false]

/-- R393: a command of the PF alone, from the PF. -/
theorem mailbox_pf (ho : s.ouvaBad = false) : mailbox 0 (pfOnly 0) s f = f s := mailbox_granted (by decide) ho

theorem exec_peerTableWrite {v : Bool} {pctx : BitVec 8} (ho : s.ouvaBad = false) (hc : mayCommand s 0 ctx) (hn : n < 32) :
    exec (.peerTableWrite 0 ctx n v pctx) s = .next
      ((s.updCtx ctx fun c => { c with peers := mput c.peers n (BitVec.ofNat 16 ((if v then 2 ^ 15 else 0)
        + bits (mget c.peers n 0).toNat 14 1 * 2 ^ 14 + pctx.toNat)) }).applyHeld.mboxAnswer 0 0) := by
  change execPeerTableWrite _ _ _ _ _ s = _
  simp only [execPeerTableWrite, State.pfRefusal_none hc, mailbox_granted hc.1 ho, Nat.not_le.mpr hn, if_false]

theorem exec_debugHalt (ho : s.ouvaBad = false) (hd : mayDebug s fn ctx) (hh : canHalt s ctx core slot) :
    exec (.debugHalt fn ctx core slot) s = .next
      (let t := s.haltSlot (s.ownerOf core slot).1 (s.ownerOf core slot).2 0
       t.mboxAnswer fn 0 (toLe 2 (t.slot (s.ownerOf core slot).1 (s.ownerOf core slot).2).hid.toNat)) := by
  obtain ⟨hslot, hcore, hctx, hb, hst, hm⟩ := hh
  change execDebugHalt _ _ _ _ s = _
  simp only [execDebugHalt, State.debugRefusal_none hd, mailbox_granted hd.1.1 ho, hslot, hcore, hctx, hb, hst, hm, and_self,
    Bool.false_eq_true, if_true, if_false]

theorem exec_debugRelease {hid : BitVec 16} {act : Nat} (ho : s.ouvaBad = false) (hd : mayDebug s fn ctx) (ha : act < 2) :
    exec (.debugRelease fn ctx hid act) s =
      .next ((s.releaseHalt ctx hid act).2.mboxAnswer fn (s.releaseHalt ctx hid act).1) := by
  change execDebugRelease _ _ _ _ s = _
  simp only [execDebugRelease, State.debugRefusal_none hd, mailbox_granted hd.1.1 ho, Nat.not_le.mpr ha, if_false]

theorem exec_readState {item : DbgItem} (ho : s.ouvaBad = false) (hd : mayDebug s fn ctx) (hn : namesItem s ctx core slot item)
    (hp : s.itemPending (s.ownerOf core slot).1 (s.ownerOf core slot).2 item = false) :
    exec (.readState fn ctx core slot item) s = .next
      ((s.itemWakes (s.ownerOf core slot).1 (s.ownerOf core slot).2 item).mboxAnswer fn 0
        (s.itemBytes (s.ownerOf core slot).1 (s.ownerOf core slot).2 item)) := by
  obtain ⟨hslot, hitem⟩ := hn
  change execReadState _ _ _ _ _ s = _
  simp only [execReadState, State.debugRefusal_none hd, mailbox_granted hd.1.1 ho, hslot, hitem, hp, Bool.and_self,
    Bool.false_eq_true, if_true, if_false]

theorem exec_writeState {item : DbgItem} {bs : List (BitVec 8)} (ho : s.ouvaBad = false) (hd : mayDebug s fn ctx)
    (hn : namesItem s ctx core slot item) (hp : s.itemPending (s.ownerOf core slot).1 (s.ownerOf core slot).2 item = false)
    (hh : (s.slot (s.ownerOf core slot).1 (s.ownerOf core slot).2).st = .halted)
    (ht : s.itemTakes (s.ownerOf core slot).1 (s.ownerOf core slot).2 item bs.length = true) :
    exec (.writeState fn ctx core slot item bs) s = .next
      ((s.putItem (s.ownerOf core slot).1 (s.ownerOf core slot).2 item bs).mboxAnswer fn 0) := by
  obtain ⟨hslot, hitem⟩ := hn
  change execWriteState _ _ _ _ _ _ s = _
  simp only [execWriteState, State.debugRefusal_none hd, mailbox_granted hd.1.1 ho, hslot, hh, ht, beq_self_eq_true, Bool.and_self,
    if_true]
  cases item with
  | window off m => simp only [hp, Bool.false_eq_true, if_false]
  | desc h => rfl
  | guard g => rfl
  | special r => rfl

theorem exec_traceControl {word : BitVec 32} (ho : s.ouvaBad = false) (hd : mayDebug s fn ctx) :
    exec (.traceControl fn ctx word) s = .next
      ((s.updCtx ctx fun c => { c with trace := traceWord word, smpAt := s.now }).mboxAnswer fn 0) := by
  change execTraceControl _ _ _ s = _
  simp only [execTraceControl, State.debugRefusal_none hd, mailbox_granted hd.1.1 ho]

theorem exec_watchpoint {far : Bool} {addr action : Nat} {mask : BitVec 64} (ho : s.ouvaBad = false) (hd : mayDebug s fn ctx)
    (hn : n < 4) (hal : addr % 64 = 0) (hlt : addr < (if far then 2 ^ 57 else 2 ^ 31)) (ha : action < 2) :
    exec (.watchpoint fn ctx n far addr mask action) s = .next
      ((s.updCtx ctx fun c => { c with watch := mput c.watch n ⟨far, addr, mask, action⟩ }).mboxAnswer fn 0) := by
  change execWatchpoint _ _ _ _ _ _ _ s = _
  simp only [execWatchpoint, State.debugRefusal_none hd, mailbox_granted hd.1.1 ho, Nat.not_le.mpr hn, hal, Nat.not_le.mpr hlt,
    Nat.not_le.mpr ha, ne_eq, not_true_eq_false, or_self, if_false]

theorem exec_snapshotArm {t : W64} (ho : s.ouvaBad = false) (ht : s.now.toNat + 4096 ≤ t.toNat) :
    exec (.snapshotArm 0 t) s = .next (({ s with snapAt := some t } : State).mboxAnswer 0 0) := by
  change execSnapshotArm _ _ s = _
  simp only [execSnapshotArm, mailbox_pf ho, Nat.not_lt.mpr ht, if_false]

theorem exec_snapshotRead (ho : s.ouvaBad = false) (hn : n < snapBlocks) :
    exec (.snapshotRead 0 n 0) s = .next (s.mboxAnswer 0 0 (toLe 64 (s.snapBlock n).toNat)) := by
  change execSnapshotRead _ _ _ s = _
  simp only [execSnapshotRead, mailbox_pf ho, Nat.not_le.mpr hn, ne_eq, not_true_eq_false, or_self, if_false]

theorem exec_errorLogRead {r : BitVec 512} (ho : s.ouvaBad = false) (hr : s.errLog[n]? = some r) :
    exec (.errorLogRead 0 n) s = .next (s.mboxAnswer 0 0 (toLe 64 r.toNat)) := by
  change execErrorLogRead _ _ s = _
  simp only [execErrorLogRead, mailbox_pf ho, hr]

theorem relOk_of (hc : core < numCores) (hp : srPrivate n = true) (ha : (srAcc n).isSome = true) : relOk core n = true := by
  simp [relOk, hc, hp, ha]

theorem exec_reliabilityRegisterRead (ho : s.ouvaBad = false) (hr : relOk core n = true) :
    exec (.reliabilityRegisterRead 0 core n) s = .next (s.mboxAnswer 0 0 (toLe 4 (s.readSr core 0 n))) := by
  change execReliabilityRegisterRead _ _ _ s = _
  simp only [execReliabilityRegisterRead, mailbox_pf ho, hr, if_true]

theorem exec_reliabilityRegisterWrite {v : BitVec 32} (ho : s.ouvaBad = false) (hr : relOk core n = true)
    (hl : srLocked n true = false) :
    exec (.reliabilityRegisterWrite 0 core n v) s = .next ((s.writeSr core 0 n v.toNat).mboxAnswer 0 0) := by
  change execReliabilityRegisterWrite _ _ _ _ s = _
  simp only [execReliabilityRegisterWrite, mailbox_pf ho, hr, hl, Bool.not_false, Bool.and_self, if_true]

/-- R346: a command that only the PF has, from another function. -/
theorem exec_pfCommand_refused (ho : s.ouvaBad = false) (h0 : fn ≠ 0) (hfn : fn < 256) {i : Instr}
    (hi : i ∈ [Instr.destroy fn ctx, .fabricRegisterRead fn n, .errorLogRead fn n, .defectMapRead fn, .snapshotRead fn n 0,
      .reliabilityRegisterRead fn core n]) : exec i s = .next (s.mboxAnswer fn 0x48) := by
  have hpf (f : State → State) : mailbox fn (pfOnly fn) s f = s.mboxAnswer fn 0x48 := by
    rw [pfOnly_of_ne h0, mailbox_refused hfn ho]
  simp only [List.mem_cons, List.not_mem_nil, or_false] at hi
  rcases hi with rfl | rfl | rfl | rfl | rfl | rfl
  · exact congrArg Host.Outcome.next ((congrArg (fun r => mailbox fn r s _) (if_pos h0)).trans (mailbox_refused hfn ho))
  all_goals exact congrArg Host.Outcome.next (hpf _)

/-- R423: a command for a context that does not exist, or is fenced. -/
theorem exec_command_gone (ho : s.ouvaBad = false) (hg : (s.ctx ctx).live = false ∨ (s.ctx ctx).fenced = true)
    (hname : fn = 0 ∨ fn = ctx) (hfn : fn < 256) {i : Instr}
    (hi : i ∈ [Instr.debugHalt fn ctx core slot, .traceControl fn ctx 0, .invalidate fn ctx 0 0, .report fn ctx 0 0]) :
    exec i s = .next (s.mboxAnswer fn 0x43) := by
  have hdbg (f : State → State) : mailbox fn (s.debugRefusal fn ctx) s f = s.mboxAnswer fn 0x43 := by
    rw [State.debugRefusal_gone hg hname, mailbox_refused hfn ho]
  have hown (f : State → State) : mailbox fn (s.ownRefusal fn ctx) s f = s.mboxAnswer fn 0x43 := by
    rw [State.ownRefusal_gone hg hname, mailbox_refused hfn ho]
  simp only [List.mem_cons, List.not_mem_nil, or_false] at hi
  rcases hi with rfl | rfl | rfl | rfl
  · exact congrArg Host.Outcome.next (hdbg _)
  · exact congrArg Host.Outcome.next (hdbg _)
  · exact congrArg Host.Outcome.next (hown _)
  · exact congrArg Host.Outcome.next (hown _)

end Sys2Proof.Machine
end

/-! ## What happens to a slot or a core from outside its program (R11 to R14, R41, R137, R138, R247, R281, R295, R362 to R368, R378 to R428) -/
section
namespace Sys2Proof.Machine
open Sys2Proof.Claims

variable {s : State} {core slot n pick : Nat}

theorem exec_dispatch {k : Nat} {c : Claim} (hc : core < numCores) (hn : s.nextFire core pick = some (k, c)) :
    exec (.dispatch core pick) s = .next (s.fire core k c) := by
  simp only [exec_dispatch_eq, execDispatch, hc, hn, if_true]

theorem exec_dependentLaunchStart {id a : Nat} {l : Launch} (hl : s.launchOf id = some l) (hw : l.waiting = true)
    (ha : l.after = some a) (hb : ∃ b, s.launchOf a = some b ∧ b.trigDone = true) :
    exec (.dependentLaunchStart id) s = .next (s.updLaunch id fun l => { l with waiting := false }) := by
  obtain ⟨b, hb, ht⟩ := hb
  simp only [exec_dependentLaunchStart_eq, execDependentLaunchStart, hl, hw, ha, hb, Option.any_some, ht, Bool.and_self, if_true]

theorem exec_composeGrant (hc : s.composing core = true) (hg : s.canCompose core (s.composeK core) = true)
    (hp : s.preemptFirst core = false) :
    exec (.composeGrant core) s = .next
      (let t : State := { s with curCore := core, curSlot := 0 }
       { ((((t.compose core (s.composeK core)).noteIssue t).count core 2).retire 2) with
         curCore := s.curCore, curSlot := s.curSlot }) := by
  simp only [exec_composeGrant_eq, execComposeGrant, hc, hg, hp, Bool.not_false, Bool.and_self, if_true]

theorem exec_composeWaitBound {e : Nat} (hc : s.composing core = true) (he : (s.slot core 0).waitExp = some e)
    (hn : e ≤ s.now.toNat) : exec (.composeWaitBound core) s = .next (s.takeTrap core 0 { code := 0x29 }) := by
  simp only [exec_composeWaitBound_eq, execComposeWaitBound, hc, he, hn, decide_true, Bool.and_self, if_true]

theorem exec_algnHoldExpiry {pc : List (Nat × Nat × Nat)} (hst : (s.slot core slot).st = .running) (hw : (s.slot core slot).wait = .align pc)
    (hs : (s.slot core slot).since + 256 ≤ s.now.toNat) :
    exec (.algnHoldExpiry core slot) s = .next (s.updSlot core slot fun y => { y with wait := .answer [] }) := by
  simp only [exec_algnHoldExpiry_eq, execAlgnHoldExpiry, hw, hst, hs, and_self, if_true]

/-- R281: what becomes of a running firing that waits to be undone. -/
theorem exec_rollback (hst : (s.slot core slot).st = .running) (hw : (s.slot core slot).wait = .rollback) :
    exec (.rollback core slot) s = .next
      (if (s.slot core slot).restart then (if (s.slot core slot).pend.all (·.held) then s.undo core slot else s)
       else if (s.slot core slot).doom ≠ 0 then s.killDoomed core slot (s.slot core slot).doom
       else s.kill core slot 3) := by
  simp only [exec_rollback_eq, execRollback, hst, hw, and_self, if_true]

theorem exec_waitTimeOut {e : Nat} (hst : (s.slot core slot).st = .running) (hw : (s.slot core slot).wait = .sent)
    (he : (s.slot core slot).waitExp = some e) (hn : e ≤ s.now.toNat) :
    exec (.waitTimeOut core slot) s = .next ((s.dropWaits core slot (s.slot core slot).fid).updSlot core slot fun y =>
      { y with wait := .trap 0x37, waitOn := [], waitExp := none }) := by
  simp only [exec_waitTimeOut_eq, execWaitTimeOut, hw, he, hst, hn, and_self, if_true]

theorem Slot.missed_of {now : W64} {x : Slot} (hst : x.st = .running ∨ x.st = .halted) (hd : x.dl ≠ 0)
    (hn : x.dl.toNat ≤ now.toNat) : x.missed now = true := by
  have hd' : (x.dl != 0) = true := bne_iff_ne.mpr hd
  simpa only [Slot.missed, hd', hn, decide_true, Bool.and_true, Bool.or_eq_true, beq_iff_eq] using hst

theorem exec_deadlineMiss (hst : (s.slot core slot).st = .running ∨ (s.slot core slot).st = .halted)
    (hc : (s.slot core slot).claimed = false) (hd : (s.slot core slot).dl ≠ 0) (hn : (s.slot core slot).dl.toNat ≤ s.now.toNat) :
    exec (.deadlineMiss core slot) s = .next
      ((s.postMiss core slot (s.slot core slot) false).updSlot core slot fun y => { y with dl := 0 }) := by
  simp only [exec_deadlineMiss_eq, execDeadlineMiss, Slot.missed_of hst hd hn, hc, Bool.not_false, Bool.and_self, if_true]

/-- R362: a bind record that is not refused. -/
theorem exec_bindRecordWrite {rec : BitVec 256} (hc : core < numCores) (hs : slot < 4) (hr : s.bindRefused core slot rec = false) :
    exec (.bindRecordWrite core slot rec) s = .next
      (if (s.slot core slot).st = .running ∨ (s.slot core slot).st = .halted then
        s.updCore core fun y => { y with busy := y.busy ||| BitVec.ofNat 4 (2 ^ slot) }
       else s.putBind core slot rec) := by
  simp only [exec_bindRecordWrite_eq, execBindRecordWrite, hc, hs, and_self, hr, Bool.false_eq_true, if_true, if_false]

theorem exec_preemptionRequest (hc : core < numCores) (hs : slot < 4) :
    exec (.preemptionRequest core slot) s = .next
      (s.updCore core fun y => { y with preq := y.preq ||| BitVec.ofNat 4 (2 ^ slot) }) := by
  simp only [exec_preemptionRequest_eq, execPreemptionRequest, hc, hs, and_self, if_true]

/-! ### Pre-emption and return (R365 to R368, R149) -/

/-- R149, R366: what saving the firing of a slot leaves. -/
def State.preempted (s : State) (core slot : Nat) (due : Option Msg) : State :=
  (s.preempt (s.ownerOf core slot).1 (s.ownerOf core slot).2 due).updCore core fun y =>
    { y with preq := y.preq &&& ~~~(BitVec.ofNat 4 (2 ^ slot)) }

theorem State.preemptSeat_saved (h : Claims.canSave s core slot) (due : Option Msg) :
    s.preemptSeat core slot due = s.preempted core slot due := by
  obtain ⟨-, -, -, h⟩ := h
  exact if_pos h

theorem exec_preemption_asked (h : Claims.canSave s core slot) (hst : (s.seated core slot).st = .running ∨ (s.seated core slot).st = .halted)
    (hq : bits (s.core core).preq.toNat slot 1 = 1) :
    exec (.preemption core slot) s = .next (s.preempted core slot none) := by
  obtain ⟨hs, hc, hf, -⟩ := id h
  simp only [exec_preemption_eq, execPreemption, hs, hc, hf, and_self, hq, State.preemptAsked, hst, State.preemptSeat_saved h, if_true]

theorem exec_preemption_givesWay (h : Claims.canSave s core slot) (hq : bits (s.core core).preq.toNat slot 1 = 0)
    (hg : s.givesWay core slot = true) :
    exec (.preemption core slot) s = .next (s.preempted core slot (s.claimant core (s.slot core slot).ctx)) := by
  obtain ⟨hs, hc, hf, -⟩ := id h
  simp only [exec_preemption_eq, execPreemption, hs, hc, hf, and_self, hq, hg, State.preemptSeat_saved h, if_true, Nat.zero_ne_one, if_false]

theorem exec_timeSliceExpiry (h : Claims.canSave s core slot) (hst : (s.seated core slot).st = .running)
    (hl : (s.slot core slot).sliceLen ≠ 0) (hr : (s.slot core slot).sliceLen ≤ (s.slot core slot).ran)
    (hc : s.sliceClaimed core slot = true) :
    exec (.timeSliceExpiry core slot) s = .next (s.preempted core slot (s.sliceMsg core slot)) := by
  obtain ⟨-, -, hf, -⟩ := id h
  simp only [exec_timeSliceExpiry_eq, execTimeSliceExpiry, hst, hl, hr, hf, hc, State.preemptSeat_saved h, ne_eq, not_false_eq_true, and_self, if_true]

theorem exec_resume {v : Saved} (hv : s.nextSaved core slot = some v) (hst : (s.slot core slot).st = .idle)
    (hz : (s.slot core slot).zeroing = false) (hf : (s.core core).fenced = false)
    (hr : ¬(slot = 0 ∧ (s.reservedFor core).isSome = true))
    (ht : s.testing (nearAddr core v.area) (areaLen v.body.wlen) = false) :
    exec (.resume core slot) s = .next
      (let t := (s.bringBack v (nearAddr core v.area) slot).updCore core fun y => { y with wdCnt := 0 }
       ({ t with saved := t.saved.map fun w => if w.core = core ∧ w.slot = slot then { w with due := none } else w } : State
        ).thawHalted.reachHalt core slot) := by
  simp only [exec_resume_eq, execResume, hv, hst, hz, hf, hr, ht, not_false_eq_true, and_self, if_true]

/-- R368: the best of the saved firings is one of them. -/
theorem mem_of_bestSaved {l : List Saved} {b : Option Saved} {v : Saved}
    (h : l.foldl (fun b v => match b with | none => some v | some u => if u.body.pri < v.body.pri then some v else some u) b = some v) :
    v ∈ l ∨ b = some v := by
  induction l generalizing b with
  | nil => exact Or.inr h
  | cons w l ih =>
    rw [List.foldl_cons] at h
    rcases ih h with hv | hv
    · exact Or.inl (List.mem_cons_of_mem _ hv)
    · cases b with
      | none => exact Or.inl (by simp_all)
      | some u =>
        dsimp only at hv
        split at hv
        · exact Or.inl (by simp_all)
        · exact Or.inr hv

theorem State.returns_of_nextSaved {v : Saved} (h : s.nextSaved core slot = some v) : s.returns core slot v = true := by
  simp only [State.nextSaved, Option.orElse_eq_or, Option.or_eq_some_iff] at h
  rcases h with h | ⟨-, h⟩
  · rcases mem_of_bestSaved h with hm | hm
    · exact (List.mem_filter.mp (List.mem_filter.mp hm).1).2
    · cases hm
  · split at h
    · cases h
    · rcases mem_of_bestSaved h with hm | hm
      · exact (List.mem_filter.mp hm).2
      · cases hm

theorem slotEventsComplete : SlotEventsComplete := by
  intro s core slot pick
  refine ⟨fun k c => exec_dispatch, fun id l a => exec_dependentLaunchStart, exec_composeGrant, fun e => exec_composeWaitBound,
    fun pc => exec_algnHoldExpiry, fun hst hw => ⟨fun hr hp => ?_, fun hr hd => ?_, fun hr hd => ?_⟩, fun e => exec_waitTimeOut,
    exec_deadlineMiss, fun rec hc hs hr => ⟨fun hst => ?_, fun hst => ?_⟩, exec_preemptionRequest,
    fun h => ⟨exec_preemption_asked h, exec_preemption_givesWay h, exec_timeSliceExpiry h⟩, fun v => exec_resume, fun v hv => ?_⟩
  · rw [exec_rollback hst hw, if_pos hr, if_pos (by simpa using hp)]
  · rw [exec_rollback hst hw, if_neg (by simp [hr]), if_neg (by simpa using hd)]
  · rw [exec_rollback hst hw, if_neg (by simp [hr]), if_pos hd]
    rfl
  · rw [exec_bindRecordWrite hc hs hr, if_neg (by rcases hst with h | h <;> simp [h])]
  · rw [exec_bindRecordWrite hc hs hr, if_pos hst]
  · have hr := State.returns_of_nextSaved hv
    simp only [State.returns, Bool.and_eq_true, beq_iff_eq] at hr
    obtain ⟨⟨⟨h1, h2⟩, h3⟩, h4⟩ := hr
    exact ⟨h1, h2, h3, h4⟩

end Sys2Proof.Machine
end

/-! ## The events of a core, a die and the clock (R50 to R53, R83, R378, R404, R408, R410, R420 to R428) -/
section
namespace Sys2Proof.Machine
open Sys2Proof.Claims

variable {s : State} {core slot n : Nat}

theorem exec_watchdogTrip (hc : core < numCores) (hw : (s.core core).wdog ≠ 0)
    (ht : (s.core core).wdog.toNat * 1024 ≤ (s.core core).wdCnt) :
    exec (.watchdogTrip core) s = .next (s.fenceCore core 7) := by
  simp only [exec_watchdogTrip_eq, execWatchdogTrip, hc, hw, ht, ne_eq, not_false_eq_true, and_self, if_true]

theorem exec_fenceWrite (hc : core < numCores) : exec (.fenceWrite core) s = .next (s.fenceCore core 7) := by
  simp only [exec_fenceWrite_eq, execFenceWrite, hc, if_true]

theorem exec_benchRemap (hf : (s.core core).fenced = true) (hr : (s.core core).remap = true) :
    exec (.benchRemap core) s = .next
      (((s.copyParity core).updDie (dieOf core) fun d =>
        { d with tab := mput d.tab (coreY core % 64) (BitVec.ofNat 8 (128 + coreX core % 48)) }).updCore
        core fun z => { z with fenced := false, remap := false, ce := 0, repl := 0, rb := 0, kill := 0, ump := 0, umpAt := [], wdCnt := 0,
                               replay := [], score := [], ctrs := (List.range 4).map fun j => (j, ⟨0, s.now, s.now⟩) }).applyHeld := by
  have hm : s.moving core = true := by simp only [State.moving, hf, hr, Bool.and_self]
  simp only [exec_benchRemap_eq, execBenchRemap, hm, if_true]

/-! ### A window zeroed -/

theorem memGet_of_unlisted {m : List Host.Cell} {a : Nat} (h : ∀ p ∈ m, p.1 ≠ a) : memGet m a = 0 := by
  induction m with
  | nil => rfl
  | cons p m ih =>
    rw [memGet, if_neg (h p (List.mem_cons_self ..))]
    split
    · rfl
    · exact ih fun q hq => h q (List.mem_cons_of_mem _ hq)

/-- A byte that a filter of canonical memory keeps reads as before. -/
theorem memGet_filter {m : List Host.Cell} (hm : Memory.wf m = true) {keep : Host.Cell → Bool} {a : Nat}
    (h : ∀ v, keep (a, v) = true) : memGet (m.filter keep) a = memGet m a := by
  induction m with
  | nil => rfl
  | cons p m ih =>
    obtain ⟨-, hlt, hm'⟩ := Memory.wf_cons.mp hm
    rw [List.filter_cons]
    split
    · next hk => rw [memGet, memGet, ih hm']
    · next hk =>
      have hne : p.1 ≠ a := by
        rintro rfl
        exact hk (h p.2)
      rw [ih hm', memGet, if_neg hne]
      split
      · next hap => exact memGet_below fun q hq => hap.trans (hlt q hq)
      · rfl

theorem State.wakeBank_mem_parity (s : State) (a : Nat) :
    (s.wakeBank a).mem = s.mem ∧ (s.wakeBank a).parity = s.parity := by
  rw [State.wakeBank]
  split
  · exact ⟨rfl, rfl⟩
  · exact ⟨rfl, rfl⟩

theorem State.wakeBanks_mem_parity (s : State) (cs as : List Nat) :
    (s.wakeBanks cs as).mem = s.mem ∧ (s.wakeBanks cs as).parity = s.parity := by
  have hfold (s : State) : (as.foldl State.wakeBank s).mem = s.mem ∧ (as.foldl State.wakeBank s).parity = s.parity := by
    induction as generalizing s with
    | nil => exact ⟨rfl, rfl⟩
    | cons a as ih =>
      obtain ⟨hm, hp⟩ := ih (s.wakeBank a)
      obtain ⟨hm', hp'⟩ := s.wakeBank_mem_parity a
      exact ⟨hm.trans hm', hp.trans hp'⟩
  rw [State.wakeBanks]
  split
  · exact ⟨rfl, rfl⟩
  · exact hfold s

/-- R50: the addresses of a slot's window. -/
def State.windowHas (s : State) (core slot a : Nat) : Bool :=
  decide (rsAddr core (s.slot core slot).wbase ≤ a ∧ a < rsAddr core (s.slot core slot).wbase + (s.slot core slot).wlen)

theorem State.zeroWindow_mem (s : State) (core slot : Nat) :
    (s.zeroWindow core slot).mem = s.mem.filter fun p => !s.windowHas core slot p.1 :=
  (State.wakeBanks_mem_parity _ _ _).1

theorem State.zeroWindow_parity (s : State) (core slot : Nat) :
    (s.zeroWindow core slot).parity = s.parity.filter fun a => !s.windowHas core slot a :=
  (State.wakeBanks_mem_parity _ _ _).2

theorem exec_windowZeroed (hz : (s.slot core slot).zeroing = true) :
    exec (.windowZeroed core slot) s =
      .next ((s.zeroWindow core slot).updSlot core slot fun y => { y with zeroing := false }) := by
  simp only [exec_windowZeroed_eq, execWindowZeroed, hz, if_true]

/-- R50: a zeroed window reads 0 with good parity, and no other byte changes. -/
theorem windowZeroed_completes (hz : (s.slot core slot).zeroing = true) :
    ∃ t, exec (.windowZeroed core slot) s = .next t ∧ (t.slot core slot).zeroing = false ∧
      (∀ a, rsAddr core (s.slot core slot).wbase ≤ a →
        a < rsAddr core (s.slot core slot).wbase + (s.slot core slot).wlen → memGet t.mem a = 0 ∧ a ∉ t.parity) ∧
      (Memory.wf s.mem = true → ∀ a, a < rsAddr core (s.slot core slot).wbase ∨
        rsAddr core (s.slot core slot).wbase + (s.slot core slot).wlen ≤ a → memGet t.mem a = memGet s.mem a) := by
  refine ⟨_, exec_windowZeroed hz, by rw [State.slot_updSlot_self], fun a hlo hhi => ?_, fun hm a ha => ?_⟩
  · have hin : s.windowHas core slot a = true := by simp [State.windowHas, hlo, hhi]
    rw [State.updSlot_mem, State.updSlot_parity, State.zeroWindow_mem, State.zeroWindow_parity]
    refine ⟨memGet_of_unlisted fun p hp hpa => ?_, fun hp => ?_⟩
    · simp [hpa, hin] at hp
    · simp [hin] at hp
  · have hout : s.windowHas core slot a = false := by
      simp only [State.windowHas, decide_eq_false_iff_not]
      omega
    rw [State.updSlot_mem, State.zeroWindow_mem]
    exact memGet_filter hm fun v => by simp [hout]

/-! ### Banks, checks, tests, rails and the clock -/

theorem exec_bankReady {at_ : Nat} (hb : mfind (s.core core).bankAt n = some at_) (ht : at_ ≤ s.now.toNat) :
    exec (.bankReady core n) s = .next (s.updCore core fun z => { z with bankAt := mdel z.bankAt n }) := by
  simp only [exec_bankReady_eq, execBankReady, hb, ht, if_true]

theorem exec_retentionWake (hc : core < numCores) (hn : n < 4) (hb : (s.core core).bank n = 1)
    (hw : ∃ p ∈ s.cores, ∃ q ∈ p.2.slots, ∃ bs, q.2.wait = .bank bs ∧ (core, n) ∈ bs) :
    exec (.retentionWake core n) s = .next
      (s.updCore core fun z => { z with pwr := BitVec.ofNat 32 (setBits z.pwr.toNat (2 * n) 2 0) }) := by
  obtain ⟨p, hp, q, hq, bs, hwait, hmem⟩ := hw
  have hany : (s.cores.any fun p => p.2.slots.any fun q =>
      match q.2.wait with | .bank bs => bs.contains (core, n) | _ => false) = true := by
    refine List.any_eq_true.mpr ⟨p, hp, List.any_eq_true.mpr ⟨q, hq, ?_⟩⟩
    simpa only [hwait, List.contains_iff_mem] using hmem
  exact congrArg Host.Outcome.next (if_pos ⟨hc, hn, hb, hany⟩)

theorem exec_umpireCheck {q : Check} {rest : List Check} {dsig ssig : BitVec 16}
    (hq : (s.slot core slot).checks = q :: rest) :
    exec (.umpireCheck core slot dsig ssig) s = .next
      (let t := s.updSlot core slot fun z => { z with checks := rest }
       if s.checkOk (s.slot core slot).ctx q dsig ssig then t else t.mismatch core slot (t.slot core slot) q dsig ssig) := by
  simp only [exec_umpireCheck_eq, execUmpireCheck, hq]

theorem exec_bistComplete_passed {test inst : Nat} {r : Ret} {rest : List (Nat × Nat × Ret)} {first : BitVec 24}
    (hb : (s.core core).bist = (test, inst, r) :: rest) :
    exec (.bistComplete core false first) s = .next
      (((s.afterTest core test inst).updCore core fun z => { z with bist := rest, biRes := 0 }).landToken r 0).servePitches := by
  simp only [exec_bistComplete_eq, execBistComplete, hb, Bool.false_eq_true, if_false]
  rfl

theorem exec_railSettled {die : Nat} (hd : die < 4) (hn : n < 4) :
    exec (.railSettled die n) s = .next (s.updDie die fun d => { d with vstat := d.vstat ||| BitVec.ofNat 32 (2 ^ n) }) := by
  simp only [exec_railSettled_eq, execRailSettled, hd, hn, and_self, if_true]

theorem exec_temperatureUpdate {die : Nat} {temp : BitVec 16} (hd : die < 4) :
    exec (.temperatureUpdate die temp) s = .next (s.updDie die fun d => { d with temp := temp.setWidth 32 }) := by
  simp only [exec_temperatureUpdate_eq, execTemperatureUpdate, hd, if_true]

theorem exec_setRotation (hc : core < numCores) (hp : bits (s.core core).pmRot.toNat 0 16 ≠ 0)
    (ht : (s.core core).pmAt + bits (s.core core).pmRot.toNat 0 16 * 1024 ≤ s.now.toNat) :
    exec (.setRotation core) s = .next (s.updCore core fun z => { z with
      pmAct := (z.pmAct + 1) % (bits z.pmRot.toNat 16 3 + 1), pmAt := z.pmAt + bits (s.core core).pmRot.toNat 0 16 * 1024 }) := by
  simp only [exec_setRotation_eq, execSetRotation, hc, hp, ht, ne_eq, not_false_eq_true, and_self, if_true]

/-- R410: the device with every block latched. -/
def State.latched (s : State) : State :=
  { s with
    snapAt := none
    snaps := ((s.cores.filter fun p => decide (p.1 < numCores)).map fun p => (p.1, p.2.snapshot)) ++ [(snapFree, BitVec.ofNat 512 s.fresh)]
    fresh := s.fresh + 1 }

/-- R410: a snapshot latches the block of every core. -/
theorem exec_snapshotTrigger {at_ : W64} (ha : s.snapAt = some at_) (ht : at_.toNat ≤ s.now.toNat) :
    ∃ t, exec .snapshotTrigger s = .next t ∧ t.snapAt = none ∧
      (∀ c z, (c, z) ∈ s.cores → c < numCores → (c, z.snapshot) ∈ t.snaps) ∧ t.cores = s.cores ∧ t.mem = s.mem := by
  refine ⟨s.latched, by simp only [exec_snapshotTrigger_eq, execSnapshotTrigger, ha, ht, if_true]; rfl, rfl, fun c z hm hc => ?_, rfl, rfl⟩
  exact List.mem_append_left _ (List.mem_map.mpr ⟨(c, z), List.mem_filter.mpr ⟨hm, by simpa using hc⟩, rfl⟩)

theorem exec_pcSample {ctx : Nat} {cores : List Nat} (hl : (s.ctx ctx).live = true)
    (hb : bits (s.ctx ctx).trace.toNat 31 1 = 1) (ht : s.sampleTick ctx = true) :
    exec (.pcSample ctx cores) s = .next
      ((((cores ++ s.cores.map Prod.fst).filter fun c => decide (c < numCores)).eraseDups.foldl (fun t c => t.sample ctx c) s).updCtx
        ctx fun c => { c with smpAt := s.now }) := by
  simp only [exec_pcSample_eq, execPcSample, hl, hb, ht, and_self, if_true]

theorem exec_pcSample_early {ctx : Nat} {cores : List Nat} (ht : s.sampleTick ctx = false) :
    exec (.pcSample ctx cores) s = .next s := by
  simp only [exec_pcSample_eq, execPcSample, ht, Bool.false_eq_true, and_false, if_false]

theorem coreEventsComplete : CoreEventsComplete := by
  intro s core slot n
  refine ⟨exec_watchdogTrip, exec_fenceWrite, exec_benchRemap, windowZeroed_completes, fun at_ => exec_bankReady,
    exec_retentionWake, fun q rest dsig ssig hq => ⟨fun hok => ?_, fun hok => ?_⟩,
    fun test inst r rest first => exec_bistComplete_passed, fun die => exec_railSettled, fun die temp => exec_temperatureUpdate,
    exec_setRotation, fun at_ => exec_snapshotTrigger, fun ctx cores => exec_pcSample, fun ctx cores => exec_pcSample_early⟩
  · rw [exec_umpireCheck hq]
    exact congrArg Host.Outcome.next (if_pos hok)
  · rw [exec_umpireCheck hq]
    exact congrArg Host.Outcome.next (if_neg (by simp [hok]))

/-- Settles O59: the events of slots, then those of cores. -/
theorem slotAndCoreEventsComplete : Obligations.SlotAndCoreEventsComplete := ⟨slotEventsComplete, coreEventsComplete⟩

end Sys2Proof.Machine
end

/-! ## Branches, control, and the end of a firing (R219, R240 to R254) -/
section
namespace Sys2Proof.Machine
open Sys2Proof.Claims

variable {s t : State}

@[simp] theorem noTrap_nil : noTrap [] = true := rfl

@[simp] theorem noTrap_cons (x : Option Trap) (l : List (Option Trap)) : noTrap (x :: l) = true ↔ x = none ∧ noTrap l = true := by
  simp [noTrap]

theorem opTrap_none {h : Nat} {b : Bool} (hb : b = false) : opTrap h b = none := by
  subst hb
  rfl

/-- R224: an instruction of one access that is ready goes on. -/
theorem State.gated_one {q : Acc} {opnd late : List (Option Trap)} {k : Unit → Verdict} (h : q.ready s = true)
    (ho : noTrap opnd = true) (hl : noTrap late = true) : s.gated [q] [] opnd late k = k () :=
  State.gated_ready (List.forall_mem_singleton.mpr h) ho hl

/-- R224: the same of two. -/
theorem State.gated_two {q r : Acc} {opnd late : List (Option Trap)} {k : Unit → Verdict} (hq : q.ready s = true)
    (hr : r.ready s = true) (ho : noTrap opnd = true) (hl : noTrap late = true) : s.gated [q, r] [] opnd late k = k () :=
  State.gated_ready (List.forall_mem_cons.mpr ⟨hq, List.forall_mem_singleton.mpr hr⟩) ho hl

/-- R242, R142: control may go to a halfword inside the code that, in a scrum, starts a block. -/
theorem State.transfer_of_canGo {target : Int} {kind : Nat} {after : State → State} (h : canGo s target) :
    s.transfer target kind after = .jump ((after s).traceBranch s.curCore s.curSlot target.toNat kind) target.toNat := by
  obtain ⟨h0, hlt, hb⟩ := h
  have hneg : ¬ target < 0 := by omega
  have hscrum : (s.cur.scrum.isSome && (decide (target < 0) || !s.blockAt s.cur.ctx target.toNat)) = false := by
    cases hs : s.cur.scrum.isSome
    · rfl
    · simp [hneg, hb hs]
  rw [State.transfer, if_neg (Bool.eq_false_iff.mp hscrum), if_neg (by omega)]

/-! ### Branches (R240 to R243) -/

theorem brVerdict_taken {f : BitVec 20} {k n : Bool} {g : BitVec 3} {link : Bool} (ho : s.cur.guardOpen g = false)
    (hg : s.cur.guardOn g n = true) (hgo : canGo s (s.cur.pc.toNat + f.toInt)) :
    brVerdict f k n g link s = .jump
      (((if link then s.link else s).branchDone (k || (g == 7 && !n))).traceBranch s.curCore s.curSlot
        (s.cur.pc.toNat + f.toInt).toNat (if link then 1 else 0)) (s.cur.pc.toNat + f.toInt).toNat := by
  simp only [brVerdict, ho, hg, State.transfer_of_canGo hgo, Bool.false_eq_true, if_false, if_true]

theorem brVerdict_fallsThrough {f : BitVec 20} {k n : Bool} {g : BitVec 3} {link : Bool} (ho : s.cur.guardOpen g = false)
    (hg : s.cur.guardOn g n = false) :
    brVerdict f k n g link s = .done (s.branchDone (!(k || (g == 7 && !n)))) := by
  simp only [brVerdict, ho, hg, Bool.false_eq_true, if_false]

theorem branchCompletes : BranchCompletes := by
  intro s f k n g hr ho
  refine ⟨fun hg hgo => ⟨?_, ?_⟩, fun hg => ⟨?_, ?_⟩⟩
  · exact congrArg Host.Outcome.next (State.issueAny_jump _ hr (brVerdict_taken (link := false) ho hg hgo))
  · exact congrArg Host.Outcome.next (State.issueAny_jump _ hr (brVerdict_taken (link := true) ho hg hgo))
  · exact congrArg Host.Outcome.next (State.issueAny_done _ hr (brVerdict_fallsThrough (link := false) ho hg))
  · exact congrArg Host.Outcome.next (State.issueAny_done _ hr (brVerdict_fallsThrough (link := true) ho hg))

theorem jrVerdict_goes {o : BitVec 2} {a : BitVec 6} {link : Bool}
    (hq : (loneSrc s o a 1).ready s = true) (hi : idxOk (s.view a.toNat) = true)
    (hb : (offsets o (some (s.view a.toNat)) none).bad = none) (hgo : canGo s ((loneSrc s o a 1).int s)) :
    jrVerdict o a link s = .jump
      ((if link then s.link else s).traceBranch s.curCore s.curSlot ((loneSrc s o a 1).int s).toNat (if link then 4 else 3))
      ((loneSrc s o a 1).int s).toNat := by
  simp only [jrVerdict, hi, if_true]
  exact (State.gated_one hq (by simpa using hb) noTrap_nil).trans (State.transfer_of_canGo hgo)

theorem indirectJumpCompletes : IndirectJumpCompletes := by
  intro s o a hr
  refine ⟨fun hq hi hb hgo => ⟨?_, ?_⟩, fun hgo => ?_⟩
  · exact congrArg Host.Outcome.next (State.issueAny_jump _ hr (jrVerdict_goes (link := false) hq hi hb hgo))
  · exact congrArg Host.Outcome.next (State.issueAny_jump _ hr (jrVerdict_goes (link := true) hq hi hb hgo))
  · exact congrArg Host.Outcome.next (State.issueAny_jump _ hr (State.transfer_of_canGo hgo))

/-- R243: the new count of a `LOOP`. -/
theorem loopVerdict_ready {i : BitVec 13} {d : BitVec 6} (hi : idxOk (s.view d.toNat) = true)
    (hw : (plain s d true 1).ready s = true) (hd : (plain s d false 1).ready s = true) :
    loopVerdict i d s =
      let x := ((plain s d false 1).elem s 0 + 2 ^ (s.view d.toNat).ty.bits - 1) % 2 ^ (s.view d.toNat).ty.bits
      if x = 0 then .done (((plain s d true 1).putRaw s x).branchDone false)
      else s.transfer (s.cur.pc.toNat + i.toInt) 2 fun t => ((plain s d true 1).putRaw t x).branchDone true := by
  have hgate : s.gate [plain s d true 1, plain s d false 1] [] [] [] = none :=
    State.gate_none (by simp [hw, hd]) noTrap_nil noTrap_nil
  simp only [plain] at hgate
  simp only [loopVerdict, hi, if_true, hgate]
  rfl

theorem loopCompletes : LoopCompletes := by
  intro s i d hr hi hw hd
  refine ⟨fun hx => ?_, fun hx hgo => ?_⟩
  · refine congrArg Host.Outcome.next (State.issueAny_done _ hr ((loopVerdict_ready hi hw hd).trans ?_))
    simp only [hx, if_true]
  · refine congrArg Host.Outcome.next (State.issueAny_jump _ hr ((loopVerdict_ready hi hw hd).trans ?_))
    simp only [hx, if_false]
    exact State.transfer_of_canGo hgo

/-- Settles O46: the branches, the indirect jumps and the loop. -/
theorem branchesComplete : Obligations.BranchesComplete := ⟨branchCompletes, indirectJumpCompletes, loopCompletes⟩

/-! ### Plain control, `ALGN`, `END`, `TRIG` and `HALT` (R219, R247 to R254) -/

/-- R279: a blocking instruction of a committed firing. -/
theorem State.blocking_committed {f : State → Verdict} (h : s.cur.restart = false) : s.blocking f = f s := by
  simp only [State.blocking, h, Bool.false_eq_true, if_false]

/-- R279: a blocking instruction that completes behind the commit of its firing. -/
theorem State.blocking_done {f : State → Verdict} (h : mayBlock s) (hf : f (blocked s) = .done t) : s.blocking f = .done t := by
  cases hr : s.cur.restart with
  | false =>
    rw [blocked, hr] at hf
    rw [State.blocking_committed hr]
    exact hf
  | true =>
    rw [blocked, hr] at hf
    simp only [if_true] at hf
    simp only [State.blocking, hr, h hr, if_true, hf]

theorem wfeVerdict_done (h : mayBlock s) (hev : (blocked s).cur.ev = true) :
    wfeVerdict s = .done ((blocked s).updCur (·.sample (blocked s).now)) :=
  State.blocking_done h (by simp only [hev, if_true])

theorem plainControlCompletes : PlainControlCompletes := by
  intro s h x hr
  refine ⟨congrArg Host.Outcome.next (State.issueAny_done _ hr rfl), congrArg Host.Outcome.next (State.issueAny_done _ hr rfl),
    fun hc => ?_⟩
  have hon : s.onCore := ⟨hr, hc⟩
  refine ⟨congrArg Host.Outcome.next (State.issue_done _ hon rfl), congrArg Host.Outcome.next (State.issue_done _ hon rfl),
    congrArg Host.Outcome.next (State.issue_done _ hon rfl), fun hev hres => ?_, fun hres hcom hev => ?_⟩
  · have hb : blocked s = s := by simp only [blocked, hres, Bool.false_eq_true, if_false]
    have hm : mayBlock s := fun hres' => by simp [hres] at hres'
    have hv := wfeVerdict_done hm (by rw [hb]; exact hev)
    rw [hb] at hv
    exact congrArg Host.Outcome.next (State.issue_done _ hon hv)
  · have hb : blocked s = s.commit s.curCore s.curSlot := by simp only [blocked, hres, if_true]
    have hv := wfeVerdict_done (fun _ => hcom) (by rw [hb]; exact hev)
    rw [hb] at hv
    exact congrArg Host.Outcome.next (State.issue_done _ hon hv)

theorem algnVerdict_gathered (hs : s.cur.scrum = none) (hw : s.cur.wait = .none)
    (hall : ∀ q ∈ s.alignSet, q ≠ (s.curCore, s.curSlot, s.cur.fid) → s.aligned s.cur.pc q = true) :
    algnVerdict s = .done s.letGo := by
  have hall' : ((s.alignSet.filter fun q => q != (s.curCore, s.curSlot, s.cur.fid)).all (s.aligned s.cur.pc)) = true := by
    refine List.all_eq_true.mpr fun q hq => ?_
    obtain ⟨hm, hne⟩ := List.mem_filter.mp hq
    exact hall q hm (bne_iff_ne.mp hne)
  simp only [algnVerdict, hs, hw, hall', Option.isSome_none, Bool.false_eq_true, if_false, if_true]

theorem alignCompletes : AlignCompletes := by
  intro s hon
  refine ⟨fun hs => ?_, fun hs hw hall => ?_⟩
  · refine congrArg Host.Outcome.next (State.issue_done _ hon ?_)
    simp only [algnVerdict, hs, if_true]
  · exact congrArg Host.Outcome.next (State.issue_done _ hon (algnVerdict_gathered hs hw hall))

/-- R248: nothing is pending and every write has performed: the firing ends. -/
theorem endLast_ends {p : State} (hp : s.cur.pend = []) (hw : s.writesOut s.curCore s.curSlot = false) :
    endLast p s = .stay (((s.noteIssue p).count s.curCore 2).finish s.curCore s.curSlot) := by
  simp only [endLast, hp, hw, List.isEmpty_nil, Bool.not_false, Bool.and_self, if_true]

/-- R248: a first `END` that no mark and no port stops. -/
theorem endVerdict_first (h : EndReady s) :
    endVerdict s = if (blockEnded s).cur.canCommit then endLast s ((atEnd s).commit s.curCore s.curSlot)
      else .stay ((blockEnded s).waitCur .drain [] false) := by
  obtain ⟨-, hfirst, hmarks, hrates⟩ := h
  simp only [endVerdict, hfirst, hmarks, hrates, Bool.false_eq_true, if_false]
  rfl

/-- R420: a block that `END` completes stands for its check, which keeps the firing from committing. -/
theorem blockEnded_waits {b : BitVec 24} (hb : s.cur.blk = some b) :
    (blockEnded s).cur.canCommit = false ∧ (blockEnded s).cur.blk = none := by
  have hcur : (blockEnded s).cur = s.cur.endBlock := State.slot_updSlot_self _ _ _ _
  rw [hcur]
  simp [Slot.endBlock, hb, Slot.canCommit]

theorem endCompletes : EndCompletes := by
  intro s
  refine ⟨fun h hc hp hw => ?_, fun h hc => ?_, fun b => blockEnded_waits, fun hon he hp hw => ?_⟩
  · refine congrArg Host.Outcome.next (State.issue_stay _ h.core ?_)
    rw [endVerdict_first h, if_pos hc]
    exact endLast_ends hp hw
  · refine congrArg Host.Outcome.next (State.issue_stay _ h.core ?_)
    rw [endVerdict_first h, if_neg (by simp [hc])]
  · refine congrArg Host.Outcome.next (State.issue_stay _ hon ?_)
    simp only [endVerdict, he, if_true]
    exact endLast_ends hp hw

theorem triggerAndHaltComplete : TriggerAndHaltComplete := by
  intro s hon
  refine ⟨fun ho hw => ?_, fun ho => ?_, ?_⟩
  · refine congrArg Host.Outcome.next (State.issue_done _ hon ?_)
    simp only [trigVerdict, ho, hw, if_true, Bool.false_eq_true, if_false]
  · refine congrArg Host.Outcome.next (State.issue_done _ hon ?_)
    simp only [trigVerdict, ho, Bool.false_eq_true, if_false]
  · refine congrArg Host.Outcome.next (State.issueAny_stay _ hon.1 ?_)
    simp only [haltVerdict, hon.2, Bool.false_eq_true, if_false]

/-- Settles O47: plain control, `ALGN`, `END`, `TRIG` and `HALT`. -/
theorem controlCompletes : Obligations.ControlCompletes :=
  ⟨plainControlCompletes, alignCompletes, endCompletes, triggerAndHaltComplete⟩

end Sys2Proof.Machine
end

/-! ## System instructions: registers, privileged traps, clocks and areas (R198, R317, R320 to R325, R425, R426) -/
section
namespace Sys2Proof.Machine
open Sys2Proof.Claims

variable {s t : State} {o : BitVec 2} {r : BitVec 12} {a d : BitVec 6}

theorem State.trapCur_onCore {x : Trap} (h : s.onCore) : s.trapCur x = s.takeTrap s.curCore s.curSlot x := by
  simp only [State.trapCur, h.2, Bool.false_eq_true, if_false]

theorem State.issue_takesTrap (i : Instr) {v : State → Verdict} {x : Trap} (h : s.onCore) (e : v s = .trap x) :
    s.issue i v = s.takeTrap s.curCore s.curSlot x := by
  rw [State.issue_trap i h e, State.trapCur_onCore h]

theorem State.issueAny_takesTrap (i : Instr) {v : State → Verdict} {x : Trap} (h : s.onCore) (e : v s = .trap x) :
    s.issueAny i v = s.takeTrap s.curCore s.curSlot x := by
  rw [State.issueAny_runs i v h.1, e]
  exact State.trapCur_onCore h

/-! ### Who may read and write a register (R198, R322, R425) -/

theorem srLocked_private {n : Nat} (h : srPrivate n = true) : srLocked n false = true := by
  simp only [srLocked, h]
  split <;> rfl

theorem srLocked_sys {n : Nat} (h : srAcc n = some .rwSys) : srLocked n false = true := by
  simp only [srLocked, h, Bool.not_false]

theorem srLocked_ro {n : Nat} {sys : Bool} (h : srAcc n = some .ro) : srLocked n sys = true := by
  simp only [srLocked, h]

theorem rdsVerdict_reserved (h : srAcc r.toNat = none) : rdsVerdict r d s = .trap { code := 8 } := by
  simp only [rdsVerdict, h, Option.isNone_none, if_true]

theorem rdsVerdict_private (ha : (srAcc r.toNat).isSome = true) (hp : srPrivate r.toNat = true) (hs : s.cur.sysFlag = false) :
    rdsVerdict r d s = .trap { code := 0x39 } := by
  have hn : (srAcc r.toNat).isNone = false := by simpa using ha
  simp only [rdsVerdict, hn, hp, hs, Bool.not_false, Bool.and_self, Bool.false_eq_true, if_false, if_true]

theorem rdsVerdict_reads (ha : (srAcc r.toNat).isSome = true) (hp : srPrivate r.toNat = false ∨ s.cur.sysFlag = true)
    (hq : (regAcc (s.view d.toNat) (srWide r.toNat) 0).ready s = true) :
    rdsVerdict r d s = .done ((regAcc (s.view d.toNat) (srWide r.toNat) 0).putReg s (s.readSr s.curCore s.curSlot r.toNat)) := by
  have hn : (srAcc r.toNat).isNone = false := by simpa using ha
  have hp' : (srPrivate r.toNat && !s.cur.sysFlag) = false := by rcases hp with h | h <;> simp [h]
  simp only [rdsVerdict, hn, hp', Bool.false_eq_true, if_false]
  exact State.gated_one hq noTrap_nil noTrap_nil

theorem wrsVerdict_reserved (h : srAcc r.toNat = none) : wrsVerdict r a s = .trap { code := 8 } := by
  simp only [wrsVerdict, h, Option.isNone_none, if_true]

theorem wrsVerdict_locked (ha : (srAcc r.toNat).isSome = true) (hl : srLocked r.toNat s.cur.sysFlag = true) :
    wrsVerdict r a s = .trap { code := 0x39 } := by
  have hn : (srAcc r.toNat).isNone = false := by simpa using ha
  simp only [wrsVerdict, hn, hl, Bool.false_eq_true, if_false, if_true]

/-- R322: a write that its register admits. -/
theorem wrsVerdict_open (ha : (srAcc r.toNat).isSome = true) (hl : srLocked r.toNat s.cur.sysFlag = false)
    (hq : (plain s a false 1).ready s = true) :
    wrsVerdict r a s =
      (if r.toNat = 0x41 then
        (if s.teamRefused ((plain s a false 1).nat s) then .trap { code := 0x1B, handle := (s.view a.toNat).h }
        else if s.curC.arrayBusy then .wait .array [] false
        else .done (s.writeTeam s.curCore ((plain s a false 1).nat s)))
      else .done (s.writeSr s.curCore s.curSlot r.toNat ((plain s a false 1).nat s))) := by
  have hn : (srAcc r.toNat).isNone = false := by simpa using ha
  simp only [wrsVerdict, hn, hl, Bool.false_eq_true, if_false]
  exact State.gated_one hq noTrap_nil noTrap_nil

theorem srPrivate_iff {n : Nat} : srPrivate n = true ↔ 0x200 ≤ n ∧ n ≤ 0x2FF := by
  simp [srPrivate]

/-- R321, R426: `SVS`, `RSS` and `BIST` are for system firings alone. -/
theorem areaVerdict_private {bad : State → Nat → Bool} {f : _} (hs : s.cur.sysFlag = false) :
    areaVerdict o a bad f s = .trap { code := 0x39 } := by
  simp only [areaVerdict, hs, Bool.not_false, if_true]

theorem bistVerdict_private (hs : s.cur.sysFlag = false) : bistVerdict o a d s = .trap { code := 0x39 } := by
  simp only [bistVerdict, hs, Bool.not_false, if_true]

/-- Settles O24: each form by its verdict. -/
theorem privilegedTraps : Obligations.PrivilegedTraps := by
  intro s o r a d hon
  refine ⟨fun hs => ⟨?_, ?_, ?_⟩, fun hs hlo hhi ha => ⟨?_, ?_⟩, fun hs ha => ?_, fun ha => ?_, fun ha => ⟨?_, ?_⟩⟩
  · exact congrArg Host.Outcome.next (State.issue_takesTrap _ hon (areaVerdict_private hs))
  · exact congrArg Host.Outcome.next (State.issue_takesTrap _ hon (areaVerdict_private hs))
  · exact congrArg Host.Outcome.next (State.issue_takesTrap _ hon (bistVerdict_private hs))
  · exact congrArg Host.Outcome.next (State.issueAny_takesTrap _ hon (rdsVerdict_private ha (srPrivate_iff.mpr ⟨hlo, hhi⟩) hs))
  · refine congrArg Host.Outcome.next (State.issueAny_takesTrap _ hon (wrsVerdict_locked ha ?_))
    rw [hs]
    exact srLocked_private (srPrivate_iff.mpr ⟨hlo, hhi⟩)
  · refine congrArg Host.Outcome.next (State.issueAny_takesTrap _ hon (wrsVerdict_locked (by simp [ha]) ?_))
    rw [hs]
    exact srLocked_sys ha
  · exact congrArg Host.Outcome.next (State.issueAny_takesTrap _ hon (wrsVerdict_locked (by simp [ha]) (srLocked_ro ha)))
  · exact congrArg Host.Outcome.next (State.issueAny_takesTrap _ hon (rdsVerdict_reserved ha))
  · exact congrArg Host.Outcome.next (State.issueAny_takesTrap _ hon (wrsVerdict_reserved ha))

theorem specialRegistersComplete : SpecialRegistersComplete := by
  intro s r a d hr ha
  refine ⟨fun hp hq => ?_, fun hl hq hn => ?_, fun hn hq ht hb => ?_⟩
  · exact congrArg Host.Outcome.next (State.issueAny_done _ hr (rdsVerdict_reads ha hp hq))
  · refine congrArg Host.Outcome.next (State.issueAny_done _ hr ((wrsVerdict_open ha hl hq).trans ?_))
    rw [if_neg hn]
  · have hl : srLocked r.toNat s.cur.sysFlag = false := by rw [hn]; cases s.cur.sysFlag <;> rfl
    refine congrArg Host.Outcome.next (State.issueAny_done _ hr ((wrsVerdict_open ha hl hq).trans ?_))
    rw [if_pos hn, if_neg (by simp [ht]), if_neg (by simp [hb])]

theorem registerRowsComplete : RegisterRowsComplete := by
  intro s core slot n v w hc
  refine ⟨?_, fun ht hb => ?_, fun hn => ?_, fun r hs ha hl hr => ?_, ?_, fun e he => ?_⟩
  · exact congrArg Host.Outcome.next (if_pos hc)
  · exact congrArg Host.Outcome.next (if_pos ⟨hc, ht, hb⟩)
  · exact congrArg Host.Outcome.next (if_pos ⟨hc, hn⟩)
  · simp only [List.mem_cons, List.not_mem_nil, or_false, not_or] at hr
    obtain ⟨h1, h2, h3, h4, h5, h6⟩ := hr
    refine congrArg Host.Outcome.next ((if_pos hc).trans (if_pos ⟨hs, hl, ha, h1, h2, ?_⟩))
    omega
  · exact congrArg Host.Outcome.next (if_pos hc)
  · exact congrArg Host.Outcome.next ((if_pos hc).trans (if_pos he))

/-- Settles O55: the registers by instruction, then the rows of the table. -/
theorem registersComplete : Obligations.RegistersComplete := ⟨specialRegistersComplete, registerRowsComplete⟩

end Sys2Proof.Machine
end

/-! ## O54: the clock of a commit (R279, R325) -/
section
namespace Sys2Proof.Machine
open Sys2Proof.Claims

/-! ### What `IDLE` samples -/

/-- R325, R279: `IDLE` samples the event register after the commit of its firing, at the clock that the commit has advanced. -/
theorem exec_idle {s : State} (hon : s.onCore) (hm : mayBlock s) (hev : (blocked s).cur.ev = true) :
    exec .idle s = .next (s.retired .idle ((blocked s).updCur (·.sample (blocked s).now))) :=
  congrArg Host.Outcome.next (State.issue_done _ hon (wfeVerdict_done hm hev))

/-- A restartable firing in slot 0 of core 0 whose event register is set. -/
def State.idling : State :=
  State.reset.setSlot 0 0 { Slot.reset with st := .running, restart := true, ev := true }

theorem idling_onCore : State.idling.onCore := ⟨rfl, rfl⟩

theorem idling_mayBlock : mayBlock .idling := fun _ => rfl

theorem idling_ev : (blocked .idling).cur.ev = true := by rfl

/-- The model samples at clock 1, one cycle after the commit began. -/
theorem idling_sampled : (State.idling.retired .idle ((blocked .idling).updCur (·.sample (blocked .idling).now))).cur.wfeAt = some 1 := by
  rfl

/-- O54 asks for clock 0. -/
theorem idling_asked : (State.idling.retired .idle ((blocked .idling).updCur (·.sample State.idling.now))).cur.wfeAt = some 0 := by
  rfl

/-- Refutes O54: `IDLE` of a restartable firing commits first, which takes one cycle, so that the event register is sampled at the clock
after it and not, as the statement says, at the one the instruction issued at. In `State.idling` that is clock 1 against clock 0. -/
theorem not_systemInstructionsComplete : ¬ Obligations.SystemInstructionsComplete := by
  rintro ⟨-, hcontrol⟩
  obtain ⟨-, hidle, -⟩ := hcontrol .idling 0 0 0 idling_onCore idling_mayBlock
  have heq := (exec_idle idling_onCore idling_mayBlock idling_ev).symm.trans (hidle idling_ev)
  have hat := congrArg (fun t : State => t.cur.wfeAt) (Host.Outcome.next.inj heq)
  exact absurd (idling_sampled.symm.trans (hat.trans idling_asked)) (by decide)

end Sys2Proof.Machine
end

/-! ## Traps: how they are taken and how a firing returns (R17, R108, R209, R318, R319) -/
section
namespace Sys2Proof.Machine
open Sys2Proof.Claims

variable {s t : State} {c k : Nat}

/-! ### What the parts of a trap entry leave alone -/

theorem State.winPut_kept (s : State) (p : Place) (bs : List Byte) :
    (∀ c k, (s.winPut p bs).slot c k = s.slot c k) ∧ (s.winPut p bs).ctxs = s.ctxs ∧ (s.winPut p bs).curCore = s.curCore ∧
      (s.winPut p bs).curSlot = s.curSlot := by
  induction bs generalizing s p with
  | nil => exact ⟨fun _ _ => rfl, rfl, rfl, rfl⟩
  | cons v bs ih => exact ih _ _

theorem State.clearParity_slot (s : State) (as : List Nat) (c k : Nat) : (s.clearParity as).slot c k = s.slot c k := by
  unfold State.clearParity
  split <;> rfl

theorem State.clearParity_ctxs (s : State) (as : List Nat) : (s.clearParity as).ctxs = s.ctxs := by
  unfold State.clearParity
  split <;> rfl

theorem State.clearParity_curSlot (s : State) (as : List Nat) : (s.clearParity as).curSlot = s.curSlot := by
  unfold State.clearParity
  split <;> rfl

theorem Core.forget_slots (x : Core) (as : List Nat) : (x.forget as).slots = x.slots := by
  unfold Core.forget
  split <;> rfl

theorem State.wakeBank_kept (s : State) (a : Nat) :
    (∀ c k, (s.wakeBank a).slot c k = s.slot c k) ∧ (s.wakeBank a).ctxs = s.ctxs ∧ (s.wakeBank a).curCore = s.curCore ∧
      (s.wakeBank a).curSlot = s.curSlot := by
  rw [State.wakeBank]
  split
  · exact ⟨State.slot_updCore s rfl, rfl, rfl, rfl⟩
  · exact ⟨fun _ _ => rfl, rfl, rfl, rfl⟩

theorem State.wakeFold_kept (s : State) (as : List Nat) :
    (∀ c k, (as.foldl State.wakeBank s).slot c k = s.slot c k) ∧ (as.foldl State.wakeBank s).ctxs = s.ctxs ∧
      (as.foldl State.wakeBank s).curCore = s.curCore ∧ (as.foldl State.wakeBank s).curSlot = s.curSlot := by
  induction as generalizing s with
  | nil => exact ⟨fun _ _ => rfl, rfl, rfl, rfl⟩
  | cons a as ih =>
    obtain ⟨h1, h2, h3, h4⟩ := ih (s.wakeBank a)
    obtain ⟨g1, g2, g3, g4⟩ := s.wakeBank_kept a
    exact ⟨fun c k => (h1 c k).trans (g1 c k), h2.trans g2, h3.trans g3, h4.trans g4⟩

/-- A landing changes no slot and no context. -/
theorem State.landWrite_kept (s : State) (p : Place) (bs : List Byte) :
    (∀ c k, (s.landWrite p bs).slot c k = s.slot c k) ∧ (s.landWrite p bs).ctxs = s.ctxs ∧
      (s.landWrite p bs).curCore = s.curCore ∧ (s.landWrite p bs).curSlot = s.curSlot := by
  let as := s.winAddrs p bs.length
  obtain ⟨h1, h2, h3, h4⟩ := State.wakeFold_kept (((s.winPut p bs).clearParity as).updCore p.core (·.forget as)) as
  obtain ⟨g1, g2, g3, g4⟩ := s.winPut_kept p bs
  refine ⟨fun c k => ?_, ?_, ?_, ?_⟩
  · exact (h1 c k).trans ((State.slot_updCore _ (Core.forget_slots _ _) c k).trans ((State.clearParity_slot _ _ c k).trans (g1 c k)))
  · exact h2.trans ((State.clearParity_ctxs _ _).trans g2)
  · exact h3.trans ((State.clearParity_curCore _ _).trans g3)
  · exact h4.trans ((State.clearParity_curSlot _ _).trans g4)

theorem State.landWrite_cur (s : State) (p : Place) (bs : List Byte) : (s.landWrite p bs).cur = s.cur := by
  obtain ⟨h1, -, h3, h4⟩ := s.landWrite_kept p bs
  rw [State.cur, h1, h3, h4]
  rfl

/-- R404: no record where the context of the slot traces nothing. -/
theorem State.traceBranch_untraced {target kind : Nat} (h : (s.ctx (s.slot c k).ctx).trace = 0) : s.traceBranch c k target kind = s := by
  have hb : ¬ bits (s.ctx (s.slot c k).ctx).trace.toNat 30 1 = 1 := by
    rw [h]
    decide
  exact if_neg hb

theorem State.handback_alone (h : (s.slot c 0).scrum = none) : s.handback c = s := by
  simp only [State.handback, h]

/-- R148: a trap of a slot that holds no scrum hands nothing back. -/
theorem State.handback_cur (h : s.cur.scrum = none) : (if s.curSlot = 0 then s.handback s.curCore else s) = s := by
  split
  · next h0 => exact State.handback_alone (by rw [← h0]; exact h)
  · rfl

/-! ### The trap entry and parking -/

theorem Trap.cause_of_handled {x : Trap} (h : ¬ alwaysParks x.code) : x.cause = 6 := by
  unfold alwaysParks at h
  unfold Trap.cause
  rw [if_neg (by tauto), if_neg (by tauto)]

theorem State.handles_of_handled {x : Trap} {a : Actor} (h : handled s a x.code) (hp : ¬ alwaysParks x.code) :
    s.handles s.cur x = some a := by
  obtain ⟨ha, hcode, hmask, hact⟩ := h
  simp only [State.handles, ha, Trap.cause_of_handled hp, hcode, hact, hmask, and_self, if_true]

theorem State.handles_none {x : Trap}
    (h : s.cur.trapAct = true ∨ alwaysParks x.code ∨ 64 ≤ x.code ∨ s.actorOf s.cur = none ∨
      ∃ a, s.actorOf s.cur = some a ∧ bits a.tmask.toNat x.code 1 = 0) : s.handles s.cur x = none := by
  unfold State.handles
  split
  · rfl
  · next a ha =>
    refine if_neg fun ⟨hcause, hcode, hact, hmask⟩ => ?_
    rcases h with h | h | h | h | ⟨b, hb, h⟩
    · simp [h] at hact
    · unfold alwaysParks at h
      unfold Trap.cause at hcause
      split at hcause
      · omega
      · next hn =>
        split at hcause
        · omega
        · next hc => tauto
    · omega
    · simp [h] at ha
    · rw [ha] at hb
      cases hb
      omega

/-- R318: the slot of a firing at its trap entry. -/
def Slot.entered (s : State) (a : Actor) (y : Slot) : Slot :=
  { y.atTrap.suspendRep with trapAct := true, pc := a.trapent, blk := some a.trapent, bcore := s.curCore
                             checks := y.checks ++ s.entryCheck s.curCore s.cur a.trapent }

/-- R318: a handled trap of a firing outside a scrum whose context traces nothing. -/
theorem State.takeTrap_handled {x : Trap} {a : Actor} (h : handled s a x.code) (hp : ¬ alwaysParks x.code)
    (hs : s.cur.scrum = none) (htr : (s.ctx s.cur.ctx).trace = 0) :
    s.takeTrap s.curCore s.curSlot x =
      (s.landWrite ⟨s.curCore, s.curSlot, (s.win s.curCore s.curSlot).2 - 16⟩ (toLe 16 (s.frame s.curCore s.cur x).toNat)).updCur
        (Slot.entered s a) := by
  obtain ⟨h1, h2, h3, h4⟩ := s.landWrite_kept ⟨s.curCore, s.curSlot, (s.win s.curCore s.curSlot).2 - 16⟩
    (toLe 16 (s.frame s.curCore s.cur x).toNat)
  have htr' : ((s.landWrite ⟨s.curCore, s.curSlot, (s.win s.curCore s.curSlot).2 - 16⟩
      (toLe 16 (s.frame s.curCore s.cur x).toNat)).ctx ((s.landWrite ⟨s.curCore, s.curSlot, (s.win s.curCore s.curSlot).2 - 16⟩
      (toLe 16 (s.frame s.curCore s.cur x).toNat)).slot s.curCore s.curSlot).ctx).trace = 0 := by
    rw [h1, State.ctx, h2]
    exact htr
  have hh : s.handles (s.slot s.curCore s.curSlot) x = some a := State.handles_of_handled h hp
  simp only [State.takeTrap, State.handback_cur hs, hh]
  refine (congrArg (fun u : State => u.updSlot s.curCore s.curSlot (Slot.entered s a)) (State.traceBranch_untraced htr')).trans ?_
  rw [State.updCur, h3, h4]

theorem State.takeTrap_parks {x : Trap} (hs : s.cur.scrum = none) (h : s.handles s.cur x = none) :
    s.takeTrap s.curCore s.curSlot x =
      ((s.sendTrap s.curCore s.curSlot x).updCur Slot.atTrap).haltSlot s.curCore s.curSlot x.cause := by
  have hh : s.handles (s.slot s.curCore s.curSlot) x = none := h
  simp only [State.takeTrap, State.handback_cur hs, hh]
  rfl

/-- R318: the slot of a firing that has taken a handled trap. -/
theorem State.takeTrap_cur {x : Trap} {a : Actor} (h : handled s a x.code) (hp : ¬ alwaysParks x.code)
    (hs : s.cur.scrum = none) (htr : (s.ctx s.cur.ctx).trace = 0) :
    (s.takeTrap s.curCore s.curSlot x).cur = Slot.entered s a s.cur := by
  rw [State.takeTrap_handled h hp hs htr, State.cur_updCur, State.landWrite_cur]

/-! ### The frame (R318) -/

theorem leNat_lt (bs : List Byte) : leNat bs < 256 ^ bs.length := by
  induction bs with
  | nil => decide
  | cons v bs ih =>
    have hv := v.isLt
    rw [leNat, List.length_cons, Nat.pow_succ]
    omega

theorem memGets_length (m : List Host.Cell) (a n : Nat) : (memGets m a n).length = n := by
  induction n generalizing a with
  | zero => rfl
  | succ n ih => rw [memGets, List.length_cons, ih]

theorem State.instAt_lt (s : State) (x : Slot) (core : Nat) : s.instAt x core < 2 ^ 32 := by
  have h := leNat_lt (s.bytesAt (if isEngine core then ucodeAddr (core - 0x4000) (2 * x.pc.toNat) else codeAddr x.ctx (2 * x.pc.toNat)) 4)
  rw [State.bytesAt, memGets_length] at h
  unfold State.instAt State.bytesAt
  dsimp only
  generalize leNat _ = v at h ⊢
  split <;> omega

theorem Trap.detail_lt (x : Trap) (pass : Nat) : x.detail pass < 2 ^ 32 := by
  unfold Trap.detail
  split
  · exact BitVec.isLt _
  · omega

theorem Trap.resume_lt (x : Trap) (pc : BitVec 24) : x.resume pc.toNat < 2 ^ 32 := by
  have := pc.isLt
  unfold Trap.resume
  split <;> omega

/-- The words of a number put together of four. -/
theorem bits_of_words {w0 w1 w2 w3 k : Nat} (h0 : w0 < 2 ^ 32) (h1 : w1 < 2 ^ 32) (h2 : w2 < 2 ^ 32) (h3 : w3 < 2 ^ 32) (hk : k < 4) :
    bits (BitVec.ofNat 128 (w3 * 2 ^ 96 + w2 * 2 ^ 64 + w1 * 2 ^ 32 + w0)).toNat (32 * k) 32 = [w0, w1, w2, w3].getD k 0 := by
  rw [BitVec.toNat_ofNat, Nat.mod_eq_of_lt (by omega), bits]
  obtain rfl | rfl | rfl | rfl : k = 0 ∨ k = 1 ∨ k = 2 ∨ k = 3 := by omega
  · show (w3 * 2 ^ 96 + w2 * 2 ^ 64 + w1 * 2 ^ 32 + w0) / 2 ^ 0 % 2 ^ 32 = w0
    omega
  · show (w3 * 2 ^ 96 + w2 * 2 ^ 64 + w1 * 2 ^ 32 + w0) / 2 ^ 32 % 2 ^ 32 = w1
    omega
  · show (w3 * 2 ^ 96 + w2 * 2 ^ 64 + w1 * 2 ^ 32 + w0) / 2 ^ 64 % 2 ^ 32 = w2
    omega
  · show (w3 * 2 ^ 96 + w2 * 2 ^ 64 + w1 * 2 ^ 32 + w0) / 2 ^ 96 % 2 ^ 32 = w3
    omega

theorem trapEntry : TrapEntry := by
  intro s x a h hp hs hwin htr u
  obtain ⟨-, hcode, -, -⟩ := id h
  have hcur : u.cur = Slot.entered s a s.cur := State.takeTrap_cur h hp hs htr
  refine ⟨State.takeTrap_handled h hp hs htr, ?_, ?_, ?_, ?_, fun k hk => ?_⟩
  · rw [hcur]; rfl
  · rw [hcur]; rfl
  · rw [hcur]; rfl
  · rw [hcur]; rfl
  · exact bits_of_words (by omega) (x.resume_lt _) (x.detail_lt _) (s.instAt_lt _ _) hk

theorem trapParks : TrapParks := fun _ _ hs h => State.takeTrap_parks hs (State.handles_none h)

/-- Settles O52: the trap entry, then parking. -/
theorem trapsAreTaken : Obligations.TrapsAreTaken := ⟨trapEntry, trapParks⟩

/-! ### `TRAP` and `ERET` (R319) -/

theorem trapVerdict_traps {o : BitVec 2} {a : BitVec 6} (hq : (loneSrc s o a 1).ready s = true)
    (hb : (offsets o (some (s.view a.toNat)) none).bad = none) (hty : (s.view a.toNat).isN32 = true) :
    trapVerdict o a s = .trap
      { code := 0x38, handle := (s.view a.toNat).h, operand := some (BitVec.ofNat 32 ((loneSrc s o a 1).nat s)) } := by
  unfold trapVerdict
  refine State.gated_one hq ?_ noTrap_nil
  simp [hb, hty, opTrap]

/-- The bytes of a window are those of memory at the places its slots give. -/
theorem State.winGet_congr (hm : t.mem = s.mem) (hs : ∀ c k, t.slot c k = s.slot c k) (p : Place) (n : Nat) :
    t.winGet p n = s.winGet p n := by
  have hwin (c k : Nat) : t.win c k = s.win c k := by rw [State.win, State.win, hs]
  have haddr (p : Place) : t.winAddr p = s.winAddr p := by
    unfold State.winAddr
    simp only [hs, hwin]
  induction n generalizing p with
  | zero => rfl
  | succ n ih => rw [State.winGet, State.winGet, hm, haddr, ih]

theorem State.noteIssue_slot (s p : State) (c k : Nat) : (s.noteIssue p).slot c k = s.slot c k :=
  State.slot_updCore s (c := p.seatOf p.curCore p.curSlot)
    (f := fun x => { x with issued := mput x.issued p.cur.pri p.curSlot,
                            iss := some ⟨s.now, p.curSlot, p.cur.ctx, p.cur.here.toNat, p.cur.scrum.isSome⟩ }) rfl c k

theorem State.count_slot (s : State) (e ev c k : Nat) : (s.count e ev).slot c k = s.slot c k := by
  unfold State.count
  split
  · rfl
  · exact State.slot_updCore s (Core.count_slots _ _ _) c k

theorem State.count_curSlot (s : State) (c ev : Nat) : (s.count c ev).curSlot = s.curSlot := by
  unfold State.count
  split <;> rfl

/-- R319: what a return leaves in the slot and in memory, by the `resume` word of the frame. -/
theorem State.issued_trapReturn (s : State) :
    let t := ((s.noteIssue s).count s.curCore 2).trapReturn s.curCore s.curSlot
    t.cur.pc = BitVec.ofNat 24 (s.resumeWord s.curCore s.curSlot) ∧ t.cur.trapAct = false ∧ t.mem = s.mem := by
  intro t
  let u := (s.noteIssue s).count s.curCore 2
  have hslot (c k : Nat) : u.slot c k = s.slot c k := by rw [State.count_slot, State.noteIssue_slot]
  have hmem : u.mem = s.mem := by rw [State.count_mem, State.noteIssue_mem]
  have hword : leNat (u.winGet ⟨s.curCore, s.curSlot, (u.win s.curCore s.curSlot).2 - 12⟩ 4) =
      s.resumeWord s.curCore s.curSlot := by
    rw [State.winGet_congr hmem hslot, State.resumeWord, State.win, State.win, hslot]
  have hcore : t.curCore = s.curCore := (State.count_curCore _ _ _).trans (State.noteIssue_curCore _ _)
  have hcs : t.curSlot = s.curSlot := (State.count_curSlot _ _ _).trans rfl
  have hcur : t.cur = t.slot s.curCore s.curSlot := by rw [State.cur, hcore, hcs]
  have hself := State.slot_updSlot_self u s.curCore s.curSlot
  refine ⟨?_, ?_, hmem⟩
  · rw [hcur]
    refine (congrArg Slot.pc (hself _)).trans ?_
    rw [← hword]
  · rw [hcur]
    exact congrArg Slot.trapAct (hself _)

theorem eretVerdict_inactive (h : s.cur.trapAct = false) : eretVerdict s = .trap { code := 5 } := by
  simp only [eretVerdict, h, Bool.not_false, if_true]

/-- R319, R242, R142: an `ERET` whose frame can be read. -/
theorem eretVerdict_active (h : s.cur.trapAct = true) (hg : s.rawGate ((s.win s.curCore s.curSlot).2 - 12) 4 = none) :
    eretVerdict s =
      (if s.cur.scrum.isSome && !s.blockAt s.cur.ctx (s.resumeWord s.curCore s.curSlot) then .trap { code := 0x2B }
      else if s.codeLen s.cur.ctx ≤ s.resumeWord s.curCore s.curSlot then .trap { code := 0xE }
      else .stay (((s.noteIssue s).count s.curCore 2).trapReturn s.curCore s.curSlot)) := by
  simp only [eretVerdict, h, hg, Bool.not_true, Bool.false_eq_true, if_false]

/-- Settles O23: `TRAP` by its verdict and the trap entry, `ERET` by its verdict. -/
theorem trapAndReturnComplete : Obligations.TrapAndReturnComplete := by
  intro s o a hon
  refine ⟨fun hq hb hty => ?_, fun hact hg hlt hscrum => ?_, fun hact => ?_, fun hact hg hscrum hle => ?_⟩
  · have hex : exec (.trap o a) s = .next (s.takeTrap s.curCore s.curSlot
        { code := 0x38, handle := (s.view a.toNat).h, operand := some (BitVec.ofNat 32 ((loneSrc s o a 1).nat s)) }) :=
      congrArg Host.Outcome.next (State.issue_takesTrap _ hon (trapVerdict_traps hq hb hty))
    refine ⟨hex, fun x hh hs htr => ⟨_, hex, ?_⟩⟩
    rw [State.takeTrap_cur hh (by simp [alwaysParks]) hs htr]
    exact ⟨rfl, rfl, rfl, rfl, rfl, rfl, rfl⟩
  · refine ⟨_, congrArg Host.Outcome.next (State.issue_stay _ hon ((eretVerdict_active hact hg).trans ?_)), rfl, s.issued_trapReturn⟩
    have hb : (s.cur.scrum.isSome && !s.blockAt s.cur.ctx (s.resumeWord s.curCore s.curSlot)) = false := by
      rcases hscrum with h | h <;> simp [h]
    rw [if_neg (by simp [hb]), if_neg (Nat.not_le.mpr hlt)]
  · exact congrArg Host.Outcome.next (State.issue_takesTrap _ hon (eretVerdict_inactive hact))
  · refine congrArg Host.Outcome.next (State.issue_takesTrap _ hon ((eretVerdict_active hact hg).trans ?_))
    rw [if_neg (by simp [hscrum]), if_pos hle]

end Sys2Proof.Machine
end

/-! ## Waiting instructions: calls, objects, bindings, messages and fences (R160, R166, R279, R287, R291 to R304, R320, R321) -/
section
namespace Sys2Proof.Machine
open Sys2Proof.Claims

variable {s t : State} {o : BitVec 2} {b a d : BitVec 6}

/-- R224: an instruction of three ready accesses goes on. -/
theorem State.gated_three {q r u : Acc} {opnd late : List (Option Trap)} {k : Unit → Verdict} (hq : q.ready s = true)
    (hr : r.ready s = true) (hu : u.ready s = true) (ho : noTrap opnd = true) (hl : noTrap late = true) :
    s.gated [q, r, u] [] opnd late k = k () :=
  State.gated_ready
    (List.forall_mem_cons.mpr ⟨hq, List.forall_mem_cons.mpr ⟨hr, List.forall_mem_singleton.mpr hu⟩⟩) ho hl

/-! ### How a waiting instruction issues (R279) -/

/-- R279: a blocking instruction that goes to wait behind the commit of its firing. -/
theorem State.blocking_stay {f : State → Verdict} (h : mayBlock s) (hf : f (blocked s) = .stay t) : s.blocking f = .stay t := by
  cases hr : s.cur.restart with
  | false =>
    rw [blocked, hr] at hf
    rw [State.blocking_committed hr]
    exact hf
  | true =>
    rw [blocked, hr] at hf
    simp only [if_true] at hf
    simp only [State.blocking, hr, h hr, if_true, hf]

/-- R279: the state in which a blocking instruction waits. -/
theorem State.conclude_blockingWait {i : Instr} {w : Wait} (h : mayBlock s) :
    s.conclude i (s.blocking fun _ => .wait w [] false) = (blocked s).waitCur w [] false := by
  cases hr : s.cur.restart with
  | false => simp only [State.blocking, blocked, hr, Bool.false_eq_true, if_false, State.conclude]
  | true => simp only [State.blocking, blocked, hr, h hr, if_true, State.conclude]

theorem State.objWait_first {h : Nat} {first : State → Verdict} {fin : List W32 → State → Verdict} (hn : notSent s) :
    s.objWait h first fin = first s := by
  obtain ⟨h1, h2, h3⟩ := hn
  unfold State.objWait
  cases hw : s.cur.wait <;> simp_all

theorem State.objWait_answer {h : Nat} {first : State → Verdict} {fin : List W32 → State → Verdict} {vals : List W32}
    (hw : s.cur.wait = .answer vals) : s.objWait h first fin = fin vals s := by
  simp only [State.objWait, hw]

/-! ### `SYS`, `SVS` and `RSS` (R320, R321) -/

theorem supervisorCallCompletes : SupervisorCallCompletes := by
  intro s o a hon
  refine ⟨fun hn hq hb hty hm => ?_, fun vals hw => ?_⟩
  · refine congrArg Host.Outcome.next (State.issue_stay _ hon ?_)
    unfold sysVerdict
    refine (State.objWait_first hn).trans ?_
    exact (State.gated_one hq (by simp [hb, hty, opTrap]) noTrap_nil).trans (State.blocking_stay hm rfl)
  · refine congrArg Host.Outcome.next (State.issue_done _ hon ?_)
    unfold sysVerdict
    exact State.objWait_answer hw

theorem areaVerdict_ready {bad : State → Nat → Bool} {f : Nat → Nat → State → Verdict} (h : AreaReady s o a bad) :
    areaVerdict o a bad f s = f ((loneSrc s o a 2).elem s 0) ((loneSrc s o a 2).elem s 1) s := by
  obtain ⟨-, hsys, hsrc, hoff, hty, harea, hcalm⟩ := h
  simp only [areaVerdict, hsys, Bool.not_true, Bool.false_eq_true, if_false]
  refine (State.gated_one hsrc (by simp [hoff, hty, opTrap]) noTrap_nil).trans ?_
  simp only [loneSrc] at harea hcalm ⊢
  simp only [harea, hcalm, Bool.false_eq_true, if_false]

theorem saveAndRestoreComplete : SaveAndRestoreComplete := by
  intro s o a
  refine ⟨fun h => ?_, fun q h hq => ?_, fun q h hq => ?_⟩
  · exact congrArg Host.Outcome.next (State.issue_done _ h.core (areaVerdict_ready h))
  · refine congrArg Host.Outcome.next (State.issue_done _ h.core ((areaVerdict_ready h).trans ?_))
    simp only [rssDo, hq]
  · refine congrArg Host.Outcome.next (State.issue_done _ h.core ((areaVerdict_ready h).trans ?_))
    simp only [rssDo, hq]

/-- Settles O53: `SYS`, then the areas. -/
theorem supervisorInstructionsComplete : Obligations.SupervisorInstructionsComplete :=
  ⟨supervisorCallCompletes, saveAndRestoreComplete⟩

/-! ### Fences (R166, R287) -/

theorem fenceVerdict_passes {sc : Nat} (hn : s.nearOut sc = false) (hf : sc = 3 → s.farOut = false) :
    fenceVerdict sc s = .done (s.updCur (·.fencePassed s.curCore sc)) := by
  have h : (s.nearOut sc || (sc == 3 && s.farOut)) = false := by
    rw [hn, Bool.false_or, Bool.and_eq_false_imp]
    exact fun h3 => hf (beq_iff_eq.mp h3)
  simp only [fenceVerdict, h, Bool.false_eq_true, if_false]

/-- Settles O9: each scope by the fence's verdict. -/
theorem fencesComplete : Obligations.FencesComplete := by
  intro s hr
  refine ⟨fun hn => ?_, fun hn => ?_, fun hn => ?_, fun hn hf => ?_⟩
  · exact congrArg Host.Outcome.next (State.issueAny_done _ hr (fenceVerdict_passes hn nofun))
  · exact congrArg Host.Outcome.next (State.issueAny_done _ hr (fenceVerdict_passes hn nofun))
  · exact congrArg Host.Outcome.next (State.issueAny_done _ hr (fenceVerdict_passes hn nofun))
  · exact congrArg Host.Outcome.next (State.issueAny_done _ hr (fenceVerdict_passes hn fun _ => hf))

/-! ### Objects (R291 to R295) -/

theorem objVerdict_answer {op : ObjOp} {vals : List W32} (hw : s.cur.wait = .answer vals) :
    objVerdict op o a s = .done (s.updCur Slot.flushRun) := by
  unfold objVerdict
  exact State.objWait_answer hw

theorem semwVerdict_answer {vals : List W32} (hw : s.cur.wait = .answer vals) :
    semwVerdict o b a s = .done (s.updCur Slot.flushRun) := by
  unfold semwVerdict
  exact State.objWait_answer hw

theorem bindVerdict_answer {unbind : Bool} {vals : List W32} (hw : s.cur.wait = .answer vals) :
    bindVerdict unbind o b a s = .done s := by
  unfold bindVerdict
  exact State.objWait_answer hw

theorem objectAnswersComplete : ObjectAnswersComplete := by
  intro s o b a d vals hon hw
  refine ⟨fun i hi => ?_, congrArg Host.Outcome.next (State.issue_done _ hon ?_), congrArg Host.Outcome.next (State.issue_done _ hon ?_),
    fun i hi => ?_⟩
  · simp only [List.mem_cons, List.not_mem_nil, or_false] at hi
    rcases hi with rfl | rfl | rfl | rfl
    · exact congrArg Host.Outcome.next (State.issue_done _ hon (objVerdict_answer hw))
    · exact congrArg Host.Outcome.next (State.issue_done _ hon (objVerdict_answer hw))
    · exact congrArg Host.Outcome.next (State.issue_done _ hon (objVerdict_answer hw))
    · exact congrArg Host.Outcome.next (State.issue_done _ hon (semwVerdict_answer hw))
  · unfold tryaVerdict
    exact State.objWait_answer hw
  · unfold objqVerdict
    exact State.objWait_answer hw
  · simp only [List.mem_cons, List.not_mem_nil, or_false] at hi
    rcases hi with rfl | rfl
    all_goals exact congrArg Host.Outcome.next (State.issue_done _ hon (bindVerdict_answer hw))

/-- R294: what `sendObj` leaves is the state in which the operation is sent. -/
theorem State.sendObj_eq (t : State) (op : ObjOp) (r arg : Nat) (on : List Obj) (timed : Bool) :
    t.sendObj op r arg on timed = .stay (objSent t op r arg on timed) := rfl

theorem objVerdict_leaves {op : ObjOp} (hn : notSent s) (h : RefReady s op o a none) (hm : mayBlock s)
    (hl : op = .acq → s.cur.locks.length < 8) :
    objVerdict op o a s = .stay (objSent (blocked s) op (refOf s o a none) 0 (refObj (refOf s o a none)) true) := by
  obtain ⟨-, href, hok, hoff, hobj⟩ := h
  unfold objVerdict
  refine (State.objWait_first hn).trans ((State.gated_one href (by simp [hoff, hok, opTrap]) noTrap_nil).trans ?_)
  have hl' : ¬ (op = .acq ∧ 8 ≤ s.cur.locks.length) := fun ⟨he, hle⟩ => absurd (hl he) (Nat.not_lt.mpr hle)
  simp only [hobj, hl', if_false]
  exact State.blocking_stay hm rfl

theorem semTrap_none {h n : Nat} (h1 : 1 ≤ n) (h2 : n ≤ 65535) : semTrap h n = none := by
  unfold semTrap
  refine opTrap_none ?_
  simp
  omega

theorem semwVerdict_leaves (hn : notSent s) (h : RefReady s .semw o a none) (hm : mayBlock s)
    (hb : (plain s b false 1).ready s = true) (hty : (s.view b.toNat).isN32 = true) (h1 : 1 ≤ (plain s b false 1).nat s)
    (h2 : (plain s b false 1).nat s ≤ 65535) :
    semwVerdict o b a s = .stay (objSent (blocked s) .semw (refOf s o a none) ((plain s b false 1).nat s)
      (refObj (refOf s o a none)) true) := by
  obtain ⟨-, href, hok, hoff, hobj⟩ := h
  unfold semwVerdict
  refine (State.objWait_first hn).trans ((State.gated_two href hb (by simp [hoff, hok, hty, opTrap]) noTrap_nil).trans ?_)
  simp only [plain] at h1 h2
  simp only [semTrap_none h1 h2, hobj, firstTrap]
  exact State.blocking_stay hm rfl

theorem tryaVerdict_leaves (hn : notSent s) (h : RefReady s .trya o a (some (s.view d.toNat))) (hm : mayBlock s)
    (hd : (loadDst s o a d 1).ready s = true) (hty : (s.view d.toNat).isN32 = true ∨ (s.view d.toNat).h = 54)
    (hl : s.cur.locks.length < 8) :
    tryaVerdict o a d s = .stay (objSent (blocked s) .trya (refOf s o a (some (s.view d.toNat))) 0 [] false) := by
  obtain ⟨-, href, hok, hoff, hobj⟩ := h
  have hty' : ((s.view d.toNat).isN32 || (s.view d.toNat).h == 54) = true := by simpa using hty
  unfold tryaVerdict
  refine (State.objWait_first hn).trans ((State.gated_two hd href (by simp [hoff, hok, hty', opTrap]) noTrap_nil).trans ?_)
  simp only [hobj, Nat.not_le.mpr hl, if_false]
  exact State.blocking_stay hm rfl

theorem objqVerdict_leaves (hn : notSent s) (h : RefReady s .objq o a (some (s.view d.toNat)))
    (hd : (loadDst s o a d 0).ready s = true) (hty : (s.view d.toNat).isB 4 = true) :
    objqVerdict o a d s = .stay (objSent s .objq (refOf s o a (some (s.view d.toNat))) 0 [] false) := by
  obtain ⟨-, href, hok, hoff, hobj⟩ := h
  unfold objqVerdict
  refine (State.objWait_first hn).trans ((State.gated_two hd href (by simp [hoff, hok, hty, opTrap]) noTrap_nil).trans ?_)
  simp only [hobj]
  rfl

/-- R160: a `BIND` or `UNBD` that nothing refuses waits for its change to be applied everywhere. -/
theorem bindVerdict_waits {unbind : Bool} (hn : notSent s) (h : BindReady s unbind o b a) :
    bindVerdict unbind o b a s = s.blocking fun _ => .wait .sent [] false := by
  obtain ⟨-, hreg, href, hoff, hwords, hok, hfar, ⟨c, hc⟩, hobj⟩ := h
  have hav : (s.bindAccs o b a).1.v = s.view a.toNat := rfl
  have hbv : (s.bindAccs o b a).2.v = s.view b.toNat := rfl
  have hfar' : decide (2 ≤ (((s.bindAccs o b a).1.words s 4).getD 3 0).toNat) = false := by simpa using hfar
  unfold bindVerdict
  refine (State.objWait_first hn).trans ((State.gated_two hreg href (by simp [hav, hbv, hoff, hwords, hok, opTrap]) noTrap_nil).trans ?_)
  rw [hbv, hav, hc]
  dsimp only
  rw [hobj, hfar']
  rfl

theorem exec_bindOrUnbind {unbind : Bool} {i : Instr} (hn : notSent s) (h : BindReady s unbind o b a) (hm : mayBlock s) :
    s.issue i (bindVerdict unbind o b a) = (blocked s).waitCur .sent [] false := by
  rw [State.issue_runs _ _ h.core, bindVerdict_waits hn h, State.conclude_blockingWait hm]

theorem objectOperationsLeave : ObjectOperationsLeave := by
  intro s o b a d hn
  refine ⟨fun p hp h hm hl => ?_, fun h hm hb hty h1 h2 => ?_, fun h hm hd hty hl => ?_, fun h hd hty => ?_, fun h hm => ?_,
    fun h hm => ?_⟩
  · simp only [List.mem_cons, List.not_mem_nil, or_false] at hp
    rcases hp with rfl | rfl | rfl
    all_goals exact congrArg Host.Outcome.next (State.issue_stay _ h.core (objVerdict_leaves hn h hm hl))
  · exact congrArg Host.Outcome.next (State.issue_stay _ h.core (semwVerdict_leaves hn h hm hb hty h1 h2))
  · exact congrArg Host.Outcome.next (State.issue_stay _ h.core (tryaVerdict_leaves hn h hm hd hty hl))
  · exact congrArg Host.Outcome.next (State.issue_stay _ h.core (objqVerdict_leaves hn h hd hty))
  · exact congrArg Host.Outcome.next (exec_bindOrUnbind hn h hm)
  · exact congrArg Host.Outcome.next (exec_bindOrUnbind hn h hm)

/-- Settles O48: the answers, then the first issues. -/
theorem objectInstructionsComplete : Obligations.ObjectInstructionsComplete := ⟨objectAnswersComplete, objectOperationsLeave⟩

/-- R292, R294: with no trap of its own, an operation whose reference is admitted meets none. -/
theorem heldVerdict_releases {op : ObjOp} (hh : s.cur.holdWaits = false) (h : RefReady s op o a none)
    (hl : op = .rel → s.cur.locks.contains (lockKey (refOf s o a none)) = true) :
    heldVerdict op o a s = .done (s.releaseObj op (refOf s o a none) 0) := by
  obtain ⟨-, href, hok, hoff, hobj⟩ := h
  unfold heldVerdict
  refine (State.gated_one href (by simp [hoff, hok, opTrap]) noTrap_nil).trans ?_
  have hown : ¬ (op = .rel ∧ s.cur.locks.contains (lockKey (refOf s o a none)) = false) := by
    rintro ⟨he, hc⟩
    exact Bool.noConfusion ((hl he).symm.trans hc)
  simp only [refOf] at hown
  simp only [hown, if_false, hobj, hh, Bool.false_eq_true]
  rfl

theorem sempVerdict_releases (hh : s.cur.holdWaits = false) (h : RefReady s .semp o a none)
    (hb : (plain s b false 1).ready s = true) (hty : (s.view b.toNat).isN32 = true) (h1 : 1 ≤ (plain s b false 1).nat s)
    (h2 : (plain s b false 1).nat s ≤ 65535) :
    sempVerdict o b a s = .done (s.releaseObj .semp (refOf s o a none) ((plain s b false 1).nat s)) := by
  obtain ⟨-, href, hok, hoff, hobj⟩ := h
  unfold sempVerdict
  refine (State.gated_two href hb (by simp [hoff, hok, hty, opTrap]) noTrap_nil).trans ?_
  simp only [plain] at h1 h2
  simp only [semTrap_none h1 h2, hobj, firstTrap, hh, Bool.false_eq_true, if_false]
  rfl

/-- Settles O12: the held releases by their verdicts. -/
theorem objectReleasesComplete : Obligations.ObjectReleasesComplete := by
  intro s o b a hh
  refine ⟨fun h hl => ?_, fun h => ?_, fun h hb hty h1 h2 => ?_⟩
  · exact congrArg Host.Outcome.next (State.issue_done _ h.core (heldVerdict_releases hh h fun _ => hl))
  · exact congrArg Host.Outcome.next (State.issue_done _ h.core (heldVerdict_releases hh h fun he => by cases he))
  · exact congrArg Host.Outcome.next (State.issue_done _ h.core (sempVerdict_releases hh h hb hty h1 h2))

/-! ### Bindings (R160) -/

/-- Settles O14: the tests of `BIND` and `UNBD` in their order. -/
theorem bindingRules : Obligations.BindingRules := by
  intro c ref start len far r overlap full
  refine ⟨fun h => ?_, fun h1 h2 => ?_, fun h1 h2 h3 => ?_, fun h1 h2 h3 => ⟨{ c with binds := c.binds ++ [⟨ref, start, len, far⟩] }, ?_, rfl, rfl⟩, fun h => ?_, fun h1 h2 => ?_,
    fun h1 h2 => ⟨{ c with binds := c.binds.erase ⟨ref, start, len, far⟩ }, ?_, rfl, rfl⟩⟩
  · exact if_pos h
  · exact (if_neg (Bool.eq_false_iff.mp h1)).trans (if_pos h2)
  · exact (if_neg (Bool.eq_false_iff.mp h1)).trans ((if_neg h2).trans (if_pos h3))
  · exact (if_neg (Bool.eq_false_iff.mp h1)).trans ((if_neg h2).trans (if_neg (by simpa using h3)))
  · exact if_pos h
  · exact (if_neg (by simpa using h1)).trans (if_neg (by simpa using h2))
  · exact (if_neg (by simpa using h1)).trans (if_pos (by simpa using h2))

/-! ### Counts and messages (R299 to R304) -/

theorem countVerdict_ready {f : State → Nat → Option Nat} (h : CountReady s o a d) :
    countVerdict o a d f s = (match f s ((srcOf s o a d 1).nat s) with
      | none => .trap { code := 5, handle := (s.view a.toNat).h }
      | some n => .done ((dstOf s o a d 1).putRaw s ((s.view d.toNat).ty.fit (s.view d.toNat).sat (n : Int)))) := by
  obtain ⟨-, hd, hs, ⟨hd1, hd2⟩, ⟨ha1, ha2⟩, hoff⟩ := h
  unfold countVerdict
  exact State.gated_two hd hs (by simp [hd1, hd2, ha1, ha2, hoff, opTrap]) noTrap_nil

theorem msgqCount_of_mem {p : Nat × Nat} (h : p ∈ messageCounts s) : msgqCount s p.1 = some p.2 := by
  simp only [messageCounts, List.mem_cons, List.not_mem_nil, or_false] at h
  rcases h with rfl | rfl | rfl | rfl
  all_goals rfl

theorem ceqCount_of_mem {p : Nat × Nat} (h : p ∈ commandCounts s) : ceqCount s p.1 = some p.2 := by
  simp only [commandCounts, List.mem_cons, List.not_mem_nil, or_false] at h
  rcases h with rfl | rfl | rfl
  all_goals rfl

theorem msgqCount_other {n : Nat} (h : 4 ≤ n) : msgqCount s n = none := by
  match n, h with
  | n + 4, _ => rfl

theorem ceqCount_other {n : Nat} (h : 3 ≤ n) : ceqCount s n = none := by
  match n, h with
  | n + 3, _ => rfl

/-- Settles O15: each count by its selector. -/
theorem queueCountsComplete : Obligations.QueueCountsComplete := by
  intro s o a d h
  refine ⟨fun p hp hsel => ?_, fun p hp hsel => ?_, fun hsel => ?_, fun hsel => ?_⟩
  · refine congrArg Host.Outcome.next (State.issue_done _ h.core ((countVerdict_ready h).trans ?_))
    rw [hsel, msgqCount_of_mem hp]
  · refine congrArg Host.Outcome.next (State.issue_done _ h.core ((countVerdict_ready h).trans ?_))
    rw [hsel, ceqCount_of_mem hp]
  · refine congrArg Host.Outcome.next (State.issue_takesTrap _ h.core ((countVerdict_ready h).trans ?_))
    rw [msgqCount_other hsel]
  · refine congrArg Host.Outcome.next (State.issue_takesTrap _ h.core ((countVerdict_ready h).trans ?_))
    rw [ceqCount_other hsel]

theorem State.sendFull_none (h : s.curC.sendQ.length < 16 ∨ s.sendOwn = true) : s.sendFull = none := if_pos h

theorem sendVerdict_sends {invoke : Bool} (h : SendReady s invoke o b a d) :
    sendVerdict invoke o b a d s = .done (s.sendMsg (dstOf s o a d 1) ((plain s b false 1).nat s) (sendTarget s o a d)) := by
  obtain ⟨-, hd, ht, hc, hdty, haty, hbty, hoff, hok, hroom, hreply, hmarks, hheld⟩ := h
  have haty' : ((s.view a.toNat).isN32 || (s.view a.toNat).h == 54) = true := by simpa using haty
  unfold sendVerdict
  refine (State.gated_three hd ht hc (by simp [hdty, haty', hbty, hoff, opTrap]) noTrap_nil).trans ?_
  have hreply' : ¬ (bits ((plain s b false 1).nat s) 0 1 = 1 ∧ 8 ≤ s.replyReserved s.curCore s.curSlot) :=
    fun ⟨h1, h2⟩ => absurd (hreply h1) (Nat.not_lt.mpr h2)
  simp only [plain, sendTarget, srcOf] at hok hreply'
  simp only [hok, State.sendFull_none hroom, hreply', hmarks, hheld, Bool.not_true, Bool.false_eq_true, if_false]
  rfl

theorem sendCompletes : SendCompletes := fun _ _ _ _ _ =>
  ⟨fun h => congrArg Host.Outcome.next (State.issue_done _ h.core (sendVerdict_sends h)),
   fun h => congrArg Host.Outcome.next (State.issue_done _ h.core (sendVerdict_sends h))⟩

theorem spawnCompletes : SpawnCompletes := by
  intro s b a d lit h wid tgt
  obtain ⟨hon, hd, hid, hw, hdty, haty, hbty, htgt, hresv, hlen, hsrc, hgate, hroom, hheld⟩ := h
  have hdty' : ((s.view d.toNat).isN32 || (s.view d.toNat).h == 54) = true := by simpa using hdty
  refine congrArg Host.Outcome.next (State.issue_done _ hon ?_)
  unfold spwnVerdict
  refine ((State.gated_three hd hid hw (by simp [hdty', haty, hbty, opTrap]) noTrap_nil).trans ?_)
  have hbad : ¬ (bits ((plain s b false 1).nat s) 11 5 ≠ 0 ∨ 448 < spawnLen ((plain s b false 1).nat s) ∨
      (s.win s.curCore s.curSlot).2 < spawnSrc ((plain s b false 1).nat s) + spawnLen ((plain s b false 1).nat s)) := by
    omega
  simp only [plain] at htgt hbad hgate
  simp only [Nat.not_le.mpr htgt, hbad, hgate, Option.orElse_none, State.sendFull_none hroom, hheld, Bool.false_eq_true, if_false]
  rfl

/-- Settles O49: `SEND` and `SENDI`, then `SPWN`. -/
theorem messagesComplete : Obligations.MessagesComplete := ⟨sendCompletes, spawnCompletes⟩

end Sys2Proof.Machine
end

/-! ## Engine commands, the microcode's ends, matrix work and composition (R112 to R142, R276, R305 to R315) -/
section
namespace Sys2Proof.Machine
open Sys2Proof.Claims

variable {s t u : State} {o : BitVec 2} {b a d : BitVec 6}

/-! ### Engine commands (R305 to R307) -/

/-- R305, R307: an engine command issues with the verdict of its code, operands and guard. -/
theorem exec_cmdForm {i : Instr} {f : CmdForm} (h : cmdForm i = some f) :
    exec i s = .next (s.issue i (cmdVerdict f.code f.op (!f.ok) f.d (some f.a) f.b f.c f.e f.n f.g)) := by
  have hbad (n k : Nat) : decide (k ≤ n) = !decide (n < k) := by
    by_cases h : n < k
    · simp [h]
    · simp [h, Nat.not_lt.mp h]
  cases i
  case cpy | cpys | fill =>
    cases h
    dsimp only
    rw [← hbad]
    rfl
  case red | ratm =>
    cases h
    dsimp only
    rw [Bool.not_not]
    rfl
  case gath | scat | bsig | rinv | wqryQuery | wqryExtend =>
    cases h
    rfl
  all_goals cases h

theorem CmdForm.srcs_eq (f : CmdForm) :
    ([(some f.a).map fun h => cmdAcc (s.view h.toNat), f.b.map fun h => cmdAcc (s.view h.toNat),
      f.c.map fun h => cmdAcc (s.view h.toNat), f.e.map fun h => cmdAcc (s.view h.toNat)].filterMap id) = f.srcs s := by
  unfold CmdForm.srcs
  cases f.b <;> cases f.c <;> cases f.e <;> rfl

/-- R224: with nothing pending an instruction that is guarded off waits for nothing. -/
theorem State.pendWait_none {l : List Acc} (h : ∀ q ∈ l, q.marks s = []) : s.pendWait l = none := by
  have : l.flatMap (Acc.marks s) = [] := List.flatMap_eq_nil_iff.mpr h
  simp [State.pendWait, this]

/-- R91: an instruction whose guard is resolved and on. -/
theorem State.guarded_on {n : Bool} {g : BitVec 3} {accs : List Acc} {v : State → Verdict} (ho : s.cur.guardOpen g = false)
    (hg : s.cur.guardOn g n = true) : s.guarded n g accs v = v s := by
  simp only [State.guarded, ho, hg, Bool.false_eq_true, if_false, if_true]

/-- R91: one that is guarded off retires with no other effect. -/
theorem State.guarded_off {n : Bool} {g : BitVec 3} {accs : List Acc} {v : State → Verdict} (ho : s.cur.guardOpen g = false)
    (hg : s.cur.guardOn g n = false) (hm : ∀ q ∈ accs, q.marks s = []) : s.guarded n g accs v = .done s := by
  simp only [State.guarded, ho, hg, State.pendWait_none hm, Bool.false_eq_true, if_false]

theorem cmdVerdict_sent {f : CmdForm} (h : CmdReady s f) (hg : s.cur.guardOpen f.g = true ∨ s.cur.guardOn f.g f.n = true) :
    cmdVerdict f.code f.op (!f.ok) f.d (some f.a) f.b f.c f.e f.n f.g s = .done (f.sent s) := by
  obtain ⟨-, hok, hd, hs, ⟨hd1, hd2, hd3⟩, hmarks, hroom, hkick, hheld⟩ := h
  have hheld' : ¬ (s.cur.holdsCmd f.code = true ∧ s.cur.holdWaits = true) := fun ⟨h1, h2⟩ => by simp [hheld h1] at h2
  have hgate {k : Unit → Verdict} : s.gated (plain s f.d true 1 :: f.srcs s) []
      [opTrap (s.view f.d.toNat).h (!((s.view f.d.toNat).isN32 && !(s.view f.d.toNat).ring && !(s.view f.d.toNat).fixed))] [] k = k () :=
    State.gated_ready (List.forall_mem_cons.mpr ⟨hd, hs⟩) (by simp [hd1, hd2, hd3, opTrap]) noTrap_nil
  unfold plain at hgate
  simp only [cmdVerdict, hok, CmdForm.srcs_eq, Bool.not_true, Bool.false_eq_true, if_false]
  by_cases ho : s.cur.guardOpen f.g = true
  · rw [if_pos ho]
    refine hgate.trans ?_
    simp only [hmarks, hkick, Nat.not_le.mpr hroom, hheld', Bool.false_eq_true, if_false]
    rfl
  · rw [if_neg ho, State.guarded_on (by simpa using ho) (hg.resolve_left ho)]
    refine hgate.trans ?_
    simp only [hmarks, hkick, Nat.not_le.mpr hroom, hheld', Bool.false_eq_true, if_false]
    rfl

theorem cmdVerdict_off {f : CmdForm} (hok : f.ok = true) (ho : s.cur.guardOpen f.g = false) (hg : s.cur.guardOn f.g f.n = false)
    (hd : (plain s f.d true 1).marks s = []) (hs : ∀ q ∈ f.srcs s, q.marks s = []) :
    cmdVerdict f.code f.op (!f.ok) f.d (some f.a) f.b f.c f.e f.n f.g s = .done s := by
  simp only [cmdVerdict, hok, CmdForm.srcs_eq, Bool.not_true, Bool.false_eq_true, if_false, ho]
  exact State.guarded_off ho hg (List.forall_mem_cons.mpr ⟨hd, hs⟩)

/-- Settles O17: a command by its form. -/
theorem commandsComplete : Obligations.CommandsComplete := by
  intro s i f h
  refine ⟨fun hr hg => ?_, fun hon hok ho hg hd hs => ?_⟩
  · rw [exec_cmdForm h, State.issue_done i hr.core (cmdVerdict_sent hr hg)]
  · rw [exec_cmdForm h, State.issue_done i hon (cmdVerdict_off hok ho hg hd hs)]

/-! ### The ends of the microcode (R314, R315) -/

/-- R222: an instruction of the engine profile alone, issued by running microcode. -/
theorem State.issueEngine_done {i : Instr} {v : State → Verdict} (h : s.onEngine) (e : v s = .done t) :
    s.issueAs i true false v = s.retired i t := by
  simp only [State.issueAs, h.1, State.profileOk, h.2, if_true, e]
  rfl

theorem State.withCmd_running {q : Cmd} {f : Cmd → Verdict} (h : EngineReady s q) : s.withCmd f = f q := by
  simp only [State.withCmd, h.cmd]

/-- Settles O18: each end by its verdict. -/
theorem engineEndsComplete : Obligations.EngineEndsComplete := by
  intro s t q o b a d p n
  refine ⟨fun h hw => fun hsent => ?_, fun h hs hb hw => ?_, fun h hs hty hout hnear => ?_⟩
  · have he : EngineReady s q := h.toEngineReady
    obtain ⟨-, hd, ht, hbase, ⟨hd1, hd2⟩, hoff, haty, hbty, hnear, hlen, hwhole, hmarks⟩ := h
    refine congrArg Host.Outcome.next (State.issueEngine_done he.engine ?_)
    unfold fxmVerdict
    refine (State.gated_three hd ht hbase (by simp [hd1, hd2, hoff, haty, hbty, opTrap]) noTrap_nil).trans
      ((State.withCmd_running he).trans ?_)
    have hwhole' : (nearForm ((plain s b false 1).nat s) 0 n).isNone = false := by
      rw [Option.isNone_eq_false_iff]
      exact hwhole
    simp only [plain] at hnear hwhole'
    subst hlen
    simp only [hnear, hwhole', hmarks, hw, Bool.false_eq_true, if_false]
    exact congrArg (fun r : Sent => r.then .done) hsent
  · refine congrArg Host.Outcome.next (State.issueEngine_done h.engine ?_)
    unfold fmrkVerdict
    refine (State.gated_one hs.src (by simp [hs.off, hb]) noTrap_nil).trans ((State.withCmd_running h).trans ?_)
    simp only [hw, Bool.false_eq_true, if_false]
    rfl
  · refine congrArg Host.Outcome.next (State.issueEngine_done h.engine ?_)
    unfold cendVerdict
    refine (State.gated_one hs.src (by simp [hs.off, hty, opTrap]) noTrap_nil).trans ((State.withCmd_running h).trans ?_)
    simp only [hout, hnear, ne_eq, not_true_eq_false, Bool.false_eq_true, or_self, if_false]
    rfl

end Sys2Proof.Machine
end

/-! ## Matrix work and composition (R112 to R142, R276) -/
section
namespace Sys2Proof.Machine
open Sys2Proof.Claims

variable {s t u : State} {b a d : BitVec 6}

/-- R132, R133: a matrix instruction that completes once the array is claimed. -/
theorem State.issueMatrix_done {i : Instr} {v : State → Verdict} (h : HoldsArray s t) (hv : v t = .done u) :
    s.issue i (·.matrix v) = s.retired i u := by
  refine State.issue_done i h.core ?_
  simp only [State.matrix, h.own, hv]

/-- R132, R133: the same of one that goes to wait behind its commit. -/
theorem State.issueMatrix_stay {i : Instr} {v : State → Verdict} (h : HoldsArray s t) (hv : v t = .stay u) :
    s.issue i (·.matrix v) = u := by
  refine State.issue_stay i h.core ?_
  simp only [State.matrix, h.own, hv]

@[simp] theorem oTrap_zero : oTrap 0#2 = none := rfl

/-- R224: no ready access lies outside its window or reads an invalid view. -/
theorem accTraps_outside {l : List Acc} (h : ∀ q ∈ l, q.ready s = true) (code : Nat) : accTraps code (·.outside s) l = [] :=
  accTraps_nil code _ fun q hq => (Acc.ready_parts (h q hq)).1

theorem accTraps_invalid {l : List Acc} (h : ∀ q ∈ l, q.ready s = true) (code : Nat) : accTraps code (·.invalid s) l = [] :=
  accTraps_nil code _ fun q hq => (Acc.ready_parts (h q hq)).2.1

theorem State.oneOf_nil : s.oneOf [] = none := rfl

/-- R107, R108: values with no reserved code among them meet no trap. -/
theorem badTrap_none {h : Nat} {l : List (Except Nat XNum)} (hl : ∀ e ∈ l, ∃ x, e = .ok x) : badTrap h l = none := by
  have hf (p : Except Nat XNum → Bool) (hp : ∀ x, p (.ok x) = false) : l.findIdx? p = none := by
    rw [List.findIdx?_eq_none_iff]
    intro e he
    obtain ⟨x, rfl⟩ := hl e he
    exact hp x
  unfold badTrap
  rw [hf _ fun _ => rfl]

theorem firstTrap_badTraps {h : Nat} {l : List (List (Except Nat XNum))} (hl : codesOk l) :
    firstTrap (l.map (badTrap h)) = none := by
  refine firstTrap_none fun t ht => ?_
  obtain ⟨c, hc, rfl⟩ := List.mem_map.mp ht
  exact badTrap_none (hl c hc)

theorem firstTrap_zipBadTraps {hs : List Nat} {l : List (List (Except Nat XNum))} (hl : codesOk l) :
    firstTrap (List.zipWith badTrap hs l) = none := by
  refine firstTrap_none fun t ht => ?_
  obtain ⟨i, hi, rfl⟩ := List.mem_iff_getElem.mp ht
  rw [List.getElem_zipWith]
  exact badTrap_none (hl _ (List.getElem_mem _))

/-! ### `MLW`, `MLW.c` and `MFMT` (R118 to R120) -/

/-- R118, R224: a tile load that nothing stops, up to its reading. -/
theorem mlwVerdict_ready {cl : Bool} (h : TileReady t u cl b a) :
    mlwVerdict cl 0 b a t =
      if cl then t.blocking fun u => u.fillShadow (t.view a.toNat) (t.view b.toNat)
      else
        match firstTrap (List.zipWith badTrap [(t.view a.toNat).h, (t.view b.toNat).h]
          (t.readTile false (t.view a.toNat) (t.view b.toNat)).codes) with
        | some e => .trap e
        | none => .done (t.latch (t.readTile false (t.view a.toNat) (t.view b.toNat))) := by
  obtain ⟨haccs, htile, hscale, hcount, hnamed, -⟩ := h
  have hscale' : (blockScaled (t.view a.toNat).ty && scaleBad (t.view b.toNat)) = false := by
    cases hb : blockScaled (t.view a.toNat).ty
    · rfl
    · rw [hscale hb]
      rfl
  have hnamed' : (if cl then t.namedTrap (t.view a.toNat) else none) = none := by
    cases cl
    · rfl
    · exact hnamed rfl
  simp only [mlwVerdict, accTraps_outside haccs, State.oneOf_nil, hnamed', firstTrap, htile, hscale', hcount, if_true]
  exact State.gated_ready haccs (by simp [opTrap]) (by simp)

theorem mlwVerdict_plain (h : TileReady t t false b a) :
    mlwVerdict false 0 b a t = .done (t.latch (t.readTile false (t.view a.toNat) (t.view b.toNat))) := by
  rw [mlwVerdict_ready h]
  simp only [Bool.false_eq_true, if_false, firstTrap_zipBadTraps h.codes]

/-- R119, R276: `MLW.c` with its sixteen rows in `cl.op`. -/
theorem mlwVerdict_cluster (h : TileReady t (blocked t) true b a) (hl : 16 ≤ (blocked t).curC.clop.length) (hm : mayBlock t) :
    mlwVerdict true 0 b a t = .done (((blocked t).updCore (blocked t).curCore fun x => { x with clop := x.clop.drop 16 }).latch
      ((blocked t).readTile true (t.view a.toNat) (t.view b.toNat))) := by
  rw [mlwVerdict_ready h, if_pos rfl]
  refine State.blocking_done hm ?_
  simp only [State.fillShadow, Nat.not_lt.mpr hl, if_false, firstTrap_zipBadTraps h.codes]

/-- Settles O19: each tile instruction once its array is claimed. -/
theorem tilesComplete : Obligations.TilesComplete := by
  intro s t b a h
  refine ⟨fun hr => ?_, fun hr hl hm => ?_, fun hq hty hok => ?_⟩
  · exact congrArg Host.Outcome.next (State.issueMatrix_done h (mlwVerdict_plain hr))
  · exact congrArg Host.Outcome.next (State.issueMatrix_done h (mlwVerdict_cluster hr hl hm))
  · refine congrArg Host.Outcome.next (State.issueMatrix_done h ?_)
    unfold mfmtVerdict
    refine (State.gated_one hq (by simp [hty, opTrap]) noTrap_nil).trans ?_
    simp only [plain] at hok
    simp only [hok, if_true]
    rfl

/-! ### `MMA` (R121, R127) -/

theorem State.mmaRun_done (h : MmaReady t u a d) :
    u.mmaRun t.ownTile (wholeOf t d false) (t.view a.toNat) =
      .done (u.mmaFinish t.ownTile (wholeOf t d false) (t.view a.toNat)
        (u.mmaOuts t.ownTile (wholeOf t d false) (t.view a.toNat))) := by
  obtain ⟨-, -, -, -, -, -, hepoch, hrows, hsums, hcodes, hheld⟩ := h
  have hepoch' : (u.keepMode && (u.curC.kpscl.take (t.view d.toNat).rows).any
      (fun r => sumEpoch r.row (memberOf u.curCore) != t.ownTile.epoch.toNat)) = false := by
    cases hk : u.keepMode
    · rfl
    · simpa using hepoch hk
  have hlacks : u.mmaLacks (if (t.view a.toNat).h = 52 then (t.view d.toNat).rows * u.actPer t.ownTile else 0)
      (if u.keepMode then (t.view d.toNat).rows else 0) = [] := by
    have h1 : ¬ u.curC.clop.length < (if (t.view a.toNat).h = 52 then (t.view d.toNat).rows * u.actPer t.ownTile else 0) := by
      split
      · next h52 => exact Nat.not_lt.mpr (hrows h52)
      · omega
    have h2 : ¬ u.curC.kpscl.length < (if u.keepMode then (t.view d.toNat).rows else 0) := by
      split
      · next hk => exact Nat.not_lt.mpr (hsums hk)
      · omega
    simp [State.mmaLacks, h1, h2]
  have hheld' : ((t.view a.toNat).entry.isSome && u.cur.holdWaits) = false := by
    cases he : (t.view a.toNat).entry.isSome
    · rfl
    · rw [hheld he]
      rfl
  have hv : (wholeOf t d false).v = t.view d.toNat := rfl
  simp only [State.mmaRun, hv, hepoch', hlacks, firstTrap_badTraps hcodes, hheld', List.isEmpty_nil, Bool.not_true,
    Bool.false_eq_true, if_false]

/-- R121, R224: an `MMA` whose views nothing stops, up to its run. -/
theorem mmaVerdict_ready (h : MmaReady t u a d) :
    mmaVerdict 0 a d t = t.rowsWait (t.view a.toNat)
      (if t.mmaCommits (t.view a.toNat) then
        t.blocking fun u => u.mmaRun t.ownTile (wholeOf t d false) (t.view a.toNat)
      else t.mmaRun t.ownTile (wholeOf t d false) (t.view a.toNat)) := by
  obtain ⟨haccs, hout, hinv, hmism, hopnd, hlate, -⟩ := h
  have hown : ∀ q ∈ [(⟨t.view d.toNat, 0, false, 0⟩ : Acc), ⟨t.view d.toNat, 0, true, 0⟩], q.ready t = true :=
    fun q hq => haccs q (List.mem_append_left _ hq)
  simp only [mmaVerdict, accTraps_outside hown, accTraps_invalid hown, hout, hinv, hmism, Bool.false_eq_true, if_false, List.nil_append]
  refine (congrArg (t.rowsWait (t.view a.toNat)) (State.gated_ready haccs hopnd hlate)).trans ?_
  rfl

/-- Settles O20: with and without the commit of R276. -/
theorem mmaCompletes : Obligations.MmaCompletes := by
  intro s t a d h
  refine ⟨fun hc hm hr => ?_, fun hc hr => ?_⟩
  · refine congrArg Host.Outcome.next (State.issueMatrix_done h ?_)
    rw [mmaVerdict_ready hr, if_pos hc, State.blocking_done hm (State.mmaRun_done hr)]
    rfl
  · refine congrArg Host.Outcome.next (State.issueMatrix_done h ?_)
    rw [mmaVerdict_ready hr, if_neg (by simp [hc]), State.mmaRun_done hr]
    rfl

/-! ### Drains and multicast (R123, R129 to R131) -/

theorem drainsComplete : DrainsComplete := by
  intro s t b a d h acc drained
  refine ⟨fun hd hacc => ?_, fun ha hacc => ⟨?_, fun hz => ?_⟩, fun hd ha hb hd1 hd2 hacc hrows hty hok hmarks hheld => ?_⟩
  · obtain ⟨h1, h2⟩ := hacc
    refine congrArg Host.Outcome.next (State.issueMatrix_done h ?_)
    unfold mclrVerdict
    exact State.gated_one hd (by simp [h1, h2, opTrap]) noTrap_nil
  · obtain ⟨h1, h2⟩ := hacc
    refine congrArg Host.Outcome.next (State.issueMatrix_done h ?_)
    unfold mdrVerdict
    exact State.gated_one ha (by simp [h1, h2, opTrap]) noTrap_nil
  · obtain ⟨h1, h2⟩ := hacc
    refine congrArg Host.Outcome.next (State.issueMatrix_done h ?_)
    unfold mdrVerdict
    exact State.gated_two ha hz (by simp [h1, h2, opTrap]) noTrap_nil
  · obtain ⟨h1, h2⟩ := hacc
    refine congrArg Host.Outcome.next (State.issueMatrix_done h ?_)
    unfold mdrpVerdict
    refine (State.gated_three hd ha hb (by simp [h1, h2, hd1, hd2, hty, hrows, opTrap]) noTrap_nil).trans ?_
    simp only [plain] at hok
    simp only [hok, hmarks, hheld, Bool.not_true, Bool.false_eq_true, if_false]
    rfl

theorem mscVerdict_first (hw : ∀ id, t.cur.wait ≠ .ring 118 id true) (ha : (plain t a false 1).ready t = true)
    (hb : (wholeOf t b false).ready t = true) (hty : (t.view a.toNat).isInt1 = true) (hf : (t.view b.toNat).fixed = false)
    (hr : (t.view b.toNat).ring = false) (hsh : (t.view b.toNat).shape = 1 ∨ (t.view b.toNat).shape = 2)
    (hrow : (t.view b.toNat).rowBytes ≤ 64) (hmask : bits ((plain t a false 1).word t) 0 16 ≠ 0)
    (hp : t.placed (bits ((plain t a false 1).word t) 0 16) = true) :
    mscVerdict 0 b a t = t.multicast (bits ((plain t a false 1).word t) 0 16) (wholeOf t b false) := by
  have hsh' : ((t.view b.toNat).shape == 1 || (t.view b.toNat).shape == 2) = true := by simpa using hsh
  unfold mscVerdict
  dsimp only
  split
  · next id hid => exact absurd hid (hw id)
  · refine (State.gated_two ha hb (by simp [hty, hf, hr, hsh', hrow, opTrap]) noTrap_nil).trans ?_
    simp only [plain] at hmask hp
    simp only [hmask, hp, Bool.not_true, Bool.false_eq_true, if_false]
    rfl

theorem multicastCompletes : MulticastCompletes := by
  intro s t b a h sv mask
  refine ⟨fun hw ha hb hty hf hr hsh hrow hmask hp hm => ?_, fun id hw hout => ?_⟩
  · refine congrArg Host.Outcome.next (State.issueMatrix_stay h ?_)
    rw [mscVerdict_first hw ha hb hty hf hr hsh hrow hmask hp]
    exact State.blocking_stay hm rfl
  · refine congrArg Host.Outcome.next (State.issueMatrix_done h ?_)
    unfold mscVerdict
    simp only [hw, hout, Bool.false_eq_true, if_false]

/-- Settles O51: the drains, then `MSC`. -/
theorem drainsAndMulticastComplete : Obligations.DrainsAndMulticastComplete := ⟨drainsComplete, multicastCompletes⟩

/-! ### Composition (R137 to R139, R148) -/

/-- R137: a `CMPS` that no trap stops. -/
theorem cmpsVerdict_placed {kk : BitVec 2} (hp : s.cur.pend = []) (hb : s.composeBad (composeSize kk) = false)
    (hm : s.misplaced (composeSize kk) = false) :
    cmpsVerdict kk s =
      if (scrumOthers s.curCore (composeSize kk)).any (fun m => s.composing m && decide (memberOf m < memberOf s.curCore)) then .done s
      else if s.canCompose s.curCore (composeSize kk) && !s.preemptFirst s.curCore then
        .done (s.compose s.curCore (composeSize kk))
      else s.composeWait (composeSize kk) := by
  unfold composeSize at hb hm ⊢
  simp only [cmpsVerdict, hp, hb, hm, List.isEmpty_nil, Bool.not_true, Bool.false_eq_true, if_false]

/-- Settles O22: each form by its verdict. -/
theorem composeCompletes : Obligations.ComposeCompletes := by
  intro s kk o d hon
  refine ⟨fun hp hb hm hl hc hpre => ?_, fun hp hb hm hl => ?_, fun hs => ?_, fun hs hp => ?_, fun hd hoff hty => ?_⟩
  · refine congrArg Host.Outcome.next (State.issue_done _ hon ((cmpsVerdict_placed hp hb hm).trans ?_))
    rw [if_neg (Bool.eq_false_iff.mp hl), if_pos (by simp [hc, hpre])]
  · refine congrArg Host.Outcome.next (State.issue_done _ hon ((cmpsVerdict_placed hp hb hm).trans ?_))
    rw [if_pos hl]
  · refine congrArg Host.Outcome.next (State.issue_done _ hon ?_)
    simp only [dcmpVerdict, hs, Option.isNone_none, if_true]
  · have hs' : s.cur.scrum.isNone = false :=
      Bool.eq_false_iff.mpr fun h => hs (Option.isNone_iff_eq_none.mp h)
    refine congrArg Host.Outcome.next (State.issue_done _ hon ?_)
    simp only [dcmpVerdict, hs', hp, List.isEmpty_nil, Bool.not_true, Bool.false_eq_true, if_false]
  · refine congrArg Host.Outcome.next (State.issue_done _ hon ?_)
    unfold cmpqVerdict
    exact State.gated_one hd (by simp [hty, hoff, opTrap]) noTrap_nil

end Sys2Proof.Machine
end

/-! ## Integer accumulation (R115) -/

section
namespace Sys2Proof.Machine
open Sys2Proof.Claims

/-- The i32 value that the low bits of an integer stand for. -/
def i32Of (v : Int) : Int := intOf true 32 (wrap 32 v)

/-- The value after the first k additions of a chain that starts at `acc`. -/
def chainAt (acc : Int) (l : List (Int × Int)) (k : Nat) : Int := i32Of (acc + ((l.take k).map fun p => p.1 * p.2).sum)

/-- The exact sum at the k-th addition of a chain leaves the i32 range. -/
def ChainLeaves (acc : Int) (l : List (Int × Int)) (k : Nat) (h : k < l.length) : Prop :=
  let v := chainAt acc l k + (l[k]'h).1 * (l[k]'h).2
  v < -2 ^ 31 ∨ 2 ^ 31 ≤ v

/-- An i32 accumulator value and its integer are the same modulo 2^32. -/
theorem i32Of_emod (v : Int) : i32Of v % 2 ^ 32 = v % 2 ^ 32 := by
  have hc := wrap_cast 32 v
  have hl := wrap_lt 32 v
  simp only [i32Of, intOf, Bool.true_and, decide_eq_true_eq, Nat.mod_eq_of_lt hl]
  split <;> omega

/-- An i32 value is decided by its integer modulo 2^32. -/
theorem i32Of_congr {v w : Int} (h : v % 2 ^ 32 = w % 2 ^ 32) : i32Of v = i32Of w := by
  have hw : wrap 32 v = wrap 32 w := by
    simp only [wrap, show ((2 ^ 32 : Nat) : Int) = 2 ^ 32 by norm_num, h]
  simp only [i32Of, hw]

theorem i32Of_i32Of (v : Int) : i32Of (i32Of v) = i32Of v := i32Of_congr (i32Of_emod v)

/-- After its first addition a chain goes on as the chain of the rest. -/
theorem chainAt_cons (acc : Int) (p : Int × Int) (l : List (Int × Int)) (k : Nat) :
    chainAt acc (p :: l) (k + 1) = chainAt (i32Of (acc + p.1 * p.2)) l k := by
  refine i32Of_congr ?_
  have h := i32Of_emod (acc + p.1 * p.2)
  simp only [List.take_succ_cons, List.map_cons, List.sum_cons]
  omega

/-- A chain ends at the exact sum, modulo 2^32. -/
theorem intCol_fst (l : List (Int × Int)) : ∀ (acc : Int) (ovf : Bool),
    (intCol acc ovf l).1 % 2 ^ 32 = (acc + (l.map fun p => p.1 * p.2).sum) % 2 ^ 32 := by
  induction l with
  | nil => intro acc ovf; simp [intCol]
  | cons p l ih =>
    intro acc ovf
    have h := i32Of_emod (acc + p.1 * p.2)
    have hi := ih (i32Of (acc + p.1 * p.2)) (ovf || decide (acc + p.1 * p.2 < Ty.i32.minInt ∨ Ty.i32.maxInt < acc + p.1 * p.2))
    simp only [intCol, List.map_cons, List.sum_cons]
    simp only [i32Of] at h hi
    omega

/-- The i32 range in numerals. -/
theorem outside_i32 (v : Int) : (v < Ty.i32.minInt ∨ Ty.i32.maxInt < v) ↔ (v < -2 ^ 31 ∨ 2 ^ 31 ≤ v) := by
  have hmin : Ty.i32.minInt = -2 ^ 31 := by decide
  have hmax : Ty.i32.maxInt = 2 ^ 31 - 1 := by decide
  rw [hmin, hmax]; omega

/-- A chain reports overflow where it came with one or an addition of its own leaves the range. -/
theorem intCol_snd (l : List (Int × Int)) : ∀ (acc : Int) (ovf : Bool), i32Of acc = acc →
    ((intCol acc ovf l).2 = true ↔ ovf = true ∨ ∃ k, ∃ h : k < l.length, ChainLeaves acc l k h) := by
  induction l with
  | nil => intro acc ovf _; simp [intCol]
  | cons p l ih =>
    intro acc ovf ha
    have hfirst : ChainLeaves acc (p :: l) 0 (Nat.succ_pos _) ↔
        (acc + p.1 * p.2 < Ty.i32.minInt ∨ Ty.i32.maxInt < acc + p.1 * p.2) := by
      rw [outside_i32]
      simp only [ChainLeaves, chainAt, List.take_zero, List.map_nil, List.sum_nil, add_zero, ha, List.getElem_cons_zero]
    have hrest (k : Nat) (h : k < l.length) :
        ChainLeaves acc (p :: l) (k + 1) (Nat.succ_lt_succ h) ↔ ChainLeaves (i32Of (acc + p.1 * p.2)) l k h := by
      simp only [ChainLeaves, chainAt_cons, List.getElem_cons_succ]
    simp only [intCol]
    rw [show intOf true 32 (wrap 32 (acc + p.1 * p.2)) = i32Of (acc + p.1 * p.2) from rfl, ih _ _ (i32Of_i32Of _),
      Bool.or_eq_true, decide_eq_true_eq, or_assoc, ← hfirst]
    refine or_congr_right ⟨?_, ?_⟩
    · rintro (h | ⟨k, hk, h⟩)
      · exact ⟨0, Nat.succ_pos _, h⟩
      · exact ⟨k + 1, Nat.succ_lt_succ hk, (hrest k hk).mpr h⟩
    · rintro ⟨k, hk, h⟩
      cases k with
      | zero => exact .inl h
      | succ k => exact .inr ⟨k, Nat.lt_of_succ_lt_succ hk, (hrest k (Nat.lt_of_succ_lt_succ hk)).mp h⟩

/-- Settles O21: the chain from the element's i32 value, by its two projections. -/
theorem integerAccumulation : Obligations.IntegerAccumulation := by
  intro at_ raw ws as cs hraw ps r
  have hw : wrap 32 (raw : Int) = raw := by
    simp only [wrap]; omega
  have hacc : intOf true 32 raw = i32Of raw := by rw [i32Of, hw]
  have hr : r = (wrap 32 (intCol (i32Of raw) false ps).1, (intCol (i32Of raw) false ps).2) := by
    rw [← hacc]; rfl
  have hf := intCol_fst ps (i32Of raw) false
  have he := i32Of_emod raw
  refine ⟨?_, ?_⟩
  · rw [hr, wrap_cast]; omega
  · rw [hr]
    refine (intCol_snd ps (i32Of raw) false (i32Of_i32Of _)).trans ?_
    simp only [Bool.false_eq_true, false_or]
    simp only [ChainLeaves, chainAt, intSum, hacc, i32Of]

end Sys2Proof.Machine
end

/-! ## The message that a SEND builds (R33, R63, R300) -/

section
namespace Sys2Proof.Machine
open Sys2Proof.Claims

/-- The fields of a header of kind `kind` that are within their widths (R33). -/
theorem mkHdr_toNat {spn tkh tks stamp sdev score pri kind flits hix orig ctx : Nat} (h0 : spn < 2) (h1 : sdev < 2 ^ 5) (h2 : score < 2 ^ 14)
    (h3 : orig < 2 ^ 4) (h4 : ctx < 2 ^ 8) :
    (mkHdr spn tkh tks stamp sdev score pri kind flits hix orig ctx).toNat =
      spn * 2 ^ 112 + tkh % 64 * 2 ^ 106 + tks % 4 * 2 ^ 104 + stamp % 2 ^ 32 * 2 ^ 64 + sdev * 2 ^ 59
        + score * 2 ^ 32 + pri % 8 * 2 ^ 29 + kind % 4 * 2 ^ 27 + flits % 8 * 2 ^ 24 + hix % 2 ^ 12 * 2 ^ 12 + orig * 2 ^ 8 + ctx := by
  rw [mkHdr, BitVec.toNat_ofNat, Nat.mod_eq_of_lt (by omega)]

/-- R33: each field of a header reads back. -/
theorem mkHdr_fields {spn tkh tks stamp sdev score pri kind flits hix orig ctx : Nat} (h0 : spn < 2) (h1 : sdev < 2 ^ 5) (h2 : score < 2 ^ 14)
    (h3 : orig < 2 ^ 4) (h4 : ctx < 2 ^ 8) :
    let v := (mkHdr spn tkh tks stamp sdev score pri kind flits hix orig ctx).toNat
    bits v 0 8 = ctx ∧ bits v 8 4 = orig ∧ bits v 12 12 = hix % 2 ^ 12 ∧ bits v 27 2 = kind % 4 ∧ bits v 29 3 = pri % 8 ∧
    bits v 32 14 = score ∧ bits v 59 5 = sdev ∧ bits v 64 32 = stamp % 2 ^ 32 ∧ bits v 104 2 = tks % 4 ∧ bits v 106 6 = tkh % 64 ∧
    bits v 112 1 = spn := by
  simp only [mkHdr_toNat h0 h1 h2 h3 h4, bits]
  refine ⟨?_, ?_, ?_, ?_, ?_, ?_, ?_, ?_, ?_, ?_, ?_⟩ <;> omega



/-- The words that fill up the last flit: as many as are asked for, and nothing else changes but the next free value. -/
theorem State.padWords_eq (k : Nat) : ∀ s : State, (s.padWords k).1.length = k ∧ ∃ n, (s.padWords k).2 = { s with fresh := n } := by
  induction k with
  | zero => intro s; exact ⟨rfl, s.fresh, rfl⟩
  | succ k ih =>
    intro s
    obtain ⟨hl, n, hn⟩ := ih s.free.2
    exact ⟨congrArg (· + 1) hl, n, hn⟩

/-- R63: closing `out.msg` keeps the words that were written, in front of those that fill up the last flit. -/
theorem State.closeMsg_words (s : State) : s.closeMsg.1.take s.cur.outMsg.length = s.cur.outMsg ∧
    4 + s.closeMsg.1.length = 16 * flitsOf s.cur.outMsg.length := by
  have hl := (s.padWords_eq (flitsOf s.cur.outMsg.length * 16 - 4 - s.cur.outMsg.length)).1
  have hf : flitsOf s.cur.outMsg.length = (4 + s.cur.outMsg.length + 15) / 16 := rfl
  refine ⟨List.take_left, ?_⟩
  rw [State.closeMsg, List.length_append, hl]
  omega

/-- R63: closing `out.msg` empties it; nothing else of the state changes but the next free value. -/
theorem State.closeMsg_state (s : State) : ∃ n, s.closeMsg.2 = { s with fresh := n }.updCur fun x => { x with outMsg := [] } := by
  obtain ⟨n, hn⟩ := (s.padWords_eq (flitsOf s.cur.outMsg.length * 16 - 4 - s.cur.outMsg.length)).2
  exact ⟨n, by rw [State.closeMsg, hn]⟩

/-- R302: reserving a send entry leaves the slot as it is. -/
theorem State.reserveSend_cur (s : State) : s.reserveSend.cur = s.cur := by
  unfold State.reserveSend
  split
  · rfl
  · exact State.cur_updCore s (f := fun x => { x with sendQ := x.sendQ ++ [⟨s.curSlot, s.cur.fid, none⟩] }) (fun _ => rfl) _

/-- R279: an effect of a restartable firing whose buffer has room is held. -/
theorem State.hold_restart {s : State} {e : Held} (hr : s.cur.restart = true) (hl : s.cur.heldLen < 64) :
    s.hold e = s.updCur fun x => { x with cbuf := x.cbuf ++ [e] } := by
  rw [State.hold, if_pos hr, if_pos hl]

/-- R302: a message of a restartable firing whose buffer has room is held. -/
theorem State.sendHeld_cur {s : State} {m : Msg} {core : Nat} {ret : Option Ret} {rq : Bool} (hr : s.cur.restart = true)
    (hl : s.cur.heldLen < 64) : (s.sendHeld m core ret rq).cur = { s.cur with cbuf := s.cur.cbuf ++ [.send m core ret rq] } := by
  rw [State.sendHeld, State.hold_restart (by rwa [State.reserveSend_cur]) (by rwa [State.reserveSend_cur]), State.cur_updCur,
    State.reserveSend_cur]

/-- A slot that differs from another in its ports only is that slot with its ports. -/
theorem Slot.eq_of_ports {x y : Slot} (h : { x with ports := [] } = { y with ports := [] }) : x = { y with ports := x.ports } :=
  congrArg (fun z : Slot => { z with ports := x.ports }) h

/-- R69: a mark adds its pending bytes to the slot, and moves a written port. -/
theorem State.mark_cur (s : State) (q : Acc) (len : Nat) (held near eng : Bool) :
    (s.mark q len held near eng).2.cur =
      { s.cur with pend := s.cur.pend ++ [⟨s.nextId, ⟨q.v.core, q.v.slot, q.v.start q.o true⟩, len, held, near, eng⟩],
                   ports := (s.mark q len held near eng).2.cur.ports } := by
  refine Slot.eq_of_ports (y := { s.cur with pend := s.cur.pend ++
    [⟨s.nextId, ⟨q.v.core, q.v.slot, q.v.start q.o true⟩, len, held, near, eng⟩] }) ((Acc.wrote_cur q _).trans ?_)
  rw [State.cur_updCur]
  rfl

/-- R300: the registers from which a message that is no reply is marked and held: `out.msg` is closed, and a reply asked for reserved. -/
def State.sending (s : State) (dq : Acc) (ctl : Nat) : State :=
  s.closeMsg.2.updCur fun y =>
    { y with replied := y.replied || decide (bits ctl 27 2 = 2), rplRes := if bits ctl 0 1 = 1 then dq.v.h :: y.rplRes else y.rplRes }

/-- R33, R300: the header of a message that is no reply. -/
def State.sendHdr (s : State) (dq : Acc) (ctl : Nat) : BitVec 128 :=
  mkHdr 0 dq.v.h s.curSlot s.now.toNat s.pos.toNat s.curCore (bits ctl 29 3) (bits ctl 27 2) (flitsOf s.cur.outMsg.length - 1)
    (bits ctl 12 12) 0 s.cur.ctx

/-- R300: what a `SEND` of kind 0 or an invocation marks and holds. -/
theorem State.sendMsg_eq {s : State} {dq : Acc} {ctl tgt : Nat} (hk : bits ctl 27 2 < 2) :
    s.sendMsg dq ctl tgt =
      let r := (s.sending dq ctl).mark dq 4 s.cur.restart false false
      r.2.sendHeld ⟨s.sendHdr dq ctl, s.closeMsg.1, 0, 0, 0, 0⟩ tgt (some r.1) (bits ctl 0 1 == 1) := by
  have hk' : ¬ bits ctl 27 2 = 2 := by omega
  simp only [State.sendMsg, hk', decide_false, Bool.false_eq_true, if_false, Bool.or_false]
  simp only [State.sending, hk', decide_false, Bool.or_false]
  rfl

/-- R63, R300: the slot that sends, before its token is marked. -/
theorem State.sending_cur (s : State) (dq : Acc) (ctl : Nat) :
    (s.sending dq ctl).cur = { s.cur with outMsg := [], replied := s.cur.replied || decide (bits ctl 27 2 = 2), rplRes := if bits ctl 0 1 = 1 then dq.v.h :: s.cur.rplRes else s.cur.rplRes } := by
  obtain ⟨n, hn⟩ := s.closeMsg_state
  rw [State.sending, hn, State.cur_updCur, State.cur_updCur]
  rfl

/-- The executing slot stays the same while a message is built. -/
theorem State.sending_place (s : State) (dq : Acc) (ctl : Nat) :
    (s.sending dq ctl).curCore = s.curCore ∧ (s.sending dq ctl).curSlot = s.curSlot := by
  obtain ⟨n, hn⟩ := s.closeMsg_state
  rw [State.sending, hn]
  exact ⟨rfl, rfl⟩

/-- R69, R300: the slot that sends, its token marked. -/
theorem State.sendMark_cur (s : State) (dq : Acc) (ctl : Nat) :
    let y := ((s.sending dq ctl).mark dq 4 s.cur.restart false false).2.cur
    y.cbuf = s.cur.cbuf ∧ y.restart = s.cur.restart ∧ y.outMsg = [] ∧
    y.rplRes = (if bits ctl 0 1 = 1 then [dq.v.h] else []) ++ s.cur.rplRes ∧
    y.pend = s.cur.pend ++
      [⟨(s.sending dq ctl).nextId, ⟨dq.v.core, dq.v.slot, dq.v.start dq.o true⟩, 4, s.cur.restart, false, false⟩] := by
  intro y
  have hy : y = _ := (s.sending dq ctl).mark_cur dq 4 s.cur.restart false false
  have hs := s.sending_cur dq ctl
  have hrpl : (s.sending dq ctl).cur.rplRes = (if bits ctl 0 1 = 1 then [dq.v.h] else []) ++ s.cur.rplRes := by
    rw [hs]; dsimp only; split <;> rfl
  refine ⟨?_, ?_, ?_, ?_, ?_⟩
  · rw [hy, hs]
  · rw [hy, hs]
  · rw [hy, hs]
  · rw [hy]; exact hrpl
  · rw [hy, hs]

/-- R63, R69, R300: what a `SEND` of a restartable firing leaves in its registers. -/
theorem State.sendMsg_cur {s : State} {dq : Acc} {ctl tgt : Nat} (hr : s.cur.restart = true) (hl : s.cur.heldLen < 64)
    (hk : bits ctl 27 2 < 2) :
    (s.sendMsg dq ctl tgt).cur.cbuf = s.cur.cbuf ++ [.send ⟨s.sendHdr dq ctl, s.closeMsg.1, 0, 0, 0, 0⟩ tgt
      (some ((s.sending dq ctl).mark dq 4 s.cur.restart false false).1) (bits ctl 0 1 == 1)] ∧
    (s.sendMsg dq ctl tgt).cur.outMsg = [] ∧
    (s.sendMsg dq ctl tgt).cur.rplRes = (if bits ctl 0 1 = 1 then [dq.v.h] else []) ++ s.cur.rplRes ∧
    (s.sendMsg dq ctl tgt).cur.pend = s.cur.pend ++
      [⟨(s.sending dq ctl).nextId, ⟨dq.v.core, dq.v.slot, dq.v.start dq.o true⟩, 4, true, false, false⟩] := by
  obtain ⟨hcbuf, hres, hout, hrpl, hpend⟩ := s.sendMark_cur dq ctl
  have hlen : ((s.sending dq ctl).mark dq 4 s.cur.restart false false).2.cur.heldLen < 64 := by
    rw [Slot.heldLen, hcbuf]; exact hl
  have hres' := hres.trans hr
  rw [State.sendMsg_eq hk]
  dsimp only
  generalize (s.sending dq ctl).mark dq 4 s.cur.restart false false = r at *
  rw [State.sendHeld_cur hres' hlen]
  exact ⟨congrArg (fun l => l ++ _) hcbuf, hout, hrpl, hpend.trans (by rw [hr])⟩

/-- Settles O16: the slot after the message is closed, its token marked and the message held, and the fields of its header. -/
theorem sentMessage : Obligations.SentMessage := by
  intro s dq ctl tgt hr hl hk hon _ t
  obtain ⟨_, heng⟩ := hon
  have hcore : s.curCore < 2 ^ 14 := by simpa [isEngine] using heng
  obtain ⟨hcbuf, hout, hrpl, hpend⟩ := State.sendMsg_cur (dq := dq) (tgt := tgt) hr hl hk
  obtain ⟨hcc, hcs⟩ := s.sending_place dq ctl
  have hfid : (s.sending dq ctl).cur.fid = s.cur.fid := by rw [s.sending_cur dq ctl]
  obtain ⟨hctx, horig, hhix, hkind, hpri, hscore, hsdev, hstamp, htks, htkh, hspn⟩ := mkHdr_fields (spn := 0) (tkh := dq.v.h)
    (tks := s.curSlot) (stamp := s.now.toNat) (pri := bits ctl 29 3) (kind := bits ctl 27 2) (flits := flitsOf s.cur.outMsg.length - 1)
    (hix := bits ctl 12 12) (orig := 0) (ctx := s.cur.ctx) (by omega) s.pos.isLt hcore (by omega) (Nat.mod_lt _ (by omega))
  have hmod (lo n : Nat) : bits ctl lo n % 2 ^ n = bits ctl lo n := Nat.mod_eq_of_lt (Nat.mod_lt _ (Nat.two_pow_pos n))
  obtain ⟨hw, hf⟩ := s.closeMsg_words
  refine ⟨_, _, hcbuf, hout, hw, hf, hctx, horig, hkind.trans (hmod 27 2), hhix.trans (hmod 12 12),
    congrArg (· == 1) hspn, Prod.ext hscore (Prod.ext htks htkh), hpri.trans (hmod 29 3), hstamp, hsdev, hrpl, hcc, hcs, hfid,
    rfl, rfl, ⟨_, hpend ▸ List.mem_append_right _ (List.mem_singleton_self _), rfl, rfl, rfl⟩⟩

end Sys2Proof.Machine
end

/-! ## Near memory: loads, stores and atomics (R283 to R290, R411) -/
section
namespace Sys2Proof.Machine
open Sys2Proof.Claims

variable {s t : State} {i : Instr} {o : BitVec 2} {f b a d : BitVec 6} {sn : Bool} {g : BitVec 3} {n : Nat}

/-! ### Traps that the value of an operand decides -/

@[simp] theorem Acc.early_none (s : State) (q : Acc) : q.early s none = none := by
  simp only [Acc.early, ite_self]

/-- R283: an address in range takes no near-range trap. -/
theorem nearTrap_near {q : Acc} {off size : Nat} (h : nearForm (q.nat s) off size = some n) : nearTrap s q off size = none := by
  simp only [nearTrap, h, Option.isNone_some, Bool.false_eq_true, if_false, Acc.early_none]

/-- R62: a load to `out.msg` is admitted at the own slice, and one to another destination anywhere. -/
theorem State.msgLoad_none {dv : View} {q : Acc} {off size : Nat} (hn : nearForm (q.nat s) off size = some n)
    (h : dv.h ≠ 50 ∨ s.ownSlice n = true) : s.msgLoad dv q off size = none := by
  unfold State.msgLoad
  split
  next h50 => simp only [hn, h.resolve_left (not_not_intro h50), Bool.not_true, opTrap, Bool.false_eq_true, if_false, Acc.early_none]
  next => rfl

/-! ### What follows a write: watchpoints (R411) -/

/-- R411: whether a match of action 1 is among the watchpoints that a write meets. -/
theorem hits_halt {l : List (Nat × Nat)} : (l.any fun h => h.2 == 1) = true ↔ ¬ ∀ h ∈ l, h.2 ≠ 1 := by
  simp

/-- R411: a write that no watchpoint of action 1 matches is done, with its reports. -/
theorem State.storeDone_reported {a : Nat} (h : noHalt t a n) : t.storeDone a n = .done (Claims.reported t a n) := by
  unfold State.storeDone Claims.reported hitsAt
  unfold noHalt hitsAt at h
  cases he : isEngine t.curCore with
  | true => simp only [if_true]
  | false =>
    have hn := h.resolve_left (by simp [he])
    simp only [Bool.false_eq_true, if_false]
    rw [if_neg (fun hh => (hits_halt.mp hh) hn)]

/-- R411: one that a watchpoint of action 1 matches halts its firing. -/
theorem State.storeDone_halts {a : Nat} (h : ¬ noHalt t a n) : t.storeDone a n = .stay (haltedBy t (Claims.reported t a n)) := by
  unfold State.storeDone haltedBy Claims.reported hitsAt
  unfold noHalt hitsAt at h
  obtain ⟨he, hh⟩ := not_or.mp h
  simp only [Bool.not_eq_true _ ▸ he, Bool.false_eq_true, if_false]
  rw [if_pos (hits_halt.mpr hh)]

/-- R411: an instruction whose verdict is that it has written. -/
theorem Wrote.of_verdict {v : State → Verdict} {a : Nat} (hx : exec i s = .next (s.issueAny i v)) (hr : s.cur.runs = true)
    (hv : v s = t.storeDone a n) : Wrote s i t a n :=
  ⟨fun h => hx.trans (congrArg Host.Outcome.next (State.issueAny_done i hr (hv.trans (State.storeDone_reported h)))),
    fun h => hx.trans (congrArg Host.Outcome.next (State.issueAny_stay i hr (hv.trans (State.storeDone_halts h))))⟩

/-! ### Loads (R284) -/

/-- R284: a load that nothing stops reads its address. -/
theorem ldVerdict_ready {sz : BitVec 2} (h : LoadReady s sz o f a d n) (hm : (s.view d.toNat).h ≠ 50 ∨ s.ownSlice n = true) :
    ldVerdict sz o f a d s = s.load (loadDst s o a d (wide (s.view d.toNat) (2 ^ sz.toNat))) n (2 ^ sz.toNat) := by
  obtain ⟨-, hdst, hbase, hok, hoff, hint, hnear⟩ := h
  unfold ldVerdict
  refine (State.gated_two hdst hbase ?_ ?_).trans ?_
  · simp only [noTrap_cons, noTrap_nil, and_true]
    exact ⟨opTrap_none (by simp [hok]), hoff, hint, State.msgLoad_none hnear hm⟩
  · simp only [noTrap_cons, noTrap_nil, and_true]
    exact nearTrap_near hnear
  · simp only [loadBase] at hnear
    simp only [hnear]
    rfl

theorem loadCompletes : LoadCompletes := by
  intro s sz o f a d n h size q hit done
  have hdone {t : State} (hm : (s.view d.toNat).h ≠ 50 ∨ s.ownSlice n = true) (hv : s.load q n size = .done t) : done t :=
    congrArg Host.Outcome.next (State.issueAny_done _ h.runs ((ldVerdict_ready h hm).trans hv))
  refine ⟨fun e he hm => hdone hm ?_, fun hn hs hf ht hp => hdone (.inr hs) ?_, fun hn hs h54 => hdone (.inl (by omega)) ?_,
    fun hn hs h54 h50 hpf hho hhf => hdone (.inl h50) ?_, fun hn hs h54 h50 hpf hho hw => hdone (.inl h50) ?_⟩
  all_goals unfold State.load
  · rw [show (s.acquired s.cur).ra.find? _ = some e from he]
  · rw [show (s.acquired s.cur).ra.find? _ = none from hn]
    simp only [hs, hf, ht, hp, if_true, Bool.false_eq_true, if_false]
  · rw [show (s.acquired s.cur).ra.find? _ = none from hn]
    simp only [hs, show q.v.h = 54 from h54, if_true, Bool.false_eq_true, if_false]
  · rw [show (s.acquired s.cur).ra.find? _ = none from hn]
    simp only [hs, show ¬ q.v.h = 54 from h54, hpf, hho, hhf, Bool.false_eq_true, if_false, Bool.or_false]
    rfl
  · rw [show (s.acquired s.cur).ra.find? _ = none from hn]
    simp only [hs, show ¬ q.v.h = 54 from h54, hpf, hw, Bool.or_eq_true, hho, if_true, Bool.false_eq_true, if_false]
    rfl

/-! ### Stores (R285) -/

@[simp] theorem toLe_length (n : Nat) : ∀ v, (toLe n v).length = n := by
  induction n with
  | zero => exact fun _ => rfl
  | succ n ih => exact fun v => congrArg (· + 1) (ih (v / 256))

/-- R285: a store that nothing stops stores its bytes. -/
theorem stVerdict_ready {sz : BitVec 2} (h : StoreReady s (2 ^ sz.toNat) n a b f sn g) :
    stVerdict sz b a f sn g s = s.store n (storeBytes s b (2 ^ sz.toNat)) := by
  obtain ⟨-, hknown, hon, hbase, hsrc, hint, hok, hnear⟩ := h
  unfold stVerdict
  refine (State.guarded_on hknown hon).trans ?_
  unfold stOn
  refine (State.gated_two hbase hsrc ?_ ?_).trans ?_
  · simp only [noTrap_cons, noTrap_nil, and_true]
    exact ⟨hint, opTrap_none (by simp [hok])⟩
  · simp only [noTrap_cons, noTrap_nil, and_true]
    exact nearTrap_near hnear
  · simp only [plain] at hnear
    simp only [hnear]
    rfl

theorem storeBytes_length (s : State) (b : BitVec 6) (size : Nat) : (storeBytes s b size).length = size := toLe_length _ _

theorem storeCompletes : StoreCompletes := by
  intro s sz b a f sn g size
  refine ⟨fun n h hs hj hw ht => ?_, fun n h hs ho => ?_, fun hr hk hoff ha hb => ?_⟩
  · refine Wrote.of_verdict rfl h.runs ((stVerdict_ready h).trans ?_)
    unfold State.store
    simp only [storeBytes_length, hs, hj, hw, ht, Bool.or_false, if_true, Bool.false_eq_true, if_false, size]
  · refine Wrote.of_verdict rfl h.runs ((stVerdict_ready h).trans ?_)
    unfold State.store
    simp only [storeBytes_length, hs, Nat.not_le.mpr ho, Bool.false_eq_true, if_false, size]
  · exact congrArg Host.Outcome.next (State.issueAny_done _ hr
      (State.guarded_off hk hoff (List.forall_mem_cons.mpr ⟨ha, List.forall_mem_singleton.mpr hb⟩)))

/-- Settles O56: the loads and the stores by their verdicts. -/
theorem loadsAndStoresComplete : Obligations.LoadsAndStoresComplete := ⟨loadCompletes, storeCompletes⟩

/-! ### Atomics (R288 to R290) -/

/-- R288: an atomic that nothing stops exchanges its word. -/
theorem atomVerdict_ready {op : Nat} (h : AtomReady s op n b a d sn g) :
    atomVerdict op b a d sn g s = s.atomic op (plain s d true 1) (atomSrc s op b) n := by
  obtain ⟨-, hknown, hon, hdst, hbase, hsrc, hmix, hint, hok, hmsg, halign, hnear⟩ := h
  simp only [plain] at halign hnear
  unfold atomVerdict
  refine (State.guarded_on hknown hon).trans ?_
  unfold atomOn
  simp only [atomMix, hmix, Bool.false_eq_true, if_false]
  refine (State.gated_three hdst hbase hsrc ?_ ?_).trans ?_
  · simp only [noTrap_cons, noTrap_nil, and_true]
    refine ⟨hint, opTrap_none (by simp [hok]), opTrap_none (by simp [hmsg]), ?_⟩
    simp [halign, opTrap]
  · simp only [noTrap_cons, noTrap_nil, and_true]
    exact nearTrap_near hnear
  · simp only [halign, hnear, ne_eq, not_true_eq_false, if_false]
    rfl

theorem exec_atomForm {p : (BitVec 6 → BitVec 6 → BitVec 6 → Bool → BitVec 3 → Instr) × Nat} (hp : p ∈ atomForms) :
    exec (p.1 b a d sn g) s = .next (s.issueAny (p.1 b a d sn g) (atomVerdict p.2 b a d sn g)) := by
  simp only [atomForms, List.mem_cons, List.not_mem_nil, or_false] at hp
  rcases hp with rfl | rfl | rfl | rfl | rfl | rfl | rfl | rfl | rfl <;> rfl

/-- Settles O10: the exchange at the own slice, and what another slice is sent. -/
theorem atomicsComplete : Obligations.AtomicsComplete := by
  intro p hp s b a d sn g n dv w i
  refine ⟨fun h hs hj hsw hf ht hpo => ?_, fun h hs hw h54 => ?_, fun h hs hw h54 hpf => ?_, fun hr hk hoff hd ha hb => ?_⟩
  · refine Wrote.of_verdict (exec_atomForm hp) h.runs ((atomVerdict_ready h).trans ?_)
    unfold State.atomic
    simp only [show (plain s d true 1).v = dv from rfl, show dv.ty.bits / 8 = w from rfl, hs, hf, hj, hsw, ht, hpo, if_true, Bool.or_false,
      Bool.false_eq_true, if_false]
    rfl
  · refine Wrote.of_verdict (exec_atomForm hp) h.runs ((atomVerdict_ready h).trans ?_)
    unfold State.atomic
    simp only [show (plain s d true 1).v = dv from rfl, hs, hw, h54, if_true, Bool.false_eq_true, if_false]
    rfl
  · refine Wrote.of_verdict (exec_atomForm hp) h.runs ((atomVerdict_ready h).trans ?_)
    unfold State.atomic
    simp only [show (plain s d true 1).v = dv from rfl, hs, hw, h54, hpf, Bool.false_eq_true, if_false]
    rfl
  · exact (exec_atomForm hp).trans (congrArg Host.Outcome.next (State.issueAny_done _ hr (State.guarded_off hk hoff
      (List.forall_mem_cons.mpr ⟨hd, List.forall_mem_cons.mpr ⟨ha, List.forall_mem_singleton.mpr hb⟩⟩))))

end Sys2Proof.Machine
end

/-! ## Skew tiles and the exchange of an atomic (R67, R68, R286, R289) -/
section
namespace Sys2Proof.Machine
open Sys2Proof.Claims

variable {s t : State}

/-! ### The executing core stays the same -/

@[simp] theorem State.tick_curCore (s : State) (dt : Nat) : (s.tick dt).curCore = s.curCore := by
  unfold State.tick
  split <;> rfl

@[simp] theorem State.syncLaunch_curCore (s : State) (l : Launch) : (s.syncLaunch l).curCore = s.curCore := by
  unfold State.syncLaunch
  cases l.status with
  | none => rfl
  | some p => simp only [apply_ite State.curCore, State.raise, State.setStatus, State.setStatusHid, ite_self]

@[simp] theorem State.signalOn_curCore (s : State) (c : Nat) (p : Slot → Bool) : (s.signalOn c p).curCore = s.curCore := by
  unfold State.signalOn
  refine List.foldlRecOn (motive := fun t : State => t.curCore = s.curCore) _ _ rfl fun t ht k _ => ?_
  split
  · exact ht
  · exact ht

@[simp] theorem State.publish_curCore (s : State) (c entry : Nat) (write : Bool) (n : Nat) :
    (s.publish c entry write n).curCore = s.curCore :=
  State.signalOn_curCore _ _ _

@[simp] theorem State.updLaunch_curCore (s : State) (id : Nat) (f : Launch → Launch) : (s.updLaunch id f).curCore = s.curCore := by
  unfold State.updLaunch
  dsimp only
  split
  · rfl
  · exact State.syncLaunch_curCore _ _

@[simp] theorem State.release_curCore (s : State) (c k : Nat) (e : Held) : (s.release c k e).curCore = s.curCore := by
  unfold State.release
  cases e with
  | send m core r rq => dsimp only; split <;> simp
  | adv entry write n => exact State.publish_curCore _ _ _ _ _
  | _ => rfl

@[simp] theorem State.commit_curCore (s : State) (c k : Nat) : (s.commit c k).curCore = s.curCore := by
  unfold State.commit
  dsimp only
  generalize (s.slot c k).cbuf = l
  refine List.foldlRecOn (motive := fun t => t.curCore = s.curCore) l _ ?_ fun t ht e _ => (State.release_curCore t c k e).trans ht
  split <;> simp

@[simp] theorem State.journal_curCore (s : State) (es : List Jrn) : (s.journal es).curCore = s.curCore := by
  unfold State.journal
  split
  · split <;> simp
  · rfl

@[simp] theorem State.storeNear_curCore (s : State) (w : Writer) (a : Nat) (bs : List Byte) :
    (s.storeNear w a bs).curCore = s.curCore := by
  unfold State.storeNear
  split <;> rfl

@[simp] theorem State.storeOwn_curCore (s : State) (ws : List (Nat × List Byte)) : (s.storeOwn ws).curCore = s.curCore := by
  unfold State.storeOwn
  exact List.foldlRecOn (motive := fun t => t.curCore = s.curCore) ws _ (State.journal_curCore _ _) fun t ht w _ =>
    (State.storeNear_curCore t _ _ _).trans ht

/-! ### `LDS` and `STS` (R286) -/

variable {m : Bool} {o : BitVec 2} {b f a d : BitVec 6} {sn : Bool} {g : BitVec 3} {n : Nat} {cells : List Nat}

/-- R283: a near address is its base plus the offset, of a base without bits above 31. -/
theorem nearForm_some {base off size : Nat} (h : nearForm base off size = some n) : base < 2 ^ 32 ∧ n = base + off := by
  simp only [nearForm] at h
  split at h
  · cases h
  next hc => exact ⟨by omega, (Option.some.inj h).symm⟩

/-- R286: the cells behind a base operand are those at its near address. -/
theorem State.skewOf_near {base off size : Nat} (h : nearForm base off size = some n) : s.skewOf base off m = s.skewAt n m := by
  obtain ⟨hb, rfl⟩ := nearForm_some h
  rw [State.skewOf, Nat.mod_eq_of_lt hb]

/-- R286: a target in an enabled window takes no skew trap. -/
theorem skewTrap_none {q : Acc} {off : Nat} (hn : nearForm (q.nat s) off 4 = some n) (hc : s.skewAt n m = some cells) :
    skewTrap s q off m = none := by
  simp only [skewTrap, State.skewOf_near hn, hc, Option.isNone_some, opTrap, Bool.false_eq_true, if_false, Acc.early_none]

theorem lds_completes (hon : s.onCore) (hint : baseTrap (s.view a.toNat) = none) (hc : s.skewAt n m = some cells)
    (hd : (loadDst s o a d 0).ready s = true) (hb : (loadBase s o a d).ready s = true) (hok : skewOk (s.view d.toNat) = true)
    (ho : (offsets o (some (s.view a.toNat)) (some (s.view d.toNat))).bad = none)
    (hn : nearForm ((loadBase s o a d).nat s) (f.toNat * 4) 4 = some n) (hf : s.fenceOpen = false)
    (hcells : ∀ c ∈ cells, s.testing c 4 = false ∧ s.poisoned c 4 = false) :
    exec (.lds m o f a d) s = .next (s.retired (.lds m o f a d)
      ((loadDst s o a d 0).putBytes s (cells.flatMap fun c => s.bytesAt c 4))) := by
  refine congrArg Host.Outcome.next (State.issue_done _ hon ?_)
  have htest : cells.any (s.testing · 4) = false := List.any_eq_false.mpr fun c h => Bool.eq_false_iff.mp (hcells c h).1
  have hpois : cells.find? (fun c => s.poisoned c 4) = none :=
    List.find?_eq_none.mpr fun c h => Bool.eq_false_iff.mp (hcells c h).2
  unfold ldsVerdict
  refine (State.gated_two hd hb ?_ ?_).trans ?_
  · simp only [noTrap_cons, noTrap_nil, and_true]
    exact ⟨opTrap_none (by simp [hok]), ho, hint, skewTrap_none hn hc⟩
  · simp only [noTrap_cons, noTrap_nil, and_true]
    exact nearTrap_near hn
  · simp only [loadBase] at hn
    simp only [State.skewOf_near hn, hc, hn, hf, htest, hpois, Option.isNone_some, Bool.false_eq_true, if_false]
    rfl

/-- R286: an `STS` that nothing stops stores its elements. -/
theorem stsVerdict_ready (hint : baseTrap (s.view a.toNat) = none) (hc : s.skewAt n m = some cells)
    (ha : (plain s a false 1).ready s = true) (hb : (plain s b false 0).ready s = true) (hok : skewOk (s.view b.toNat) = true)
    (hg : s.cur.guardOpen g = false) (hgo : s.cur.guardOn g sn = true)
    (hn : nearForm ((plain s a false 1).nat s) (f.toNat * 4) 4 = some n) (hj : s.cur.jrnWaits 16 = false) (hw : s.scrumWaits = false)
    (ht : ∀ c ∈ cells, s.testing c 4 = false) :
    stsVerdict m b a f sn g s =
      (s.storeOwn (cells.mapIdx fun k c => (c, toLe 4 ((plain s b false 0).elem s k)))).storesDone cells 4 := by
  have htest : cells.any (s.testing · 4) = false := List.any_eq_false.mpr fun c h => Bool.eq_false_iff.mp (ht c h)
  unfold stsVerdict
  refine (State.guarded_on hg hgo).trans ?_
  unfold stsOn
  refine (State.gated_two ha hb ?_ ?_).trans ?_
  · simp only [noTrap_cons, noTrap_nil, and_true]
    exact ⟨hint, opTrap_none (by simp [hok]), skewTrap_none hn hc⟩
  · simp only [noTrap_cons, noTrap_nil, and_true]
    exact nearTrap_near hn
  · simp only [plain] at hn
    simp only [State.skewOf_near hn, hc, hn, hj, hw, htest, Option.isNone_some, Bool.or_false, Bool.false_eq_true, if_false]
    rfl

/-- R411: what a core stores whose words no watchpoint of action 1 matches, and whose words one does. -/
theorem State.storesDone_cases (he : isEngine t.curCore = false) :
    ((∀ c ∈ cells, noHalt t c 4) → t.storesDone cells 4 = .done (reportedAll t cells)) ∧
    ((∃ c ∈ cells, ¬ noHalt t c 4) → t.storesDone cells 4 = .stay (haltedBy t (reportedAll t cells))) := by
  have hhalt : ((cells.map fun c => (c, hitsAt t c 4)).any fun p => p.2.any fun h => h.2 == 1) = true ↔ ∃ c ∈ cells, ¬ noHalt t c 4 := by
    simp only [List.any_map, List.any_eq_true, Function.comp_apply, noHalt, he, Bool.false_eq_true, false_or, beq_iff_eq]
    simp
  have hdone : t.storesDone cells 4 =
      if (cells.map fun c => (c, hitsAt t c 4)).any (fun p => p.2.any fun h => h.2 == 1)
      then .stay (haltedBy t (reportedAll t cells)) else .done (reportedAll t cells) := rfl
  refine ⟨fun h => ?_, fun h => ?_⟩
  · rw [hdone, if_neg (fun hh => ?_)]
    obtain ⟨c, hm, hc⟩ := hhalt.mp hh
    exact hc (h c hm)
  · rw [hdone, if_pos (hhalt.mpr h)]

theorem skewAccesses : SkewAccesses := by
  intro s m o b f a d sn g n cells hon hint hc
  refine ⟨lds_completes hon hint hc, fun ha hb hok hg hgo hn hj hw ht => ?_⟩
  have hv := stsVerdict_ready hint hc ha hb hok hg hgo hn hj hw ht
  obtain ⟨hdone, hhalt⟩ := State.storesDone_cases (cells := cells) ((congrArg isEngine (State.storeOwn_curCore s _)).trans hon.2)
  exact ⟨fun h => congrArg Host.Outcome.next (State.issue_done _ hon (hv.trans (hdone h))),
    fun h => congrArg Host.Outcome.next (State.issue_stay _ hon (hv.trans (hhalt h)))⟩

theorem skewTilePlaces : SkewTilePlaces := by
  intro core base i j k col hi hj hk r c
  have ht : base + (128 * i + 4 * j) - base = 128 * i + 4 * j := by omega
  have hrow : (128 * i + 4 * j) / 128 = i := by omega
  have hcol : (128 * i + 4 * j) / 4 % 32 = j := by omega
  refine ⟨?_, ?_⟩
  · simp only [skewCells, Nat.add_assoc base (128 * i), ht, hrow, hcol, List.getElem?_map, List.getElem?_range hk, Option.map_some,
      nearAddr, Nat.add_assoc, r, c]
  · have hr : r < 32 := by
      simp only [r]; split <;> omega
    omega

/-- Settles O57. -/
theorem skewAccessesComplete : Obligations.SkewAccessesComplete := ⟨skewAccesses, skewTilePlaces⟩

end Sys2Proof.Machine
end

/-! ## The exchange of an atomic (R289) -/
section
namespace Sys2Proof.Machine
open Sys2Proof.Claims

/-- R94: bits that are within their width are the low bits of their value. -/
theorem wrap_intOf {signed : Bool} {w r : Nat} (h : r < 2 ^ w) : wrap w (intOf signed w r) = r := by
  rw [wrap, intOf_of_lt h]
  split
  · rw [Int.sub_emod_right, Int.emod_eq_of_lt (by omega) (by omega), Int.toNat_natCast]
  · rw [Int.emod_eq_of_lt (by omega) (by omega), Int.toNat_natCast]

/-- The number of the first n bytes of a number is its low bits. -/
theorem leNat_toLe (n : Nat) : ∀ v, leNat (toLe n v) = v % 256 ^ n := by
  induction n with
  | zero => intro v; simp [toLe, leNat, Nat.mod_one]
  | succ n ih =>
    intro v
    simp only [toLe, leNat, ih, BitVec.toNat_ofNat, Nat.pow_succ']
    exact (Nat.mod_mul).symm

/-- Consecutive bytes of memory, one by one. -/
theorem memGets_eq (m : List Host.Cell) (n : Nat) : ∀ a, memGets m a n = (List.range n).map fun k => memGet m (a + k) := by
  induction n with
  | zero => exact fun _ => rfl
  | succ n ih =>
    intro a
    rw [memGets, ih, List.range_succ_eq_map, List.map_cons, List.map_map]
    refine congrArg _ (List.map_congr_left fun k _ => ?_)
    simp only [Function.comp_apply, Nat.succ_eq_add_one]
    rw [show a + 1 + k = a + (k + 1) by omega]

/-- Bytes written read back. -/
theorem memGets_memPuts {m : List Host.Cell} (h : Memory.wf m = true) (a : Nat) (bs : List Byte) :
    memGets (memPuts m a bs) a bs.length = bs := by
  rw [memGets_eq]
  refine List.ext_getElem (by simp) fun k h1 h2 => ?_
  simp only [List.getElem_map, List.getElem_range]
  rw [memGet_memPuts_in h h2]
  simp [List.getD_eq_getElem?_getD, List.getElem?_eq_getElem h2]

/-- R292: bytes stored outside the live object blocks are in memory. -/
theorem State.storeNear_mem {s : State} {w : Writer} {a : Nat} {bs : List Byte} (h : s.touchesLive a bs.length = false) :
    (s.storeNear w a bs).mem = memPuts s.mem a bs := by
  simp only [State.storeNear, h, Bool.false_eq_true, if_false]
  rfl

/-- The types of an atomic are whole words of bytes. -/
theorem atomType_pow {ty : Ty} (h : ty ∈ [Ty.i32, .n32, .f32, .b, .i64, .n64]) : 256 ^ (ty.bits / 8) = 2 ^ ty.bits := by
  revert ty
  decide

/-- R95, R289: every other type of an atomic than `f32` is operated on as integers. -/
theorem atomType_int {ty : Ty} (h : ty ∈ [Ty.i32, .n32, .b, .i64, .n64]) : (if ty = .b then Ty.n32 else ty) ≠ .f32 := by
  revert ty
  decide

theorem atomicExchanges : AtomicExchanges := by
  intro s w op ty a b0 b1 hm hty n r old
  refine ⟨rfl, fun hl => ?_⟩
  have hmem : r.2.mem = memPuts s.mem a (toLe n (atomNew op ty old b0 b1)) :=
    State.storeNear_mem ((congrArg (s.touchesLive a) (toLe_length n _)).trans hl)
  refine ⟨?_, fun u hu => ?_⟩
  · have hget := memGets_memPuts hm a (toLe n (atomNew op ty old b0 b1))
    rw [toLe_length] at hget
    rw [State.bytesAt, hmem, hget, leNat_toLe, atomType_pow hty]
  · rw [hmem]
    exact memGet_memPuts_out hm (by simpa using hu)

/-- R95, R289: an integer operand of an atomic, `b` read as unsigned, has its own bits. -/
theorem wrap_intVal {ty : Ty} {v : Nat} (hv : v < 2 ^ ty.bits) :
    wrap ty.bits ((if ty = .b then Ty.n32 else ty).intVal v) = v := by
  by_cases h : ty = .b
  · subst h; exact wrap_intOf hv
  · rw [if_neg h]; exact wrap_intOf hv

theorem atomicOperations : AtomicOperations := by
  refine ⟨fun old b0 b1 => ⟨rfl, rfl, rfl, rfl, rfl⟩, ?_⟩
  intro ty old b0 b1 hty hold hb0 t
  have ht : t ≠ .f32 := atomType_int hty
  have ho : wrap ty.bits (t.intVal old) = old := wrap_intVal hold
  have hb : wrap ty.bits (t.intVal b0) = b0 := wrap_intVal hb0
  refine ⟨if_neg ht, (if_neg ht).trans ?_, (if_neg ht).trans ?_, rfl, rfl, rfl, rfl, rfl, ?_⟩
  · rw [min_def, apply_ite (wrap ty.bits), ho, hb]
  · rw [max_comm, max_def, apply_ite (wrap ty.bits), ho, hb]
  · change (if b0 ≤ old then 0 else (old + 1) % 2 ^ ty.bits) = _
    split
    · rfl
    · exact Nat.mod_eq_of_lt (by omega)

/-- Settles O58. -/
theorem atomicsExchange : Obligations.AtomicsExchange := ⟨atomicExchanges, atomicOperations⟩

end Sys2Proof.Machine
end

/-! ## What a branch leaves unchanged (R219, R240 to R242, R251) -/
section
namespace Sys2Proof.Machine
open Sys2Proof.Claims

variable {s t u : State}

/-- What a branch, linking or not, or an instruction that only goes on leaves as it was. -/
structure GoesOn (links : Bool) (s t : State) : Prop where
  kept   : Kept s t
  mem    : t.mem = s.mem
  parity : t.parity = s.parity
  bare   : bare t.cur = bare s.cur
  lnk    : links = false → t.cur.lnk = s.cur.lnk

theorem GoesOn.refl (links : Bool) (s : State) : GoesOn links s s := ⟨Kept.refl s, rfl, rfl, rfl, fun _ => rfl⟩

theorem GoesOn.trans {links : Bool} (h : GoesOn links s t) (k : GoesOn links t u) : GoesOn links s u :=
  ⟨h.kept.trans k.kept, k.mem.trans h.mem, k.parity.trans h.parity, k.bare.trans h.bare, fun hl => (k.lnk hl).trans (h.lnk hl)⟩

/-- A slot's context is in its frame. -/
theorem bare_ctx {x y : Slot} (h : bare x = bare y) : x.ctx = y.ctx := (congrArg Slot.ctx h : (bare x).ctx = (bare y).ctx)

theorem State.link_goesOn (s : State) : GoesOn true s s.link :=
  ⟨Kept.updCur s _, rfl, rfl, by rw [State.link, State.cur_updCur]; rfl, fun h => by cases h⟩

@[simp] theorem State.count_parity (s : State) (c ev : Nat) : (s.count c ev).parity = s.parity := by
  unfold State.count
  split <;> rfl

theorem State.count_goesOn (links : Bool) (s : State) (ev : Nat) : GoesOn links s (s.count s.curCore ev) :=
  ⟨State.count_kept s ev, State.count_mem s _ _, State.count_parity s _ _, congrArg Claims.bare (State.count_cur s _ _),
    fun _ => congrArg Slot.lnk (State.count_cur s _ _)⟩

/-- R246: what a branch changes of the run-ahead buffer: its entries, and the branches it runs ahead of. -/
theorem Slot.branched_eq (x : Slot) (likely : Bool) : ∃ o r, x.branched likely = { x with opened := o, ra := r } := by
  unfold Slot.branched
  split
  · split
    · split
      · exact ⟨_, _, rfl⟩
      · exact ⟨x.opened, x.ra, rfl⟩
    · exact ⟨x.opened, x.ra, rfl⟩
  · exact ⟨_, _, rfl⟩

theorem State.branchDone_goesOn (links : Bool) (s : State) (likely : Bool) : GoesOn links s (s.branchDone likely) := by
  have hupd (u : State) : GoesOn links u (u.updCur (·.branched likely)) := by
    obtain ⟨o, r, hb⟩ := Slot.branched_eq u.cur likely
    have hc : (u.updCur (·.branched likely)).cur = { u.cur with opened := o, ra := r } := (State.cur_updCur u _).trans hb
    exact ⟨Kept.updCur u _, rfl, rfl, (congrArg Claims.bare hc :), fun _ => (congrArg Slot.lnk hc :)⟩
  unfold State.branchDone
  split
  · exact hupd s
  · exact (State.count_goesOn links s 5).trans (hupd _)

/-- R404: where branches are not traced nothing is recorded of one. -/
theorem State.traceBranch_off {c k target kind : Nat} (h : bits (s.ctx (s.slot c k).ctx).trace.toNat 30 1 = 0) :
    s.traceBranch c k target kind = s := if_neg (by rw [h]; decide)

/-- R404: an effect that goes on leaves its context's branches as untraced as they were. -/
theorem GoesOn.untraced {links : Bool} {target kind : Nat} (h : GoesOn links s t)
    (hu : bits (s.ctx s.cur.ctx).trace.toNat 30 1 = 0) : t.traceBranch s.curCore s.curSlot target kind = t := by
  refine State.traceBranch_off ?_
  have hctxs : t.ctxs = s.ctxs := (congrArg State.ctxs h.kept.device :)
  have hcur : (t.slot s.curCore s.curSlot).ctx = s.cur.ctx := by
    rw [← h.kept.curCore, ← h.kept.curSlot]
    exact bare_ctx h.bare
  rw [hcur, State.ctx, hctxs]
  exact hu

theorem Slot.retires_bare {x y : Slot} (h : x.retires y) : bare y = bare x ∧ y.lnk = x.lnk :=
  ⟨congrArg (fun z : Slot => { z with lnk := 0, gen := 0, opened := [], ra := [] }) h, (congrArg Slot.lnk h :)⟩

@[simp] theorem State.retire_parity (s : State) (len : Nat) : (s.retire len).parity = s.parity := by
  unfold State.retire
  dsimp only
  split
  · split <;> rfl
  · rfl

theorem GoesOn.retired {links : Bool} (i : Instr) (h : GoesOn links s t) : GoesOn links s (s.retired i t) := by
  obtain ⟨hb, hl⟩ := Slot.retires_bare (State.retired_cur s i t)
  refine ⟨State.retired_kept i h.kept, (State.retired_mem s i t).trans h.mem, ?_, hb.trans h.bare, fun hn => hl.trans (h.lnk hn)⟩
  rw [State.retired, State.retire_parity, State.count_parity]
  exact h.parity

theorem GoesOn.jumped {links : Bool} (pc : Nat) (h : GoesOn links s t) : GoesOn links s (s.jumped pc t) := by
  obtain ⟨hb, hl⟩ := Slot.retires_bare (State.jumped_cur s pc t)
  refine ⟨State.jumped_kept pc h.kept, (State.jumped_mem s pc t).trans h.mem, ?_, hb.trans h.bare, fun hn => hl.trans (h.lnk hn)⟩
  exact (State.count_parity _ _ _).trans h.parity

/-- R242: control that may go where it goes, behind an effect that goes on. -/
theorem State.transfer_goesOn {links : Bool} {target : Int} {kind : Nat} {after : State → State} {i : Instr} {v : State → Verdict}
    (hr : s.cur.runs = true) (hu : bits (s.ctx s.cur.ctx).trace.toNat 30 1 = 0) (hgo : canGo s target)
    (ha : GoesOn links s (after s)) (hv : v s = s.transfer target kind after) : GoesOn links s (s.issueAny i v) := by
  have hj := State.issueAny_jump i hr (hv.trans (State.transfer_of_canGo hgo))
  rw [ha.untraced hu] at hj
  rw [hj]
  exact ha.jumped _

/-- R240: a branch whose guard is resolved. -/
theorem State.branch_goesOn {f : BitVec 20} {k n links : Bool} {g : BitVec 3} {i : Instr} (hr : s.cur.runs = true)
    (hu : bits (s.ctx s.cur.ctx).trace.toNat 30 1 = 0) (ho : s.cur.guardOpen g = false)
    (hgo : s.cur.guardOn g n = true → canGo s (s.cur.pc.toNat + f.toInt)) :
    GoesOn links s (s.issueAny i (brVerdict f k n g links)) := by
  cases hg : s.cur.guardOn g n with
  | true =>
    refine State.transfer_goesOn (after := fun t => (if links then t.link else t).branchDone (k || (g == 7 && !n))) hr hu (hgo hg)
      ?_ (by simp only [brVerdict, ho, hg, Bool.false_eq_true, if_false, if_true]; rfl)
    cases links with
    | true => exact s.link_goesOn.trans (State.branchDone_goesOn true _ _)
    | false => exact State.branchDone_goesOn false s _
  | false =>
    rw [State.issueAny_done i hr (brVerdict_fallsThrough ho hg)]
    exact (State.branchDone_goesOn links s _).retired i

/-- R241: a jump through a ready operand. -/
theorem State.jump_goesOn {o : BitVec 2} {a : BitVec 6} {links : Bool} {i : Instr} (hr : s.cur.runs = true)
    (hu : bits (s.ctx s.cur.ctx).trace.toNat 30 1 = 0) (hq : (loneSrc s o a 1).ready s = true) (hi : idxOk (s.view a.toNat) = true)
    (hb : (offsets o (some (s.view a.toNat)) none).bad = none) (hgo : canGo s ((loneSrc s o a 1).int s)) :
    GoesOn links s (s.issueAny i (jrVerdict o a links)) := by
  refine State.transfer_goesOn (after := fun t => if links then t.link else t) (kind := if links then 4 else 3) hr hu hgo ?_
    ((jrVerdict_goes hq hi hb hgo).trans (State.transfer_of_canGo hgo).symm)
  cases links with
  | true => exact s.link_goesOn
  | false => exact GoesOn.refl false s

/-- Settles O37: each instruction by what its own effect leaves, and what retiring or jumping leaves. -/
theorem controlFrame : Obligations.ControlFrame := by
  intro s t i hr hgo hu ht
  have hframe {links : Bool} {u : State} (h : GoesOn links s u) (hx : exec i s = .next u)
      (hl : links = true → (∃ f k n g, i = .brl f k n g) ∨ ∃ o a, i = .jrl o a) :
      Kept s t ∧ t.mem = s.mem ∧ t.parity = s.parity ∧ bare t.cur = bare s.cur ∧
      ((∀ f k n g, i ≠ .brl f k n g) → (∀ o a, i ≠ .jrl o a) → t.cur.lnk = s.cur.lnk) := by
    obtain rfl : u = t := Host.Outcome.next.inj (hx.symm.trans ht)
    refine ⟨h.kept, h.mem, h.parity, h.bare, fun h1 h2 => h.lnk (Bool.eq_false_iff.mpr fun hlt => ?_)⟩
    rcases hl hlt with ⟨f, k, n, g, rfl⟩ | ⟨o, a, rfl⟩
    · exact h1 f k n g rfl
    · exact h2 o a rfl
  cases i with
  | br f k n g =>
    exact hframe (links := false) (State.branch_goesOn hr hu hgo.1 hgo.2) rfl (fun h => by cases h)
  | brl f k n g =>
    exact hframe (links := true) (State.branch_goesOn hr hu hgo.1 hgo.2) rfl (fun _ => .inl ⟨f, k, n, g, rfl⟩)
  | jr o a =>
    obtain ⟨hq, hi, hb, hc⟩ := hgo
    exact hframe (links := false) (State.jump_goesOn hr hu hq hi hb hc) rfl (fun h => by cases h)
  | jrl o a =>
    obtain ⟨hq, hi, hb, hc⟩ := hgo
    exact hframe (links := true) (State.jump_goesOn hr hu hq hi hb hc) rfl (fun _ => .inr ⟨o, a, rfl⟩)
  | ret =>
    exact hframe (links := false) (State.transfer_goesOn (after := fun u => u) hr hu hgo (GoesOn.refl false s) rfl) rfl
      (fun h => by cases h)
  | nop =>
    refine hframe (links := false) ((GoesOn.refl false s).retired .nop) ?_ (fun h => by cases h)
    exact congrArg Host.Outcome.next (State.issueAny_done _ hr rfl)
  | nopH h x =>
    refine hframe (links := false) ((GoesOn.refl false s).retired (.nopH h x)) ?_ (fun h => by cases h)
    exact congrArg Host.Outcome.next (State.issueAny_done _ hr rfl)
  | _ => exact hgo.elim

end Sys2Proof.Machine
end

/-! ## `mx.stat` (R132, R275) -/
section
namespace Sys2Proof.Machine
open Sys2Proof.Claims

/-- R132: each field of `mx.stat` reads back from the word that its fields make. -/
theorem stat_fields {fmt kt sform epoch team shadow ovf : Nat} (hf : fmt < 16) (hk : kt < 256) (hs : sform < 4) (he : epoch < 16)
    (ht : team < 2) (hsh : shadow < 2) (ho : ovf < 2) :
    let w := fmt * 2 ^ 20 + kt * 2 ^ 12 + sform * 2 ^ 10 + epoch * 2 ^ 4 + team * 2 ^ 9 + shadow * 2 ^ 8 + ovf
    bits w 24 8 = 0 ∧ bits w 1 3 = 0 ∧ bits w 8 1 = shadow ∧ bits w 0 1 = ovf ∧ bits w 9 1 = team ∧ bits w 20 4 = fmt ∧
      bits w 12 8 = kt ∧ bits w 10 2 = sform ∧ bits w 4 4 = epoch := by
  simp only [bits]
  refine ⟨?_, ?_, ?_, ?_, ?_, ?_, ?_, ?_, ?_⟩ <;> omega

/-- A flag bit of `mx.stat`. -/
def flag (p : Bool) : Nat := if p then 1 else 0

theorem flag_lt (p : Bool) : flag p < 2 := by cases p <;> decide

theorem flag_eq_one (p : Bool) : flag p = 1 ↔ p = true := by cases p <;> decide

theorem ite_flag (p : Bool) (n : Nat) : (if p then n else 0) = flag p * n := by cases p <;> simp [flag]

/-- R132: `mx.stat` without an active tile. -/
theorem Core.mxStat_none {x : Core} (h : x.arr.tile = none) : x.mxStat =
    15 * 2 ^ 20 + 0 * 2 ^ 12 + 0 * 2 ^ 10 + 0 * 2 ^ 4 + flag x.teamOn * 2 ^ 9 + flag x.arr.shadow.isSome * 2 ^ 8 + flag x.arr.ovf := by
  simp only [Core.mxStat, h, ite_flag, mul_one, zero_mul, add_zero]

/-- R132: `mx.stat` with an active tile. -/
theorem Core.mxStat_some {x : Core} {t : Tile} (h : x.arr.tile = some t) : x.mxStat =
    t.fmt * 2 ^ 20 + (t.kt - 1) * 2 ^ 12 + t.sform * 2 ^ 10 + t.epoch.toNat * 2 ^ 4 + flag x.teamOn * 2 ^ 9
      + flag x.arr.shadow.isSome * 2 ^ 8 + flag x.arr.ovf := by
  simp only [Core.mxStat, h, ite_flag, mul_one]

/-- Settles O40: the fields of the word, the write of `ovf`, and `MSTA`. -/
theorem matrixStatus : Obligations.MatrixStatus := by
  refine ⟨fun x hx => ?_, fun s c k v => rfl, fun s t d h hd hty => ?_⟩
  · have h8 := flag_eq_one x.arr.shadow.isSome
    have h0 := flag_eq_one x.arr.ovf
    have h9 := flag_eq_one x.teamOn
    cases ht : x.arr.tile with
    | none =>
      dsimp only
      rw [Core.mxStat_none ht]
      obtain ⟨b1, b2, b3, b4, b5, b6, b7, b8, b9⟩ := stat_fields (fmt := 15) (kt := 0) (sform := 0) (epoch := 0) (by omega) (by omega)
        (by omega) (by omega) (flag_lt x.teamOn) (flag_lt x.arr.shadow.isSome) (flag_lt x.arr.ovf)
      exact ⟨b1, b2, by rw [b3, h8], by rw [b4, h0], by rw [b5, h9], fun _ => ⟨b6, b7, b8, b9⟩, nofun⟩
    | some t =>
      dsimp only
      obtain ⟨hf, hk1, hk, hs⟩ := hx t ht
      rw [Core.mxStat_some ht]
      obtain ⟨b1, b2, b3, b4, b5, b6, b7, b8, b9⟩ := stat_fields (kt := t.kt - 1) hf (by omega) hs t.epoch.isLt (flag_lt x.teamOn)
        (flag_lt x.arr.shadow.isSome) (flag_lt x.arr.ovf)
      refine ⟨b1, b2, by rw [b3, h8], by rw [b4, h0], by rw [b5, h9], nofun, fun u h => ?_⟩
      obtain rfl := Option.some.inj h
      exact ⟨b6, b7, b8, b9⟩
  · refine congrArg Host.Outcome.next (State.issueMatrix_done h ?_)
    unfold mstaVerdict
    exact State.gated_one hd (by simp [hty, opTrap]) noTrap_nil

end Sys2Proof.Machine
end

/-! ## Views and ring advances (R59, R61, R63, R266 to R269) -/
section
namespace Sys2Proof.Machine
open Sys2Proof.Claims

variable {s : State}

theorem viewCompletes : ViewCompletes := by
  intro s b a d hon dv av bv base hdf haf hdp hap hb hq h0 h1 hpend
  refine congrArg Host.Outcome.next (State.issue_done _ hon ?_)
  have hbOk : (bv.h == 54 || (!bv.fixed && bv.shape == 0 && !bv.ring && idxOk bv)) = true := by
    rcases hb with hb | ⟨hf, hs, hr, hi⟩
    · simp [hb]
    · simp [hf, hs, hr, hi]
  have hrange : ¬ (base < 0 ∨ 0x7FFF < base) := by omega
  unfold viewVerdict
  refine (State.gated_one hq ?_ noTrap_nil).trans ?_
  · simp only [noTrap_cons, noTrap_nil, and_true]
    exact ⟨oTrap_zero, opTrap_none hdf, opTrap_none haf, opTrap_none (by rw [Bool.not_eq_false']; exact hbOk), opTrap_none hdp,
      opTrap_none hap⟩
  · exact (if_neg hrange).trans (if_neg (Bool.eq_false_iff.mp hpend))

/-- R267: the fill of a handle with a valid descriptor, written. -/
theorem rfilVerdict_fill {a d : BitVec 6} {n : Nat} (hn : s.fillOf (s.view a.toNat) = some n)
    (hinv : (plain s a false 1).invalid s = false) (hf : (s.view d.toNat).ty.isFloat = false) (hr : (s.view d.toNat).ring = false)
    (hs : (s.view d.toNat).shape < 2) (hq : (plain s d true 1).ready s = true) :
    rfilVerdict 0 a d s = .done ((plain s d true 1).putRaw s ((s.view d.toNat).ty.fit (s.view d.toNat).sat (n : Int))) := by
  have hgate : s.gate [plain s d true 1] [] [oTrap 0, opTrap (s.view d.toNat).h ((s.view d.toNat).ty.isFloat || (s.view d.toNat).ring
      || decide (2 ≤ (s.view d.toNat).shape)), opTrap (s.view a.toNat).h (s.fillOf (s.view a.toNat)).isNone] [] = none := by
    refine State.gate_none (by simpa using hq) ?_ noTrap_nil
    simp only [noTrap_cons, noTrap_nil, and_true]
    exact ⟨oTrap_zero, opTrap_none (by simp [hf, hr, hs]), opTrap_none (by simp [hn])⟩
  simp only [plain] at hgate hinv ⊢
  unfold rfilVerdict
  dsimp only
  rw [hgate]
  simp only [hinv, hn, Bool.false_eq_true, if_false, Option.getD_none, Option.getD_some]

theorem descriptorMovesComplete : DescriptorMovesComplete := by
  intro s a d hon dv av
  refine ⟨fun hd ha h16 hq => ?_, fun hd ha h16 hp hq hpend => ?_, fun n hn hinv hf hr hs hq => ?_⟩
  · refine congrArg Host.Outcome.next (State.issue_done _ hon ?_)
    unfold vgetVerdict
    refine State.gated_one hq ?_ noTrap_nil
    simp only [noTrap_cons, noTrap_nil, and_true]
    exact ⟨oTrap_zero, opTrap_none hd, opTrap_none ha, opTrap_none (by rw [Bool.not_eq_false']; exact h16)⟩
  · refine congrArg Host.Outcome.next (State.issue_done _ hon ?_)
    unfold vsetVerdict
    refine (State.gated_one hq ?_ noTrap_nil).trans (if_neg (Bool.eq_false_iff.mp hpend))
    simp only [noTrap_cons, noTrap_nil, and_true]
    exact ⟨oTrap_zero, opTrap_none hd, opTrap_none ha, opTrap_none (by rw [Bool.not_eq_false']; exact h16), opTrap_none hp⟩
  · exact congrArg Host.Outcome.next (State.issue_done _ hon (rfilVerdict_fill hn hinv hf hr hs hq))

/-- R269: only the read side of a message advances. -/
theorem advTrap_message {v : View} {n : Nat} (h : v.h = 48 ∨ v.h = 49) : advTrap v true n ≠ none := by
  have hf : v.fixed = true := by
    rcases h with h | h <;> simp [View.fixed, h]
  simp [advTrap, hf, opTrap]

/-- R63, R269: a message that is there, with words enough, advances. -/
theorem advMsg_ready {v : View} {n left : Nat} {there : Bool} (ht : there = true) (hn : n ≤ left) :
    advMsg v n left there s = .done (s.advanceRead v n) := by
  have hlt : ¬ left < n := by omega
  simp only [advMsg, hlt, ht, if_false, decide_false, Bool.not_true, Bool.or_false, Bool.false_eq_true, ite_self]

/-- R59, R63, R269: an advance that nothing stops moves its ring. -/
theorem advVerdict_ready {n : BitVec 13} {d : BitVec 6} {write : Bool} (h : AdvanceReady s (s.view d.toNat) write n.toNat) :
    advVerdict n d write s =
      .done (if write then s.advance (s.view d.toNat) true n.toNat else s.advanceRead (s.view d.toNat) n.toNat) := by
  obtain ⟨-, hvalid, htrap, hreq, hrpl, hslots, hroom⟩ := h
  unfold advVerdict
  dsimp only
  generalize s.view d.toNat = v at *
  have hinv : (!v.fixed && !v.valid (s.win v.core v.slot).2) = false := by
    rcases hvalid with hv | hv <;> simp [hv]
  have hnot : opTrap v.h (v.h == 48 && !s.cur.hasReq) = none := by
    refine opTrap_none ?_
    by_cases h48 : v.h = 48
    · simp [hreq h48]
    · simp [h48]
  have hfirst : firstTrap [if !v.fixed && !v.valid (s.win v.core v.slot).2 then some { code := 2, handle := v.h } else none,
      advTrap v write n.toNat, opTrap v.h (v.h == 48 && !s.cur.hasReq)] = none := by
    simp only [hinv, htrap, hnot, Bool.false_eq_true, if_false]
    rfl
  have hroom' : (s.cur.holdWaits && v.entry.isSome) = false := by
    cases he : v.entry.isSome with
    | true => simp [hroom he]
    | false => simp
  rw [hfirst]
  dsimp only
  by_cases hmsg : v.h = 48 ∨ v.h = 49
  · cases write with
    | true => exact absurd htrap (advTrap_message hmsg)
    | false =>
      have hthere : (v.h == 48 || !s.cur.rpl.isEmpty) = true := by
        rcases hmsg with h | h
        · simp [h]
        · simp [hrpl h]
      rw [if_pos hmsg]
      exact advMsg_ready hthere hslots
  · rw [if_neg hmsg, if_neg (by omega), hroom']
    cases write <;> rfl

theorem advanceCompletes : AdvanceCompletes := by
  intro s n d v
  exact ⟨fun h => congrArg Host.Outcome.next (State.issue_done _ h.core (advVerdict_ready h)),
    fun h => congrArg Host.Outcome.next (State.issue_done _ h.core (advVerdict_ready h))⟩

/-- Settles O43. -/
theorem viewsAndAdvancesComplete : Obligations.ViewsAndAdvancesComplete :=
  ⟨viewCompletes, descriptorMovesComplete, advanceCompletes⟩

end Sys2Proof.Machine
end

/-! ## Lane movements, reductions and dot products (R110, R261 to R263) -/
section
namespace Sys2Proof.Machine
open Sys2Proof.Claims

variable {s : State}

/-! ### Movements -/

theorem exec_moveForm {i : Instr} {o : BitVec 2} {b a d : BitVec 6} {m : Move} (h : moveForm i = some (o, b, a, d, m)) :
    exec i s = .next (s.issue i (moveLanes o b a d m)) := by
  cases i
  case bcst | perm | shfl | slide | zip | unzp | cmpr | expd =>
    cases Option.some.inj h
    rfl
  all_goals cases h

/-- R262: a movement without an index operand has no limit on its value. -/
theorem moveForm_okB {i : Instr} {o : BitVec 2} {b a d : BitVec 6} {m : Move} (h : moveForm i = some (o, b, a, d, m))
    (hb : m.useB = false) (l : List Int) : m.okB l = true := by
  cases i
  case bcst | cmpr | expd =>
    cases Option.some.inj h
    rfl
  case perm | shfl | slide | zip | unzp =>
    cases Option.some.inj h
    cases hb
  all_goals cases h

theorem laneMovementCompletes : LaneMovementCompletes := by
  intro s i o b a d m hm hon haccs hmism hopnd hidx houts
  refine (exec_moveForm hm).trans (congrArg Host.Outcome.next (State.issue_done _ hon ?_))
  have hok : m.okB (moveIdx b m s) = true := by
    cases hb : m.useB with
    | true => exact hidx hb
    | false => exact moveForm_okB hm hb _
  unfold moveLanes
  rw [hmism, State.gated_ready haccs hopnd noTrap_nil, hok, finishLanes_laneBits houts]
  rfl

theorem mvPick_range {α : Type} {n j : Nat} (f : Nat → α) (hj : j < n) : ((List.range n).map f)[j]? = some (f j) := by
  rw [List.getElem?_map, List.getElem?_range hj, Option.map_some]

/-- R262: `EXPD` takes the next element where the mask holds. -/
theorem expand_getElem? (m : List Bool) : ∀ (a : List Elem) (j : Nat), j < m.length →
    (expand m a)[j]? = some (if m.getD j false then a[((m.take j).filter id).length]? else none) := by
  induction m with
  | nil => intro a j hj; simp at hj
  | cons p m ih =>
    intro a j hj
    cases j with
    | zero => cases p <;> simp [expand, List.head?_eq_getElem?]
    | succ j =>
      have hj' : j < m.length := by simpa using hj
      cases p with
      | false => simpa [expand] using ih a j hj'
      | true => simpa [expand, Nat.add_comm] using ih (a.drop 1) j hj'

theorem laneMovementPicks : LaneMovementPicks := by
  intro n j a b x m hj
  refine ⟨?_, mvPick_range _ hj, mvPick_range _ hj, mvPick_range _ hj, mvPick_range _ hj, mvPick_range _ hj, mvPick_range _ hj,
    fun hm => expand_getElem? m a j hm⟩
  exact List.getElem?_replicate_of_lt hj

/-! ### Reductions -/

theorem exec_reduceForm {i : Instr} {o : BitVec 2} {b a d : BitVec 6} {m : Reduce} (h : reduceForm i = some (o, b, a, d, m)) :
    exec i s = .next (s.issue i (reduceLanes o b a d m)) := by
  cases i
  case redadd | redmax | redmin | scan | dot4 | dot2 =>
    cases Option.some.inj h
    rfl
  all_goals cases h

theorem reductionCompletes : ReductionCompletes := by
  intro s i o b a d m hm hon haccs hmism hopnd
  refine (exec_reduceForm hm).trans (congrArg Host.Outcome.next (State.issue_done _ hon ?_))
  unfold reduceLanes
  rw [hmism, State.gated_ready haccs hopnd noTrap_nil]

theorem sumInt_eq_sum (l : List Int) : sumInt l = l.sum := by
  rw [sumInt, List.sum_eq_foldl]

/-- The greatest of a list, folded. -/
theorem foldl_max_greatest (l : List Int) : ∀ x, l.foldl max x ∈ x :: l ∧ ∀ w ∈ x :: l, w ≤ l.foldl max x := by
  induction l with
  | nil => intro x; simp
  | cons y l ih =>
    intro x
    obtain ⟨hmem, hle⟩ := ih (max x y)
    have hmax := hle _ (List.mem_cons_self)
    refine ⟨?_, fun w hw => ?_⟩
    · rcases List.mem_cons.mp hmem with h | h
      · rw [List.foldl_cons, h]
        rcases max_choice x y with e | e <;> simp [e]
      · exact List.mem_cons_of_mem _ (List.mem_cons_of_mem _ h)
    · rcases List.mem_cons.mp hw with rfl | hw
      · exact (le_max_left _ _).trans hmax
      · rcases List.mem_cons.mp hw with rfl | hw
        · exact (le_max_right _ _).trans hmax
        · exact hle w (List.mem_cons_of_mem _ hw)

/-- The least of a list, folded. -/
theorem foldl_min_least (l : List Int) : ∀ x, l.foldl min x ∈ x :: l ∧ ∀ w ∈ x :: l, l.foldl min x ≤ w := by
  induction l with
  | nil => intro x; simp
  | cons y l ih =>
    intro x
    obtain ⟨hmem, hle⟩ := ih (min x y)
    have hmin := hle _ (List.mem_cons_self)
    refine ⟨?_, fun w hw => ?_⟩
    · rcases List.mem_cons.mp hmem with h | h
      · rw [List.foldl_cons, h]
        rcases min_choice x y with e | e <;> simp [e]
      · exact List.mem_cons_of_mem _ (List.mem_cons_of_mem _ h)
    · rcases List.mem_cons.mp hw with rfl | hw
      · exact hmin.trans (min_le_left _ _)
      · rcases List.mem_cons.mp hw with rfl | hw
        · exact hmin.trans (min_le_right _ _)
        · exact hle w (List.mem_cons_of_mem _ hw)

/-- R110: each lane of `SCAN` has the sum of the elements up to it. -/
theorem intSums_eq (op : Ty) (sat : Bool) (l : List Int) : ∀ acc,
    intSums op sat acc l = (List.range l.length).map fun j => op.fit sat (acc + prefixSum l (j + 1)) := by
  induction l with
  | nil => exact fun _ => rfl
  | cons x l ih =>
    intro acc
    rw [intSums, ih, List.length_cons, List.range_succ_eq_map, List.map_cons, List.map_map]
    simp [prefixSum, Function.comp_def, Int.add_assoc]

/-- The products of the first k elements of two lists, those that both have. -/
theorem sum_zip_take (k : Nat) : ∀ a b : List Int, (((a.take k).zip (b.take k)).map fun p => p.1 * p.2).sum =
    ((List.range k).map fun j => if j < a.length ∧ j < b.length then a.getD j 0 * b.getD j 0 else 0).sum := by
  induction k with
  | zero => intro a b; simp
  | succ k ih =>
    intro a b
    cases a with
    | nil => simp
    | cons x a =>
      cases b with
      | nil => simp
      | cons y b =>
        rw [List.range_succ_eq_map, List.map_cons, List.map_map, List.sum_cons]
        simpa [Function.comp_def] using ih a b

/-- R263: the products that a lane of a dot product adds. -/
theorem sumInt_dotTerms (k i : Nat) (a b : List Int) : sumInt (dotTerms k i (· * ·) a b) = dotSum k a b i := by
  rw [sumInt_eq_sum, dotTerms, sum_zip_take, dotSum]
  refine congrArg List.sum (List.map_congr_left fun j _ => ?_)
  simp only [List.length_drop, List.getD_eq_getElem?_getD, List.getElem?_drop]
  refine if_congr ?_ rfl rfl
  omega

theorem integerReductions : IntegerReductions := by
  intro op sat n a b d
  refine ⟨?_, fun x hx => ?_, ?_, fun k => ?_⟩
  · exact congrArg (fun v => [op.fit sat v]) (sumInt_eq_sum a)
  · cases a with
    | nil => cases hx
    | cons h l =>
      obtain ⟨hmax, hle⟩ := foldl_max_greatest l h
      obtain ⟨hmin, hge⟩ := foldl_min_least l h
      exact ⟨l.foldl max h, l.foldl min h, rfl, rfl, hmax, hmin, fun w hw => ⟨hge w hw, hle w hw⟩, hge x hx, hle x hx⟩
  · refine (intSums_eq op sat a 0).trans (List.map_congr_left fun j _ => ?_)
    rw [Int.zero_add]
  · exact List.map_congr_left fun j _ => congrArg (fun v => op.fit sat (d.getD j 0 + v)) (sumInt_dotTerms k j a b)

/-- Settles O42. -/
theorem lanesAndReductions : Obligations.LanesAndReductions :=
  ⟨laneMovementCompletes, reductionCompletes, laneMovementPicks, integerReductions⟩

end Sys2Proof.Machine
end

/-! ## Repetitions (R270 to R274) -/
section
namespace Sys2Proof.Machine
open Sys2Proof.Claims

variable {s : State}

theorem State.bodyTrap_none {count : Nat} {stag : Int} {start after : Nat} {b : Capture} (hbad : b.bad = false) (hpast : b.past = false)
    (hs : staggerBad count stag b.body = none) (hone : s.cur.scrum = none ∨ s.bodyOneBlock start after = true) :
    s.bodyTrap count stag start after b = none := by
  have hscrum : (s.cur.scrum.isSome && !s.bodyOneBlock start after) = false := by
    rcases hone with h | h <;> simp [h]
  simp only [State.bodyTrap, hbad, hpast, hs, hscrum, Option.map_none, Bool.false_eq_true, if_false]
  rfl

theorem repeatCaptures : RepeatCaptures := by
  intro s stag c n hon start got after
  refine ⟨fun hr hb hp hs hone => ?_, fun at_ hr => ?_⟩
  · refine congrArg Host.Outcome.next (State.issue_stay _ hon ?_)
    have ht := State.bodyTrap_none (s := s) hb hp hs hone
    simp only [repbVerdict, show s.capture (n.toNat + 1) ((s.cur.pc.toNat + 2) % 2 ^ 24) = got from rfl]
    rw [hr, ht]
  · refine congrArg Host.Outcome.next (State.issue_stay _ hon ?_)
    simp only [repbVerdict, show s.capture (n.toNat + 1) ((s.cur.pc.toNat + 2) % 2 ^ 24) = got from rfl]
    rw [hr]

theorem repeatAgain : RepeatAgain := by
  intro s r hon hr
  refine congrArg Host.Outcome.next (State.issue_stay _ hon ?_)
  simp only [repxVerdict, hr] <;> rfl

/-- Reading a landed token leaves the repetition and the code address as they are. -/
theorem State.acquired_rep (s : State) (x : Slot) : (s.acquired x).rep = x.rep := by
  unfold State.acquired
  split
  · rfl
  · split
    · rfl
    · split <;> rfl

/-- R420: what the end of a block changes of the slot: its block and the checks that wait. -/
theorem Slot.atBlock_eq (s : State) (x : Slot) (pc : Nat) (jumped : Bool) :
    ∃ b c l, x.atBlock s pc jumped = { x with blk := b, bcore := c, checks := l } := by
  unfold Slot.atBlock
  dsimp only
  split
  · split
    · exact ⟨_, _, x.checks, rfl⟩
    · exact ⟨x.blk, x.bcore, x.checks, rfl⟩
  · split
    all_goals
      split
      · exact ⟨_, _, _, rfl⟩
      · exact ⟨x.blk, x.bcore, x.checks, rfl⟩

/-- What a block's end leaves of the repetition and the code address. -/
theorem Slot.atBlock_rep (s : State) (x : Slot) (pc : Nat) (jumped : Bool) :
    (x.atBlock s pc jumped).rep = x.rep ∧ (x.atBlock s pc jumped).pc = x.pc := by
  obtain ⟨b, c, l, h⟩ := Slot.atBlock_eq s x pc jumped
  rw [h]
  exact ⟨rfl, rfl⟩

/-- R272: how a running repetition goes on when an instruction retires. -/
theorem State.retire_active {r : Rep} {len : Nat} (hr : s.cur.rep = some r) (ha : r.active = true) :
    ∃ x : Slot, (s.retire len).cur.rep = (x.nextPass r).rep ∧
      ((x.nextPass r).rep.any (fun q => q.active) = false → (s.retire len).cur.pc = (x.nextPass r).pc) := by
  refine ⟨s.acquired { s.cur with wait := .none, waitOn := [], waitExp := none, waitRem := none }, ?_⟩
  have hx : (s.acquired { s.cur with wait := .none, waitOn := [], waitExp := none, waitRem := none }).rep = some r :=
    (State.acquired_rep s _).trans hr
  simp only [State.retire, hx, ha, if_true, State.cur_updCur]
  split
  next h => exact ⟨rfl, fun hn => absurd h (by simp [hn])⟩
  next => exact ⟨(Slot.atBlock_rep s _ _ _).1, fun _ => (Slot.atBlock_rep s _ _ _).2⟩

theorem State.view_h (s : State) (h : Nat) : (s.view h).h = s.cur.stagger h := by
  unfold State.view
  dsimp only
  split
  · rfl
  · split
    · split <;> rfl
    · rfl

theorem repeatPasses : RepeatPasses := by
  intro s r len hr ha
  obtain ⟨x, hrep, hpc⟩ := State.retire_active (len := len) hr ha
  refine ⟨fun h => ?_, fun h1 h2 => ?_, fun h1 h2 => ?_, fun h hh => ?_, fun h hh => ?_⟩
  · rw [hrep, Slot.nextPass, if_pos h]
  · rw [hrep, Slot.nextPass, if_neg (by omega), if_pos h2]
  · have hn : x.nextPass r = { x with rep := some { r with j := 0, k := 0, active := false }, pc := r.after } := by
      rw [Slot.nextPass, if_neg (by omega), if_neg (by omega)]
    rw [hn] at hrep hpc
    exact ⟨hrep, hpc rfl⟩
  · rw [State.view_h, Slot.stagger, hr]
    exact if_pos ⟨ha, hh⟩
  · rw [State.view_h, Slot.stagger, hr]
    exact if_neg (by omega)

/-- Settles O44. -/
theorem repetitionsComplete : Obligations.RepetitionsComplete := ⟨repeatCaptures, repeatPasses, repeatAgain⟩

end Sys2Proof.Machine
end

/-! ## Compares and guard operations (R90, R91, R236 to R238) -/
section
namespace Sys2Proof.Machine
open Sys2Proof.Claims

variable {s t u : State} {x : Slot}

/-! ### What a guard slot settles to (R90) -/

/-- A source that is a mask stands as it is. -/
@[simp] theorem GMask.settle_val (x : Slot) (v : BitVec 16) : (GMask.val v).settle x = .val v := rfl

/-- R236: a resolved guard is read as its mask. -/
theorem GMask.settle_resolved {g : Nat} {m : BitVec 16} (h : x.guard g = ⟨m, none⟩) : (GMask.idx g).settle x = .val m := by
  simp only [GMask.settle, h, Option.isNone_none, if_true]

/-- R90: an unresolved one is waited for. -/
theorem GMask.settle_open {g : Nat} (h : (x.guard g).src.isSome = true) : (GMask.idx g).settle x = .idx g := by
  have hn : (x.guard g).src.isNone = false := by
    cases hs : (x.guard g).src <;> simp_all
  simp only [GMask.settle, hn, Bool.false_eq_true, if_false]

/-- R90: a guard whose computation stands takes its mask. -/
theorem Guard.settle_ready {m : BitVec 16} {c : GCalc} (h : (c.settle x).ready = true) :
    (Guard.mk m (some c)).settle x = ⟨(c.settle x).mask, none⟩ := by
  simp only [Guard.settle, h, if_true]

/-- R90: and one whose computation does not keeps its mask. -/
theorem Guard.settle_waits {m : BitVec 16} {c : GCalc} (h : (c.settle x).ready = false) :
    (Guard.mk m (some c)).settle x = ⟨m, some (c.settle x)⟩ := by
  simp only [Guard.settle, h, Bool.false_eq_true, if_false]

@[simp] theorem Guard.settle_resolved (x : Slot) (m : BitVec 16) : (Guard.mk m none).settle x = ⟨m, none⟩ := rfl

/-! ### How a guard slot is written (R90, R91, R237, R238) -/

/-- R91: the commands that keep an outcome leave the guards as they are. -/
theorem State.fixGuards_guard (s : State) (g h : Nat) : (s.fixGuards g).cur.guard h = s.cur.guard h := by
  have hcur : ∃ l, (s.fixGuards g).cur = { s.cur with cbuf := l } := by
    have hnet (v : State) (n : List Pkt) : ({ v with net := n } : State).cur = v.cur := rfl
    have heng (v : State) (k : Nat) (f : Engine → Engine) : (v.updEngine k f).cur = v.cur := rfl
    unfold State.fixGuards
    dsimp only
    split
    · exact ⟨_, (hnet _ _).trans (State.cur_updCur s _)⟩
    · exact ⟨_, (heng _ _ _).trans ((hnet _ _).trans (State.cur_updCur s _))⟩
  obtain ⟨l, hl⟩ := hcur
  rw [hl]
  rfl

/-- R91: the guard slots of the state with the kept outcomes settle as those of the state before. -/
theorem State.fixGuards_settle (s : State) (g : Nat) (w : Guard) : w.settle (s.fixGuards g).cur = w.settle s.cur := by
  have hm (m : GMask) : m.settle (s.fixGuards g).cur = m.settle s.cur := by
    cases m with
    | idx h => simp only [GMask.settle, State.fixGuards_guard]
    | val v => rfl
  have hc (c : GCalc) : c.settle (s.fixGuards g).cur = c.settle s.cur := by
    cases c <;> simp only [GCalc.settle, hm]
  obtain ⟨m, src⟩ := w
  cases src with
  | none => rfl
  | some c => simp only [Guard.settle, hc]

/-- R90: a guard slot written with a computation takes what that settles to. -/
theorem State.setGuard_eq (s : State) (g : Nat) (c : GCalc) :
    s.setGuard g c = guardPut s g ((Guard.mk (s.cur.guard g).m (some c)).settle s.cur) := by
  have h := s.fixGuards_settle g (Guard.mk (s.cur.guard g).m (some c))
  have hup : (s.fixGuards g).setSlot (s.fixGuards g).curCore (s.fixGuards g).curSlot ((s.fixGuards g).cur.putGuard g c) =
      (s.fixGuards g).setSlot (s.fixGuards g).curCore (s.fixGuards g).curSlot
        { (s.fixGuards g).cur with guards := mput (s.fixGuards g).cur.guards g ((Guard.mk (s.cur.guard g).m (some c)).settle s.cur) } := by
    rw [Slot.putGuard, State.fixGuards_guard, h]
  exact hup

theorem State.setGuard_ready {g : Nat} {c : GCalc} (h : (c.settle s.cur).ready = true) :
    s.setGuard g c = guardSet s g (c.settle s.cur).mask := by
  rw [State.setGuard_eq, Guard.settle_ready h, guardSet]

theorem State.setGuard_waits {g : Nat} {c : GCalc} (h : (c.settle s.cur).ready = false) :
    s.setGuard g c = guardOpened s g (c.settle s.cur) := by
  rw [State.setGuard_eq, Guard.settle_waits h, guardOpened]

theorem State.guardBusy_free {g : Nat} (h : (s.cur.guard g).src = none) : s.guardBusy g = none := by
  simp only [State.guardBusy, h, Option.isSome_none, Bool.false_eq_true, if_false]

/-- R279: an instruction that reads bytes which only a held effect can land reads them behind its commit. -/
theorem State.readsHeld_done {accs : List Acc} {f : State → Verdict} (hm : readsMay s accs) (hf : f (readsIn s accs) = .done u) :
    s.readsHeld accs f = .done u := by
  unfold readsMay at hm
  unfold State.readsHeld
  unfold readsIn at hf
  split
  next h =>
    rw [if_pos h] at hf
    exact State.blocking_done (hm h) hf
  next h => rwa [if_neg h] at hf

/-! ### Compares (R236, R237) -/

/-- R224: what a gate answers comes before what its instruction does. -/
theorem Verdict.gate_getD (o : Option Verdict) (k : Verdict) : (match o with | some v => v | none => k) = o.getD k := by
  cases o <;> rfl

/-- R237: a compare, by its accesses and lanes. -/
theorem cmpVerdict_eq (cond g : Nat) (mask : Bool) (o : BitVec 2) (b a : BitVec 6) (s : State) :
    cmpVerdict cond mask o b a g s =
      (s.gateWith [cmpA s mask o b a, cmpB s mask b a]
        (([s.view a.toNat, s.view b.toNat].filter fun v =>
          v.ty == .i4x || v.ty == .e8m0 || v.ty.clash (cmpType (s.view a.toNat).ty (s.view b.toNat).ty)).map View.h)
        [(offsets o (some (s.view a.toNat)) none).bad, opTrap (s.view a.toNat).h (mask && decide (2 ≤ (s.view a.toNat).shape)),
          opTrap (s.view b.toNat).h (mask && decide (2 ≤ (s.view b.toNat).shape)),
          opTrap (s.view b.toNat).h (mask && (cmpVecs s b a).any
            (fun v => v.count (cmpType (s.view a.toNat).ty (s.view b.toNat).ty) != cmpLanes s b a))] [] (s.guardBusy g)).getD
      (s.readsHeld [cmpA s mask o b a, cmpB s mask b a] fun t =>
        .done (t.setGuard g (.cmp cond (if mask then cmpLanes s b a else 0) (cmpSrcs s t mask o b a).1 (cmpSrcs s t mask o b a).2))) :=
  Verdict.gate_getD _ _

/-- R237: a compare that nothing stops writes what its sources come to. -/
theorem cmpVerdict_ready {cond g : Nat} {mask : Bool} {o : BitVec 2} {b a : BitVec 6} (h : CompareReady s mask o b a g)
    (hm : readsMay s [cmpA s mask o b a, cmpB s mask b a]) :
    let t := readsIn s [cmpA s mask o b a, cmpB s mask b a]
    let r := cmpSrcs s t mask o b a
    cmpVerdict cond mask o b a g s = .done (t.setGuard g (.cmp cond (if mask then cmpLanes s b a else 0) r.1 r.2)) := by
  obtain ⟨-, hfst, hsnd, htypes, hoff, hlanes, hfree⟩ := h
  intro t r
  have hbad : ([s.view a.toNat, s.view b.toNat].filter fun v =>
      v.ty == .i4x || v.ty == .e8m0 || v.ty.clash (cmpType (s.view a.toNat).ty (s.view b.toNat).ty)) = [] := by
    refine List.filter_eq_nil_iff.mpr fun v hv => ?_
    simpa using List.all_eq_true.mp htypes v hv
  have hopnd : noTrap [(offsets o (some (s.view a.toNat)) none).bad,
      opTrap (s.view a.toNat).h (mask && decide (2 ≤ (s.view a.toNat).shape)),
      opTrap (s.view b.toNat).h (mask && decide (2 ≤ (s.view b.toNat).shape)),
      opTrap (s.view b.toNat).h (mask && (cmpVecs s b a).any
        (fun v => v.count (cmpType (s.view a.toNat).ty (s.view b.toNat).ty) != cmpLanes s b a))] = true := by
    simp only [noTrap_cons, noTrap_nil, and_true]
    cases mask with
    | false => exact ⟨hoff, rfl, rfl, rfl⟩
    | true =>
      obtain ⟨ha, hb, hv⟩ := hlanes rfl
      refine ⟨hoff, opTrap_none (by simp [ha]), opTrap_none (by simp [hb]), opTrap_none ?_⟩
      rw [Bool.true_and, List.any_eq_false]
      exact fun v hm => by simp [hv v hm]
  have hgate := State.gateWith_none (s := s) (accs := [cmpA s mask o b a, cmpB s mask b a]) (late := []) (by simp [hfst, hsnd]) hopnd
    noTrap_nil
  rw [cmpVerdict_eq, hbad, State.guardBusy_free hfree, List.map_nil, hgate]
  exact State.readsHeld_done hm rfl

theorem GSrc.waits_capture (q : Acc) (k : Nat) : (q.capture s k).waits = [] ↔ q.marks s = [] := by
  simp [Acc.capture]

theorem compareCompletes : CompareCompletes := by
  intro s c o b a d mask h i accs t n r hm
  have hv := cmpVerdict_ready (cond := c.toNat) h hm
  have hexec : exec i s = .next (s.issueAny i (cmpVerdict c.toNat mask o b a d.toNat)) := by
    cases mask <;> rfl
  have hdone {u : State} (hu : t.setGuard d.toNat (.cmp c.toNat n r.1 r.2) = u) : exec i s = .next (s.retired i u) :=
    hexec.trans (congrArg Host.Outcome.next (State.issueAny_done i h.runs (hv.trans (congrArg Verdict.done hu))))
  refine ⟨fun hall => hdone (State.setGuard_ready ?_), fun hex => hdone (State.setGuard_waits ?_)⟩
  · have h1 : r.1.waits = [] := (GSrc.waits_capture _ _).mpr (hall _ (by simp [accs]))
    have h2 : r.2.waits = [] := (GSrc.waits_capture _ _).mpr (hall _ (by simp [accs]))
    simp [GCalc.settle, GCalc.ready, h1, h2]
  · obtain ⟨q, hq, hmarks⟩ := hex
    simp only [GCalc.settle, GCalc.ready, Bool.and_eq_false_iff, List.isEmpty_eq_false_iff]
    simp only [accs, List.mem_cons, List.not_mem_nil, or_false] at hq
    rcases hq with rfl | rfl
    · exact .inl fun h1 => hmarks ((GSrc.waits_capture _ _).mp h1)
    · exact .inr fun h2 => hmarks ((GSrc.waits_capture _ _).mp h2)

end Sys2Proof.Machine
end

/-! ## Guard operations, and how unresolved guards resolve (R90, R237, R238) -/
section
namespace Sys2Proof.Machine
open Sys2Proof.Claims

variable {s t u : State} {x : Slot}

/-! ### The outcome on a lane, and the mask (R237) -/

theorem maskOf_testBit (l : List Bool) : ∀ j, (maskOf l).testBit j = l.getD j false := by
  induction l with
  | nil => intro j; simp [maskOf]
  | cons p l ih =>
    intro j
    cases j with
    | zero =>
      rw [maskOf, Nat.testBit_zero]
      cases p <;> simp
    | succ j =>
      have hdiv : ((if p = true then 1 else 0) + 2 * maskOf l) / 2 = maskOf l := by
        cases p <;> simp only [Bool.false_eq_true, if_false, if_true] <;> omega
      rw [maskOf, Nat.testBit_succ, hdiv, ih]
      rfl

theorem cmpMask_whole (c : Nat) (a b : GSrc) {j : Nat} (hj : j < 16) : (cmpMask c 0 a b).getLsbD j = cmpLane c a b 0 := by
  cases h : cmpLane c a b 0 with
  | false => simp [cmpMask, h]
  | true =>
    have hm : cmpMask c 0 a b = BitVec.allOnes 16 := by simp only [cmpMask, h, if_true]; rfl
    rw [hm, BitVec.getLsbD_allOnes]
    exact decide_eq_true hj

theorem cmpMask_lanes (c : Nat) (a b : GSrc) {n : Nat} (j : Nat) (hn : n ≤ 16) (h0 : 0 < n) :
    (cmpMask c n a b).getLsbD j = (decide (j < n) && cmpLane c a b j) := by
  rw [cmpMask, if_neg (by omega), BitVec.getLsbD_ofNat, maskOf_testBit]
  by_cases hj : j < n
  · simp [hj, show j < 16 by omega, List.getD_eq_getElem?_getD]
  · simp [hj, List.getD_eq_getElem?_getD]

theorem condInt_codes (x y : Int) : (condInt 0 x y = true ↔ x = y) ∧ (condInt 1 x y = true ↔ x ≠ y) ∧
    (condInt 2 x y = true ↔ x < y) ∧ (condInt 3 x y = true ↔ x ≤ y) ∧ (condInt 4 x y = true ↔ x > y) ∧
    (condInt 5 x y = true ↔ x ≥ y) ∧ condInt 6 x y = false ∧ condInt 7 x y = true := by
  simp [condInt]

theorem condNum_nan {u v : XNum} (h : u = .nan ∨ v = .nan) (c : Nat) : condNum c u v = true ↔ c = 1 ∨ c = 6 := by
  have hb : (u == .nan || v == .nan) = true := by
    rcases h with rfl | rfl <;> simp
  have hc : condNum c u v = (c == 1 || c == 6) := if_pos hb
  simp [hc]

theorem condNum_numbers {u v : XNum} (hu : u ≠ .nan) (hv : v ≠ .nan) : condNum 0 u v = u.eqv v ∧ condNum 1 u v = (!u.eqv v) ∧
    condNum 2 u v = u.lt v ∧ condNum 4 u v = v.lt u ∧ condNum 3 u v = (!v.lt u) ∧ condNum 5 u v = (!u.lt v) ∧
    condNum 6 u v = false ∧ condNum 7 u v = true := by
  have hb : ¬ (u == .nan || v == .nan) = true := by simp [hu, hv]
  simp only [condNum, if_neg hb, and_self]

theorem compareConditions : CompareConditions := by
  intro a b i op x y u v
  refine ⟨fun hf => ?_, fun hf hn c hc => ?_, fun hf hu hv => ?_, fun c j hj => cmpMask_whole c a b hj,
    fun c n j hn h0 => cmpMask_lanes c a b j hn h0⟩
  · have hlane (c : Nat) : cmpLane c a b i = condInt c x y := if_neg (Bool.eq_false_iff.mp hf)
    simp only [hlane]
    exact condInt_codes x y
  · have hlane : cmpLane c a b i = condNum c u v := if_pos hf
    rw [hlane]
    exact condNum_nan hn c
  · have hlane (c : Nat) : cmpLane c a b i = condNum c u v := if_pos hf
    simp only [hlane]
    obtain ⟨h0, h1, h2, h4, h3, h5, h6, h7⟩ := condNum_numbers hu hv
    exact ⟨h0, h1, h2, h4, h3, h5, h6, h7, by decide⟩

/-! ### An unresolved guard once a mark has cleared (R90) -/

/-- A table whose entries all change alike. -/
theorem mget_map {β : Type} (f : β → β) (d : β) (hd : f d = d) (k : Nat) : ∀ m : SMap β,
    mget (m.map fun q => (q.1, f q.2)) k d = f (mget m k d)
  | [] => hd.symm
  | p :: m => by
    simp only [List.map_cons, mget]
    split
    · rfl
    · exact mget_map f d hd k m

theorem Slot.settleOnce_guard (x : Slot) {g : Nat} (hg : g < 7) : x.settleOnce.guard g = (x.guard g).settle x := by
  have hne : g ≠ 7 := by omega
  simp only [Slot.guard, if_neg hne, Slot.settleOnce]
  exact mget_map (fun q : Guard => q.settle x) Guard.reset rfl g x.guards

/-- The slot whose guards have taken the landed bytes. -/
def Slot.bytesLanded (s : State) (id : Nat) (p : Place) (n : Nat) (x : Slot) : Slot :=
  { x with guards := x.guards.map fun q => (q.1, { q.2 with src := q.2.src.map (·.land s id p n) }) }

theorem Slot.bytesLanded_guard (s : State) (id : Nat) (p : Place) (n : Nat) (x : Slot) {g : Nat} (hg : g < 7) :
    (x.bytesLanded s id p n).guard g = ⟨(x.guard g).m, (x.guard g).src.map (·.land s id p n)⟩ := by
  have hne : g ≠ 7 := by omega
  simp only [Slot.guard, if_neg hne, Slot.bytesLanded]
  exact mget_map (fun q : Guard => { q with src := q.src.map (·.land s id p n) }) Guard.reset rfl g x.guards

/-- A default that no entry of a table gives comes from none. -/
theorem mget_src_none {l : SMap Guard} {g : Nat} (h : l.all (fun q => q.2.src.isNone) = true) : (mget l g Guard.reset).src = none := by
  induction l with
  | nil => rfl
  | cons q l ih =>
    obtain ⟨h1, h2⟩ : q.2.src.isNone = true ∧ l.all (fun q => q.2.src.isNone) = true := by simpa using h
    simp only [mget]
    split
    · exact Option.isNone_iff_eq_none.mp h1
    · exact ih h2

/-- R90: a slot with an unresolved guard settles in seven passes, since it has seven guard slots. -/
theorem Slot.landed_eq (s : State) (id : Nat) (p : Place) (n : Nat) {x : Slot} {g : Nat} (hg : g < 7)
    (h : (x.guard g).src.isSome = true) : x.landed s id p n = Slot.settleOnce^[7] (x.bytesLanded s id p n) := by
  have hall : ¬ x.guards.all (fun q => q.2.src.isNone) = true := by
    intro ha
    have hne : g ≠ 7 := by omega
    rw [Slot.guard, if_neg hne, mget_src_none ha] at h
    cases h
  rw [Slot.landed, if_neg hall]
  rfl

/-- A guard that no pass changes stands through all of them: a resolved one, and one that waits for another mark. -/
theorem Slot.settled_fixed {g : Nat} {w : Guard} (hg : g < 7) (hw : ∀ y, w.settle y = w) (k : Nat) :
    ∀ x : Slot, x.guard g = w → (Slot.settleOnce^[k] x).guard g = w := by
  induction k with
  | zero => exact fun _ h => h
  | succ k ih =>
    intro x h
    exact ih x.settleOnce (by rw [Slot.settleOnce_guard x hg, h, hw])

/-- R90: sources whose only mark has cleared wait for nothing. -/
theorem GSrc.land_waits {a : GSrc} {s : State} {id n : Nat} {p : Place} (h : ∀ w ∈ a.waits, w = id) : (a.land s id p n).waits = [] := by
  unfold GSrc.land
  split
  · exact List.filter_eq_nil_iff.mpr fun w hw => by simp [h w hw]
  next hc =>
    refine List.eq_nil_iff_forall_not_mem.mpr fun w hw => hc ?_
    rw [List.contains_iff_mem, ← h w hw]
    exact hw

/-- R90: a source that waits for another mark goes on waiting. -/
theorem GSrc.land_waits_other {a : GSrc} {s : State} {id n w : Nat} {p : Place} (h : w ∈ a.waits) (hw : w ≠ id) :
    w ∈ (a.land s id p n).waits := by
  unfold GSrc.land
  split
  · exact List.mem_filter.mpr ⟨h, by simpa using hw⟩
  · exact h

/-- R90: a computation on bytes, all of which have landed, gives its slot its mask. -/
theorem Slot.landed_resolves {g id n : Nat} {p : Place} {m : BitVec 16} {c : GCalc} (hg : g < 7) (h : x.guard g = ⟨m, some c⟩)
    (hs : ∀ y, (c.land s id p n).settle y = c.land s id p n) (hr : (c.land s id p n).ready = true) :
    (x.bytesLanded s id p n).settleOnce.guard g = ⟨(c.land s id p n).mask, none⟩ ∧
    (x.landed s id p n).guard g = ⟨(c.land s id p n).mask, none⟩ := by
  have h1 : (x.bytesLanded s id p n).settleOnce.guard g = ⟨(c.land s id p n).mask, none⟩ := by
    rw [Slot.settleOnce_guard _ hg, Slot.bytesLanded_guard s id p n x hg, h, Option.map_some, Guard.settle_ready (by rw [hs]; exact hr), hs]
  refine ⟨h1, ?_⟩
  rw [Slot.landed_eq s id p n hg (by rw [h]; rfl)]
  exact Slot.settled_fixed hg (fun y => Guard.settle_resolved y _) 6 _ h1

/-- R90: one with a byte that has not landed goes on waiting, with those that have. -/
theorem Slot.landed_waits {g id n : Nat} {p : Place} {m : BitVec 16} {c : GCalc} (hg : g < 7) (h : x.guard g = ⟨m, some c⟩)
    (hs : ∀ y, (c.land s id p n).settle y = c.land s id p n) (hr : (c.land s id p n).ready = false) :
    (x.landed s id p n).guard g = ⟨m, some (c.land s id p n)⟩ := by
  rw [Slot.landed_eq s id p n hg (by rw [h]; rfl)]
  refine Slot.settled_fixed hg (fun y => ?_) 7 _ (by rw [Slot.bytesLanded_guard s id p n x hg, h, Option.map_some])
  rw [Guard.settle_waits (by rw [hs]; exact hr), hs]

/-- R90: a guard operation on such a slot resolves in the same cycle: in the pass after the slot it waits for. -/
theorem Slot.landed_chain {g h id n : Nat} {p : Place} {m k r v : BitVec 16} {c op : GCalc} (hg : g < 7) (hh : h < 7)
    (hx : x.guard g = ⟨m, some c⟩) (hop : x.guard h = ⟨k, some op⟩) (hland : op.land s id p n = op)
    (h1 : (x.bytesLanded s id p n).settleOnce.guard g = ⟨r, none⟩)
    (hwait : ∀ y : Slot, (y.guard g).src.isSome = true → op.settle y = op) (hnr : op.ready = false)
    (hgo : ∀ y : Slot, y.guard g = ⟨r, none⟩ → (op.settle y).ready = true ∧ (op.settle y).mask = v) :
    (x.landed s id p n).guard h = ⟨v, none⟩ := by
  have hz : ((x.bytesLanded s id p n).guard g).src.isSome = true := by
    rw [Slot.bytesLanded_guard s id p n x hg, hx]
    rfl
  have hfirst : (x.bytesLanded s id p n).settleOnce.guard h = ⟨k, some op⟩ := by
    rw [Slot.settleOnce_guard _ hh, Slot.bytesLanded_guard s id p n x hh, hop, Option.map_some, hland,
      Guard.settle_waits (by rw [hwait _ hz]; exact hnr), hwait _ hz]
  obtain ⟨hready, hmask⟩ := hgo _ h1
  have hsecond : (x.bytesLanded s id p n).settleOnce.settleOnce.guard h = ⟨v, none⟩ := by
    rw [Slot.settleOnce_guard _ hh, hfirst, Guard.settle_ready hready, hmask]
  rw [Slot.landed_eq s id p n hg (by rw [hx]; rfl)]
  exact Slot.settled_fixed hh (fun y => Guard.settle_resolved y _) 5 _ hsecond

theorem guardsResolve : GuardsResolve := by
  intro s x id n g p m hg y
  refine ⟨fun cond lanes a b hx hw => ?_, fun a hx hw => ?_, fun cond lanes a b hx hw => ?_⟩
  · have ha : (a.land s id p n).waits = [] := GSrc.land_waits fun w h => hw w (List.mem_append_left _ h)
    have hb : (b.land s id p n).waits = [] := GSrc.land_waits fun w h => hw w (List.mem_append_right _ h)
    obtain ⟨h1, h7⟩ := Slot.landed_resolves (s := s) (id := id) (p := p) (n := n) hg hx (fun _ => rfl)
      (by simp [GCalc.land, GCalc.ready, ha, hb])
    refine ⟨h7, fun h k hh => ⟨fun hop => ?_, fun v => ⟨fun hop => ?_, fun hop => ?_, fun hop => ?_⟩⟩⟩
    all_goals
      refine Slot.landed_chain hg hh hx hop rfl h1 (fun y hy => ?_) rfl fun y hy => ?_
      · simp only [GCalc.settle, GMask.settle_open hy, GMask.settle_val]
      · simp only [GCalc.settle, GMask.settle_resolved hy, GMask.settle_val]
        exact ⟨rfl, rfl⟩
  · have ha : (a.land s id p n).waits = [] := GSrc.land_waits hw
    exact (Slot.landed_resolves hg hx (fun _ => rfl) (by simp [GCalc.land, GCalc.ready, ha])).2
  · refine Slot.landed_waits hg hx (fun _ => rfl) ?_
    obtain ⟨w, hmem, hne⟩ := hw
    simp only [GCalc.land, GCalc.ready, Bool.and_eq_false_iff, List.isEmpty_eq_false_iff]
    rcases List.mem_append.mp hmem with h | h
    · exact .inl (List.ne_nil_of_mem (GSrc.land_waits_other h hne))
    · exact .inr (List.ne_nil_of_mem (GSrc.land_waits_other h hne))

/-! ### Guard operations (R238) -/

theorem guardVerdict_free {d : BitVec 6} {c : GCalc} (h : (s.cur.guard d.toNat).src = none) :
    guardVerdict d c s = .done (s.setGuard d.toNat c) := by
  simp only [guardVerdict, State.guardBusy_free h]

theorem State.guardSrc_eq (s : State) (g : BitVec 6) : s.guardSrc g = guardSource s g := by
  cases h : (s.cur.guard g.toNat).src <;> simp [State.guardSrc, GMask.settle, guardSource, h]

/-- R238: the source of a guard operation settles to itself. -/
theorem guardSource_settle (s : State) (g : BitVec 6) : (guardSource s g).settle s.cur = guardSource s g := by
  unfold guardSource
  split
  next h => exact GMask.settle_open h
  next => rfl

theorem guardSource_resolved {g : BitVec 6} {m : BitVec 16} (h : s.cur.guard g.toNat = ⟨m, none⟩) : guardSource s g = .val m := by
  simp only [guardSource, h, Option.isSome_none, Bool.false_eq_true, if_false]

theorem guardSource_open {g : BitVec 6} (h : (s.cur.guard g.toNat).src.isSome = true) : guardSource s g = .idx g.toNat := if_pos h

/-- R238: a guard operation whose computation settles to itself, of sources that stand. -/
theorem exec_guard_ready {i : Instr} {d : BitVec 6} {c : GCalc} (hr : s.cur.runs = true) (hf : (s.cur.guard d.toNat).src = none)
    (hx : exec i s = .next (s.issueAny i (guardVerdict d c))) (hs : c.settle s.cur = c) (hc : c.ready = true) :
    exec i s = .next (s.retired i (guardSet s d.toNat c.mask)) := by
  have hset : s.setGuard d.toNat c = guardSet s d.toNat c.mask := by
    rw [State.setGuard_ready (by rw [hs]; exact hc), hs]
  exact hx.trans (congrArg Host.Outcome.next (State.issueAny_done i hr ((guardVerdict_free hf).trans (congrArg Verdict.done hset))))

/-- R90: and of sources that do not. -/
theorem exec_guard_waits {i : Instr} {d : BitVec 6} {c : GCalc} (hr : s.cur.runs = true) (hf : (s.cur.guard d.toNat).src = none)
    (hx : exec i s = .next (s.issueAny i (guardVerdict d c))) (hs : c.settle s.cur = c) (hc : c.ready = false) :
    exec i s = .next (s.retired i (guardOpened s d.toNat c)) := by
  have hset : s.setGuard d.toNat c = guardOpened s d.toNat c := by
    rw [State.setGuard_waits (by rw [hs]; exact hc), hs]
  exact hx.trans (congrArg Host.Outcome.next (State.issueAny_done i hr ((guardVerdict_free hf).trans (congrArg Verdict.done hset))))

/-- R238: each guard operation computes on the sources that its operands name. -/
theorem exec_guardForms (s : State) (b a d : BitVec 6) (hr : s.cur.runs = true) :
    exec (.gand b a d) s = .next (s.issueAny (.gand b a d) (guardVerdict d (.and (guardSource s a) (guardSource s b)))) ∧
    exec (.gor b a d) s = .next (s.issueAny (.gor b a d) (guardVerdict d (.or (guardSource s a) (guardSource s b)))) ∧
    exec (.gxor b a d) s = .next (s.issueAny (.gxor b a d) (guardVerdict d (.xor (guardSource s a) (guardSource s b)))) ∧
    exec (.gnot a d) s = .next (s.issueAny (.gnot a d) (guardVerdict d (.not (guardSource s a)))) := by
  simp only [← State.guardSrc_eq]
  refine ⟨?_, ?_, ?_, ?_⟩
  all_goals
    refine congrArg Host.Outcome.next ?_
    rw [State.issueAny_runs _ _ hr, State.issueAny_runs _ _ hr]

theorem gmovVerdict_ready {o : BitVec 2} {a d : BitVec 6} {q : Acc} (hq : q = ⟨s.view a.toNat, (offsets o (some (s.view a.toNat)) none).src, false, 1⟩)
    (hf : (s.cur.guard d.toNat).src = none) (hi : idxOk q.v = true) (hr : q.readyButPending s = true)
    (hb : (offsets o (some q.v) none).bad = none) (hm : readsMay s [q]) :
    gmovVerdict o a d s = .done ((readsIn s [q]).setGuard d.toNat (.mov (q.capture (readsIn s [q]) 1))) := by
  subst hq
  have hgate := State.gateWith_none (s := s) (accs := [⟨s.view a.toNat, (offsets o (some (s.view a.toNat)) none).src, false, 1⟩])
    (opnd := [(offsets o (some (s.view a.toNat)) none).bad]) (late := []) (by simpa using hr) (by simpa using hb) noTrap_nil
  dsimp only at hi
  unfold gmovVerdict
  dsimp only
  rw [hi, if_pos rfl, State.guardBusy_free hf, hgate]
  exact State.readsHeld_done hm rfl

/-- R62: `zero` reads 0. -/
theorem Acc.elem_zero {q : Acc} {i : Nat} (h : q.v.h = 54) : q.elem t i = 0 := by
  have hf : q.v.fixed = true := by simp [View.fixed, h]
  simp only [Acc.elem, hf, if_true, Acc.fixedElem, h]

/-- R238: a `GMOV` on bytes that stand takes the low bits of its element. -/
theorem State.setGuard_mov_ready {q : Acc} {g : Nat} (h : q.marks t = []) :
    t.setGuard g (.mov (q.capture t 1)) = guardSet t g (BitVec.ofNat 16 (q.elem t 0)) := by
  have hw := (GSrc.waits_capture (s := t) q 1).mpr h
  have hmask : BitVec.ofNat 16 (((q.capture t 1).raws.getD 0 0).toNat) = BitVec.ofNat 16 (q.elem t 0) := by
    by_cases h54 : q.v.h = 54
    · simp [Acc.capture, h54, Acc.elem_zero h54]
    · refine BitVec.eq_of_toNat_eq ?_
      simp only [Acc.capture, h54, if_false, List.range_one, List.map_cons, List.map_nil, List.getD_cons_zero, BitVec.toNat_ofNat]
      omega
  have hready : (GCalc.settle t.cur (.mov (q.capture t 1))).ready = true := by
    simp only [GCalc.settle, GCalc.ready, hw, List.isEmpty_nil]
  rw [State.setGuard_ready hready]
  exact congrArg (guardSet t g) hmask

theorem guardOperationsComplete : GuardOperationsComplete := by
  intro s o b a d hr hf
  obtain ⟨hand, hor, hxor, hnot⟩ := exec_guardForms s b a d hr
  have ha := guardSource_settle s a
  have hb := guardSource_settle s b
  refine ⟨fun ma mb hma hmb => ?_, fun ma hma => ?_, ⟨fun hopen => ?_, fun hopen => ?_⟩, fun hi hq hoff hm => ⟨fun hmarks => ?_, fun hmarks => ?_⟩⟩
  · rw [guardSource_resolved hma, guardSource_resolved hmb] at hand hor hxor
    exact ⟨exec_guard_ready (c := .and (.val ma) (.val mb)) hr hf hand rfl rfl,
      exec_guard_ready (c := .or (.val ma) (.val mb)) hr hf hor rfl rfl,
      exec_guard_ready (c := .xor (.val ma) (.val mb)) hr hf hxor rfl rfl⟩
  · rw [guardSource_resolved hma] at hnot
    exact exec_guard_ready (c := .not (.val ma)) hr hf hnot rfl rfl
  · have hsrc : (∃ g, guardSource s a = .idx g) ∨ ∃ g, guardSource s b = .idx g :=
      hopen.imp (fun h => ⟨_, guardSource_open h⟩) fun h => ⟨_, guardSource_open h⟩
    exact ⟨exec_guard_waits hr hf hand (by rw [GCalc.settle, ha, hb]) (by rcases hsrc with ⟨g, h⟩ | ⟨g, h⟩ <;> simp [GCalc.ready, h]),
      exec_guard_waits hr hf hor (by rw [GCalc.settle, ha, hb]) (by rcases hsrc with ⟨g, h⟩ | ⟨g, h⟩ <;> simp [GCalc.ready, h]),
      exec_guard_waits hr hf hxor (by rw [GCalc.settle, ha, hb]) (by rcases hsrc with ⟨g, h⟩ | ⟨g, h⟩ <;> simp [GCalc.ready, h])⟩
  · exact exec_guard_waits hr hf hnot (by rw [GCalc.settle, ha]) (by rw [guardSource_open hopen]; rfl)
  · refine congrArg Host.Outcome.next (State.issueAny_done _ hr ((gmovVerdict_ready rfl hf hi hq hoff hm).trans (congrArg Verdict.done ?_)))
    rw [State.setGuard_mov_ready hmarks]
  · refine congrArg Host.Outcome.next (State.issueAny_done _ hr ((gmovVerdict_ready rfl hf hi hq hoff hm).trans (congrArg Verdict.done ?_)))
    refine State.setGuard_waits ?_
    simp only [GCalc.settle, GCalc.ready, List.isEmpty_eq_false_iff]
    exact fun h => hmarks ((GSrc.waits_capture _ _).mp h)

/-- Settles O45. -/
theorem guardsComplete : Obligations.GuardsComplete :=
  ⟨compareConditions, compareCompletes, guardsResolve, guardOperationsComplete⟩

end Sys2Proof.Machine
end

/-! ## The far loads, stores and atomics of the microcode (R289, R313, R374) -/
section
namespace Sys2Proof.Machine
open Sys2Proof.Claims

variable {s t u : State} {q : Cmd}

/-- R313: an instruction of the microcode that goes to wait. -/
theorem State.issueEngine_stay {i : Instr} {v : State → Verdict} (h : s.onEngine) (e : v s = .stay t) : s.issueAs i true false v = t := by
  simp only [State.issueAs, h.1, State.profileOk, h.2, if_true, e]
  rfl

/-! ### Far loads -/

/-- R313: far bytes of this device are written to the destination. -/
theorem State.fldAt_own {dq : Acc} {va n x : Nat} {f : Frame} (hx : s.xlat s.curEngine q va false = (.ok f, t)) (ha : f.addr = some x)
    (ht : (f.tgt == 0 && t.tamperedAt x n) = false) (hp : t.poisoned x n = false) :
    s.fldAt q dq va n = .done (dq.putLoad t (t.bytesAt x n)) := by
  simp only [State.fldAt, hx, ha, ht, hp, Bool.false_eq_true, if_false]

/-- R313: those of a peer are asked for. -/
theorem State.fldAt_peer {dq : Acc} {va n : Nat} {f : Frame} (hx : s.xlat s.curEngine q va false = (.ok f, t)) (ha : f.addr = none)
    (h50 : dq.v.h ≠ 50) (h54 : dq.v.h ≠ 54)
    (hs : (t.mark dq (ldLen dq.v n) false false true).2.sendReq t.curEngine q.ctx f.peer
      ⟨0, 0, va / 64, sizeCode n, va, [], false, 0, .reg (t.mark dq (ldLen dq.v n) false false true).1, 0⟩ = .ok u) :
    s.fldAt q dq va n = .done u := by
  simp only [State.fldAt, hx, ha, h50, h54, if_false, hs, Sent.then]

/-- R313, R374: far bytes of two pages of this device are read in pieces. -/
theorem State.fldPieces_own {dq : Acc} {va n : Nat} {bs : List Byte} (hb : s.farBytes q (cuts n n 0 va false true) = .ok (bs, t)) :
    s.fldPieces q dq va n = .done (dq.putLoad t bs) := by
  simp only [State.fldPieces, hb]

/-- R313: a far load that nothing stops reads at its address. -/
theorem fldVerdict_ready {sz o : BitVec 2} {f a d : BitVec 6} (h : FarLoadReady s q sz o f a d) :
    fldVerdict sz o f a d s =
      let n := 2 ^ sz.toNat
      let va := farAt s (farOf s o a d) f.toNat n
      let dq := dstOf s o a d (wide (s.view d.toNat) n)
      if onePage va n then s.fldAt q dq va n else s.fldPieces q dq va n := by
  have hcmd : EngineReady s q := h.toEngineReady
  obtain ⟨-, hdst, hsrc, hok, haty, hoff, hspace, hmarks⟩ := h
  have hrange : ¬ 2 ^ 57 < farAt s (farOf s o a d) f.toNat (2 ^ sz.toNat) + 2 ^ sz.toNat := Nat.not_lt.mpr hspace
  unfold fldVerdict
  refine (State.gated_two hdst hsrc ?_ noTrap_nil).trans ?_
  · simp only [noTrap_cons, noTrap_nil, and_true]
    exact ⟨opTrap_none (by simp [hok]), hoff, opTrap_none (by simp [haty])⟩
  · rw [State.withCmd_running hcmd]
    refine (if_neg hrange).trans (if_neg (Bool.eq_false_iff.mp hmarks))

theorem farLoadCompletes : FarLoadCompletes := by
  intro s q sz o f a d h n va dq done
  have hdone {t : State} (hv : (if onePage va n then s.fldAt q dq va n else s.fldPieces q dq va n) = .done t) : done t :=
    congrArg Host.Outcome.next (State.issueEngine_done h.engine ((fldVerdict_ready h).trans hv))
  refine ⟨fun at_ t u hone hx => ⟨fun x ha ht hp => hdone ?_, fun ha h50 h54 hs => hdone ?_⟩, fun bs t hone hb => hdone ?_⟩
  · rw [if_pos hone]
    exact State.fldAt_own hx ha ht hp
  · rw [if_pos hone]
    exact State.fldAt_peer hx ha h50 h54 hs
  · rw [if_neg (Bool.eq_false_iff.mp hone)]
    exact State.fldPieces_own hb

/-! ### Far stores -/

theorem farStoreCompletes : FarStoreCompletes := by
  intro s t q sz o b a f h va hs
  have hcmd : EngineReady s q := h.toEngineReady
  obtain ⟨-, haddr, hsrc, haty, hok, hoff, hspace⟩ := h
  refine congrArg Host.Outcome.next (State.issueEngine_done hcmd.engine ?_)
  unfold fstVerdict
  refine (State.gated_two haddr hsrc ?_ noTrap_nil).trans ?_
  · simp only [noTrap_cons, noTrap_nil, and_true]
    exact ⟨hoff, opTrap_none (by simp [haty]), opTrap_none (by simp [hok])⟩
  · rw [State.withCmd_running hcmd]
    refine (if_neg (Nat.not_lt.mpr hspace)).trans ?_
    exact congrArg (fun r : Sent => r.then .done) hs

/-! ### Far atomics -/

/-- R289, R313: a word of this device is exchanged at once. -/
theorem State.fatmAt_own {op va x : Nat} {dq bq : Acc} {f : Frame} (hx : s.xlat s.curEngine q va true = (.ok f, t))
    (ha : f.addr = some x) (ht : (f.tgt == 0 && t.tamperedAt x (dq.v.ty.bits / 8)) = false)
    (hp : t.poisoned x (dq.v.ty.bits / 8) = false) :
    s.fatmAt q op dq bq va =
      let r := t.atomFar x op dq.v.ty (bq.elem s 0) (if op = 7 then bq.elem s 1 else 0)
      .done (dq.putRaw (r.2.watchEngine t.curEngine q va (dq.v.ty.bits / 8) true) r.1) := by
  simp only [State.fatmAt, hx, ha, ht, hp, Bool.false_eq_true, if_false]

/-- R289, R313: one of another device is asked for, and the atomic waits. -/
theorem State.fatmAt_peer {op va : Nat} {dq bq : Acc} {f : Frame} (hx : s.xlat s.curEngine q va true = (.ok f, t))
    (ha : f.addr = none) (h50 : dq.v.h ≠ 50) (h54 : dq.v.h ≠ 54)
    (hs : ((t.mark dq (dq.v.ty.bits / 8) false false true).2.sendReq t.curEngine q.ctx f.peer
      ⟨2, 0, va / 64, sizeCode (dq.v.ty.bits / 8), va, atomBody op dq.v.ty.code (BitVec.ofNat 64 (bq.elem s 0))
        (BitVec.ofNat 64 (if op = 7 then bq.elem s 1 else 0)), false, 0,
        .reg (t.mark dq (dq.v.ty.bits / 8) false false true).1, 0⟩).watched t.curEngine q va (dq.v.ty.bits / 8) = .ok u) :
    s.fatmAt q op dq bq va = .stay (u.waitCur .sent [] false) := by
  simp only [State.fatmAt, hx, ha, h50, h54, if_false, hs, Sent.then]

/-- R289, R313: a far atomic that nothing stops exchanges its word. -/
theorem fatmVerdict_ready {op : Nat} {o : BitVec 2} {b a d : BitVec 6} (h : FarAtomReady s q op o b a d) :
    fatmVerdict op o b a d s = s.fatmAt q op (dstOf s o a d 1) (atomSrc s op b) ((farOf s o a d).nat64 s) := by
  have hcmd : EngineReady s q := h.toEngineReady
  obtain ⟨-, hfresh, hdst, haddr, hsrc, hmix, haty, hok, hoff, hspace, halign, hmarks⟩ := h
  unfold fatmVerdict
  rw [if_neg hfresh]
  simp only [atomMix, hmix, Bool.false_eq_true, if_false]
  refine (State.gated_three hdst haddr hsrc ?_ noTrap_nil).trans ?_
  · simp only [noTrap_cons, noTrap_nil, and_true]
    exact ⟨hoff, opTrap_none (by simp [haty]), opTrap_none (by simp [hok])⟩
  · rw [State.withCmd_running hcmd]
    exact (if_neg (Nat.not_lt.mpr hspace)).trans ((if_neg (not_not_intro halign)).trans (if_neg (Bool.eq_false_iff.mp hmarks)))

theorem exec_farAtomForm {p : (BitVec 2 → BitVec 6 → BitVec 6 → BitVec 6 → Instr) × Nat} (hp : p ∈ farAtomForms) {o : BitVec 2}
    {b a d : BitVec 6} : exec (p.1 o b a d) s = .next (s.issueAs (p.1 o b a d) true false (fatmVerdict p.2 o b a d)) := by
  simp only [farAtomForms, List.mem_cons, List.not_mem_nil, or_false] at hp
  rcases hp with rfl | rfl | rfl | rfl | rfl | rfl | rfl | rfl | rfl <;> rfl

theorem farAtomicsComplete : FarAtomicsComplete := by
  intro p hp s t q o b a d at_ va n dq b1
  refine ⟨fun h hx => ⟨fun x ha ht hpo => ?_, fun u ha h50 h54 hs => ?_⟩, fun heng hw hout => ?_⟩
  · refine (exec_farAtomForm hp).trans (congrArg Host.Outcome.next (State.issueEngine_done h.engine ((fatmVerdict_ready h).trans ?_)))
    exact State.fatmAt_own hx ha ht hpo
  · refine (exec_farAtomForm hp).trans (congrArg Host.Outcome.next ((State.issueEngine_stay h.engine ((fatmVerdict_ready h).trans ?_))))
    exact State.fatmAt_peer hx ha h50 h54 hs
  · refine (exec_farAtomForm hp).trans (congrArg Host.Outcome.next (State.issueEngine_done heng ?_))
    simp only [fatmVerdict, hw, hout, if_true]

/-- Settles O50. -/
theorem farAccessesComplete : Obligations.FarAccessesComplete := ⟨farLoadCompletes, farStoreCompletes, farAtomicsComplete⟩

end Sys2Proof.Machine
end

/-! ## Objects at their home (R292, R294) -/
section
namespace Sys2Proof.Machine
open Sys2Proof.Claims

variable {s t u : State} {o : ObjReq} {h : Nat}

/-! ### The waits that a post serves -/

/-- R294: a post serves as much as it covers, and keeps the rest in order. -/
theorem serveSem_conserves (ws : List ObjReq) : ∀ cnt, (serveSem ws cnt).2.2 + ((serveSem ws cnt).1.map ObjReq.arg).sum = cnt ∧
    (serveSem ws cnt).1.length + (serveSem ws cnt).2.1.length = ws.length := by
  induction ws with
  | nil => intro cnt; exact ⟨rfl, rfl⟩
  | cons w ws ih =>
    intro cnt
    simp only [serveSem]
    split
    next hc =>
      obtain ⟨h1, h2⟩ := ih (cnt - w.arg)
      simp only [List.map_cons, List.sum_cons, List.length_cons]
      omega
    next =>
      obtain ⟨h1, h2⟩ := ih cnt
      simp only [List.length_cons]
      omega

/-- R294: a post that covers no wait serves none. -/
theorem serveSem_covers_none (ws : List ObjReq) : ∀ cnt, (∀ w ∈ ws, w.op = .semw → cnt < w.arg) → serveSem ws cnt = ([], ws, cnt) := by
  induction ws with
  | nil => intro cnt _; rfl
  | cons w ws ih =>
    intro cnt hw
    have hc : ¬ (w.op = .semw ∧ w.arg ≤ cnt) := fun hc => by
      have := hw w List.mem_cons_self hc.1
      omega
    simp only [serveSem, if_neg hc, ih cnt fun v hv => hw v (List.mem_cons_of_mem _ hv)]

/-! ### What an operation of this device meets at a live block -/

/-- R292: an operation that suits its live block. -/
structure AtHome (s : State) (o : ObjReq) (h : Nat) : Prop where
  home  : h = refHome o.ref.toNat
  own   : o.peer = none
  suits : s.objSuits h o.op = true
  live  : s.liveBlock h = true

theorem State.applied_own (hp : o.peer = none) (vals : List W32) : s.applied o vals = s := by
  simp only [State.applied, hp, Option.isSome_none, Bool.false_eq_true, if_false]

theorem State.applyObj_atHome (a : AtHome s o h) : s.applyObj o =
    match o.op with
    | .acq => if s.objHold h = holdFree then s.grant h o else s.queueAt h o
    | .trya => if s.objHold h = holdFree then (s.grant h o).tick 1 else (s.answer o [if s.withheld (.home h) then 2 else 1]).tick 1
    | .rel => if s.objHold h = s.holdWord o then (s.setHold h holdFree).serveLock h else s
    | .bara => ((s.lateNotices h o).notePhase h o).arriveBar h
    | .barw => (s.lateNotices h o).waitBar h o
    | .bar => (((s.lateNotices h o).notePhase h o).arriveBar h).waitPhase h o (s.objPhase h)
    | .semp => s.postSem h o
    | .semw => if o.arg ≤ s.objCnt h then (s.setObj h (s.objCnt h - o.arg) 0 holdFree).answer o [] else s.queueAt h o
    | .objq => s.answer o (s.queryObj h) := by
  obtain ⟨rfl, hp, hs, hl⟩ := a
  have hlive : s.makeLive (refHome o.ref.toNat) = s := if_pos hl
  simp only [State.applyObj, hs, Bool.not_true, Bool.false_eq_true, if_false, hlive]
  cases o.op <;> simp only [State.applied_own hp]

/-! ### The phase of a barrier in memory -/

/-- Bytes written one list after another. -/
theorem memPuts_append (l₁ l₂ : List Byte) : ∀ (m : List Host.Cell) (a : Nat),
    memPuts m a (l₁ ++ l₂) = memPuts (memPuts m a l₁) (a + l₁.length) l₂ := by
  induction l₁ with
  | nil => intro m a; rfl
  | cons v l₁ ih =>
    intro m a
    simp only [List.cons_append, memPuts, ih, List.length_cons]
    rw [show a + 1 + l₁.length = a + (l₁.length + 1) by omega]

/-- Bytes written outside a range leave it as it was. -/
theorem memGets_memPuts_out {m : List Host.Cell} (hm : Memory.wf m = true) {a b n : Nat} {bs : List Byte}
    (hb : b + n ≤ a ∨ a + bs.length ≤ b) : memGets (memPuts m a bs) b n = memGets m b n := by
  rw [memGets_eq, memGets_eq]
  refine List.map_congr_left fun k hk => memGet_memPuts_out hm ?_
  have := List.mem_range.mp hk
  omega

/-- R292: the phase that a written block shows. -/
theorem State.setObj_phase (hm : Memory.wf s.mem = true) (cnt phase hold : Nat) : (s.setObj h cnt phase hold).objPhase h = phase % 2 ^ 16 := by
  have hmem : (s.setObj h cnt phase hold).mem =
      memPuts (memPuts (memPuts s.mem (h + 8) (toLe 4 cnt)) (h + 12) (toLe 2 phase)) (h + 16) (toLe 4 hold) := by
    change memPuts (memPuts s.mem (h + 8) (toLe 4 cnt ++ toLe 2 phase)) (h + 16) (toLe 4 hold) = _
    rw [memPuts_append, toLe_length]
  have hin := memGets_memPuts (memPuts_wf hm (h + 8) (toLe 4 cnt)) (h + 12) (toLe 2 phase)
  rw [toLe_length] at hin
  rw [State.objPhase, State.bytesAt, hmem, memGets_memPuts_out (memPuts_wf (memPuts_wf hm _ _) _ _) (by omega), hin, leNat_toLe,
    show 256 ^ 2 = 2 ^ 16 by norm_num]

theorem State.peerAnswer_mem (s : State) (o : ObjReq) (p : PeerRet) (code : Nat) (vals : List W32) :
    (s.peerAnswer o p code vals).mem = s.mem := by
  unfold State.peerAnswer State.fabReply
  split <;> rfl

theorem State.answer_mem (s : State) (o : ObjReq) (vals : List W32) : (s.answer o vals).mem = s.mem := by
  unfold State.answer
  split
  · exact State.peerAnswer_mem s o _ 0 vals
  · unfold State.updFiring
    split <;> rfl

theorem State.objPhase_congr (hm : t.mem = s.mem) : t.objPhase h = s.objPhase h := by
  rw [State.objPhase, State.bytesAt, hm]
  rfl

/-- R78, R292: what a block shows of its withhold count and identifier is not its phase. -/
theorem State.syncHome_phase (hm : Memory.wf s.mem = true) : (s.syncHome h).objPhase h = s.objPhase h := by
  unfold State.syncHome
  split
  · have hmem (l₁ l₂ : List Byte) : (((s.setBytes (h + 14) l₁).setBytes (h + 20) l₂).flushRa (h + 14) 8).mem =
        memPuts (memPuts s.mem (h + 14) l₁) (h + 20) l₂ := rfl
    rw [State.objPhase, State.bytesAt, hmem, memGets_memPuts_out (memPuts_wf hm _ _) (by omega), memGets_memPuts_out hm (by omega)]
    rfl
  · rfl

/-- R294: the halts that an arrival makes known, and the phase it records, are not the block's phase. -/
theorem State.arrival_phase (hm : Memory.wf s.mem = true) : ((s.lateNotices h o).notePhase h o).objPhase h = s.objPhase h := by
  have hlate : (s.lateNotices h o).objPhase h = s.objPhase h := by
    unfold State.lateNotices
    dsimp only
    split
    · rfl
    · refine (State.syncHome_phase ?_).trans ?_
      · exact hm
      · rfl
  refine (State.objPhase_congr ?_).trans hlate
  unfold State.notePhase State.updFiring
  split
  · split <;> rfl
  · rfl

/-- A fold of answers leaves the phase as it is. -/
theorem State.answers_phase (l : List ObjReq) (f : ObjReq → List W32) : ∀ t : State,
    (l.foldl (fun t w => t.answer w (f w)) t).objPhase h = t.objPhase h := by
  induction l with
  | nil => exact fun _ => rfl
  | cons w l ih => exact fun t => (ih _).trans (State.objPhase_congr (State.answer_mem t w _))

/-! ### Barriers -/

theorem State.arriveBar_ends (hc : u.objCnt h + 1 = u.objParm h) : u.arriveBar h = phaseEnds u h := by
  rw [State.arriveBar, if_pos hc]
  rfl

theorem State.arriveBar_counts (hc : u.objCnt h + 1 ≠ u.objParm h) : u.arriveBar h = phaseCounts u h := by
  rw [State.arriveBar, if_neg hc]
  rfl

theorem objPhase_lt (u : State) (h : Nat) : u.objPhase h < 2 ^ 16 := by
  have hl : u.objPhase h < 256 ^ (u.bytesAt (h + 12) 2).length := leNat_lt _
  have hn : (u.bytesAt (h + 12) 2).length = 2 := memGets_length _ _ _
  rw [hn] at hl
  omega

/-- Who waits at a block is not its phase. -/
theorem State.homes_phase (s : State) (w : SMap (List ObjReq)) (h : Nat) : ({ s with homes := w } : State).objPhase h = s.objPhase h := rfl

theorem phaseEnds_phase (hm : Memory.wf u.mem = true) : (phaseEnds u h).objPhase h = (u.objPhase h + 1) % 2 ^ 16 := by
  unfold phaseEnds
  generalize hnext : (u.objPhase h + 1) % 2 ^ 16 = next
  have hlt : next < 2 ^ 16 := hnext ▸ Nat.mod_lt _ (by norm_num)
  dsimp only
  rw [State.answers_phase, State.homes_phase, State.setObj_phase hm, Nat.mod_eq_of_lt hlt]

theorem phaseCounts_phase (hm : Memory.wf u.mem = true) : (phaseCounts u h).objPhase h = u.objPhase h := by
  rw [phaseCounts, State.setObj_phase hm, Nat.mod_eq_of_lt (objPhase_lt u h)]

/-- R294: a barrier arrival that also waits: it goes on where its arrival has ended the phase, and else waits for that. -/
theorem State.waitPhase_arrived (hm : Memory.wf u.mem = true) (hp : u.objPhase h = s.objPhase h) :
    (u.objCnt h + 1 = u.objParm h → (u.arriveBar h).waitPhase h o (s.objPhase h) = (phaseEnds u h).answer o [BitVec.ofNat 32 (u.objPhase h)]) ∧
    (u.objCnt h + 1 ≠ u.objParm h →
      (u.arriveBar h).waitPhase h o (s.objPhase h) = (phaseCounts u h).queueAt h { o with op := .barw, arg := u.objPhase h }) := by
  have hlt := objPhase_lt u h
  rw [← hp]
  refine ⟨fun hc => ?_, fun hc => ?_⟩
  · rw [State.arriveBar_ends hc, State.waitPhase, phaseEnds_phase hm, if_neg (by omega)]
  · rw [State.arriveBar_counts hc, State.waitPhase, phaseCounts_phase hm, if_pos rfl]

theorem State.lateNotices_mem_wf (hm : Memory.wf s.mem = true) : Memory.wf ((s.lateNotices h o).notePhase h o).mem = true := by
  have hlate : Memory.wf (s.lateNotices h o).mem = true := by
    unfold State.lateNotices State.syncHome
    dsimp only
    split
    · exact hm
    · split
      · exact memPuts_wf (memPuts_wf hm _ _) _ _
      · exact hm
  unfold State.notePhase State.updFiring
  split
  · split <;> exact hlate
  · exact hlate

theorem State.waitBar_own (hp : o.peer = none) :
    s.waitBar h o = s.waitPhase h o ((mfind (s.firing o.core o.slot o.fid).phases h).getD (s.objPhase h)) := by
  simp only [State.waitBar, hp]

/-! ### The settlement -/

/-- R294: a post serves the waits that it covers, past its bound with a report. -/
theorem State.postSem_own (hp : o.peer = none) : s.postSem h o =
    let sum := s.objCnt h + o.arg
    let u := if 2 ^ 31 ≤ sum then s.faultMsg ⟨o.ctx, o.core, o.slot, false⟩ 0x3E 0 else s
    let r := serveSem (mget s.homes h []) (min sum (2 ^ 31 - 1))
    r.1.foldl (fun t w => t.answer w []) { u.setObj h r.2.2 0 holdFree with homes := mput s.homes h r.2.1 } := by
  unfold State.postSem
  dsimp only
  split
  · rw [State.reportObj, hp]
    rfl
  · rw [State.applied_own hp]

/-- Settles O13: each operation by what it does at a block that it suits and that is live. -/
theorem objectsAtTheirHome : Obligations.ObjectsAtTheirHome := by
  intro s o hp h hs hl
  have hx := State.applyObj_atHome (h := h) ⟨rfl, hp, hs, hl⟩
  refine ⟨fun hop hf => ?_, fun hop hf => ?_, fun hop hf => ?_, fun hop hf => ?_, fun hop hf => ?_, ⟨fun hop => ⟨fun hc => ?_, fun hc => ?_⟩,
    fun hop hm => ?_⟩, fun hop => ⟨fun hc => ?_, fun hc => ?_⟩, fun hop hc => ?_, fun hop hc => ?_, fun hop => ?_, fun ws cnt => ?_,
    fun hop => ?_⟩
  · rcases hop with hop | hop
    · rw [hx, hop]
      exact if_pos hf
    · rw [hx, hop]
      exact if_pos hf
  · rw [hx, hop]
    exact if_neg hf
  · rw [hx, hop]
    exact if_neg hf
  · rw [hx, hop]
    exact if_pos hf
  · rw [hx, hop]
    exact if_neg hf
  · rw [hx, hop]
    exact State.arriveBar_ends hc
  · rw [hx, hop]
    exact State.arriveBar_counts hc
  · rw [hx, hop]
    exact State.waitPhase_arrived (State.lateNotices_mem_wf hm) (State.arrival_phase hm)
  · rw [hx, hop, State.waitBar_own hp]
    exact if_neg hc
  · rw [hx, hop, State.waitBar_own hp]
    exact if_pos hc
  · rw [hx, hop]
    exact if_pos hc
  · rw [hx, hop]
    exact if_neg (Nat.not_le.mpr hc)
  · rw [hx, hop]
    exact State.postSem_own hp
  · obtain ⟨h1, h2⟩ := serveSem_conserves ws cnt
    refine ⟨h1, h2, serveSem_covers_none ws cnt, fun w rest hw => ?_⟩
    subst hw
    exact ⟨fun h3 h4 => if_pos ⟨h3, h4⟩, fun h3 => if_neg (by rintro ⟨h4, h5⟩; rcases h3 with h3 | h3; exacts [h3 h4, by omega])⟩
  · rw [hx, hop]

end Sys2Proof.Machine
end

/-! ## What a load from the own slice and a store to it leave unchanged (R284, R285) -/
section
namespace Sys2Proof.Machine
open Sys2Proof.Claims

variable {s t u : State} {q : Acc} {n : Nat}

/-! ### The bytes of a load -/

/-- R284: bytes written to a destination: of the device nothing else changes. -/
theorem Acc.putBytes_kept (s : State) (q : Acc) (bs : List Byte) : Kept s (q.putBytes s bs) := by
  unfold Acc.putBytes
  split
  · exact Kept.refl s
  · exact (State.regPuts_kept s _ _ _).trans (Acc.wrote_kept _ _)

theorem Acc.putBytes_cur (s : State) (q : Acc) (bs : List Byte) : { (q.putBytes s bs).cur with ports := [] } = { s.cur with ports := [] } := by
  unfold Acc.putBytes
  split
  · rfl
  · refine (Acc.wrote_cur q _).trans ?_
    rw [State.regPuts_cur]

theorem Acc.putLoad_kept (s : State) (q : Acc) (bs : List Byte) : Kept s (q.putLoad s bs) := by
  unfold Acc.putLoad
  split
  · exact Acc.putLanes_kept s q _ _
  · exact Acc.putBytes_kept s q _

theorem Acc.putLoad_cur (s : State) (q : Acc) (bs : List Byte) :
    { (q.putLoad s bs).cur with ports := [], outMsg := [] } = { s.cur with ports := [], outMsg := [] } := by
  unfold Acc.putLoad
  split
  · exact Acc.putLanes_cur s q _ _
  · exact congrArg (fun x : Slot => { x with outMsg := [] }) (Acc.putBytes_cur s q bs)

theorem ldOk_b {v : View} {size : Nat} (hb : v.ty = .b) (h8 : size ≠ 8) (h : ldOk v size = true) : v.shape = 0 := by
  unfold ldOk at h
  rw [if_neg (by rw [hb]; decide), if_pos hb, if_neg h8] at h
  simpa using h

/-- R284: a destination that is no `b` view is as wide as the load. -/
theorem ldOk_bits {v : View} {size : Nat} (hb : v.ty ≠ .b) (h : ldOk v size = true) : v.ty.bits = 8 * size := by
  unfold ldOk at h
  rw [if_neg hb] at h
  split at h
  · cases h
  · simp only [Bool.and_eq_true, beq_iff_eq] at h
    exact h.2

/-- R284: the elements of a load's destination span its bytes, but those of one `b` word a whole word. -/
theorem ldOk_span {v : View} {size : Nat} (h : ldOk v size = true) :
    (wide v size * v.ty.bits + 7) / 8 = if v.ty = .b ∧ size ≠ 8 then 4 else size := by
  by_cases hb : v.ty = .b
  · rw [hb]
    by_cases h8 : size = 8
    · rw [if_neg (by simp [h8])]
      simp [wide, h8, hb, Ty.bits]
    · rw [if_pos ⟨rfl, h8⟩]
      simp [wide, h8, Ty.bits]
  · rw [if_neg (by simp [hb]), ldOk_bits hb h]
    simp only [wide, hb, and_false, if_false]
    omega

/-- R62: `out.msg` is one `b` word. -/
theorem State.view_msg {k : Nat} (h : (s.view k).h = 50) : (s.view k).ty = .b ∧ (s.view k).shape = 0 := by
  unfold State.view at h ⊢
  dsimp only at h ⊢
  split
  next hk =>
    rw [if_pos hk] at h
    replace h : s.cur.stagger k = 50 := h
    simp only [View.ty, View.shape, h, show fixedDesc 50 s.resType = mkDesc 15 0 1 1 from rfl]
    exact ⟨rfl, by decide⟩
  next hk =>
    rw [if_neg hk] at h
    have : s.cur.stagger k = 50 := by
      split at h
      · split at h <;> exact h
      · exact h
    omega

/-- R284: the bytes a load writes lie in its destination. -/
theorem Acc.putLoad_out {s : State} (hm : Memory.wf s.mem = true) {q : Acc} {bs : List Byte} (hout : q.out = true)
    (hok : ldOk q.v bs.length = true) (hn : q.n = wide q.v bs.length) (h8 : bs.length ≤ 8)
    (hfix : q.v.fixed = true → q.v.h = 50 ∨ q.v.h = 54) (hmsg : q.v.h = 50 → q.v.ty = .b ∧ q.v.shape = 0) {u : Nat}
    (hu : ∀ r ∈ q.ranges, ∀ k, k < r.2 → u ≠ s.winAddr ⟨q.v.core, q.v.slot, r.1 + k⟩) :
    memGet (q.putLoad s bs).mem u = memGet s.mem u := by
  by_cases hv : q.v.fixed = true
  · rcases hfix hv with h50 | h54
    · obtain ⟨hb, hs⟩ := hmsg h50
      have hne : bs.length ≠ 8 := fun h => by simp [ldOk, hb, hs, h] at hok
      simp [Acc.putLoad, Acc.putLanes, hb, show bs.length < 8 by omega, h50]
    · simp only [Acc.putLoad, Acc.putLanes, Acc.putBytes, h54, if_true, ite_self]
  · have hr : q.ranges = [(q.v.start q.o true, if q.v.ty = .b ∧ bs.length ≠ 8 then 4 else bs.length)] := by
      have hn0 : q.n ≠ 0 := by rw [hn, wide]; split <;> omega
      simp only [Acc.ranges, hv, Bool.false_eq_true, if_false, if_pos hn0, hout]
      rw [hn, ldOk_span hok]
    have h54 : q.v.h ≠ 54 ∧ q.v.h ≠ 50 := by
      simp only [View.fixed, decide_eq_true_eq] at hv
      omega
    rw [hr, List.forall_mem_singleton] at hu
    unfold Acc.putLoad
    split
    next hb =>
      obtain ⟨hb, hl⟩ := hb
      have hs0 := ldOk_b hb (by omega) hok
      simp only [Acc.putLanes, h54.1, h54.2, if_false, hb, show Ty.b ≠ Ty.i4x by decide, show ¬ 32 < Ty.b.bits by decide,
        show ¬ 32 = 64 by decide, false_and, and_false, Acc.wrote_mem]
      refine State.regPuts_out hm ?_
      simp only [List.forall_mem_singleton, List.flatMap_cons, List.flatMap_nil, List.append_nil, rawBytes, toLe_length]
      rw [if_pos ⟨hb, by omega⟩] at hu
      exact hu
    next hb =>
      simp only [Acc.putBytes, h54.1, if_false, Acc.wrote_mem]
      refine State.regPuts_out hm (List.forall_mem_singleton.mpr ?_)
      rwa [if_neg (fun hc => hb ⟨hc.1, by omega⟩)] at hu

/-! ### What a store changes -/

/-- What a store to the own slice leaves as it was, beside memory: of the device all but poison marks (R418), of other cores all but
what issued last, of other slots all but run-ahead entries (R175), of its own slot all but retiring and the journal (R278). -/
structure StoreKept (s t : State) : Prop where
  device : { t.frame0 with poison := [] } = { s.frame0 with poison := [] }
  cores  : ∀ c, c ≠ s.curCore → (t.core c).unissued = (s.core c).unissued
  slots  : ∀ k, k ≠ s.curSlot → { t.slot s.curCore k with ra := [] } = { s.slot s.curCore k with ra := [] }
  cur    : { t.cur.frame0 with jrn := [] } = { s.cur.frame0 with jrn := [] }

theorem StoreKept.curCore (h : StoreKept s t) : t.curCore = s.curCore := (congrArg State.curCore h.device :)

theorem StoreKept.curSlot (h : StoreKept s t) : t.curSlot = s.curSlot := (congrArg State.curSlot h.device :)

theorem StoreKept.trans (h : StoreKept s t) (k : StoreKept t u) : StoreKept s u where
  device := k.device.trans h.device
  cores c hc := (k.cores c (h.curCore ▸ hc)).trans (h.cores c hc)
  slots j hj := h.curCore ▸ (k.slots j (h.curSlot ▸ hj)).trans (h.curCore.symm ▸ h.slots j hj)
  cur := k.cur.trans h.cur

theorem Kept.storeKept (h : Kept s t) (hc : s.cur.retires t.cur) : StoreKept s t :=
  ⟨congrArg (fun x : State => { x with poison := [] }) h.device, h.cores,
    fun k hk => congrArg (fun x : Slot => { x with ra := [] }) (h.slots k hk), congrArg (fun x : Slot => { x with jrn := [] }) hc⟩

/-- A table in which the entry of one key changes. -/
theorem mget_map_key {β : Type} (f : β → β) (d : β) (hd : f d = d) (c k : Nat) : ∀ m : SMap β,
    mget (m.map fun p => if p.1 = c then (p.1, f p.2) else p) k d = if k = c then f (mget m k d) else mget m k d
  | [] => by simp only [List.map_nil, mget, hd, ite_self]
  | p :: m => by
    have ih := mget_map_key f d hd c k m
    by_cases hp : p.1 = c
    · by_cases hk : p.1 = k
      · simp only [List.map_cons, mget, hp, if_true, hk ▸ hp]
      · simpa only [List.map_cons, mget, hp, if_true, hp ▸ hk, if_false] using ih
    · by_cases hk : p.1 = k
      · simp only [List.map_cons, mget, if_false, hk, if_true, hk ▸ hp]
      · simpa only [List.map_cons, mget, hp, hk, if_false] using ih

/-- What an instruction that retires leaves as it was, when its own effect left as much. -/
theorem StoreKept.retired (i : Instr) (h : StoreKept s t) : StoreKept s (s.retired i t) := by
  have h2 := State.count_kept (t.noteIssue s) 2
  rw [State.noteIssue_curCore, h.curCore] at h2
  exact h.trans ((((State.noteIssue_kept t s).trans h2).trans (State.retire_kept _ _)).storeKept (State.retired_cur s i t))

/-- R175: a slot without the run-ahead entries that hold a word of n bytes at a. -/
def Slot.without (a n : Nat) (x : Slot) : Slot :=
  { x with ra := x.ra.filter fun e => !decide (e.addr / 4 * 4 < a + n ∧ a < (e.addr + e.size + 3) / 4 * 4) }

/-- R175: the cores after a write. -/
theorem State.flushRa_core (s : State) (a n c : Nat) : (s.flushRa a n).core c =
    if c = a / 2 ^ 17 then { s.core c with slots := (s.core c).slots.map fun p => (p.1, p.2.without a n) } else s.core c :=
  mget_map_key (fun x : Core => { x with slots := x.slots.map fun p => (p.1, p.2.without a n) }) Core.reset rfl (a / 2 ^ 17) c s.cores

/-- R175: another core keeps its run-ahead entries. -/
theorem State.flushRa_core_ne {a c : Nat} (h : c ≠ a / 2 ^ 17) : (s.flushRa a n).core c = s.core c :=
  (State.flushRa_core s a n c).trans (if_neg h)

/-- R175: a slot keeps all but run-ahead entries. -/
theorem State.flushRa_slot (s : State) (a n c k : Nat) : { (s.flushRa a n).slot c k with ra := [] } = { s.slot c k with ra := [] } := by
  rw [State.slot, State.flushRa_core]
  split
  · dsimp only
    rw [mget_map (Slot.without a n) Slot.reset rfl]
    rfl
  · rfl

/-- R278: pre-images with room in the journal. -/
theorem State.journal_kept {es : List Jrn} (h : s.cur.restart = true → s.cur.jrn.length + es.length ≤ 512) :
    StoreKept s (s.journal es) ∧ (s.journal es).mem = s.mem := by
  unfold State.journal
  split
  next hr =>
    rw [if_pos (h hr)]
    refine ⟨?_, rfl⟩
    have hk := Kept.updCur s fun x => { x with jrn := x.jrn ++ es }
    exact ⟨congrArg (fun x : State => { x with poison := [] }) hk.device, hk.cores,
      fun k hk' => congrArg (fun x : Slot => { x with ra := [] }) (hk.slots k hk'), by rw [State.cur_updCur]; rfl⟩
  next => exact ⟨(Kept.refl s).storeKept rfl, rfl⟩

/-- Run-ahead entries are no part of a slot's frame. -/
theorem Slot.frame0_of_ra {x y : Slot} (h : { x with ra := [] } = { y with ra := [] }) : x.frame0 = y.frame0 :=
  (congrArg Slot.frame0 h : Slot.frame0 { x with ra := [] } = Slot.frame0 { y with ra := [] })

/-- R285: bytes stored in the executing core's slice. -/
theorem State.storeNear_kept {w : Writer} {a : Nat} {bs : List Byte} (hl : s.touchesLive a bs.length = false)
    (ha : a / 2 ^ 17 = s.curCore) : StoreKept s (s.storeNear w a bs) := by
  simp only [State.storeNear, hl, Bool.false_eq_true, if_false]
  have hs (k : Nat) : { ((((s.setBytes a bs).clearPoison a bs.length).flushRa a bs.length).slot s.curCore k) with ra := [] } =
    { (s.slot s.curCore k) with ra := [] } := State.flushRa_slot _ a bs.length s.curCore k
  refine ⟨rfl, fun c hc => congrArg Core.unissued (State.flushRa_core_ne (ha ▸ hc)), fun k _ => hs k, ?_⟩
  exact congrArg (fun x : Slot => { x with jrn := [] }) (Slot.frame0_of_ra (hs s.curSlot))

/-- R292: which blocks are live. -/
theorem StoreKept.touchesLive (h : StoreKept s t) (a n : Nat) : t.touchesLive a n = s.touchesLive a n :=
  (congrArg (fun x : State => x.touchesLive a n) h.device :)

/-- R278, R285: a store to the own slice, journalled: what it leaves as it was, and what memory holds after it. -/
theorem State.storeOwn_kept {bs : List Byte} (hl : s.touchesLive n bs.length = false) (ha : n / 2 ^ 17 = s.curCore)
    (hj : s.cur.restart = true → s.cur.jrn.length < 512) :
    StoreKept s (s.storeOwn [(n, bs)]) ∧ (s.storeOwn [(n, bs)]).mem = memPuts s.mem n bs := by
  obtain ⟨hk, hm⟩ := State.journal_kept (s := s) (es := [⟨n, s.bytesAt n bs.length⟩]) hj
  have hl' := (hk.touchesLive n bs.length).trans hl
  have hown : s.storeOwn [(n, bs)] = (s.journal [⟨n, s.bytesAt n bs.length⟩]).storeNear s.writerCur n bs := by
    simp [State.storeOwn, hl]
  rw [hown]
  exact ⟨hk.trans (State.storeNear_kept hl' (ha.trans hk.curCore.symm)), (State.storeNear_mem hl').trans (congrArg (memPuts · n bs) hm)⟩

/-- R411: a context without watchpoints has no hit. -/
theorem StoreKept.hitsAt_nil (h : StoreKept s t) (hw : (s.ctx s.cur.ctx).watch = []) {a : Nat} : hitsAt t a n = [] := by
  have hctx : t.cur.ctx = s.cur.ctx := (congrArg Slot.ctx h.cur :)
  have hctxs : t.ctx s.cur.ctx = s.ctx s.cur.ctx := (congrArg (fun x : State => x.ctx s.cur.ctx) h.device :)
  simp only [hitsAt, State.watchHits, hctx, hctxs, hw, List.filter_nil, List.map_nil, ite_self]

theorem reported_of_nil {a : Nat} (h : hitsAt t a n = []) : Claims.reported t a n = t := by
  simp only [Claims.reported, h, State.watchReports, List.foldl_nil, ite_self]

/-- R17, R65: the own slice of an address is its own core's. -/
theorem State.ownSlice_core (h : s.ownSlice n = true) : n / 2 ^ 17 = s.curCore := by
  simp only [State.ownSlice, Bool.and_eq_true, Bool.not_eq_true', beq_iff_eq, State.lcore, agentCore] at h
  simpa [h.1] using h.2

/-- R62: a ready write of a fixed port is one of `out.msg` or `zero`. -/
theorem Acc.ready_fixed (h : q.ready s = true) (hout : q.out = true) (hf : q.v.fixed = true) : q.v.h = 50 ∨ q.v.h = 54 := by
  simp only [Acc.ready, Bool.and_eq_true, Option.isNone_iff_eq_none] at h
  obtain ⟨⟨⟨⟨⟨⟨-, hfix⟩, -⟩, -⟩, -⟩, -⟩, -⟩ := h
  simp only [Acc.fixedTrap, hf, hout, Bool.not_true, Bool.false_eq_true, if_false, if_true] at hfix
  by_contra hc
  rw [if_neg hc] at hfix
  cases hfix

theorem bytesAt_length (s : State) (a n : Nat) : (s.bytesAt a n).length = n := memGets_length _ _ _

/-- The sizes of an access are at most eight bytes. -/
theorem size_le (sz : BitVec 2) : 2 ^ sz.toNat ≤ 8 := Nat.pow_le_pow_right (by decide) (Nat.le_of_lt_succ sz.isLt)

theorem Slot.dropWords_eq (x : Slot) (a n : Nat) : { x.dropWords a n with ra := [] } = { x with ra := [] } := by
  unfold Slot.dropWords
  split <;> rfl

/-- R284: what a load from the own slice leaves as it was. -/
theorem load_frame {sz o : BitVec 2} {f a d : BitVec 6} (hm : Memory.wf s.mem = true) (h : LoadReady s sz o f a d n) :
    let q := loadDst s o a d (wide (s.view d.toNat) (2 ^ sz.toNat))
    let t := s.retired (.ld sz o f a d) ((q.putLoad s (s.bytesAt n (2 ^ sz.toNat))).updCur (·.dropWords n (2 ^ sz.toNat)))
    Kept s t ∧ { t.cur.frame0 with ports := [], outMsg := [], ra := [] } = { s.cur.frame0 with ports := [], outMsg := [], ra := [] } ∧
      ∀ u : Nat, (∀ r ∈ q.ranges, ∀ k, k < r.2 → u ≠ s.winAddr ⟨(s.view d.toNat).core, (s.view d.toNat).slot, r.1 + k⟩) →
        memGet t.mem u = memGet s.mem u := by
  intro q t
  have hlen := bytesAt_length s n (2 ^ sz.toNat)
  refine ⟨State.retired_kept _ ((Acc.putLoad_kept s q _).trans (Kept.updCur _ _)), ?_, fun u hu => ?_⟩
  · have hc := State.retired_cur s (.ld sz o f a d) ((q.putLoad s (s.bytesAt n (2 ^ sz.toNat))).updCur (·.dropWords n (2 ^ sz.toNat)))
    rw [State.cur_updCur, Slot.retires, Slot.frame0_of_ra (Slot.dropWords_eq _ _ _)] at hc
    rw [hc]
    exact congrArg (fun x : Slot => { x.frame0 with ports := [], outMsg := [] }) (Acc.putLoad_cur s q _)
  · refine (congrArg (memGet · u) (State.retired_mem s _ _)).trans ?_
    exact Acc.putLoad_out hm rfl (hlen.symm ▸ h.ok) (hlen.symm ▸ rfl) (hlen.symm ▸ size_le sz) (Acc.ready_fixed h.dst rfl) State.view_msg hu

/-- Settles O11: the load's destination and the store's address hold all that changes in memory. -/
theorem loadAndStoreFrame : Obligations.LoadAndStoreFrame := by
  intro s t f a b d n hm hown
  refine ⟨fun sz o h hf ht hp hhit hx => ?_, fun sz sn g h hj hsc ht hl hroom hw hx => ?_⟩
  · have hd := (loadCompletes s sz o f a d n h).2.1 hhit hown hf ht hp
    rw [Host.Outcome.next.inj (hx.symm.trans hd)]
    exact load_frame hm h
  · have hlen := storeBytes_length s b (2 ^ sz.toNat)
    obtain ⟨hk, hmem⟩ := State.storeOwn_kept (bs := storeBytes s b (2 ^ sz.toNat)) (hlen.symm ▸ hl) (State.ownSlice_core hown) hroom
    have hnil : hitsAt (s.storeOwn [(n, storeBytes s b (2 ^ sz.toNat))]) n (2 ^ sz.toNat) = [] := hk.hitsAt_nil hw
    have hd := ((storeCompletes s sz b a f sn g).1 n h hown hj hsc ht).1 (.inr (by rw [hnil]; exact fun _ h => nomatch h))
    rw [reported_of_nil hnil] at hd
    rw [Host.Outcome.next.inj (hx.symm.trans hd)]
    have hr := hk.retired (.st sz b a f sn g)
    have hput : (s.retired (.st sz b a f sn g) (s.storeOwn [(n, storeBytes s b (2 ^ sz.toNat))])).mem =
        memPuts s.mem n (storeBytes s b (2 ^ sz.toNat)) := (State.retired_mem s _ _).trans hmem
    refine ⟨fun u hu => ?_, ?_, hr.device, hr.cores, hr.slots, hr.cur⟩
    · rw [hput]
      exact memGet_memPuts_out hm (hlen.symm ▸ hu)
    · have hget := memGets_memPuts hm n (storeBytes s b (2 ^ sz.toNat))
      rwa [hlen, ← hput] at hget

end Sys2Proof.Machine
end

/-! ## The lanes that an arithmetic form writes (R223, R257) -/
section
namespace Sys2Proof.Machine
open Sys2Proof.Claims

variable {s : State} {i : Instr} {f : Claims.Form}

/-- R258: where no element has a reserved code, a form comes to its lanes alone. -/
theorem arithRest_nil {o : BitVec 2} {d : Nat} {srcs : List Src} {x : Opts} (h : ∀ r ∈ arithRest o d srcs x s, ∃ v, r = .ok v) :
    arithRest o d srcs x s = [] := by
  unfold arithRest at h ⊢
  split
  next q hq =>
    simp only [hq] at h
    split
    next hc =>
      rw [if_pos hc] at h
      refine if_neg fun hany => ?_
      rw [if_pos hany] at h
      obtain ⟨r, hr, hne⟩ := List.any_eq_true.mp hany
      obtain ⟨v, hv⟩ := h r hr
      obtain ⟨e, -, he⟩ := List.mem_map.mp hr
      cases e with
      | bad c => exact absurd (he.trans hv) (by simp)
      | val x => exact absurd he.symm (by simpa using hne)
    next => rfl
  next => rfl

/-- R239: which source a select names changes no lane that has a value. -/
theorem Opts.blame_ok {x : Opts} {k v : Nat} {r : LOut} (h : x.blame k r = .ok v) : r = .ok v := by
  unfold Opts.blame at h
  split at h
  · cases h
  · exact h

/-- What lane k of a form comes to. -/
theorem arithLane_of_form (f : Claims.Form) (k : Nat) : arithLane f.o f.d f.srcs f.sem f.x s k =
    f.x.blame k (f.sem.f (arithTy f.d f.srcs s) (s.view f.d).rnd (s.view f.d).sat (laneSrcs s f k)) := rfl

/-- The values that a form gives its lanes. -/
def laneVals (s : State) (f : Claims.Form) : List Nat := (arithLanes f.o f.d f.srcs f.sem f.x s).map laneBits

theorem laneVals_length : (laneVals s f).length = laneCount (s.view f.d) (arithTy f.d f.srcs s) := by
  simp [laneVals, arithLanes]

theorem laneVals_outs (h : FormReady s f) : (arithOuts f.o f.d f.srcs f.sem f.x s).map laneBits = laneVals s f := by
  have hrest := arithRest_nil (s := s) (o := f.o) (d := f.d) (srcs := f.srcs) (x := f.x)
    fun r hr => h.lanes r (List.mem_append_right _ hr)
  rw [arithOuts, hrest, List.append_nil, laneVals]

/-- R223, R200: a form that nothing stops writes its values. -/
theorem writes_laneVals (h : FormReady s f) (hf : form s i = some f) : Writes s i f (laneVals s f) := by
  refine ⟨laneVals_length, (exec_of_formReady h hf).trans ?_⟩
  rw [formResult, formWritten, laneVals_outs h]

/-- R223: the value of a lane is what its operation makes of its sources. -/
theorem laneVals_sem (h : FormReady s f) {k : Nat} (hk : k < (laneVals s f).length) :
    f.sem.f (arithTy f.d f.srcs s) (s.view f.d).rnd (s.view f.d).sat (laneSrcs s f k) = .ok ((laneVals s f).getD k 0) := by
  have hk' := laneVals_length (s := s) (f := f) ▸ hk
  have hmem : arithLane f.o f.d f.srcs f.sem f.x s k ∈ arithOuts f.o f.d f.srcs f.sem f.x s :=
    List.mem_append_left _ (List.mem_map_of_mem (List.mem_range.mpr hk'))
  obtain ⟨v, hv⟩ := h.lanes _ hmem
  have hget : (laneVals s f).getD k 0 = v := by
    simp [laneVals, arithLanes, List.getD_eq_getElem?_getD, hk', hv, laneBits]
  rw [hget]
  exact Opts.blame_ok hv

/-- R223: a form that nothing stops, and the values it writes. -/
theorem exists_writes {P : Nat → Nat → Prop} (h : FormReady s f) (hf : form s i = some f)
    (hsem : ∀ k c, f.sem.f (arithTy f.d f.srcs s) (s.view f.d).rnd (s.view f.d).sat (laneSrcs s f k) = .ok c → P k c) :
    ∃ v, Writes s i f v ∧ ∀ k, k < v.length → P k (v.getD k 0) :=
  ⟨laneVals s f, writes_laneVals h hf, fun k hk => hsem k _ (laneVals_sem h hk)⟩

/-! ### Exact integer results (R96) -/

theorem Ty.not_isFloat {t : Ty} (h : t.isInt = true) : t.isFloat = false := by
  cases t <;> first | rfl | cases h

theorem arg_int (l : List LVal) (n : Nat) : (l.map LVal.int).getD n 0 = (lsrc l n).int := by
  exact List.getD_map (f := LVal.int) l (.num (.fin false 0 0))

/-- R96: on an integer type an operation of any class is that on integers. -/
theorem anySem_int {gi : List Int → Int} {gf : Nat → List XNum → XNum} {t : Ty} (ht : t.isInt = true) (rnd : Nat) (sat : Bool) (l : List LVal) :
    (anySem gi gf).f t rnd sat l = .ok (t.fit sat (gi (l.map LVal.int))) := by
  simp only [anySem, Ty.not_isFloat ht, Bool.false_eq_true, if_false]
  rfl

/-- R96: an operation that on integer types has the exact result of a formula in its first two sources. -/
def FitsTwo (m : Sem) (g : Int → Int → Int) : Prop :=
  ∀ (t : Ty), t.isInt = true → ∀ rnd sat l, m.f t rnd sat l = .ok (t.fit sat (g (lsrc l 0).int (lsrc l 1).int))

theorem fitsTwo_any (g : Int → Int → Int) {gf : Nat → List XNum → XNum} : FitsTwo (anySem (fun l => g (i1 l) (i2 l)) gf) g := by
  intro t ht rnd sat l
  rw [anySem_int ht, i1, i2, arg_int, arg_int]

theorem fitsTwo_add : FitsTwo semAdd fun a b => a + b := fitsTwo_any fun a b => a + b

theorem fitsTwo_sub : FitsTwo semSub fun a b => a - b := fitsTwo_any fun a b => a - b

theorem fitsTwo_rsub : FitsTwo semRsub fun a b => b - a := fitsTwo_any fun a b => b - a

theorem fitsTwo_mul : FitsTwo semMul fun a b => a * b := fitsTwo_any fun a b => a * b

theorem fitsTwo_min : FitsTwo semMin fun a b => if a ≤ b then a else b := by
  intro t ht rnd sat l
  exact (fitsTwo_any min t ht rnd sat l).trans (by rw [min_def])

theorem fitsTwo_max : FitsTwo semMax fun a b => if a ≤ b then b else a := by
  intro t ht rnd sat l
  exact (fitsTwo_any max t ht rnd sat l).trans (by rw [max_def])

theorem fitsTwo_abd : FitsTwo semAbd fun a b => |a - b| := by
  intro t ht rnd sat l
  exact (fitsTwo_any (fun a b => (a - b).natAbs) t ht rnd sat l).trans (by simp only [Int.natCast_natAbs])

theorem fitsTwo_avg : FitsTwo semAvg fun a b => (a + b + 1) / 2 := fitsTwo_any fun a b => (a + b + 1) / 2

/-- R200, R204, R226: the short integer forms and `ADDI` have their formula. -/
theorem fitsTwo_of_shortInt {g : Int → Int → Int} (hf : form s i = some f) (hg : shortInt i = some g) : FitsTwo f.sem g := by
  cases i
  case addShort | addi =>
    obtain rfl := Option.some.inj hg
    obtain rfl := Option.some.inj hf
    exact fitsTwo_add
  case subShort =>
    obtain rfl := Option.some.inj hg
    obtain rfl := Option.some.inj hf
    exact fitsTwo_sub
  case rsubShort =>
    obtain rfl := Option.some.inj hg
    obtain rfl := Option.some.inj hf
    exact fitsTwo_rsub
  case mulShort =>
    obtain rfl := Option.some.inj hg
    obtain rfl := Option.some.inj hf
    exact fitsTwo_mul
  case minShort =>
    obtain rfl := Option.some.inj hg
    obtain rfl := Option.some.inj hf
    exact fitsTwo_min
  case maxShort =>
    obtain rfl := Option.some.inj hg
    obtain rfl := Option.some.inj hf
    exact fitsTwo_max
  all_goals cases hg

theorem LVal.int_ofInt (v : Int) : (LVal.num (.ofInt v)).int = v := by
  simp only [XNum.ofInt, LVal.int, Int.toNat_zero, pow_zero, Nat.mul_one, decide_eq_true_eq]
  split <;> omega

/-- R204: the immediate of `ADDI` is its second source. -/
theorem addi_imm {n : BitVec 13} {a d : BitVec 6} (hf : form s (.addi n a d) = some f) (k : Nat) : (lsrc (laneSrcs s f k) 1).int = n.toInt := by
  obtain rfl := Option.some.inj hf
  exact LVal.int_ofInt n.toInt

theorem shortForms {g : Int → Int → Int} (hf : form s i = some f) (hg : shortInt i = some g)
    (ht : (arithTy f.d f.srcs s).isInt = true) (h : FormReady s f) :
    ∃ v, Writes s i f v ∧ ∀ k, k < v.length →
      v.getD k 0 = (arithTy f.d f.srcs s).fit (s.view f.d).sat (g (lsrc (laneSrcs s f k) 0).int (lsrc (laneSrcs s f k) 1).int) ∧
      ∀ n a d, i = .addi n a d → (lsrc (laneSrcs s f k) 1).int = n.toInt := by
  refine ⟨laneVals s f, writes_laneVals h hf, fun k hk => ⟨?_, ?_⟩⟩
  · exact LOut.ok.inj ((laneVals_sem h hk).symm.trans (fitsTwo_of_shortInt hf hg _ ht _ _ _))
  · rintro n a d rfl
    exact addi_imm hf k

/-! ### Form T of two sources (R226, R229) -/

/-- R258: an instruction that admits no `i4x` comes to its lanes alone. -/
theorem arithRest_plain {o : BitVec 2} {d : Nat} {srcs : List Src} {x : Opts} (h1 : x.odd ≠ .cvt) (h2 : x.odd ≠ .cvts) :
    arithRest o d srcs x s = [] := by
  unfold arithRest
  split
  · exact if_neg fun hc => hc.2.2.2.elim h1 h2
  · rfl

/-- R257: the lane of a source that lane k of a destination reads. -/
theorem lane_of_lt {v : View} {op : Ty} {k : Nat} (hk : k < laneCount v op) : (if v.shape = 1 then k else 0) = k := by
  split
  next => rfl
  next hs =>
    rw [laneCount, if_neg hs] at hk
    omega

/-- R226: form T of two sources. -/
def formTwo (o : BitVec 2) (b a d : BitVec 6) (m : Sem) : Claims.Form := ⟨false, o, d.toNat, [.hnd a.toNat, .hnd b.toNat], m, {}⟩

section
variable {o : BitVec 2} {b a d : BitVec 6} {m : Sem} {g : Int → Int → Int} {sat : Bool}

/-- R95: the integers that the lanes of form T read. -/
theorem lsrc_formTwo {k : Nat} (hk : k < laneCount (s.view d.toNat) (arithTy d.toNat [.hnd a.toNat, .hnd b.toNat] s)) :
    (lsrc (laneSrcs s (formTwo o b a d m) k) 0).int = srcInt o d.toNat [.hnd a.toNat, .hnd b.toNat] s 0 k ∧
    (lsrc (laneSrcs s (formTwo o b a d m) k) 1).int = srcInt o d.toNat [.hnd a.toNat, .hnd b.toNat] s 1 k := by
  have h := lane_of_lt hk
  unfold laneSrcs formTwo
  dsimp only
  rw [h]
  exact ⟨rfl, rfl⟩

/-- R226, R229: form T of an operation that on integers is a formula, fitted. -/
theorem exec_formTwo (hf : form s i = some (formTwo o b a d m))
    (hsem : ∀ t : Ty, t.isInt = true → ∀ rnd l, m.f t rnd (s.view d.toNat).sat l = .ok (t.fit sat (g (lsrc l 0).int (lsrc l 1).int)))
    (hcls : m.cls = .any) (ht : (arithTy d.toNat [.hnd a.toNat, .hnd b.toNat] s).isInt = true) (hr : s.cur.runs = true)
    (hacc : ∀ q ∈ arithAccs o d.toNat [.hnd a.toNat, .hnd b.toNat] {} s, q.ready s = true)
    (hm : mismatch .any .none (arithTy d.toNat [.hnd a.toNat, .hnd b.toNat] s) (s.view d.toNat) [s.view a.toNat, s.view b.toNat] = [])
    (hop : noTrap (arithOpnd o d.toNat [.hnd a.toNat, .hnd b.toNat] {} s) = true) :
    exec i s = .next (s.retired i ((arithDst o d.toNat [.hnd a.toNat, .hnd b.toNat] s).putLanes s
      (arithTy d.toNat [.hnd a.toNat, .hnd b.toNat] s).bits
      ((List.range (laneCount (s.view d.toNat) (arithTy d.toNat [.hnd a.toNat, .hnd b.toNat] s))).map fun k =>
        (arithTy d.toNat [.hnd a.toNat, .hnd b.toNat] s).fit sat
          (g (srcInt o d.toNat [.hnd a.toNat, .hnd b.toNat] s 0 k) (srcInt o d.toNat [.hnd a.toNat, .hnd b.toNat] s 1 k))))) := by
  have hlane (k : Nat) : arithLane o d.toNat [.hnd a.toNat, .hnd b.toNat] m {} s k =
      .ok ((arithTy d.toNat [.hnd a.toNat, .hnd b.toNat] s).fit sat
        (g (lsrc (laneSrcs s (formTwo o b a d m) k) 0).int (lsrc (laneSrcs s (formTwo o b a d m) k) 1).int)) := hsem _ ht _ _
  have hrest : arithRest o d.toNat [.hnd a.toNat, .hnd b.toNat] {} s = [] := arithRest_plain (by decide) (by decide)
  have h : FormReady s (formTwo o b a d m) := by
    refine ⟨hr, (fun hc => nomatch hc), hacc, ?_, hop, rfl, rfl, (fun hc => nomatch hc), fun r hr => ?_⟩
    · exact (congrArg (fun c => mismatch c .none _ (s.view d.toNat) [s.view a.toNat, s.view b.toNat]) hcls).trans hm
    · rcases List.mem_append.mp hr with hr | hr
      · obtain ⟨k, -, rfl⟩ := List.mem_map.mp hr
        exact ⟨_, hlane k⟩
      · exact absurd ((congrArg (r ∈ ·) hrest).mp hr) List.not_mem_nil
  refine (writes_laneVals h hf).2.trans ?_
  have hvals : laneVals s (formTwo o b a d m) =
      (List.range (laneCount (s.view d.toNat) (arithTy d.toNat [.hnd a.toNat, .hnd b.toNat] s))).map fun k =>
        (arithTy d.toNat [.hnd a.toNat, .hnd b.toNat] s).fit sat
          (g (srcInt o d.toNat [.hnd a.toNat, .hnd b.toNat] s 0 k) (srcInt o d.toNat [.hnd a.toNat, .hnd b.toNat] s 1 k)) := by
    refine (List.map_map ..).trans (List.map_congr_left fun k hk => ?_)
    obtain ⟨h0, h1⟩ := lsrc_formTwo (o := o) (m := m) (List.mem_range.mp hk)
    rw [← h0, ← h1]
    exact congrArg laneBits (hlane k)
  rw [hvals]
  rfl

end

/-- Settles O2: the lanes take the formula's exact results, fitted. -/
theorem integerResultsAreExactFitted : Obligations.IntegerResultsAreExactFitted := by
  refine ⟨fun s i f g => shortForms, ?_⟩
  intro s o b a d srcs op ht hr hacc hm hop lanes out
  refine ⟨fun p hp => ?_, fun p hp => ?_⟩
  · simp only [intForms, List.mem_cons, List.not_mem_nil, or_false] at hp
    rcases hp with rfl | rfl | rfl | rfl | rfl | rfl | rfl | rfl
    · exact exec_formTwo (i := .add o b a d) rfl (fun t ht rnd l => fitsTwo_add t ht rnd _ l) rfl ht hr hacc hm hop
    · exact exec_formTwo (i := .sub o b a d) rfl (fun t ht rnd l => fitsTwo_sub t ht rnd _ l) rfl ht hr hacc hm hop
    · exact exec_formTwo (i := .rsub o b a d) rfl (fun t ht rnd l => fitsTwo_rsub t ht rnd _ l) rfl ht hr hacc hm hop
    · exact exec_formTwo (i := .mul o b a d) rfl (fun t ht rnd l => fitsTwo_mul t ht rnd _ l) rfl ht hr hacc hm hop
    · exact exec_formTwo (i := .min o b a d) rfl (fun t ht rnd l => fitsTwo_min t ht rnd _ l) rfl ht hr hacc hm hop
    · exact exec_formTwo (i := .max o b a d) rfl (fun t ht rnd l => fitsTwo_max t ht rnd _ l) rfl ht hr hacc hm hop
    · exact exec_formTwo (i := .abd o b a d) rfl (fun t ht rnd l => fitsTwo_abd t ht rnd _ l) rfl ht hr hacc hm hop
    · exact exec_formTwo (i := .avg o b a d) rfl (fun t ht rnd l => fitsTwo_avg t ht rnd _ l) rfl ht hr hacc hm hop
  · simp only [satForms, List.mem_cons, List.not_mem_nil, or_false] at hp
    rcases hp with rfl | rfl
    · exact exec_formTwo (i := .adds o b a d) rfl (fun t ht rnd l => fitsTwo_add t ht rnd true l) rfl ht hr hacc hm hop
    · exact exec_formTwo (i := .subs o b a d) rfl (fun t ht rnd l => fitsTwo_sub t ht rnd true l) rfl ht hr hacc hm hop

end Sys2Proof.Machine
end

/-! ## An arithmetic form that reads `in.rpl` in a restartable firing commits first (R279) -/
section
namespace Sys2Proof.Machine
open Sys2Proof.Claims

variable {s u : State} {i : Instr} {f : Claims.Form} {q : Acc}

/-- A state that is another's but for the restartability of its firings. -/
structure SameButRestart (s u : State) : Prop where
  device : u.frame0 = s.frame0
  parity : u.parity = s.parity
  cores  : ∀ c, { u.core c with slots := [] } = { s.core c with slots := [] }
  slots  : ∀ c k, { u.slot c k with restart := false } = { s.slot c k with restart := false }

/-- The executing firing, no more restartable. -/
theorem SameButRestart.unrestarted (s : State) : SameButRestart s (s.updCur fun x => { x with restart := false }) := by
  refine ⟨rfl, rfl, fun c => ?_, fun c k => ?_⟩
  · by_cases hc : c = s.curCore
    · rw [hc, State.updCur, State.core_updSlot_self]
    · rw [State.updCur, State.core_updSlot_ne s _ hc]
  · by_cases hc : c = s.curCore
    · by_cases hk : k = s.curSlot
      · rw [hc, hk, State.updCur, State.slot_updSlot_self]
      · rw [hc, State.updCur, State.slot_updSlot_ne s _ hk]
    · rw [State.updCur, State.slot_updSlot_core_ne s _ hc]

section
variable (h : SameButRestart s u)
include h

theorem SameButRestart.curCore : u.curCore = s.curCore := (congrArg State.curCore h.device :)

theorem SameButRestart.curSlot : u.curSlot = s.curSlot := (congrArg State.curSlot h.device :)

theorem SameButRestart.cur : { u.cur with restart := false } = { s.cur with restart := false } := by
  rw [State.cur, h.curCore, h.curSlot]
  exact h.slots _ _

theorem SameButRestart.curC : { u.curC with slots := [] } = { s.curC with slots := [] } := by
  rw [State.curC, h.curCore]
  exact h.cores _

theorem SameButRestart.win (c k : Nat) : u.win c k = s.win c k := by
  have hs : ((u.slot c k).wbase, (u.slot c k).wlen) = ((s.slot c k).wbase, (s.slot c k).wlen) :=
    (congrArg (fun x : Slot => (x.wbase, x.wlen)) (h.slots c k) :)
  rw [State.win, hs]
  rfl

theorem SameButRestart.winAddrs (p : Place) (n : Nat) : u.winAddrs p n = s.winAddrs p n := by
  have hw (p : Place) : u.winAddr p = s.winAddr p := by
    have hs : (u.slot p.core p.slot).scrum = (s.slot p.core p.slot).scrum := (congrArg Slot.scrum (h.slots p.core p.slot) :)
    simp only [State.winAddr, hs, h.win]
  simp only [State.winAddrs, hw]

theorem SameButRestart.ownArr : u.ownArr = s.ownArr := by
  have hc : u.curC.arr = s.curC.arr := (congrArg Core.arr h.curC :)
  have hf : (u.cur.fid, u.cur.marr) = (s.cur.fid, s.cur.marr) := (congrArg (fun x : Slot => (x.fid, x.marr)) h.cur :)
  obtain ⟨hfid, hmarr⟩ := Prod.mk.inj hf
  rw [State.ownArr, hc, hfid, hmarr, h.curSlot]
  rfl

theorem SameButRestart.producer (c entry own : Nat) : u.producer c entry own = s.producer c entry own := by
  have hp (k : Nat) : u.producesInto (u.slot c k) entry = s.producesInto (s.slot c k) entry := by
    have hx : s.producesInto (u.slot c k) entry = s.producesInto (s.slot c k) entry :=
      (congrArg (fun x : Slot => s.producesInto x entry) (h.slots c k) :)
    exact (congrArg (fun v : State => v.producesInto (u.slot c k) entry) h.device :).trans hx
  simp only [State.producer, hp]

/-- R54: handles name the same views. -/
theorem SameButRestart.view (k : Nat) : u.view k = s.view k := by
  have hst : u.cur.stagger k = s.cur.stagger k := (congrArg (fun x : Slot => x.stagger k) h.cur :)
  have hv : (u.cur.views, u.cur.ports, u.cur.cbuf) = (s.cur.views, s.cur.ports, s.cur.cbuf) :=
    (congrArg (fun x : Slot => (x.views, x.ports, x.cbuf)) h.cur :)
  have hd (p : PortUse) (l : List Held) : p.desc u.curC l = p.desc s.curC l := (congrArg (fun x : Core => p.desc x l) h.curC :)
  obtain ⟨hviews, hports, hcbuf⟩ : u.cur.views = s.cur.views ∧ u.cur.ports = s.cur.ports ∧ u.cur.cbuf = s.cur.cbuf := by
    simpa using hv
  simp only [State.view, State.resType, hst, hviews, hports, hcbuf, hd, h.ownArr, h.producer, h.curCore, h.curSlot]

theorem SameButRestart.banks (q : Acc) : q.banks u = q.banks s := by
  simp only [Acc.banks, h.winAddrs]

theorem SameButRestart.bank (c b : Nat) : (u.core c).bank b = (s.core c).bank b ∧ (u.core c).bankAt = (s.core c).bankAt :=
  ⟨(congrArg (fun x : Core => x.bank b) (h.cores c) :), (congrArg Core.bankAt (h.cores c) :)⟩

theorem SameButRestart.bankWait (q : Acc) : q.bankWait u = q.bankWait s := by
  have hl : u.bankLate = s.bankLate := funext fun p => by rw [State.bankLate, (h.bank _ _).1, (h.bank _ 0).2]; rfl
  rw [Acc.bankWait, h.banks, hl, Acc.bankWait]

theorem SameButRestart.marks (q : Acc) : q.marks u = q.marks s := by
  have hp (k : Nat) : (u.slot s.curCore k).pend = (s.slot s.curCore k).pend := (congrArg Slot.pend (h.slots s.curCore k) :)
  simp only [Acc.marks, State.markers, h.curCore, h.curSlot, hp]

theorem SameButRestart.ringOk (q : Acc) : q.ringOk u = q.ringOk s := by
  have hr : u.cur.rpl = s.cur.rpl := (congrArg Slot.rpl h.cur :)
  have hc : u.curC.clop = s.curC.clop := (congrArg Core.clop h.curC :)
  have hk : u.curC.kpLast = s.curC.kpLast := (congrArg Core.kpLast h.curC :)
  have hrows : u.resRows = s.resRows := by rw [State.resRows, h.ownArr]; rfl
  simp only [Acc.ringOk, hr, hc, hk, hrows]

theorem SameButRestart.fixedTrap (q : Acc) : q.fixedTrap u = q.fixedTrap s := by
  have hreq : u.cur.hasReq = s.cur.hasReq := (congrArg Slot.hasReq h.cur :)
  have hout : u.cur.outMsg = s.cur.outMsg := (congrArg Slot.outMsg h.cur :)
  simp only [Acc.fixedTrap, hreq, hout]

theorem SameButRestart.msgTrap (q : Acc) : q.msgTrap u = q.msgTrap s := by
  have hout : u.cur.outMsg = s.cur.outMsg := (congrArg Slot.outMsg h.cur :)
  have hwords : u.cur.reqWords = s.cur.reqWords := (congrArg Slot.reqWords h.cur :)
  have hpos : u.cur.reqPos = s.cur.reqPos := (congrArg Slot.reqPos h.cur :)
  have hrpl : u.cur.rpl = s.cur.rpl := (congrArg Slot.rpl h.cur :)
  have hrpos : u.cur.rplPos = s.cur.rplPos := (congrArg Slot.rplPos h.cur :)
  simp only [Acc.msgTrap, hout, hwords, hpos, hrpl, hrpos]

/-- R224: an access is ready alike, but for the commit it asks for. -/
theorem SameButRestart.parts (hq : q.ready u = true) :
    q.outside s = false ∧ q.invalid s = false ∧ q.bankOff s = false ∧ q.bankWait s = false ∧ q.fixedTrap s = none ∧
      q.msgTrap s = none ∧ q.marks s = [] ∧ q.ringOk s = true ∧ q.badParity s = [] := by
  obtain ⟨h1, h2, h3, h4, h5, h6, h7, h8, h9, -⟩ := Acc.ready_parts hq
  simp only [Acc.outside, Acc.invalid, Acc.bankOff, Acc.badParity, h.win, h.banks, h.winAddrs, h.parity, (h.bank _ _).1] at h1 h2 h3 h9
  rw [h.bankWait] at h4
  rw [h.fixedTrap] at h5
  rw [h.msgTrap] at h6
  rw [h.marks] at h7
  rw [h.ringOk] at h8
  exact ⟨h1, h2, h3, h4, h5, h6, h7, h8, h9⟩

/-- R279: a restartable firing commits before an instruction goes on whose accesses are otherwise ready and read `in.rpl`. -/
theorem SameButRestart.gate {accs : List Acc} {opnd late : List (Option Trap)} (hq : ∀ q ∈ accs, q.ready u = true)
    (ho : noTrap opnd = true) (hl : noTrap late = true) (hr : accs.any (·.commits s) = true) :
    s.gate accs [] opnd late = some s.commitFirst := by
  have p := fun q hq' => h.parts (hq q hq')
  have hviews : s.viewTraps accs [] opnd = none := by
    have hopnd : s.oneOf (accs.map (Acc.fixedTrap s) ++ opnd) = none := s.oneOf_none fun t ht => by
      rcases List.mem_append.mp ht with ht | ht
      · obtain ⟨q, hq', rfl⟩ := List.mem_map.mp ht
        exact (p q hq').2.2.2.2.1
      · exact noTrap_mem ho t ht
    simp only [State.viewTraps, accTraps_nil 1 (Acc.outside s) fun q hq' => (p q hq').1, accTraps_nil 2 (Acc.invalid s) fun q hq' => (p q hq').2.1,
      accTraps_nil 4 (Acc.bankOff s) fun q hq' => (p q hq').2.2.1, hopnd]
    rfl
  have hmsgs : firstTrap (late.filter (fun t => t.any (fun u => u.code == 0xB)) ++
      (accs.map (Acc.msgTrap s)).filter (fun t => t.any (fun u => u.code == 9)) ++ accs.map (Acc.msgTrap s) ++ late) = none := by
    have hacc : ∀ t ∈ accs.map (Acc.msgTrap s), t = none := List.forall_mem_map.mpr fun q hq' => (p q hq').2.2.2.2.2.1
    refine firstTrap_none fun t ht => ?_
    simp only [List.mem_append, List.mem_filter] at ht
    rcases ht with ((⟨ht, -⟩ | ⟨ht, -⟩) | ht) | ht
    · exact noTrap_mem hl t ht
    · exact hacc t ht
    · exact hacc t ht
    · exact noTrap_mem hl t ht
  have hbanks : accs.any (Acc.bankWait s) = false := List.any_eq_false.mpr fun q hq' => by simp [(p q hq').2.2.2.1]
  have hmarks : s.pendWait accs = none := State.pendWait_none fun q hq' => (p q hq').2.2.2.2.2.2.1
  have hrings : s.ringWait accs = none := by
    have hbad : accs.filter (fun q => !q.ringOk s) = [] :=
      List.filter_eq_nil_iff.mpr fun q hq' => by simp [(p q hq').2.2.2.2.2.2.2.1]
    simp [State.ringWait, hbad, accTraps, State.oneOf]
  have hparity : accs.flatMap (Acc.badParity s) = [] := List.flatMap_eq_nil_iff.mpr fun q hq' => (p q hq').2.2.2.2.2.2.2.2
  simp only [State.gate, State.gateWith, hviews, hmsgs, hbanks, hmarks, hrings, hparity, hr, if_true, Bool.false_eq_true, if_false]

/-- R95: the operands of a form are the same. -/
theorem SameButRestart.arithAccs (o : BitVec 2) (d : Nat) (srcs : List Src) (x : Opts) : arithAccs o d srcs x u = arithAccs o d srcs x s := by
  simp only [Machine.arithAccs, arithDst, arithRds, arithOffs, arithCount, arithTy, srcViews, show u.view = s.view from funext h.view] <;> rfl

theorem SameButRestart.arithOpnd (o : BitVec 2) (d : Nat) (srcs : List Src) (x : Opts) : arithOpnd o d srcs x u = arithOpnd o d srcs x s := by
  simp only [Machine.arithOpnd, arithRds, arithOffs, arithCount, arithTy, srcViews, show u.view = s.view from funext h.view] <;> rfl

theorem SameButRestart.arithMism (d : Nat) (srcs : List Src) (m : Sem) (x : Opts) : arithMism d srcs m x u = arithMism d srcs m x s := by
  simp only [Machine.arithMism, arithTy, srcViews, show u.view = s.view from funext h.view]

end

/-- R279: an arithmetic form of a restartable firing that reads `in.rpl` commits its firing first. -/
theorem arith_commits (h : FormReady (s.updCur fun x => { x with restart := false }) f) (hr : s.cur.restart = true) (hc : s.cur.canCommit = true)
    (hq : ∃ q ∈ arithAccs f.o f.d f.srcs f.x s, q.v.h = 49 ∧ q.out = false) :
    arith f.o f.d f.srcs f.sem f.x s = .stay (s.commit s.curCore s.curSlot) := by
  have hs := SameButRestart.unrestarted s
  have hany : (arithAccs f.o f.d f.srcs f.x s).any (·.commits s) = true := by
    obtain ⟨q, hmem, h49, hout⟩ := hq
    exact List.any_eq_true.mpr ⟨q, hmem, by simp [Acc.commits, hr, h49, hout]⟩
  have hacc := h.accs
  have hopnd := h.opnd
  have hmism := h.mism
  rw [hs.arithAccs] at hacc
  rw [hs.arithOpnd] at hopnd
  rw [hs.arithMism] at hmism
  rw [arith, hmism, State.gated, hs.gate hacc hopnd h.late hany, State.commitFirst, if_pos hc]

/-- Settles O1. -/
theorem arithmeticCompletes : Obligations.ArithmeticCompletes := by
  refine fun s i f hf => ⟨fun h => exec_of_formReady h hf, fun h hr hc hq => ?_⟩
  obtain ⟨v, hexec, hv⟩ := exec_form hf
  have hs := SameButRestart.unrestarted s
  have hruns : s.cur.runs = true := (congrArg Slot.runs hs.cur :).symm.trans h.runs
  rw [hexec, State.issueAs_runs hruns (profileOk_of_form h.agent), hv, arith_commits h hr hc hq]
  rfl

end Sys2Proof.Machine
end

/-! ## What an arithmetic form leaves unchanged (R223, R226, R59, R200) -/
section
namespace Sys2Proof.Machine
open Sys2Proof.Claims

variable {s t u : State} {i : Instr} {f : Claims.Form} {q : Acc} {op : Ty} {raws : List Nat}

/-! ### The bytes that lanes take lie in the destination -/

/-- R95, R104: where the lanes of a window destination stand, with their bytes. -/
def Acc.laneWrites (s : State) (q : Acc) (w : Nat) (raws : List Nat) : List (Nat × List Byte) :=
  let st := q.v.start q.o true
  if q.v.ty = .i4x then [(st, packNibbles raws)]
  else if w < q.v.ty.bits then raws.mapIdx fun i r => (st + i * q.v.ty.bits / 8, q.lowBytes s (st + i * q.v.ty.bits / 8) w r)
  else if q.v.ty = .b ∧ w = 64 ∧ q.v.shape = 0 then [(st, rawBytes 32 (raws.headD 0))]
  else [(st, raws.flatMap (rawBytes w))]

theorem Acc.putLanes_window {w : Nat} (h54 : q.v.h ≠ 54) (h50 : q.v.h ≠ 50) :
    q.putLanes s w raws = q.wrote (s.regPuts q.v.core q.v.slot (q.laneWrites s w raws)) := by
  rw [Acc.putLanes, if_neg h54, if_neg h50]
  rfl

theorem packNibbles_length : ∀ l : List Nat, (packNibbles l).length = (l.length + 1) / 2
  | [] => rfl
  | [_] => by simp [packNibbles]
  | _ :: _ :: rest => by
    simp only [packNibbles, List.length_cons, packNibbles_length rest]
    omega

theorem rawBytes_length (w r : Nat) : (rawBytes w r).length = w / 8 := toLe_length _ _

theorem flatMap_rawBytes_length (w : Nat) : ∀ l : List Nat, (l.flatMap (rawBytes w)).length = l.length * (w / 8)
  | [] => by simp
  | r :: l => by
    simp only [List.flatMap_cons, List.length_append, rawBytes_length, flatMap_rawBytes_length w l, List.length_cons]
    ring

/-- R95: the low bytes of a wider element. -/
theorem Acc.lowBytes_length {off w r : Nat} (hw : w < 32) : (q.lowBytes s off w r).length ≤ 4 := by
  unfold Acc.lowBytes
  split
  · rw [rawBytes_length]; omega
  · rw [toLe_length]; omega

/-- The elements of a destination that an operation writes whole. -/
def View.wholeLanes (v : View) : Nat := if v.shape = 1 then v.len else 1

theorem laneCount_le (v : View) (op : Ty) : laneCount v op ≤ v.wholeLanes := by
  unfold laneCount View.wholeLanes
  split
  · split
    · omega
    · exact le_refl _
  · exact le_refl _

/-- R95: a 64-bit operation on a `b` vector pairs its elements. -/
theorem laneCount_pairs {v : View} (hs : v.shape = 1) (hb : v.ty = .b) (h64 : op.bits = 64) : 2 * laneCount v op ≤ v.wholeLanes := by
  rw [laneCount, if_pos hs, if_pos ⟨hb, h64⟩, View.wholeLanes, if_pos hs]
  omega

theorem Ty.bits_b_or : ∀ t : Ty, t.bits < 32 ∨ t.bits = 32 ∨ t.bits = 64 := by
  intro t
  cases t <;> decide

theorem Ty.bits_bytes : ∀ t : Ty, t ≠ .i4x → ∃ n, t.bits = 8 * n := by
  intro t ht
  refine ⟨t.bits / 8, ?_⟩
  cases t
  case i4x => exact absurd rfl ht
  all_goals rfl

/-- R95: the bytes that lanes take lie in the elements of the destination. -/
theorem Acc.laneWrites_within (hop : q.v.ty ≠ .b → op = q.v.ty) (hsh : q.v.shape ≤ 1)
    (hlen : raws.length = laneCount q.v op) : ∀ w ∈ q.laneWrites s op.bits raws,
      q.v.start q.o true ≤ w.1 ∧ w.1 + w.2.length ≤ q.v.start q.o true + (q.v.wholeLanes * q.v.ty.bits + 7) / 8 := by
  have hle := hlen.trans_le (laneCount_le q.v op)
  unfold Acc.laneWrites
  generalize q.v.start q.o true = st
  dsimp only
  by_cases h4 : q.v.ty = .i4x
  · have h4bits : q.v.ty.bits = 4 := h4 ▸ rfl
    rw [if_pos h4, List.forall_mem_singleton]
    simp only [packNibbles_length, h4bits, le_refl, true_and]
    omega
  rw [if_neg h4]
  by_cases hb : q.v.ty = .b
  · simp only [hb, show Ty.b.bits = 32 from rfl, true_and]
    rcases Ty.bits_b_or op with hlt | heq | h64
    · rw [if_pos hlt]
      intro w hw
      obtain ⟨k, hk, rfl⟩ := List.mem_mapIdx.mp hw
      have hl := Acc.lowBytes_length (s := s) (q := q) (off := st + k * 32 / 8) (r := raws[k]) hlt
      dsimp only
      omega
    · rw [if_neg (by omega), if_neg (by omega), List.forall_mem_singleton]
      simp only [flatMap_rawBytes_length, heq, le_refl, true_and]
      omega
    · rw [if_neg (by omega)]
      by_cases h0 : q.v.shape = 0
      · rw [if_pos ⟨h64, h0⟩, List.forall_mem_singleton]
        simp only [rawBytes_length, View.wholeLanes, h0, le_refl, true_and]
        exact Nat.add_le_add_left (by simp) st
      · have hpair := laneCount_pairs (v := q.v) (by omega) hb h64
        rw [if_neg (fun hc => h0 hc.2), List.forall_mem_singleton]
        simp only [flatMap_rawBytes_length, h64, le_refl, true_and]
        omega
  · obtain ⟨n, hn⟩ := Ty.bits_bytes q.v.ty h4
    simp only [hop hb, lt_self_iff_false, if_false, hb, false_and, List.forall_mem_singleton, flatMap_rawBytes_length, hn, le_refl, true_and]
    have hmul : raws.length * n ≤ q.v.wholeLanes * n := Nat.mul_le_mul_right n hle
    rw [show q.v.wholeLanes * (8 * n) = 8 * (q.v.wholeLanes * n) by ring, Nat.mul_div_cancel_left n (by decide)]
    omega

/-- R223: the ranges of a destination, a whole vector or one element. -/
theorem Acc.ranges_dst (hout : q.out = true) (hn : q.n = if q.v.shape = 1 then 0 else 1) (hf : q.v.fixed = false) :
    q.ranges = [(q.v.start q.o true, (q.v.wholeLanes * q.v.ty.bits + 7) / 8)] := by
  simp only [Acc.ranges, hf, hout, Bool.false_eq_true, if_false, View.wholeLanes]
  by_cases hs : q.v.shape = 1
  · rw [hn, if_pos hs, if_neg (by simp), if_pos (by omega), if_pos hs, View.rowBytes]
  · rw [hn, if_neg hs, if_pos (by simp), if_neg hs]

/-- R223: lanes written change no byte outside their destination. -/
theorem Acc.putLanes_out (hm : Memory.wf s.mem = true) (hout : q.out = true) (hfix : q.v.fixed = true → q.v.h = 50 ∨ q.v.h = 54)
    (hop : q.v.ty ≠ .b → op = q.v.ty) (hsh : q.v.shape ≤ 1)
    (hn : q.n = if q.v.shape = 1 then 0 else 1) (hlen : raws.length = laneCount q.v op) {a : Nat}
    (ha : ∀ r ∈ q.ranges, ∀ k, k < r.2 → a ≠ s.winAddr ⟨q.v.core, q.v.slot, r.1 + k⟩) :
    memGet (q.putLanes s op.bits raws).mem a = memGet s.mem a := by
  by_cases hf : q.v.fixed = true
  · rcases hfix hf with h50 | h54
    · rw [Acc.putLanes, if_neg (by omega), if_pos h50]
      rfl
    · rw [Acc.putLanes, if_pos h54]
  · have hh : q.v.h < 48 := by simpa [View.fixed] using hf
    rw [Acc.ranges_dst hout hn (by simpa using hf), List.forall_mem_singleton] at ha
    rw [Acc.putLanes_window (by omega) (by omega), Acc.wrote_mem]
    refine State.regPuts_out hm fun w hw k hk => ?_
    obtain ⟨h1, h2⟩ := Acc.laneWrites_within hop hsh hlen w hw
    have := ha (w.1 - q.v.start q.o true + k) (by dsimp only; omega)
    rwa [show q.v.start q.o true + (w.1 - q.v.start q.o true + k) = w.1 + k by omega] at this

/-! ### The frame of a form -/

/-- R95: a destination that is no `b` view gives the operation its type. -/
theorem arithTy_dst {d : Nat} {srcs : List Src} (h : (s.view d).ty ≠ .b) : arithTy d srcs s = (s.view d).ty := if_pos h

/-- R223: the destination of a form is no tile. -/
theorem arithOpnd_shape {o : BitVec 2} {d : Nat} {srcs : List Src} {x : Opts} (h : noTrap (arithOpnd o d srcs x s) = true) :
    (s.view d).shape ≤ 1 := by
  have hnone := noTrap_mem h _ (List.mem_cons_self ..)
  by_contra hc
  rw [if_pos (by omega)] at hnone
  cases hnone

/-- R223: what a form that nothing stops has written. -/
theorem formWritten_eq (h : FormReady s f) : formWritten s f =
    (arithDst f.o f.d f.srcs s).putLanes s (arithTy f.d f.srcs s).bits (laneVals s f) := by
  rw [formWritten, laneVals_outs h]

theorem formWritten_kept (s : State) (f : Claims.Form) : Kept s (formWritten s f) := Acc.putLanes_kept _ _ _ _

/-- What a form leaves as it was beside its slot: all but the bytes of its destination. -/
structure Framed (s : State) (f : Claims.Form) (u : State) : Prop where
  kept : Kept s u
  mem  : Memory.wf s.mem = true → ∀ a : Nat, (∀ r ∈ (arithDst f.o f.d f.srcs s).ranges, ∀ k, k < r.2 →
    a ≠ s.winAddr ⟨(s.view f.d).core, (s.view f.d).slot, r.1 + k⟩) → memGet u.mem a = memGet s.mem a

theorem formWritten_framed (h : FormReady s f) : Framed s f (formWritten s f) := by
  refine ⟨formWritten_kept s f, fun hm a ha => ?_⟩
  have hr := h.accs _ (List.mem_cons_self ..)
  have hsh := arithOpnd_shape h.opnd
  rw [formWritten_eq h]
  refine Acc.putLanes_out hm rfl (Acc.ready_fixed hr rfl) arithTy_dst hsh rfl laneVals_length ha

/-- Its own slot changes only as a write through a port or `out.msg` does. -/
theorem formWritten_cur (s : State) (f : Claims.Form) :
    { (formWritten s f).cur.frame0 with ports := [], outMsg := [] } = { s.cur.frame0 with ports := [], outMsg := [] } :=
  congrArg Slot.frame0 (Acc.putLanes_cur s _ _ _)

/-- R62: a write of `zero` writes nothing. -/
theorem formWritten_zero (h : (s.view f.d).h = 54) : formWritten s f = s := if_pos h

/-- Ports with the same handles: none has a handle that none had. -/
theorem find_none_of_handles {l m : List PortUse} {k : Nat} (h : l.map (·.h) = m.map (·.h)) (hm : m.find? (fun p => p.h == k) = none) :
    l.find? (fun p => p.h == k) = none := by
  simp only [List.find?_eq_none, beq_iff_eq] at hm ⊢
  intro p hp hk
  have hmem : p.h ∈ m.map (·.h) := h ▸ List.mem_map_of_mem hp
  obtain ⟨p', hp', he⟩ := List.mem_map.mp hmem
  exact hm p' hp' (he.trans hk)

/-- R59, R202: a view of the slot itself is the same where the slot's descriptors are and no port has its handle. -/
theorem State.view_local {k : Nat} (he : (s.view k).entry = none) (hf : (s.view k).fixed = false) (hcore : u.curCore = s.curCore)
    (hslot : u.curSlot = s.curSlot) (hrep : u.cur.rep = s.cur.rep) (hviews : u.cur.views = s.cur.views)
    (hports : u.cur.ports.map (·.h) = s.cur.ports.map (·.h)) : u.view k = s.view k ∧ (s.view k).h < 48 := by
  have hst : u.cur.stagger k = s.cur.stagger k := by rw [Slot.stagger, hrep]; rfl
  unfold State.view at he hf ⊢
  dsimp only at he hf ⊢
  rw [hst, hviews, hcore, hslot]
  by_cases hk : 48 ≤ s.cur.stagger k
  · rw [if_pos hk] at hf
    exact absurd hf (by simp [View.fixed, hk])
  · simp only [if_neg hk] at he ⊢
    by_cases hp : dF (mget s.cur.views (s.cur.stagger k) 0) 83 1 = 1
    · simp only [if_pos hp] at he ⊢
      cases hs : s.cur.ports.find? fun p => p.h == s.cur.stagger k with
      | some p =>
        rw [hs] at he
        cases he
      | none =>
        rw [find_none_of_handles hports hs]
        exact ⟨rfl, Nat.not_le.mp hk⟩
    · simp only [if_neg hp]
      exact ⟨trivial, Nat.not_le.mp hk⟩

theorem State.touched_h (s : State) (slot : Nat) (rs : List (Nat × Nat)) (p : PortUse) : (s.touched slot rs p).h = p.h := by
  unfold State.touched
  split <;> rfl

theorem Acc.wrote_handles (q : Acc) (s : State) : (q.wrote s).cur.ports.map (·.h) = s.cur.ports.map (·.h) := by
  unfold Acc.wrote
  split
  · rfl
  · rw [State.cur_updCur]
    simp only [List.map_map, Function.comp_def, State.touched_h]

/-- Lanes written: the ports keep their handles. -/
theorem Acc.putLanes_handles (s : State) (q : Acc) (w : Nat) (raws : List Nat) :
    (q.putLanes s w raws).cur.ports.map (·.h) = s.cur.ports.map (·.h) := by
  unfold Acc.putLanes
  split
  · rfl
  · split
    · rw [State.cur_updCur]
    · dsimp only
      rw [Acc.wrote_handles, State.regPuts_cur]

/-- R59: the ring that a form's advance bit names, where it is a view of the slot. -/
theorem formWritten_view {k : Nat} (he : (s.view k).entry = none) (hf : (s.view k).fixed = false) :
    (formWritten s f).view k = s.view k ∧ (s.view k).h < 48 := by
  have hk := formWritten_kept s f
  have hc := Acc.putLanes_cur s (arithDst f.o f.d f.srcs s) (arithTy f.d f.srcs s).bits
    ((arithOuts f.o f.d f.srcs f.sem f.x s).map laneBits)
  exact State.view_local he hf hk.curCore hk.curSlot (congrArg Slot.rep hc :) (congrArg Slot.views hc :) (Acc.putLanes_handles _ _ _ _)

/-- R59: an advance of a view of the slot moves its descriptor. -/
theorem State.advanceRead_view {v : View} (he : v.entry = none) (hh : v.h < 48) (n : Nat) :
    s.advanceRead v n = s.updCur fun x => { x with views := mput x.views v.h (dMove v.d false n) } := by
  unfold State.advanceRead
  split
  case h_5 => rw [State.advance, he]
  all_goals omega

theorem retiresWriting_trans {x y z : Slot} (h : { y.frame0 with ports := [], outMsg := [] } = { x.frame0 with ports := [], outMsg := [] })
    (k : y.retires z) : x.retiresWriting z :=
  (congrArg (fun v : Slot => { v with ports := [], outMsg := [] }) k : _ = { y.frame0 with ports := [], outMsg := [] }).trans h

/-- Settles O7. -/
theorem arithmeticFrame : Obligations.ArithmeticFrame := by
  intro s t i f hf h hx framed
  have ht : t = s.retired i (formResult s f) := Host.Outcome.next.inj (hx.symm.trans (exec_of_formReady h hf))
  have hw := formWritten_framed h
  refine ⟨fun hadv => ?_, fun k hadv => ?_, fun k hadv he hfix => ?_⟩
  · have ht' : t = s.retired i (formWritten s f) := by rw [ht, formResult, hadv]
    subst ht'
    refine ⟨⟨State.retired_kept i hw.kept, fun hm a ha => ?_⟩, retiresWriting_trans (formWritten_cur s f) (State.retired_cur s i _), fun h54 => ?_⟩
    · rw [State.retired_mem]
      exact hw.mem hm a ha
    · rw [formWritten_zero h54]
      have hc := State.retired_cur s i s
      exact ⟨State.retired_mem s i s, (congrArg Slot.ports hc :), (congrArg Slot.outMsg hc :)⟩
  · refine ⟨formWritten s f, ⟨hw.kept, hw.mem⟩, formWritten_cur s f, ?_⟩
    rw [ht, formResult, hadv]
  · obtain ⟨hv, hh⟩ := formWritten_view (f := f) he hfix
    have ht' : t = s.retired i ((formWritten s f).updCur fun x =>
        { x with views := mput x.views (s.view k).h (dMove (s.view k).d false 1) }) := by
      rw [ht, formResult, hadv]
      dsimp only
      rw [hv, State.advanceRead_view he hh]
    subst ht'
    refine ⟨⟨State.retired_kept i (hw.kept.trans (Kept.updCur _ _)), fun hm a ha => ?_⟩, retiresWriting_trans ?_ (State.retired_cur s i _)⟩
    · rw [State.retired_mem]
      exact hw.mem hm a ha
    · rw [State.cur_updCur]
      exact (congrArg (fun x : Slot => { x with views := mput x.views (s.view k).h (dMove (s.view k).d false 1) }) (formWritten_cur s f) :)

end Sys2Proof.Machine
end

/-! ## Integer results on bits (R96, R226, R227, R229, R231) -/
section
namespace Sys2Proof.Machine
open Sys2Proof.Claims

variable {s : State} {i : Instr} {f : Claims.Form}

/-- An operation that on integer types makes of a lane's sources what a rule says. -/
def MakesBits (m : Sem) (r : Ty → Bool → List LVal → Nat) : Prop :=
  ∀ t : Ty, t.isInt = true → ∀ rnd sat l, m.f t rnd sat l = .ok (r t sat l)

/-! ### Patterns, shifts and rotates -/

theorem patOf_toNat (w : Nat) (v : LVal) : (patOf w v).toNat = v.pat w := BitVec.toNat_ofInt _

theorem pat_lt (w : Nat) (v : LVal) : v.pat w < 2 ^ w := patOf_toNat w v ▸ (patOf w v).isLt

/-- R226: an operation on two patterns, as one on bit vectors. -/
theorem bitSem_makes {g : Nat → Nat → Nat → Nat} {h : {w : Nat} → BitVec w → BitVec w → BitVec w}
    (hg : ∀ {w} (x y : BitVec w), g w x.toNat y.toNat % 2 ^ w = (h x y).toNat) :
    MakesBits (bitSem g) fun t _ l => (h (patOf t.bits (lsrc l 0)) (patOf t.bits (lsrc l 1))).toNat := by
  intro t ht rnd sat l
  refine congrArg LOut.ok (Eq.trans ?_ (hg _ _))
  rw [patOf_toNat, patOf_toNat]
  rfl

theorem Ty.bits_pos (t : Ty) : 0 < t.bits := by cases t <;> decide

/-- R229: an amount is below the width. -/
theorem amount_lt (t : Ty) (l : List LVal) : amount t.bits l < t.bits := by
  have hpos : (0 : Int) < t.bits := by exact_mod_cast t.bits_pos
  have h0 := Int.emod_nonneg (lsrc l 1).int hpos.ne'
  have hlt := Int.emod_lt_of_pos (lsrc l 1).int hpos
  unfold amount
  omega

/-- R229: a shift or rotate, as one on bit vectors. -/
theorem shiftSem_makes {g : Nat → Nat → Nat → Nat} {h : {w : Nat} → BitVec w → Nat → BitVec w}
    (hg : ∀ {w} (x : BitVec w) (n : Nat), n < w → g w x.toNat n % 2 ^ w = (h x n).toNat) :
    MakesBits (shiftSem g) fun t _ l => (h (patOf t.bits (lsrc l 0)) (amount t.bits l)).toNat := by
  intro t ht rnd sat l
  refine congrArg LOut.ok (Eq.trans ?_ (hg _ _ (amount_lt t l)))
  rw [patOf_toNat]
  rfl

theorem and_makes : MakesBits semAnd fun t _ l => (patOf t.bits (lsrc l 0) &&& patOf t.bits (lsrc l 1)).toNat :=
  bitSem_makes (h := fun a b => a &&& b) fun x y => by rw [← BitVec.toNat_and, Nat.mod_eq_of_lt (BitVec.isLt _)]

theorem or_makes : MakesBits semOr fun t _ l => (patOf t.bits (lsrc l 0) ||| patOf t.bits (lsrc l 1)).toNat :=
  bitSem_makes (h := fun a b => a ||| b) fun x y => by rw [← BitVec.toNat_or, Nat.mod_eq_of_lt (BitVec.isLt _)]

theorem xor_makes : MakesBits semXor fun t _ l => (patOf t.bits (lsrc l 0) ^^^ patOf t.bits (lsrc l 1)).toNat :=
  bitSem_makes (h := fun a b => a ^^^ b) fun x y => by rw [← BitVec.toNat_xor, Nat.mod_eq_of_lt (BitVec.isLt _)]

theorem andn_makes : MakesBits semAndn fun t _ l => (patOf t.bits (lsrc l 0) &&& ~~~patOf t.bits (lsrc l 1)).toNat :=
  bitSem_makes (h := fun a b => a &&& ~~~b) fun x y => by
    rw [← BitVec.toNat_not, ← BitVec.toNat_and, Nat.mod_eq_of_lt (BitVec.isLt _)]

theorem not_makes : MakesBits semNot fun t _ l => (~~~patOf t.bits (lsrc l 0)).toNat :=
  bitSem_makes (h := fun a _ => ~~~a) fun x y => by rw [← BitVec.toNat_not, Nat.mod_eq_of_lt (BitVec.isLt _)]

theorem shl_makes : MakesBits semShl fun t _ l => (patOf t.bits (lsrc l 0) <<< amount t.bits l).toNat :=
  shiftSem_makes (h := fun a n => a <<< n) fun x n _ => by rw [BitVec.toNat_shiftLeft, Nat.shiftLeft_eq]

theorem shr_makes : MakesBits semShr fun t _ l => (patOf t.bits (lsrc l 0) >>> amount t.bits l).toNat :=
  shiftSem_makes (h := fun a n => a >>> n) fun x n _ => by
    rw [← Nat.shiftRight_eq_div_pow, ← BitVec.toNat_ushiftRight, Nat.mod_eq_of_lt (BitVec.isLt _)]

/-- R229: the value of an arithmetic shift of a pattern. -/
theorem sar_toNat {w : Nat} (x : BitVec w) {n : Nat} (hn : n < w) :
    x.toNat / 2 ^ n + (if 2 ^ (w - 1) ≤ x.toNat then 2 ^ w - 2 ^ (w - n) else 0) = (x.sshiftRight n).toNat := by
  have hw : 2 ^ w = 2 ^ n * 2 ^ (w - n) := by rw [← pow_add, Nat.add_sub_cancel' hn.le]
  have hlt := x.isLt
  rw [BitVec.toNat_sshiftRight, BitVec.msb_eq_decide]
  by_cases h : 2 ^ (w - 1) ≤ x.toNat
  · have hq : x.toNat / 2 ^ n < 2 ^ (w - n) := Nat.div_lt_of_lt_mul (hw ▸ hlt)
    have hsub := Nat.mul_sub_div x.toNat (2 ^ n) (2 ^ (w - n)) (hw ▸ hlt)
    rw [← hw, Nat.add_comm, ← Nat.sub_sub] at hsub
    have hle : 2 ^ (w - n) ≤ 2 ^ w := Nat.pow_le_pow_right (by decide) (by omega)
    rw [if_pos h, if_pos (by simpa using h), Nat.shiftRight_eq_div_pow, hsub]
    clear hsub hw
    generalize x.toNat / 2 ^ n = q at hq ⊢
    generalize 2 ^ (w - n) = m at hq hle ⊢
    generalize 2 ^ w = p at hle ⊢
    omega
  · rw [if_neg h, if_neg (by simpa using h), Nat.shiftRight_eq_div_pow, Nat.add_zero]

theorem sar_makes : MakesBits semSar fun t _ l => ((patOf t.bits (lsrc l 0)).sshiftRight (amount t.bits l)).toNat :=
  shiftSem_makes (h := fun a n => a.sshiftRight n) fun x n hn => by rw [sar_toNat x hn, Nat.mod_eq_of_lt (BitVec.isLt _)]

/-- R229: what leaves a rotated pattern at one end and enters at the other: the low n bits from below, the others above. -/
theorem rotate_toNat {w : Nat} (x : BitVec w) {n : Nat} (hn : n ≤ w) :
    (x.toNat * 2 ^ n + x.toNat / 2 ^ (w - n)) % 2 ^ w = (x.toNat <<< n) % 2 ^ w ||| x.toNat >>> (w - n) := by
  have hw : 2 ^ w = 2 ^ n * 2 ^ (w - n) := by rw [← pow_add, Nat.add_sub_cancel' hn]
  have hq : x.toNat / 2 ^ (w - n) < 2 ^ n := Nat.div_lt_of_lt_mul (by rw [Nat.mul_comm, ← hw]; exact x.isLt)
  have hmod : x.toNat * 2 ^ n % 2 ^ w = 2 ^ n * (x.toNat % 2 ^ (w - n)) := by rw [Nat.mul_comm, hw, Nat.mul_mod_mul_left]
  have hlt : 2 ^ n * (x.toNat % 2 ^ (w - n)) + x.toNat / 2 ^ (w - n) < 2 ^ w := by
    have hm := Nat.mod_lt x.toNat (Nat.two_pow_pos (w - n))
    calc _ < 2 ^ n * (x.toNat % 2 ^ (w - n) + 1) := by rw [Nat.mul_add, Nat.mul_one]; omega
      _ ≤ 2 ^ w := hw ▸ Nat.mul_le_mul_left _ hm
  rw [Nat.shiftLeft_eq, Nat.shiftRight_eq_div_pow, hmod, ← Nat.two_pow_add_eq_or_of_lt hq, ← Nat.mod_eq_of_lt hlt, ← hmod, Nat.mod_add_mod]

theorem rol_makes : MakesBits semRol fun t _ l => ((patOf t.bits (lsrc l 0)).rotateLeft (amount t.bits l)).toNat :=
  shiftSem_makes (h := fun a n => a.rotateLeft n) fun x n hn => by
    rw [rotate_toNat x hn.le, BitVec.toNat_rotateLeft, Nat.mod_eq_of_lt hn]

theorem ror_makes : MakesBits semRor fun t _ l => ((patOf t.bits (lsrc l 0)).rotateRight (amount t.bits l)).toNat :=
  shiftSem_makes (h := fun a n => a.rotateRight n) fun {w} x n hn => by
    have h := rotate_toNat x (Nat.sub_le w n)
    rw [Nat.sub_sub_self hn.le] at h
    rw [Nat.add_comm, h, BitVec.toNat_rotateRight, Nat.mod_eq_of_lt hn, Nat.or_comm]

/-! ### Counts of bits, and their order reversed -/

/-- R229: an operation on the source's own bits. -/
theorem countSem_makes {g : Nat → Nat → Nat} {h : {w : Nat} → BitVec w → Nat} (hg : ∀ {w} (x : BitVec w), g w x.toNat = h x) :
    MakesBits (countSem g) fun t _ l => h (BitVec.ofNat (lsrc l 0).width (lsrc l 0).bits) % 2 ^ t.bits := by
  intro t ht rnd sat l
  refine congrArg LOut.ok (congrArg (· % 2 ^ t.bits) (Eq.trans ?_ (hg _)))
  rw [BitVec.toNat_ofNat]
  rfl

theorem range_succ_shift (k : Nat) : List.range (k + 1) = 0 :: (List.range k).map Nat.succ := List.range_succ_eq_map

theorem testBit_half (a i : Nat) : (a / 2).testBit i = a.testBit (i + 1) := by rw [Nat.testBit_succ]

theorem ctzN_eq : ∀ k a : Nat, ctzN k a = ((List.range k).find? fun i => a.testBit i).getD k
  | 0, _ => rfl
  | k + 1, a => by
    rw [range_succ_shift, List.find?_cons]
    by_cases h : a % 2 = 1
    · rw [ctzN, if_pos h, Nat.testBit_zero, decide_eq_true h]
      rfl
    · rw [ctzN, if_neg h, Nat.testBit_zero, decide_eq_false h, List.find?_map, ctzN_eq k (a / 2)]
      simp only [Function.comp_def, testBit_half, Nat.succ_eq_add_one]
      cases (List.range k).find? fun i => a.testBit (i + 1) with
      | none => exact Nat.add_comm 1 k
      | some j => exact Nat.add_comm 1 j

theorem popN_eq : ∀ k a : Nat, popN k a = ((List.range k).filter fun i => a.testBit i).length
  | 0, _ => rfl
  | k + 1, a => by
    have ih : popN k (a / 2) = ((List.range k).filter ((fun i => a.testBit i) ∘ Nat.succ)).length := by
      rw [popN_eq k (a / 2)]
      simp only [Function.comp_def, testBit_half, Nat.succ_eq_add_one]
    rw [range_succ_shift, List.filter_cons, List.filter_map, popN, ih, Nat.testBit_zero]
    by_cases h : a % 2 = 1
    · simp only [h, decide_true, if_true, List.length_cons, List.length_map]
      exact Nat.add_comm _ _
    · simp only [h, decide_false, Bool.false_eq_true, if_false, List.length_map]
      omega

/-- R226: the bits of a reversed order, below what was there. -/
theorem revN_bits : ∀ k a acc : Nat, revN k a acc / 2 ^ k = acc ∧ ∀ i, i < k → (revN k a acc).testBit i = a.testBit (k - 1 - i)
  | 0, a, acc => ⟨Nat.div_one acc, fun i hi => absurd hi (Nat.not_lt_zero i)⟩
  | k + 1, a, acc => by
    obtain ⟨hdiv, hbit⟩ := revN_bits k (a / 2) (2 * acc + a % 2)
    change revN k (a / 2) (2 * acc + a % 2) / 2 ^ (k + 1) = acc ∧
      ∀ i, i < k + 1 → (revN k (a / 2) (2 * acc + a % 2)).testBit i = a.testBit (k + 1 - 1 - i)
    refine ⟨by rw [pow_succ, ← Nat.div_div_eq_div_mul, hdiv]; omega, fun i hi => ?_⟩
    rcases Nat.lt_succ_iff_lt_or_eq.mp hi with h | rfl
    · rw [hbit i h, testBit_half, show k - 1 - i + 1 = k + 1 - 1 - i by omega]
    · rw [Nat.testBit_eq_decide_div_mod_eq, hdiv, Nat.add_sub_cancel, Nat.sub_self, Nat.testBit_zero]
      simp [Nat.add_mod]

theorem revN_toNat {w : Nat} (x : BitVec w) : revN w x.toNat 0 = x.reverse.toNat := by
  obtain ⟨hdiv, hbit⟩ := revN_bits w x.toNat 0
  have hlt : revN w x.toNat 0 < 2 ^ w := (Nat.div_eq_zero_iff.mp hdiv).resolve_left (Nat.two_pow_pos w).ne'
  refine Nat.eq_of_testBit_eq fun i => ?_
  rw [BitVec.testBit_toNat, BitVec.getLsbD_reverse, BitVec.getMsbD]
  by_cases h : i < w
  · rw [hbit i h, BitVec.testBit_toNat, decide_eq_true h, Bool.true_and]
  · rw [Nat.testBit_lt_two_pow (hlt.trans_le (Nat.pow_le_pow_right (by decide) (by omega))), decide_eq_false h, Bool.false_and]

/-- R229: the leading zeros of a pattern. -/
theorem clz_eq {w : Nat} (x : BitVec w) :
    (if x.toNat = 0 then w else w - 1 - x.toNat.log2) = ((List.range w).find? fun i => x.getMsbD i).getD w := by
  by_cases h0 : x.toNat = 0
  · have hx : x = 0#w := BitVec.eq_of_toNat_eq (by simpa using h0)
    have hnone : (List.range w).find? (fun i => x.getMsbD i) = none := List.find?_range_eq_none.mpr fun i _ => by simp [hx]
    rw [if_pos h0, hnone]
    rfl
  · have hlog : x.toNat.log2 < w := (Nat.log2_lt h0).mpr x.isLt
    have hsome : (List.range w).find? (fun i => x.getMsbD i) = some (w - 1 - x.toNat.log2) := by
      refine List.find?_range_eq_some.mpr ⟨?_, List.mem_range.mpr (by omega), fun j hj => ?_⟩
      · rw [BitVec.getMsbD, decide_eq_true (by omega), Bool.true_and, ← BitVec.testBit_toNat,
          show w - 1 - (w - 1 - x.toNat.log2) = x.toNat.log2 by omega]
        exact Nat.testBit_log2 h0
      · have hbig : x.toNat < 2 ^ (w - 1 - j) := (Nat.log2_lt h0).mp (by omega)
        rw [BitVec.getMsbD, ← BitVec.testBit_toNat, Nat.testBit_lt_two_pow hbig, Bool.and_false]
        rfl
    rw [if_neg h0, hsome]
    rfl

theorem clz_makes : MakesBits semClz fun t _ l =>
    (((List.range (lsrc l 0).width).find? fun i => (BitVec.ofNat (lsrc l 0).width (lsrc l 0).bits).getMsbD i).getD (lsrc l 0).width) % 2 ^ t.bits :=
  countSem_makes (h := fun {w} a => ((List.range w).find? fun i => a.getMsbD i).getD w) clz_eq

theorem ctz_makes : MakesBits semCtz fun t _ l =>
    (((List.range (lsrc l 0).width).find? fun i => (BitVec.ofNat (lsrc l 0).width (lsrc l 0).bits).getLsbD i).getD (lsrc l 0).width) % 2 ^ t.bits :=
  countSem_makes (h := fun {w} a => ((List.range w).find? fun i => a.getLsbD i).getD w) fun {w} x => by
    simp only [ctzN_eq, BitVec.testBit_toNat]

theorem popc_makes : MakesBits semPopc fun t _ l =>
    ((List.range (lsrc l 0).width).filter fun i => (BitVec.ofNat (lsrc l 0).width (lsrc l 0).bits).getLsbD i).length % 2 ^ t.bits :=
  countSem_makes (h := fun {w} a => ((List.range w).filter fun i => a.getLsbD i).length) fun {w} x => by
    simp only [popN_eq, BitVec.testBit_toNat]

theorem brev_makes : MakesBits semBrev fun t _ l => (BitVec.ofNat (lsrc l 0).width (lsrc l 0).bits).reverse.toNat % 2 ^ t.bits :=
  countSem_makes (h := fun a => a.reverse.toNat) revN_toNat

end Sys2Proof.Machine
end

/-! ## Integer division, bounds, fused operations and bit fields (R96, R229, R231) -/
section
namespace Sys2Proof.Machine
open Sys2Proof.Claims

variable {s : State} {i : Instr} {f : Claims.Form}

/-! ### Arithmetic -/

/-- The quotient of a remainder of a multiple. -/
theorem emod_mul_ediv {a : Int} (ha : 0 < a) (x b : Int) : x % (a * b) / a = x / a % b := by
  rw [Int.emod_def, Int.emod_def, Int.ediv_ediv_of_nonneg ha.le, show x - a * b * (x / (a * b)) = x + a * (-(b * (x / (a * b)))) by ring,
    Int.add_mul_ediv_left _ _ ha.ne']
  ring

theorem two_pow_pos_int (n : Nat) : (0 : Int) < ((2 ^ n : Nat) : Int) := by exact_mod_cast Nat.two_pow_pos n

theorem two_pow_add_int (m n : Nat) : ((2 ^ (m + n) : Nat) : Int) = ((2 ^ m : Nat) : Int) * ((2 ^ n : Nat) : Int) := by
  rw [pow_add, Nat.cast_mul]

/-- R229: the high half of an exact product. -/
theorem wrap_high (w : Nat) (x : Int) : wrap (2 * w) x / 2 ^ w = ((x / ((2 ^ w : Nat) : Int)) % ((2 ^ w : Nat) : Int)).toNat := by
  rw [← emod_mul_ediv (two_pow_pos_int w), ← two_pow_add_int, ← Nat.two_mul, ← wrap_cast]
  exact (Int.toNat_natCast _).symm

theorem mulh_makes : MakesBits semMulh fun t _ l =>
    (((lsrc l 0).int * (lsrc l 1).int / ((2 ^ t.bits : Nat) : Int)) % ((2 ^ t.bits : Nat) : Int)).toNat :=
  fun t _ _ _ _ => congrArg LOut.ok (wrap_high t.bits _)

theorem div_makes : MakesBits semDiv fun t sat l =>
    if (lsrc l 1).int = 0 then 2 ^ t.bits - 1 else t.fit sat ((lsrc l 0).int.tdiv (lsrc l 1).int) := by
  intro t ht rnd sat l
  simp only [semDiv, Ty.not_isFloat ht, Bool.false_eq_true, if_false]
  exact (apply_ite LOut.ok _ _ _).symm

theorem rem_makes : MakesBits semRem fun t sat l =>
    t.fit sat ((lsrc l 0).int - (if (lsrc l 1).int = 0 then 0 else (lsrc l 0).int.tdiv (lsrc l 1).int * (lsrc l 1).int)) := by
  intro t ht rnd sat l
  simp only [semRem, Ty.not_isFloat ht, Bool.false_eq_true, if_false, show arg l = lsrc l from rfl]
  split
  · rw [Int.sub_zero]
  · rw [Int.tmod_def, Int.mul_comm]

theorem clamp_makes : MakesBits semClamp fun t sat l => t.fit sat (min (max (lsrc l 0).int (lsrc l 1).int) (lsrc l 2).int) := by
  intro t ht rnd sat l
  rw [semClamp, anySem_int ht, i1, i2, i3, arg_int, arg_int, arg_int]

theorem abs_makes : MakesBits semAbs fun t sat l => t.fit sat |(lsrc l 0).int| := by
  intro t ht rnd sat l
  rw [semAbs, anySem_int ht, i1, arg_int, Int.natCast_natAbs]

theorem neg_makes : MakesBits semNeg fun t sat l => t.fit sat (-(lsrc l 0).int) := by
  intro t ht rnd sat l
  rw [semNeg, anySem_int ht, i1, arg_int]

/-- R231: a product, negated or not, plus or minus c. -/
theorem fused_makes (negP negC : Bool) : MakesBits (semFused negP negC) fun t sat l =>
    t.fit sat ((if negP then -((lsrc l 0).int * (lsrc l 1).int) else (lsrc l 0).int * (lsrc l 1).int) +
      (if negC then -(lsrc l 2).int else (lsrc l 2).int)) := by
  intro t ht rnd sat l
  rw [semFused, anySem_int ht, i1, i2, i3, arg_int, arg_int, arg_int]

/-! ### A number by its bits -/

/-- A number below 2^w is made of its bits. -/
theorem ofBits_eq {b : Nat → Bool} : ∀ {w x : Nat}, x < 2 ^ w → (∀ i, i < w → x.testBit i = b i) → x = ofBits w b
  | 0, x, hx, _ => Nat.lt_one_iff.mp hx
  | w + 1, x, hx, hb => by
    have ih : x % 2 ^ w = ofBits w b := ofBits_eq (Nat.mod_lt _ (Nat.two_pow_pos w)) fun i hi => by
      rw [Nat.testBit_mod_two_pow, decide_eq_true hi, Bool.true_and, hb i (by omega)]
    have htop : (if b w then 2 ^ w else 0) = 2 ^ w * (x / 2 ^ w) := by
      have hq : x / 2 ^ w < 2 := Nat.div_lt_of_lt_mul (by rwa [pow_succ] at hx)
      rw [← hb w (by omega), Nat.testBit_eq_decide_div_mod_eq, Nat.mod_eq_of_lt hq]
      rcases Nat.lt_succ_iff_lt_or_eq.mp hq with h | h
      · simp [Nat.lt_one_iff.mp h]
      · simp [h]
    rw [ofBits, List.range_succ, List.map_append, List.sum_append]
    change x = ofBits w b + ((if b w then 2 ^ w else 0) + 0)
    rw [← ih, htop, Nat.add_zero, Nat.mod_add_div]

/-- The bits of an integer in two's complement. -/
def intBit (x : Int) (i : Nat) : Bool := decide (x / ((2 ^ i : Nat) : Int) % 2 = 1)

theorem intBit_natCast (x i : Nat) : intBit (x : Int) i = x.testBit i := by
  rw [intBit, Nat.testBit_eq_decide_div_mod_eq]
  exact decide_eq_decide.mpr (by omega)

/-- R96: wrapping keeps the low bits. -/
theorem testBit_wrap (w i : Nat) (x : Int) : (wrap w x).testBit i = (decide (i < w) && intBit x i) := by
  by_cases h : i < w
  · have hdvd : (2 : Int) ∣ ((2 ^ (w - i) : Nat) : Int) := by exact_mod_cast dvd_pow_self 2 (by omega)
    rw [decide_eq_true h, Bool.true_and, ← intBit_natCast, wrap_cast, show w = i + (w - i) by omega, two_pow_add_int, intBit,
      emod_mul_ediv (two_pow_pos_int i), Int.emod_emod_of_dvd _ hdvd]
    rfl
  · have hlt : wrap w x < 2 ^ i := by
      have := Int.emod_lt_of_pos x (two_pow_pos_int w)
      have hle : 2 ^ w ≤ 2 ^ i := Nat.pow_le_pow_right (by decide) (by omega)
      have hc := wrap_cast w x
      omega
    rw [Nat.testBit_lt_two_pow hlt, decide_eq_false h, Bool.false_and]

/-- The bits of a pattern taken as a two's complement number: its own, and above them its sign. -/
theorem intBit_signed {w x : Nat} (hx : x < 2 ^ w) (neg : Bool) (i : Nat) :
    intBit ((x : Int) - (if neg then ((2 ^ w : Nat) : Int) else 0)) i = if i < w then x.testBit i else neg := by
  cases neg with
  | false =>
    simp only [Bool.false_eq_true, if_false, Int.sub_zero, intBit_natCast]
    split
    · rfl
    · exact Nat.testBit_lt_two_pow (hx.trans_le (Nat.pow_le_pow_right (by decide) (by omega)))
  | true =>
    simp only [if_true]
    split
    next h =>
      have hdvd : (2 : Int) ∣ ((2 ^ (w - i) : Nat) : Int) := by exact_mod_cast dvd_pow_self 2 (by omega)
      rw [← intBit_natCast, intBit, intBit, show w = i + (w - i) by omega, two_pow_add_int, Int.sub_eq_add_neg, ← Int.mul_neg,
        Int.add_mul_ediv_left _ _ (two_pow_pos_int i).ne']
      exact decide_eq_decide.mpr (by omega)
    next h =>
      have hle : 2 ^ w ≤ 2 ^ i := Nat.pow_le_pow_right (by decide) (by omega)
      have hdiv : ((x : Int) - ((2 ^ w : Nat) : Int)) / ((2 ^ i : Nat) : Int) = -1 :=
        ((Int.ediv_emod_unique (two_pow_pos_int i) (r := (x : Int) - ((2 ^ w : Nat) : Int) + ((2 ^ i : Nat) : Int))).mpr
          ⟨by ring, by omega, by omega⟩).1
      rw [intBit, hdiv]
      rfl

/-- Bits moved down. -/
theorem intBit_div (x : Int) (p i : Nat) : intBit (x / ((2 ^ p : Nat) : Int)) i = intBit x (p + i) := by
  rw [intBit, intBit, Int.ediv_ediv_of_nonneg (by positivity), pow_add]
  push_cast
  rfl

/-! ### Bit fields and extensions -/

/-- R229: a sign bit. -/
theorem testBit_top {n x : Nat} (hn : 0 < n) (hx : x < 2 ^ n) : x.testBit (n - 1) = decide (2 ^ (n - 1) ≤ x) := by
  have hq : x / 2 ^ (n - 1) < 2 := Nat.div_lt_of_lt_mul (by rwa [← pow_succ, Nat.sub_add_cancel hn])
  rw [Nat.testBit_eq_decide_div_mod_eq, Nat.mod_eq_of_lt hq]
  refine decide_eq_decide.mpr ⟨fun h => ?_, fun h => ?_⟩
  · exact Nat.le_of_mul_le_mul_left (by have := Nat.div_mul_le_self x (2 ^ (n - 1)); rw [h] at this; omega) Nat.one_pos
  · have := (Nat.one_le_div_iff (Nat.two_pow_pos _)).mpr h
    omega

/-- R94: the bits of a value of n bits: its own, and above them its sign where it is signed. -/
theorem intBit_intOf (signed : Bool) {n : Nat} (hn : 0 < n) (x i : Nat) :
    intBit (intOf signed n x) i = if i < n then x.testBit i else signed && x.testBit (n - 1) := by
  have hlt := Nat.mod_lt x (Nat.two_pow_pos n)
  have htop : decide (2 ^ (n - 1) ≤ x % 2 ^ n) = x.testBit (n - 1) := by
    rw [← testBit_top hn hlt, Nat.testBit_mod_two_pow, decide_eq_true (by omega), Bool.true_and]
  have hval : intOf signed n x = ((x % 2 ^ n : Nat) : Int) - (if signed && x.testBit (n - 1) then ((2 ^ n : Nat) : Int) else 0) := by
    rw [intOf, htop]
    split <;> simp
  rw [hval, intBit_signed hlt]
  split
  next h => rw [Nat.testBit_mod_two_pow, decide_eq_true h, Bool.true_and]
  next => rfl

theorem patOf_bit (w : Nat) (v : LVal) (i : Nat) : (patOf w v).getLsbD i = (v.pat w).testBit i := by
  rw [← patOf_toNat, BitVec.testBit_toNat]

/-- R229, log entry 40: a bit of the source of `BFX`. -/
theorem bfxBit_eq (w : Nat) (v : LVal) (i : Nat) :
    bfxBit w v i = intBit ((v.pat w : Int) - (if v.signed && decide (v.int < 0) then ((2 ^ w : Nat) : Int) else 0)) i := by
  rw [intBit_signed (pat_lt w v), bfxBit, patOf_bit]

theorem ofBits_false (w : Nat) : 0 = ofBits w fun _ => false := ofBits_eq (Nat.two_pow_pos w) fun i _ => Nat.zero_testBit i

/-- R229: a field of n bits from p, extended to the width by the destination's signedness. -/
theorem bfx_field (t : Ty) (v : LVal) (p : Nat) {n : Nat} (hn : 0 < n) :
    wrap t.bits (intOf t.isSigned n (wrap n (((v.pat t.bits : Int) - (if v.signed && decide (v.int < 0) then ((2 ^ t.bits : Nat) : Int) else 0)) /
      ((2 ^ p : Nat) : Int)))) =
    ofBits t.bits fun j => if j < n then bfxBit t.bits v (p + j) else t.isSigned && bfxBit t.bits v (p + n - 1) := by
  refine ofBits_eq (wrap_lt _ _) fun j hj => ?_
  rw [testBit_wrap, decide_eq_true hj, Bool.true_and, intBit_intOf _ hn]
  split
  next hjn => rw [testBit_wrap, decide_eq_true hjn, Bool.true_and, intBit_div, bfxBit_eq]
  next => rw [testBit_wrap, decide_eq_true (by omega), Bool.true_and, intBit_div, bfxBit_eq, Nat.add_sub_assoc hn]

theorem fieldOf_fst (l : List LVal) : (lsrc l 1).bits % 256 = (fieldOf l).1 := rfl

theorem fieldOf_snd (l : List LVal) : (lsrc l 1).bits / 256 % 256 = (fieldOf l).2 := rfl

theorem bfx_makes : MakesBits semBfx fun t _ l =>
    ofBits t.bits fun j => decide ((fieldOf l).2 ≠ 0) && (if j < (fieldOf l).2 then bfxBit t.bits (lsrc l 0) ((fieldOf l).1 + j)
      else t.isSigned && bfxBit t.bits (lsrc l 0) ((fieldOf l).1 + (fieldOf l).2 - 1)) := by
  intro t ht rnd sat l
  simp only [semBfx, show arg l = lsrc l from rfl, fieldOf_fst, fieldOf_snd]
  by_cases h0 : (fieldOf l).2 = 0
  · simp only [h0, if_true, ne_eq, not_true_eq_false, decide_false, Bool.false_and]
    exact congrArg LOut.ok (ofBits_false t.bits)
  · simp only [h0, if_false, ne_eq, not_false_eq_true, decide_true, Bool.true_and]
    exact congrArg LOut.ok (bfx_field t _ _ (by omega))

/-- R229: the bits from p up to hi. -/
theorem testBit_mask (p hi i : Nat) : (if p < hi then 2 ^ hi - 2 ^ p else 0).testBit i = decide (p ≤ i ∧ i < hi) := by
  split
  next h =>
    have he : 2 ^ hi - 2 ^ p = (2 ^ (hi - p) - 1) * 2 ^ p := by
      rw [Nat.sub_mul, ← pow_add, Nat.sub_add_cancel h.le, Nat.one_mul]
    rw [he, Nat.testBit_mul_two_pow, Nat.testBit_two_pow_sub_one, ← Bool.decide_and]
    exact decide_eq_decide.mpr (by omega)
  next h => rw [Nat.zero_testBit, eq_comm, decide_eq_false_iff_not]; omega

theorem bfi_makes : MakesBits semBfi fun t _ l =>
    ofBits t.bits fun j => if (fieldOf l).1 ≤ j ∧ j < (fieldOf l).1 + (fieldOf l).2 then (patOf t.bits (lsrc l 0)).getLsbD (j - (fieldOf l).1)
      else (patOf t.bits (lsrc l 2)).getLsbD j := by
  intro t ht rnd sat l
  simp only [semBfi, fieldOf, show arg l = lsrc l from rfl, patOf_bit]
  generalize (lsrc l 1).bits % 256 = p
  generalize (lsrc l 1).bits / 256 % 256 = n
  have hmask : (if p < Nat.min (p + n) t.bits then 2 ^ Nat.min (p + n) t.bits - 2 ^ p else 0) < 2 ^ t.bits := by
    have hle : 2 ^ Nat.min (p + n) t.bits ≤ 2 ^ t.bits := Nat.pow_le_pow_right (by decide) (Nat.min_le_right _ _)
    have hp := Nat.two_pow_pos p
    have hb := Nat.two_pow_pos t.bits
    split <;> omega
  refine congrArg LOut.ok (ofBits_eq (Nat.or_lt_two_pow (Nat.and_lt_two_pow _ ?_) (Nat.and_lt_two_pow _ hmask)) fun j hj => ?_)
  · have := Nat.two_pow_pos t.bits
    omega
  · rw [Nat.testBit_or, Nat.testBit_and, Nat.testBit_and, Nat.sub_sub, Nat.add_comm 1, Nat.testBit_two_pow_sub_succ hmask, testBit_mask,
      Nat.testBit_mul_two_pow, decide_eq_true hj, Bool.true_and]
    have hiff : (p ≤ j ∧ j < Nat.min (p + n) t.bits) ↔ (p ≤ j ∧ j < p + n) := by
      rw [show Nat.min (p + n) t.bits = min (p + n) t.bits from rfl, lt_min_iff]
      omega
    by_cases hin : p ≤ j ∧ j < p + n
    · rw [if_pos hin, decide_eq_true (hiff.mpr hin), decide_eq_true hin.1]
      simp
    · rw [if_neg hin, decide_eq_false (mt hiff.mp hin)]
      simp

/-- R229: the low n bits of a pattern, extended. -/
theorem ext_makes (signed : Bool) : MakesBits (extSem signed) fun t _ l =>
    ofBits t.bits fun j => if (lsrc l 1).own ≤ 0 then false else if (j : Int) < (lsrc l 1).own then (patOf t.bits (lsrc l 0)).getLsbD j
      else signed && (patOf t.bits (lsrc l 0)).getLsbD ((lsrc l 1).own.toNat - 1) := by
  intro t ht rnd sat l
  simp only [extSem, show arg l = lsrc l from rfl, patOf_bit]
  generalize (lsrc l 1).own = n
  split
  next => exact congrArg LOut.ok (ofBits_false t.bits)
  next h0 =>
    split
    next hw => exact congrArg LOut.ok (ofBits_eq (pat_lt _ _) fun j hj => (if_pos (by omega)).symm)
    next hw =>
      refine congrArg LOut.ok (ofBits_eq (wrap_lt _ _) fun j hj => ?_)
      rw [testBit_wrap, decide_eq_true hj, Bool.true_and, intBit_intOf signed (by omega)]
      by_cases hjn : (j : Int) < n
      · rw [if_pos (by omega), if_pos hjn]
      · rw [if_neg (by omega), if_neg hjn]

theorem sxt_makes : MakesBits (extSem true) fun t _ l =>
    ofBits t.bits fun j => if (lsrc l 1).own ≤ 0 then false else
      (patOf t.bits (lsrc l 0)).getLsbD (if (j : Int) < (lsrc l 1).own then j else (lsrc l 1).own.toNat - 1) := by
  intro t ht rnd sat l
  refine (ext_makes true t ht rnd sat l).trans (congrArg (fun b => LOut.ok (ofBits t.bits b)) (funext fun j => ?_))
  rw [Bool.true_and, ← apply_ite (patOf t.bits (lsrc l 0)).getLsbD]

theorem zxt_makes : MakesBits (extSem false) fun t _ l =>
    ofBits t.bits fun j => decide ((j : Int) < (lsrc l 1).own) && (patOf t.bits (lsrc l 0)).getLsbD j := by
  intro t ht rnd sat l
  refine (ext_makes false t ht rnd sat l).trans (congrArg (fun b => LOut.ok (ofBits t.bits b)) (funext fun j => ?_))
  by_cases h : (j : Int) < (lsrc l 1).own
  · rw [if_neg (by omega), if_pos h, decide_eq_true h, Bool.true_and]
  · rw [if_neg h, decide_eq_false h, Bool.false_and, Bool.false_and, ite_self]

/-! ### The rules -/

/-- R226, R229, R231: the operation of each of these instructions makes what its rule says. -/
theorem makesBits_of_bitRule {r : Ty → Bool → List LVal → Nat} (hf : form s i = some f) (hr : bitRule i = some r) : MakesBits f.sem r := by
  cases i
  case andShort | and | andi =>
    obtain rfl := Option.some.inj hf
    exact Option.some.inj hr ▸ and_makes
  case orShort | or | ori =>
    obtain rfl := Option.some.inj hf
    exact Option.some.inj hr ▸ or_makes
  case xorShort | xor | xori =>
    obtain rfl := Option.some.inj hf
    exact Option.some.inj hr ▸ xor_makes
  case andnShort | andn =>
    obtain rfl := Option.some.inj hf
    exact Option.some.inj hr ▸ andn_makes
  case not =>
    obtain rfl := Option.some.inj hf
    exact Option.some.inj hr ▸ not_makes
  case shlShort | shl | shli =>
    obtain rfl := Option.some.inj hf
    exact Option.some.inj hr ▸ shl_makes
  case shrShort | shr | shri =>
    obtain rfl := Option.some.inj hf
    exact Option.some.inj hr ▸ shr_makes
  case sarShort | sar | sari =>
    obtain rfl := Option.some.inj hf
    exact Option.some.inj hr ▸ sar_makes
  case rol =>
    obtain rfl := Option.some.inj hf
    exact Option.some.inj hr ▸ rol_makes
  case ror =>
    obtain rfl := Option.some.inj hf
    exact Option.some.inj hr ▸ ror_makes
  case clz =>
    obtain rfl := Option.some.inj hf
    exact Option.some.inj hr ▸ clz_makes
  case ctz =>
    obtain rfl := Option.some.inj hf
    exact Option.some.inj hr ▸ ctz_makes
  case popc =>
    obtain rfl := Option.some.inj hf
    exact Option.some.inj hr ▸ popc_makes
  case brev =>
    obtain rfl := Option.some.inj hf
    exact Option.some.inj hr ▸ brev_makes
  case mulh =>
    obtain rfl := Option.some.inj hf
    exact Option.some.inj hr ▸ mulh_makes
  case div =>
    obtain rfl := Option.some.inj hf
    exact Option.some.inj hr ▸ div_makes
  case rem =>
    obtain rfl := Option.some.inj hf
    exact Option.some.inj hr ▸ rem_makes
  case clamp =>
    obtain rfl := Option.some.inj hf
    exact Option.some.inj hr ▸ clamp_makes
  case absShort | abs =>
    obtain rfl := Option.some.inj hf
    exact Option.some.inj hr ▸ abs_makes
  case negShort | neg =>
    obtain rfl := Option.some.inj hf
    exact Option.some.inj hr ▸ neg_makes
  case fma =>
    obtain rfl := Option.some.inj hf
    exact Option.some.inj hr ▸ fused_makes false false
  case fnma =>
    obtain rfl := Option.some.inj hf
    exact Option.some.inj hr ▸ fused_makes true false
  case fms =>
    obtain rfl := Option.some.inj hf
    exact Option.some.inj hr ▸ fused_makes false true
  case fnms =>
    obtain rfl := Option.some.inj hf
    exact Option.some.inj hr ▸ fused_makes true true
  case bfx =>
    obtain rfl := Option.some.inj hf
    exact Option.some.inj hr ▸ bfx_makes
  case bfi =>
    obtain rfl := Option.some.inj hf
    exact Option.some.inj hr ▸ bfi_makes
  case sxt =>
    obtain rfl := Option.some.inj hf
    exact Option.some.inj hr ▸ sxt_makes
  case zxt =>
    obtain rfl := Option.some.inj hf
    exact Option.some.inj hr ▸ zxt_makes
  all_goals cases hr

/-- Settles O6: the lanes take what each instruction's operation makes of their sources. -/
theorem bitResultsAreExact : Obligations.BitResultsAreExact := fun _ _ _ _ hf hr ht h =>
  exists_writes h hf fun _ _ hc => LOut.ok.inj (hc.symm.trans (makesBits_of_bitRule hf hr _ ht _ _ _))

end Sys2Proof.Machine
end

/-! ## The values of float codes in order (R97) -/
section
namespace Sys2Proof.Machine
open Sys2Proof.Claims

variable {t : Ty}

/-! ### Exact numbers as rationals -/

/-- The sign of a number as a factor. -/
def signOf (neg : Bool) : Rat := if neg then -1 else 1

theorem ratOf_fin (neg : Bool) (m : Nat) (e : Int) : ratOf (.fin neg m e) = signOf neg * (m * (2 : Rat) ^ e) := by
  have hv : (if 0 ≤ e then ((m * 2 ^ e.toNat : Nat) : Rat) else (m : Rat) / ((2 ^ (-e).toNat : Nat) : Rat)) = m * (2 : Rat) ^ e := by
    split
    next h =>
      obtain ⟨n, rfl⟩ := Int.eq_ofNat_of_zero_le h
      push_cast
      rfl
    next h =>
      obtain ⟨n, hn⟩ := Int.eq_ofNat_of_zero_le (show 0 ≤ -e by omega)
      obtain rfl : e = -(n : Int) := by omega
      rw [zpow_neg, zpow_natCast, div_eq_mul_inv]
      simp
  simp only [ratOf, hv, signOf]
  cases neg <;> simp

/-! ### The five formats -/

/-- R97: what the five formats have in common: the sign stands above exponent and mantissa, and the largest finite code ends the codes of
numbers. -/
structure Format (t : Ty) : Prop where
  bits : t.bits = t.fmt.eb + t.fmt.mb + 1
  mant : 2 ≤ t.fmt.mb
  max  : t.maxFin + (if t = .e4m3 then 2 else 2 ^ t.fmt.mb + 1) = 2 ^ (t.fmt.eb + t.fmt.mb)
  last : 0 < t.maxFin % 2 ^ t.fmt.mb
  wide : 2 ≤ t.fmt.eb

theorem format_of_five (h : t ∈ fiveFloats) : Format t := by
  simp only [fiveFloats, List.mem_cons, List.not_mem_nil, or_false] at h
  rcases h with rfl | rfl | rfl | rfl | rfl <;> exact ⟨rfl, by decide, by decide, by decide, by decide⟩

/-- R97: the power of two of the least bit of a format. -/
def Ty.emin (t : Ty) : Int := 1 - (t.fmt.bias : Int) - t.fmt.mb

/-- R97: the value of the magnitude that stands at a place among the codes; past the finite ones the places go on. -/
def Ty.ordVal (t : Ty) (r : Nat) : Rat :=
  if r / 2 ^ t.fmt.mb = 0 then (r % 2 ^ t.fmt.mb : Nat) * (2 : Rat) ^ t.emin
  else ((r % 2 ^ t.fmt.mb + 2 ^ t.fmt.mb : Nat) : Rat) * (2 : Rat) ^ (t.emin + (r / 2 ^ t.fmt.mb : Nat) - 1)

theorem two_zpow_pos (e : Int) : (0 : Rat) < (2 : Rat) ^ e := zpow_pos (by norm_num) e

theorem two_zpow_add (a b : Int) : (2 : Rat) ^ (a + b) = (2 : Rat) ^ a * (2 : Rat) ^ b := zpow_add₀ (by norm_num) a b

/-- R97: a significand f at the power p above the least one; the one just past the binade is the first of the next. -/
theorem Ty.ordVal_eq {p f : Nat} (hlow : p = 0 ∨ 2 ^ t.fmt.mb ≤ f) (hhigh : f ≤ 2 ^ (t.fmt.mb + 1)) :
    t.ordVal (p * 2 ^ t.fmt.mb + f) = f * (2 : Rat) ^ (t.emin + p) := by
  have hpos := Nat.two_pow_pos t.fmt.mb
  rw [pow_succ] at hhigh
  unfold Ty.ordVal
  generalize hM : 2 ^ t.fmt.mb = M at *
  by_cases h1 : f < M
  · obtain rfl : p = 0 := by omega
    rw [Nat.zero_mul, Nat.zero_add, Nat.div_eq_of_lt h1, Nat.mod_eq_of_lt h1, if_pos rfl]
    simp
  · by_cases h2 : f < M * 2
    · have hr : p * M + f = (f - M) + (p + 1) * M := by rw [Nat.add_mul]; omega
      have hlt : f - M < M := by omega
      rw [hr, Nat.add_mul_div_right _ _ hpos, Nat.div_eq_of_lt hlt, Nat.add_mul_mod_self_right, Nat.mod_eq_of_lt hlt, if_neg (by omega),
        Nat.sub_add_cancel (by omega)]
      congr 2
      push_cast
      ring
    · obtain rfl : f = M * 2 := by omega
      have hr : p * M + M * 2 = 0 + (p + 2) * M := by rw [Nat.add_mul]; omega
      rw [hr, Nat.add_mul_div_right _ _ hpos, Nat.zero_div, Nat.add_mul_mod_self_right, Nat.zero_mod, if_neg (by omega)]
      have he : t.emin + ((0 + (p + 2) : Nat) : Int) - 1 = (t.emin + p) + 1 := by push_cast; ring
      rw [he, two_zpow_add, zpow_one]
      push_cast
      ring

/-- R97: every place is a significand at a power. -/
theorem Ty.exists_ord (t : Ty) (r : Nat) : ∃ p f, r = p * 2 ^ t.fmt.mb + f ∧ (p = 0 ∨ 2 ^ t.fmt.mb ≤ f) ∧ f < 2 ^ (t.fmt.mb + 1) := by
  have hpos := Nat.two_pow_pos t.fmt.mb
  have hr := Nat.div_add_mod' r (2 ^ t.fmt.mb)
  have hlt := Nat.mod_lt r hpos
  rw [pow_succ]
  cases hp : r / 2 ^ t.fmt.mb with
  | zero =>
    rw [hp] at hr
    exact ⟨0, r, by omega, .inl rfl, by omega⟩
  | succ p =>
    rw [hp, Nat.succ_mul] at hr
    exact ⟨p, r % 2 ^ t.fmt.mb + 2 ^ t.fmt.mb, by omega, .inr (by omega), by omega⟩

theorem Ty.ordVal_lt_succ (t : Ty) (r : Nat) : t.ordVal r < t.ordVal (r + 1) := by
  obtain ⟨p, f, rfl, hlow, hhigh⟩ := t.exists_ord r
  rw [Nat.add_assoc, t.ordVal_eq hlow hhigh.le, t.ordVal_eq (hlow.imp_right (by omega)) hhigh]
  push_cast
  have := two_zpow_pos (t.emin + p)
  linarith

theorem Ty.ordVal_strictMono (t : Ty) : StrictMono t.ordVal := strictMono_nat_of_lt_succ t.ordVal_lt_succ

theorem Ty.ordVal_zero (t : Ty) : t.ordVal 0 = 0 := by
  simp [Ty.ordVal]

theorem Ty.ordVal_nonneg (t : Ty) (r : Nat) : 0 ≤ t.ordVal r := t.ordVal_zero ▸ t.ordVal_strictMono.monotone (Nat.zero_le r)

/-! ### Codes -/

theorem signed_eq (h : Format t) (neg : Bool) (j : Nat) : signed t neg j = j + (if neg then 1 else 0) * 2 ^ (t.fmt.eb + t.fmt.mb) := by
  rw [signed, h.bits, Nat.add_sub_cancel]
  cases neg <;> simp

theorem Format.maxFin_lt (h : Format t) : t.maxFin < 2 ^ (t.fmt.eb + t.fmt.mb) := by
  have hmax := h.max
  have := Nat.two_pow_pos t.fmt.mb
  split at hmax <;> omega

/-- R97: the exponent and mantissa fields of a code, and its sign. -/
theorem code_fields (h : Format t) (neg : Bool) {j : Nat} (hj : j < 2 ^ (t.fmt.eb + t.fmt.mb)) :
    (signed t neg j / 2 ^ (t.fmt.eb + t.fmt.mb) % 2 == 1) = neg ∧ signed t neg j / 2 ^ t.fmt.mb % 2 ^ t.fmt.eb = j / 2 ^ t.fmt.mb ∧
      signed t neg j % 2 ^ t.fmt.mb = j % 2 ^ t.fmt.mb := by
  have hex : j / 2 ^ t.fmt.mb < 2 ^ t.fmt.eb := Nat.div_lt_of_lt_mul (by rwa [← pow_add, Nat.add_comm])
  rw [signed_eq h]
  refine ⟨?_, ?_, ?_⟩
  · rw [Nat.add_mul_div_right _ _ (Nat.two_pow_pos _), Nat.div_eq_of_lt hj]
    cases neg <;> rfl
  · rw [pow_add, ← Nat.mul_assoc, Nat.add_mul_div_right _ _ (Nat.two_pow_pos _), Nat.add_mul_mod_self_right, Nat.mod_eq_of_lt hex]
  · rw [pow_add, ← Nat.mul_assoc, Nat.add_mul_mod_self_right]

/-- R97: where the codes of numbers end. -/
theorem Format.special (h : Format t) {j : Nat} (hj : j < 2 ^ (t.fmt.eb + t.fmt.mb)) :
    j ≤ t.maxFin ↔ ¬ (if t = .e4m3 then j / 2 ^ t.fmt.mb = 15 ∧ j % 2 ^ t.fmt.mb = 7 else j / 2 ^ t.fmt.mb = 2 ^ t.fmt.eb - 1) := by
  have hmax := h.max
  by_cases h4 : t = .e4m3
  · subst h4
    have hj' : j < 128 := hj
    simp only [if_true, show Ty.e4m3.fmt.mb = 3 from rfl, show Ty.e4m3.maxFin = 0x7E from rfl]
    omega
  · rw [if_neg h4] at hmax ⊢
    have hpos := Nat.two_pow_pos t.fmt.mb
    have hdm := Nat.div_add_mod' j (2 ^ t.fmt.mb)
    have hlt := Nat.mod_lt j hpos
    have hex : j / 2 ^ t.fmt.mb < 2 ^ t.fmt.eb := Nat.div_lt_of_lt_mul (by rwa [← pow_add, Nat.add_comm])
    have he : 2 ^ (t.fmt.eb + t.fmt.mb) = (2 ^ t.fmt.eb - 1) * 2 ^ t.fmt.mb + 2 ^ t.fmt.mb := by
      rw [pow_add, ← Nat.succ_mul, Nat.succ_eq_add_one, Nat.sub_add_cancel Nat.one_le_two_pow]
    constructor
    · intro hle hq
      rw [hq] at hdm
      omega
    · intro hne
      have hq : j / 2 ^ t.fmt.mb + 1 ≤ 2 ^ t.fmt.eb - 1 := by omega
      have hm := Nat.mul_le_mul_right (2 ^ t.fmt.mb) hq
      rw [Nat.succ_mul] at hm
      omega

/-- R97: the value of a code. -/
theorem floatOf_signed (h : Format t) (neg : Bool) {j : Nat} (hj : j ≤ t.maxFin) :
    isFin (floatOf t (signed t neg j)) = true ∧ codeVal t (signed t neg j) = signOf neg * t.ordVal j ∧ sgn (floatOf t (signed t neg j)) = neg := by
  have hlt := hj.trans_lt h.maxFin_lt
  obtain ⟨hs, he, hm⟩ := code_fields h neg hlt
  have hspec := (h.special hlt).mp hj
  have hval : floatOf t (signed t neg j) = if j / 2 ^ t.fmt.mb = 0 then .fin neg (j % 2 ^ t.fmt.mb) t.emin
      else .fin neg (j % 2 ^ t.fmt.mb + 2 ^ t.fmt.mb) (t.emin + (j / 2 ^ t.fmt.mb : Nat) - 1) := by
    have hem : ((j / 2 ^ t.fmt.mb : Nat) : Int) - t.fmt.bias - t.fmt.mb = t.emin + (j / 2 ^ t.fmt.mb : Nat) - 1 := by rw [Ty.emin]; ring
    simp only [floatOf, hs, he, hm, hem]
    by_cases h4 : t = .e4m3
    · rw [if_pos h4] at hspec
      rw [if_pos h4, if_neg hspec]
      rfl
    · rw [if_neg h4] at hspec
      rw [if_neg h4, if_neg hspec]
      rfl
  rw [codeVal, hval, Ty.ordVal]
  split
  · exact ⟨rfl, ratOf_fin _ _ _, rfl⟩
  · exact ⟨rfl, ratOf_fin _ _ _, rfl⟩

theorem finCode_signed (h : Format t) (neg : Bool) {j : Nat} (hj : j ≤ t.maxFin) : finCode t (signed t neg j) := by
  refine ⟨?_, (floatOf_signed h neg hj).1⟩
  have := h.maxFin_lt
  rw [signed_eq h, h.bits, pow_succ]
  cases neg <;> simp <;> omega

/-- R97: every code of a number is a magnitude up to the largest, with a sign. -/
theorem exists_signed (h : Format t) {d : Nat} (hd : finCode t d) : ∃ neg j, j ≤ t.maxFin ∧ d = signed t neg j := by
  obtain ⟨hlt, hfin⟩ := hd
  rw [h.bits, pow_succ] at hlt
  have hdm := Nat.div_add_mod' d (2 ^ (t.fmt.eb + t.fmt.mb))
  have hj := Nat.mod_lt d (Nat.two_pow_pos (t.fmt.eb + t.fmt.mb))
  have hq : d / 2 ^ (t.fmt.eb + t.fmt.mb) < 2 := Nat.div_lt_of_lt_mul hlt
  have hsig : d = signed t (d / 2 ^ (t.fmt.eb + t.fmt.mb) == 1) (d % 2 ^ (t.fmt.eb + t.fmt.mb)) := by
    rw [signed_eq h]
    rcases Nat.lt_succ_iff_lt_or_eq.mp hq with h0 | h1
    · rw [Nat.lt_one_iff.mp h0] at hdm ⊢
      simp only [Nat.reduceBEq, Bool.false_eq_true, if_false]
      omega
    · rw [h1] at hdm ⊢
      simp only [beq_self_eq_true, if_true]
      omega
  refine ⟨_, _, ?_, hsig⟩
  rw [hsig] at hfin
  by_contra hc
  obtain ⟨-, he, hm⟩ := code_fields h (d / 2 ^ (t.fmt.eb + t.fmt.mb) == 1) hj
  have hspec := not_not.mp (mt (h.special hj).mpr hc)
  simp only [floatOf, he, hm] at hfin
  by_cases h4 : t = .e4m3
  · rw [if_pos h4] at hspec
    rw [if_pos h4, if_pos hspec] at hfin
    cases hfin
  · rw [if_neg h4] at hspec
    rw [if_neg h4, if_pos hspec] at hfin
    split at hfin <;> cases hfin

/-- R99: the sign of a code. -/
theorem signed_sign (h : Format t) (neg : Bool) {j : Nat} (hj : j ≤ t.maxFin) : signed t neg j / 2 ^ (t.bits - 1) = 1 ↔ neg = true := by
  rw [signed_eq h, h.bits, Nat.add_sub_cancel, Nat.add_mul_div_right _ _ (Nat.two_pow_pos _), Nat.div_eq_of_lt (hj.trans_lt h.maxFin_lt)]
  cases neg <;> simp

/-- R99: a code is even as its magnitude is. -/
theorem signed_even (h : Format t) (neg : Bool) (j : Nat) : signed t neg j % 2 = j % 2 := by
  have : 2 ^ (t.fmt.eb + t.fmt.mb) = 2 * 2 ^ (t.fmt.eb + t.fmt.mb - 1) := by
    rw [← pow_succ']
    congr 1
    have := h.wide
    omega
  rw [signed_eq h, this]
  cases neg
  · simp
  · simp only [if_true, Nat.one_mul]
    omega

end Sys2Proof.Machine
end

/-! ## One rounding (R99, R100) -/
section
namespace Sys2Proof.Machine
open Sys2Proof.Claims

variable {t : Ty} {rnd : Nat} {neg : Bool} {L G : Rat → Prop} {r : Nat}

/-! ### An exact value given by the rationals on its two sides -/

/-- The rationals not above a value, and those not below it. -/
structure Cut (le ge : Rat → Prop) : Prop where
  down  : ∀ {a b}, a ≤ b → le b → le a
  up    : ∀ {a b}, a ≤ b → ge a → ge b
  apart : ∀ {a b}, ge a → le b → b ≤ a
  total : ∀ a, le a ∨ ge a

/-- The cut of a rational. -/
theorem Cut.rat (x : Rat) : Cut (fun q => q ≤ x) fun q => x ≤ q :=
  ⟨fun h k => h.trans k, fun h k => k.trans h, fun h k => k.trans h, fun a => le_total a x⟩

/-- The cut of the negative. -/
theorem Cut.mirror {le ge : Rat → Prop} (h : Cut le ge) : Cut (fun q => ge (-q)) fun q => le (-q) :=
  ⟨fun hab k => h.up (neg_le_neg hab) k, fun hab k => h.down (neg_le_neg hab) k, fun k l => neg_le_neg_iff.mp (h.apart l k), fun a => (h.total (-a)).symm⟩

/-- The middle of two places. -/
def Ty.mid (t : Ty) (i j : Nat) : Rat := (t.ordVal i + t.ordVal j) / 2

theorem Ty.mid_comm (t : Ty) (i j : Nat) : t.mid i j = t.mid j i := by rw [Ty.mid, Ty.mid, add_comm]

theorem Ty.mid_mono (t : Ty) {i i' j j' : Nat} (hi : i ≤ i') (hj : j ≤ j') : t.mid i j ≤ t.mid i' j' := by
  have h1 := t.ordVal_strictMono.monotone hi
  have h2 := t.ordVal_strictMono.monotone hj
  unfold Ty.mid
  linarith

theorem Ty.le_of_mid_le (t : Ty) {i j k : Nat} (h : t.mid i j ≤ t.mid i k) : j ≤ k := by
  by_contra hc
  have := t.ordVal_strictMono (not_le.mp hc)
  unfold Ty.mid at h
  linarith

/-- R99: the place r is where a magnitude, given by its cut, rounds to in a mode. -/
structure Rounds (t : Ty) (rnd : Nat) (neg : Bool) (L G : Rat → Prop) (r : Nat) : Prop where
  above : rnd = 0 → ∀ j, r < j → G (t.mid r j) ∧ (L (t.mid r j) → r % 2 = 0)
  below : rnd = 0 → ∀ j, j < r → L (t.mid r j) ∧ (G (t.mid r j) → r % 2 = 0)
  floor : rnd = 1 ∨ rnd = 2 ∧ neg = true ∨ rnd = 3 ∧ neg = false → L (t.ordVal r) ∧ ¬ L (t.ordVal (r + 1))
  ceil  : rnd = 2 ∧ neg = false ∨ rnd = 3 ∧ neg = true → G (t.ordVal r) ∧ ∀ j, j < r → ¬ G (t.ordVal j)

/-- A zero rounds to itself. -/
theorem rounds_zero (hc : Cut L G) (hl : L 0) (hg : G 0) : Rounds t rnd neg L G 0 := by
  have h1 : ¬ L (t.ordVal 1) := fun h => by
    have := hc.apart hg h
    have := t.ordVal_strictMono (show 0 < 1 by decide)
    rw [t.ordVal_zero] at this
    linarith
  refine ⟨fun _ j _ => ⟨hc.up ?_ hg, fun _ => rfl⟩, fun _ j hj => absurd hj (Nat.not_lt_zero j), fun _ => ⟨t.ordVal_zero.symm ▸ hl, h1⟩,
    fun _ => ⟨t.ordVal_zero.symm ▸ hg, fun j hj => absurd hj (Nat.not_lt_zero j)⟩⟩
  have := t.ordVal_nonneg j
  rw [Ty.mid, t.ordVal_zero]
  linarith

/-- R99: whether a value x of u from K up to K + 1 goes up. -/
def GoesUp (rnd : Nat) (neg : Bool) (K : Nat) (x u : Rat) : Prop :=
  (rnd = 0 ∧ ((K + 1 / 2) * u < x ∨ x = (K + 1 / 2) * u ∧ K % 2 = 1)) ∨ (rnd = 2 ∧ neg = false ∧ K * u < x) ∨ (rnd = 3 ∧ neg = true ∧ K * u < x)

/-- R99: a magnitude between two neighbouring places rounds to the one its mode names. -/
theorem rounds_between (hc : Cut L G) {x : Rat} {K : Nat} (hl : L (t.ordVal r)) (hu : ¬ L (t.ordVal (r + 1)))
    (hG : G (t.ordVal r) ↔ x ≤ t.ordVal r) (hLm : L (t.mid r (r + 1)) ↔ t.mid r (r + 1) ≤ x) (hGm : G (t.mid r (r + 1)) ↔ x ≤ t.mid r (r + 1))
    (hpar : K % 2 = r % 2) {u : Rat} (hk : t.ordVal r = K * u) (hm : t.mid r (r + 1) = (K + 1 / 2) * u) :
    (GoesUp rnd neg K x u → Rounds t rnd neg L G (r + 1)) ∧ (¬ GoesUp rnd neg K x u → Rounds t rnd neg L G r) := by
  have hmono := t.ordVal_strictMono
  have hgu : G (t.ordVal (r + 1)) := (hc.total _).resolve_left hu
  have hxr : t.ordVal r ≤ t.mid r (r + 1) := by
    have := hmono (Nat.lt_succ_self r)
    unfold Ty.mid
    linarith
  constructor
  · intro hup
    refine ⟨fun h0 j hj => ?_, fun h0 j hj => ?_, fun hf => ?_, fun hcl => ?_⟩
    · have hle : t.ordVal (r + 1) ≤ t.mid (r + 1) j := by
        have := hmono hj
        unfold Ty.mid
        linarith
      exact ⟨hc.up hle hgu, fun h => absurd (hc.down hle h) hu⟩
    · have hx : t.mid r (r + 1) ≤ x ∧ (x ≤ t.mid r (r + 1) → K % 2 = 1) := by
        rw [hm]
        rcases hup with ⟨-, hlt | ⟨heq, hodd⟩⟩ | ⟨h2, -⟩ | ⟨h3, -⟩
        · exact ⟨hlt.le, fun h => absurd h (not_le.mpr hlt)⟩
        · exact ⟨heq.ge, fun _ => hodd⟩
        · omega
        · omega
      have hle : t.mid (r + 1) j ≤ t.mid r (r + 1) := t.mid_comm (r + 1) r ▸ t.mid_mono le_rfl (Nat.lt_succ_iff.mp hj)
      refine ⟨hc.down hle (hLm.mpr hx.1), fun hg => ?_⟩
      have hle' := hc.apart hg (hLm.mpr hx.1)
      rw [t.mid_comm r] at hle'
      obtain rfl : j = r := le_antisymm (Nat.lt_succ_iff.mp hj) (t.le_of_mid_le hle')
      rw [t.mid_comm, hGm] at hg
      have := hx.2 hg
      omega
    · rcases hup with ⟨h0, -⟩ | ⟨h2, hn, -⟩ | ⟨h3, hn, -⟩
      · omega
      · rcases hf with h | ⟨-, h⟩ | ⟨h, -⟩
        · omega
        · rw [hn] at h; cases h
        · omega
      · rcases hf with h | ⟨h, -⟩ | ⟨-, h⟩
        · omega
        · omega
        · rw [hn] at h; cases h
    · refine ⟨hgu, fun j hj hg => ?_⟩
      have hx : t.ordVal r < x := by
        rw [hk]
        rcases hup with ⟨h0, -⟩ | ⟨-, -, h⟩ | ⟨-, -, h⟩
        · omega
        · exact h
        · exact h
      exact absurd (hG.mp (hc.up (hmono.monotone (Nat.lt_succ_iff.mp hj)) hg)) (not_le.mpr hx)
  · intro hup
    refine ⟨fun h0 j hj => ?_, fun h0 j hj => ?_, fun _ => ⟨hl, hu⟩, fun hcl => ?_⟩
    · have hx : x ≤ t.mid r (r + 1) ∧ (t.mid r (r + 1) ≤ x → K % 2 = 0) := by
        rw [hm]
        refine ⟨not_lt.mp fun h => hup (.inl ⟨h0, .inl h⟩), fun h => ?_⟩
        by_contra hodd
        have hle : x ≤ (K + 1 / 2) * u := not_lt.mp fun h => hup (.inl ⟨h0, .inl h⟩)
        exact hup (.inl ⟨h0, .inr ⟨le_antisymm hle h, by omega⟩⟩)
      have hle : t.mid r (r + 1) ≤ t.mid r j := t.mid_mono le_rfl hj
      refine ⟨hc.up hle (hGm.mpr hx.1), fun h => ?_⟩
      obtain rfl : r + 1 = j := le_antisymm hj (t.le_of_mid_le (hc.apart (hGm.mpr hx.1) h))
      have := hx.2 (hLm.mp h)
      omega
    · have hle : t.mid r j < t.ordVal r := by
        have := hmono hj
        unfold Ty.mid
        linarith
      exact ⟨hc.down hle.le hl, fun h => absurd (hc.apart h hl) (not_le.mpr hle)⟩
    · have hx : x ≤ t.ordVal r := by
        rw [hk]
        refine not_lt.mp fun h => hup ?_
        rcases hcl with ⟨h2, hn⟩ | ⟨h3, hn⟩
        · exact .inr (.inl ⟨h2, hn, h⟩)
        · exact .inr (.inr ⟨h3, hn, h⟩)
      exact ⟨hG.mpr hx, fun j hj h => absurd (hc.apart h hl) (not_le.mpr (hmono hj))⟩

/-! ### What a place delivers (R100) -/

/-- R100: the code that a place delivers: past the largest finite value, what the mode and the saturation say. -/
def delivery (t : Ty) (rnd : Nat) (sat neg : Bool) (r : Nat) : Nat :=
  if r ≤ t.maxFin then signed t neg r
  else if rnd = 0 ∨ (rnd = 2 ∧ neg = false) ∨ (rnd = 3 ∧ neg = true) then infCode t sat neg
  else signed t neg t.maxFin

/-- R100: a magnitude lies so far beyond the largest finite value that it becomes an infinity. -/
def Beyond (t : Ty) (rnd : Nat) (neg : Bool) (L G : Rat → Prop) : Prop :=
  (rnd = 0 ∧ (¬ G (t.mid t.maxFin (t.maxFin + 1)) ∨
    (L (t.mid t.maxFin (t.maxFin + 1)) ∧ G (t.mid t.maxFin (t.maxFin + 1)) ∧ t.maxFin % 2 = 1))) ∨
  ((rnd = 2 ∧ neg = false ∨ rnd = 3 ∧ neg = true) ∧ ¬ G (t.ordVal t.maxFin))

theorem beyond_iff (hc : Cut L G) (hr : Rounds t rnd neg L G r) :
    Beyond t rnd neg L G ↔ t.maxFin < r ∧ (rnd = 0 ∨ (rnd = 2 ∧ neg = false) ∨ (rnd = 3 ∧ neg = true)) := by
  constructor
  · rintro (⟨h0, hb⟩ | ⟨hm, hg⟩)
    · refine ⟨not_le.mp fun hle => ?_, .inl h0⟩
      obtain ⟨hG, hE⟩ := hr.above h0 (t.maxFin + 1) (by omega)
      have hmono : t.mid r (t.maxFin + 1) ≤ t.mid t.maxFin (t.maxFin + 1) := t.mid_mono hle le_rfl
      rcases hb with hb | ⟨hL, -, hodd⟩
      · exact hb (hc.up hmono hG)
      · have hrm := hc.apart hG hL
        rw [t.mid_comm, t.mid_comm r] at hrm
        obtain rfl : r = t.maxFin := le_antisymm hle (t.le_of_mid_le hrm)
        have := hE hL
        omega
    · exact ⟨not_le.mp fun hle => hg (hc.up (t.ordVal_strictMono.monotone hle) (hr.ceil hm).1), .inr hm⟩
  · rintro ⟨hlt, h0 | hm⟩
    · obtain ⟨hL, hE⟩ := hr.below h0 t.maxFin hlt
      refine .inl ⟨h0, Classical.or_iff_not_imp_left.mpr fun hg => ?_⟩
      have hG := not_not.mp hg
      rw [t.mid_comm] at hL hE
      have hle := t.le_of_mid_le (hc.apart hG hL)
      obtain rfl : r = t.maxFin + 1 := by omega
      have := hE hG
      exact ⟨hL, hG, by omega⟩
    · exact .inr ⟨hm, (hr.ceil hm).2 _ hlt⟩

/-- R99: what is said of a delivered place against every value of the type, in magnitudes. -/
structure Fits (t : Ty) (rnd : Nat) (neg : Bool) (L G : Rat → Prop) (k : Nat) (y : Rat) : Prop where
  near  : rnd = 0 → (t.ordVal k < y → G ((t.ordVal k + y) / 2) ∧ (L ((t.ordVal k + y) / 2) → k % 2 = 0)) ∧
    (y < t.ordVal k → L ((t.ordVal k + y) / 2) ∧ (G ((t.ordVal k + y) / 2) → k % 2 = 0))
  floor : rnd = 1 ∨ rnd = 2 ∧ neg = true ∨ rnd = 3 ∧ neg = false → L (t.ordVal k) ∧ (L y → y ≤ t.ordVal k)
  ceil  : rnd = 2 ∧ neg = false ∨ rnd = 3 ∧ neg = true → G (t.ordVal k) ∧ (G y → t.ordVal k ≤ y)

theorem Rounds.fits_pos (hc : Cut L G) (hr : Rounds t rnd neg L G r) (j : Nat) : Fits t rnd neg L G r (t.ordVal j) := by
  have hlt {i k : Nat} : t.ordVal i < t.ordVal k ↔ i < k := t.ordVal_strictMono.lt_iff_lt
  refine ⟨fun h0 => ⟨fun h => hr.above h0 j (hlt.mp h), fun h => hr.below h0 j (hlt.mp h)⟩, fun hf => ?_, fun hm => ?_⟩
  · obtain ⟨hl, hu⟩ := hr.floor hf
    exact ⟨hl, fun h => not_lt.mp fun hgt => hu (hc.down (t.ordVal_strictMono.monotone (hlt.mp hgt)) h)⟩
  · obtain ⟨hg, hmin⟩ := hr.ceil hm
    exact ⟨hg, fun h => not_lt.mp fun hgt => hmin j (hlt.mp hgt) h⟩

/-- The values of the other sign. -/
theorem Rounds.fits_neg (hc : Cut L G) (h0 : L 0) (hr : Rounds t rnd neg L G r) {y : Rat} (hy : y ≤ 0) : Fits t rnd neg L G r y := by
  have hz := hr.fits_pos hc 0
  have hr0 := t.ordVal_nonneg r
  rw [t.ordVal_zero] at hz
  refine ⟨fun hn => ⟨fun h => by linarith, fun h => ?_⟩, fun hf => ⟨(hz.floor hf).1, fun _ => hy.trans hr0⟩, fun hm => ⟨(hz.ceil hm).1, fun h => ?_⟩⟩
  · rcases hr0.eq_or_lt with heq | hlt
    · have hzero : r = 0 := (t.ordVal_strictMono.injective (t.ordVal_zero.trans heq)).symm
      exact ⟨hc.down (by linarith) h0, fun _ => by rw [hzero]⟩
    · obtain ⟨hL, hE⟩ := (hz.near hn).2 hlt
      exact ⟨hc.down (by linarith) hL, fun h => hE (hc.up (by linarith) h)⟩
  · exact ((hz.ceil hm).2 (hc.up hy h)).trans (hc.apart h h0)

/-- R100: past the largest finite value, toward zero. -/
theorem Fits.clamp {k : Nat} {y : Rat} (hf : Fits t rnd neg L G r y) (hc : Cut L G) (hk : k ≤ r) (hy : y ≤ t.ordVal k)
    (hdir : rnd = 1 ∨ rnd = 2 ∧ neg = true ∨ rnd = 3 ∧ neg = false) : Fits t rnd neg L G k y := by
  refine ⟨fun h => by omega, fun h => ⟨hc.down (t.ordVal_strictMono.monotone hk) (hf.floor h).1, fun _ => hy⟩, fun h => ?_⟩
  rcases hdir with h1 | ⟨h2, hn⟩ | ⟨h3, hn⟩
  · omega
  · rcases h with ⟨-, hn'⟩ | ⟨h3, -⟩
    · rw [hn] at hn'; cases hn'
    · omega
  · rcases h with ⟨h2, -⟩ | ⟨-, hn'⟩
    · omega
    · rw [hn] at hn'; cases hn'

theorem mode_cases (hrnd : rnd < 4) (neg : Bool) (h : ¬ (rnd = 0 ∨ (rnd = 2 ∧ neg = false) ∨ (rnd = 3 ∧ neg = true))) :
    rnd = 1 ∨ rnd = 2 ∧ neg = true ∨ rnd = 3 ∧ neg = false := by
  cases neg <;> simp only [Bool.true_eq_false, Bool.false_eq_true, and_true, and_false, or_false, false_or] at h ⊢ <;> omega

/-- R99, R100: a place that is not beyond delivers a code of a number, which fits. -/
theorem exists_fits (hrnd : rnd < 4) (hc : Cut L G) (h0 : L 0) (hr : Rounds t rnd neg L G r) (hb : ¬ Beyond t rnd neg L G)
    (sat : Bool) : ∃ k, k ≤ t.maxFin ∧ delivery t rnd sat neg r = signed t neg k ∧
      ∀ j, j ≤ t.maxFin → Fits t rnd neg L G k (t.ordVal j) ∧ Fits t rnd neg L G k (-t.ordVal j) := by
  have hneg (j : Nat) : -t.ordVal j ≤ 0 := by have := t.ordVal_nonneg j; linarith
  by_cases hle : r ≤ t.maxFin
  · exact ⟨r, hle, if_pos hle, fun j _ => ⟨hr.fits_pos hc j, hr.fits_neg hc h0 (hneg j)⟩⟩
  · have hdir := not_and.mp (mt (beyond_iff hc hr).mpr hb) (not_le.mp hle)
    refine ⟨t.maxFin, le_rfl, by rw [delivery, if_neg hle, if_neg hdir], fun j hj => ?_⟩
    have hcl := fun {y : Rat} (hf : Fits t rnd neg L G r y) (hy : y ≤ t.ordVal t.maxFin) =>
      hf.clamp hc (not_le.mp hle).le hy (mode_cases hrnd neg hdir)
    exact ⟨hcl (hr.fits_pos hc j) (t.ordVal_strictMono.monotone hj), hcl (hr.fits_neg hc h0 (hneg j)) ((hneg j).trans (t.ordVal_nonneg _))⟩

/-- R100: the middle past the largest finite value, which the statement gives by the two largest. -/
theorem mid_past (h : Format t) : t.mid t.maxFin (t.maxFin + 1) = t.ordVal t.maxFin + (t.ordVal t.maxFin - t.ordVal (t.maxFin - 1)) / 2 := by
  obtain ⟨p, f, hp, hlow, hhigh⟩ := t.exists_ord (t.maxFin - 1)
  have hlast := h.last
  have hM : t.maxFin ≠ 0 := fun h0 => by rw [h0] at hlast; simp at hlast
  have hf : f + 2 ≤ 2 ^ (t.fmt.mb + 1) := by
    by_contra hc
    have hfe : f + 1 = 2 * 2 ^ t.fmt.mb := by rw [pow_succ] at hhigh hc; omega
    have hMe : t.maxFin = (p + 2) * 2 ^ t.fmt.mb := by rw [Nat.add_mul]; omega
    rw [hMe, Nat.mul_mod_left] at hlast
    exact absurd hlast (lt_irrefl 0)
  have e0 : t.maxFin = p * 2 ^ t.fmt.mb + (f + 1) := by omega
  have e1 : t.maxFin + 1 = p * 2 ^ t.fmt.mb + (f + 2) := by omega
  have v0 : t.ordVal t.maxFin = ((f + 1 : Nat) : Rat) * (2 : Rat) ^ (t.emin + p) :=
    (congrArg t.ordVal e0).trans (t.ordVal_eq (hlow.imp_right (by omega)) (by omega))
  have v1 : t.ordVal (t.maxFin + 1) = ((f + 2 : Nat) : Rat) * (2 : Rat) ^ (t.emin + p) :=
    (congrArg t.ordVal e1).trans (t.ordVal_eq (hlow.imp_right (by omega)) hf)
  rw [Ty.mid, hp, t.ordVal_eq hlow hhigh.le, v0, v1]
  push_cast
  ring

/-- R99, R100: a place delivered is the value rounded once, of either sign. -/
theorem floatFits_delivery {le ge : Rat → Prop} (h : Format t) (hrnd : rnd < 4) (sat : Bool) :
    (Cut le ge → le 0 → Rounds t rnd false le ge r → FloatFits t rnd sat false le ge (delivery t rnd sat false r)) ∧
    (Cut le ge → ge 0 → Rounds t rnd true (fun q => ge (-q)) (fun q => le (-q)) r → FloatFits t rnd sat true le ge (delivery t rnd sat true r)) := by
  have hval (j : Nat) (hj : j ≤ t.maxFin) (s : Bool) : codeVal t (signed t s j) = signOf s * t.ordVal j := (floatOf_signed h s hj).2.1
  have hmax : codeVal t t.maxFin = t.ordVal t.maxFin := (hval _ le_rfl false).trans (one_mul _)
  have hmax1 : codeVal t (t.maxFin - 1) = t.ordVal (t.maxFin - 1) := (hval _ (Nat.sub_le _ _) false).trans (one_mul _)
  have hvals {P : Rat → Prop} (hP : ∀ j, j ≤ t.maxFin → P (t.ordVal j) ∧ P (-t.ordVal j)) {d : Nat} (hd : finCode t d) :
      P (codeVal t d) ∧ P (-codeVal t d) := by
    obtain ⟨s, j, hj, rfl⟩ := exists_signed h hd
    rw [hval j hj]
    cases s
    · simpa [signOf] using hP j hj
    · simpa [signOf] using (hP j hj).symm
  have hparts (neg : Bool) (k : Nat) (hk : k ≤ t.maxFin) : finCode t (signed t neg k) ∧ (signed t neg k / 2 ^ (t.bits - 1) = 1 ↔ neg = true) :=
    ⟨finCode_signed h neg hk, signed_sign h neg hk⟩
  constructor
  · intro hc h0 hr
    unfold FloatFits
    dsimp only
    rw [hmax, hmax1, ← mid_past h]
    refine ⟨fun hbey => ?_, fun hnb => ?_⟩
    · obtain ⟨hlt, hdir⟩ := (beyond_iff hc hr).mp (by simpa [Beyond] using hbey)
      rw [delivery, if_neg (not_le.mpr hlt), if_pos hdir]
    · obtain ⟨k, hk, hdel, hfits⟩ := exists_fits hrnd hc h0 hr (by simpa [Beyond] using hnb) sat
      rw [hdel]
      refine ⟨(hparts false k hk).1, (hparts false k hk).2, fun d hd => ?_⟩
      have hf := (hvals (P := Fits t rnd false le ge k) hfits hd).1
      rw [signed_even h, hval k hk, show signOf false * t.ordVal k = t.ordVal k from one_mul _]
      refine ⟨hf.near, fun hfl => hf.floor ?_, fun hcl => hf.ceil ?_⟩
      · rcases hfl with h3 | ⟨h1, -⟩
        · exact .inr (.inr ⟨h3, rfl⟩)
        · exact .inl h1
      · rcases hcl with h2 | ⟨-, hn⟩
        · exact .inl ⟨h2, rfl⟩
        · cases hn
  · intro hc h0 hr
    unfold FloatFits
    dsimp only
    rw [hmax, hmax1, ← mid_past h]
    refine ⟨fun hbey => ?_, fun hnb => ?_⟩
    · obtain ⟨hlt, hdir⟩ := (beyond_iff hc.mirror hr).mp (by simpa [Beyond, and_left_comm] using hbey)
      rw [delivery, if_neg (not_le.mpr hlt), if_pos hdir]
    · obtain ⟨k, hk, hdel, hfits⟩ := exists_fits hrnd hc.mirror (by simpa using h0) hr (by simpa [Beyond, and_left_comm] using hnb) sat
      rw [hdel]
      refine ⟨(hparts true k hk).1, (hparts true k hk).2, fun d hd => ?_⟩
      have hf := (hvals (P := Fits t rnd true (fun q => ge (-q)) (fun q => le (-q)) k) hfits hd).2
      have hmid : (-t.ordVal k + codeVal t d) / 2 = -((t.ordVal k + -codeVal t d) / 2) := by ring
      rw [signed_even h, hval k hk, show signOf true * t.ordVal k = -t.ordVal k from neg_one_mul _, hmid]
      refine ⟨fun hn => ⟨fun hlt => (hf.near hn).2 (by linarith), fun hlt => (hf.near hn).1 (by linarith)⟩, fun hfl => ?_, fun hcl => ?_⟩
      · have h3 : rnd = 3 := hfl.resolve_right fun hc => by cases hc.2
        obtain ⟨h1, h2⟩ := hf.ceil (.inr ⟨h3, rfl⟩)
        exact ⟨h1, fun hle => by have := h2 (by simpa using hle); linarith⟩
      · have hdir : rnd = 1 ∨ rnd = 2 ∧ true = true ∨ rnd = 3 ∧ true = false := by
          rcases hcl with h2 | ⟨h1, -⟩
          · exact .inr (.inl ⟨h2, rfl⟩)
          · exact .inl h1
        obtain ⟨h1, h2⟩ := hf.floor hdir
        exact ⟨h1, fun hge => by have := h2 (by simpa using hge); linarith⟩

/-! ### Rounding a multiple of a power of two -/

theorem roundUp_iff (hrnd : rnd < 4) {K rem half : Nat} (hh : 0 < half) : (rnd = 0 ∧ (half < rem ∨ rem = half ∧ K % 2 = 1)) ∨
    (rnd = 2 ∧ neg = false ∧ 0 < rem) ∨ (rnd = 3 ∧ neg = true ∧ 0 < rem) ↔ roundUp rnd neg (K % 2 == 1) rem half = true := by
  have : rnd = 0 ∨ rnd = 1 ∨ rnd = 2 ∨ rnd = 3 := by omega
  rcases this with rfl | rfl | rfl | rfl <;> simp [roundUp, hh]

/-- A magnitude over a power of two: its whole part, and whether it goes up. -/
theorem scaleTo_spec (hrnd : rnd < 4) (neg : Bool) (m : Nat) (e q : Int) : ∃ K : Nat,
    (K : Rat) * (2 : Rat) ^ q ≤ m * (2 : Rat) ^ e ∧ (m : Rat) * (2 : Rat) ^ e < (K + 1) * (2 : Rat) ^ q ∧
    (GoesUp rnd neg K (m * (2 : Rat) ^ e) ((2 : Rat) ^ q) → scaleTo rnd neg m e q = K + 1) ∧
    (¬ GoesUp rnd neg K (m * (2 : Rat) ^ e) ((2 : Rat) ^ q) → scaleTo rnd neg m e q = K) := by
  have he := two_zpow_pos e
  have hq := two_zpow_pos q
  by_cases hle : q ≤ e
  · obtain ⟨n, hn⟩ := Int.eq_ofNat_of_zero_le (show 0 ≤ e - q by omega)
    have hx : (m : Rat) * (2 : Rat) ^ e = ((m * 2 ^ n : Nat) : Rat) * (2 : Rat) ^ q := by
      rw [show e = n + q by omega, two_zpow_add, zpow_natCast]
      push_cast
      ring
    have hs : scaleTo rnd neg m e q = m * 2 ^ n := by rw [scaleTo, if_pos hle, hn, Int.toNat_natCast]
    refine ⟨m * 2 ^ n, hx.ge, by rw [hx]; linarith, fun hup => ?_, fun _ => hs⟩
    rw [hx] at hup
    rcases hup with ⟨-, h | ⟨h, -⟩⟩ | ⟨-, -, h⟩ | ⟨-, -, h⟩ <;> linarith
  · obtain ⟨n, hn⟩ := Int.eq_ofNat_of_zero_le (show 0 ≤ q - e by omega)
    have hn0 : 0 < n := by omega
    have hu : (2 : Rat) ^ q = (2 ^ n : Nat) * (2 : Rat) ^ e := by
      rw [show q = n + e by omega, two_zpow_add, zpow_natCast]
      push_cast
      rfl
    have hdm := Nat.div_add_mod' m (2 ^ n)
    have hlt := Nat.mod_lt m (Nat.two_pow_pos n)
    have hhalf : 2 ^ n = 2 * 2 ^ (n - 1) := by rw [← pow_succ', Nat.sub_add_cancel hn0]
    have hs : scaleTo rnd neg m e q = if roundUp rnd neg (m / 2 ^ n % 2 == 1) (m % 2 ^ n) (2 ^ (n - 1)) then m / 2 ^ n + 1 else m / 2 ^ n := by
      rw [scaleTo, if_neg hle, hn, Int.toNat_natCast]
    have hx : (m : Rat) * (2 : Rat) ^ e = (m / 2 ^ n : Nat) * (2 : Rat) ^ q + (m % 2 ^ n : Nat) * (2 : Rat) ^ e := by
      rw [hu, ← mul_assoc, ← add_mul, ← Nat.cast_mul, ← Nat.cast_add, hdm]
    have hup : GoesUp rnd neg (m / 2 ^ n) (m * (2 : Rat) ^ e) ((2 : Rat) ^ q) ↔
        roundUp rnd neg (m / 2 ^ n % 2 == 1) (m % 2 ^ n) (2 ^ (n - 1)) = true := by
      have hy : ∀ {a b : Rat}, a * (2 : Rat) ^ e < b * (2 : Rat) ^ e ↔ a < b := fun {a b} => mul_lt_mul_iff_left₀ he
      have hK : ((m / 2 ^ n : Nat) : Rat) * (2 : Rat) ^ q < m * (2 : Rat) ^ e ↔ 0 < m % 2 ^ n := by
        rw [hx, lt_add_iff_pos_right, mul_pos_iff_of_pos_right he, Nat.cast_pos]
      have hmid : (((m / 2 ^ n : Nat) : Rat) + 1 / 2) * (2 : Rat) ^ q = (m / 2 ^ n : Nat) * (2 : Rat) ^ q + (2 ^ (n - 1) : Nat) * (2 : Rat) ^ e := by
        rw [add_mul, hu, hhalf]
        push_cast
        ring
      have hlt' : (((m / 2 ^ n : Nat) : Rat) + 1 / 2) * (2 : Rat) ^ q < m * (2 : Rat) ^ e ↔ 2 ^ (n - 1) < m % 2 ^ n := by
        rw [hmid, hx, add_lt_add_iff_left, hy, Nat.cast_lt]
      have heq : (m : Rat) * (2 : Rat) ^ e = (((m / 2 ^ n : Nat) : Rat) + 1 / 2) * (2 : Rat) ^ q ↔ m % 2 ^ n = 2 ^ (n - 1) := by
        rw [hmid, hx, add_right_inj, mul_left_inj' he.ne', Nat.cast_inj]
      rw [GoesUp, hlt', heq, hK, roundUp_iff hrnd (Nat.two_pow_pos _)]
    refine ⟨m / 2 ^ n, ?_, ?_, fun h => by rw [hs, if_pos (hup.mp h)], fun h => by rw [hs, if_neg (mt hup.mpr h)]⟩
    · rw [hx]
      exact le_add_of_nonneg_right (by positivity)
    · have hr : ((m % 2 ^ n : Nat) : Rat) < (2 ^ n : Nat) := by exact_mod_cast hlt
      have := mul_lt_mul_of_pos_right hr he
      rw [hx, add_mul, one_mul, hu]
      linarith

end Sys2Proof.Machine
end

/-! ## A number rounded to a float type (R97, R99, R100) -/
section
namespace Sys2Proof.Machine
open Sys2Proof.Claims

variable {t : Ty} {rnd dir m : Nat} {neg : Bool} {L G le ge : Rat → Prop} {e : Int}

/-- R99: the power of two of the last bit that is kept. -/
def Ty.quantum (t : Ty) (m : Nat) (e : Int) : Int := max ((m.log2 : Int) + e - t.fmt.mb) t.emin

/-- R99: the place that a magnitude rounds to. -/
def Ty.place (t : Ty) (dir : Nat) (neg : Bool) (m : Nat) (e : Int) : Nat :=
  (t.quantum m e - t.emin).toNat * 2 ^ t.fmt.mb + scaleTo dir neg m e (t.quantum m e)

theorem sgn_signed (h : Format t) (neg : Bool) (r : Nat) : (if neg then r + 2 ^ (t.fmt.eb + t.fmt.mb) else r) = signed t neg r := by
  rw [signed, h.bits, Nat.add_sub_cancel]

/-- R100: the code of an infinity. -/
theorem infCode_eq (h : Format t) (neg : Bool) : (if t = .e4m3 then t.qnan else signed t neg ((2 ^ t.fmt.eb - 1) * 2 ^ t.fmt.mb)) =
    infCode t false neg := by
  simp only [infCode, Bool.false_eq_true, if_false]
  split
  next h4 => rw [h4]; rfl
  next h4 =>
    have hmax := h.max
    rw [if_neg h4, pow_add] at hmax
    rw [Nat.sub_mul, Nat.one_mul, ← hmax]
    congr 1
    omega

theorem roundDir_inf (h : Format t) (dir rnd : Nat) (sat neg : Bool) : roundDir t dir rnd sat (.inf neg) = infCode t sat neg := by
  simp only [roundDir, sgn_signed h, infCode_eq h]
  cases sat <;> rfl

/-- R99, R100: a number rounds to its place, delivered. -/
theorem roundDir_fin (h : Format t) (hm : m ≠ 0) (dir rnd : Nat) (sat neg : Bool) (e : Int) :
    roundDir t dir rnd sat (.fin neg m e) = delivery t rnd sat neg (t.place dir neg m e) := by
  simp only [roundDir, sgn_signed h, infCode_eq h, if_neg hm]
  change (if t.place dir neg m e ≤ t.maxFin then signed t neg (t.place dir neg m e) else _) = _
  unfold delivery
  split
  · rfl
  · cases sat
    · rfl
    · simp only [if_true, infCode, ite_self]

theorem roundDir_zero (h : Format t) (dir rnd : Nat) (sat neg : Bool) (e : Int) :
    roundDir t dir rnd sat (.fin neg 0 e) = delivery t rnd sat neg 0 := by
  simp only [roundDir, sgn_signed h, if_true, delivery, Nat.zero_le]

/-- A cut and a number that compare alike with the multiples of u. -/
def Agrees (L G : Rat → Prop) (x u : Rat) : Prop := ∀ j : Nat, (L (j * u) ↔ j * u ≤ x) ∧ (G (j * u) ↔ x ≤ j * u)

theorem two_pow_log2_le (hm : m ≠ 0) : ((2 : Rat) ^ ((m.log2 : Int) + e)) ≤ m * (2 : Rat) ^ e := by
  rw [two_zpow_add, zpow_natCast]
  have : ((2 ^ m.log2 : Nat) : Rat) ≤ m := by exact_mod_cast Nat.log2_self_le hm
  push_cast at this
  exact mul_le_mul_of_nonneg_right this (two_zpow_pos e).le

theorem lt_two_pow_log2 : (m : Rat) * (2 : Rat) ^ e < (2 : Rat) ^ ((m.log2 : Int) + 1 + e) := by
  rw [two_zpow_add, show (m.log2 : Int) + 1 = ((m.log2 + 1 : Nat) : Int) by push_cast; rfl, zpow_natCast]
  have : (m : Rat) < ((2 ^ (m.log2 + 1) : Nat) : Rat) := by exact_mod_cast Nat.lt_log2_self
  push_cast at this
  exact mul_lt_mul_of_pos_right this (two_zpow_pos e)

/-- R99: the place that a magnitude rounds to is where its cut rounds to, if the two compare alike with the halves of the last bit kept. -/
theorem rounds_place (h : Format t) (hdir : dir < 4) (hm : m ≠ 0) (hc : Cut L G)
    (ha : Agrees L G (m * (2 : Rat) ^ e) ((2 : Rat) ^ (t.quantum m e - 1))) : Rounds t dir neg L G (t.place dir neg m e) := by
  obtain ⟨K, hlo, hhi, hup, hdn⟩ := scaleTo_spec hdir neg m e (t.quantum m e)
  have hq := two_zpow_pos (t.quantum m e)
  have hpq : t.emin + ((t.quantum m e - t.emin).toNat : Int) = t.quantum m e := by
    rw [Int.toNat_of_nonneg (by unfold Ty.quantum; omega)]
    ring
  have hKhigh : K < 2 ^ (t.fmt.mb + 1) := by
    have h1 : (K : Rat) * (2 : Rat) ^ t.quantum m e < (2 : Rat) ^ (t.fmt.mb + 1) * (2 : Rat) ^ t.quantum m e := by
      refine (hlo.trans_lt lt_two_pow_log2).trans_le ?_
      rw [← zpow_natCast, ← two_zpow_add]
      refine zpow_le_zpow_right₀ (by norm_num) ?_
      unfold Ty.quantum
      push_cast
      omega
    exact_mod_cast lt_of_mul_lt_mul_right h1 hq.le
  have hKlow : (t.quantum m e - t.emin).toNat = 0 ∨ 2 ^ t.fmt.mb ≤ K := by
    refine Classical.or_iff_not_imp_left.mpr fun hp => ?_
    have hqe : (m.log2 : Int) + e = t.fmt.mb + t.quantum m e := by unfold Ty.quantum at hp ⊢; omega
    have h1 := (two_pow_log2_le (e := e) hm).trans_lt hhi
    rw [hqe, two_zpow_add, zpow_natCast] at h1
    have h2 : (2 : Rat) ^ t.fmt.mb < K + 1 := lt_of_mul_lt_mul_right h1 hq.le
    exact Nat.lt_succ_iff.mp (by exact_mod_cast h2)
  have hu : (2 : Rat) ^ t.quantum m e = 2 * (2 : Rat) ^ (t.quantum m e - 1) := by
    rw [← zpow_one_add₀ (by norm_num), add_sub_cancel]
  generalize hr : (t.quantum m e - t.emin).toNat * 2 ^ t.fmt.mb + K = r
  have hv : t.ordVal r = K * (2 : Rat) ^ t.quantum m e := by rw [← hr, t.ordVal_eq hKlow hKhigh.le, hpq]
  have hv1 : t.ordVal (r + 1) = ((K + 1 : Nat) : Rat) * (2 : Rat) ^ t.quantum m e := by
    rw [← hr, Nat.add_assoc, t.ordVal_eq (hKlow.imp_right (by omega)) hKhigh, hpq]
  have hmid : t.mid r (r + 1) = (K + 1 / 2) * (2 : Rat) ^ t.quantum m e := by
    rw [Ty.mid, hv, hv1]
    push_cast
    ring
  have ga (j : Nat) {a : Rat} (hj : a = j * (2 : Rat) ^ (t.quantum m e - 1)) :
      (L a ↔ a ≤ m * (2 : Rat) ^ e) ∧ (G a ↔ m * (2 : Rat) ^ e ≤ a) := hj ▸ ha j
  have gr := ga (2 * K) (a := t.ordVal r) (by rw [hv, hu]; push_cast; ring)
  have gr1 := ga (2 * K + 2) (a := t.ordVal (r + 1)) (by rw [hv1, hu]; push_cast; ring)
  have gm := ga (2 * K + 1) (a := t.mid r (r + 1)) (by rw [hmid, hu]; push_cast; ring)
  have hpar : K % 2 = r % 2 := by
    have he : 2 ^ t.fmt.mb = 2 * 2 ^ (t.fmt.mb - 1) := by
      rw [← pow_succ']
      congr 1
      have := h.mant
      omega
    rw [← hr, he, Nat.mul_left_comm]
    omega
  have hb := rounds_between (rnd := dir) (neg := neg) hc (gr.1.mpr (hv ▸ hlo)) (fun hl => absurd (gr1.1.mp hl) (not_le.mpr (by rw [hv1]; exact_mod_cast hhi)))
    gr.2 gm.1 gm.2 hpar hv hmid
  by_cases hg : GoesUp dir neg K (m * (2 : Rat) ^ e) ((2 : Rat) ^ t.quantum m e)
  · rw [Ty.place, hup hg, ← Nat.add_assoc, hr]
    exact hb.1 hg
  · rw [Ty.place, hdn hg, hr]
    exact hb.2 hg

/-- R99, R100: a positive number, or one that compares alike, rounded once. -/
theorem floatFits_pos (h : Format t) (hrnd : rnd < 4) (hm : m ≠ 0) (sat : Bool) (hc : Cut le ge)
    (ha : Agrees le ge (m * (2 : Rat) ^ e) ((2 : Rat) ^ (t.quantum m e - 1))) :
    FloatFits t rnd sat false le ge (roundFloat t rnd sat (.fin false m e)) := by
  rw [roundFloat, roundDir_fin h hm]
  refine (floatFits_delivery h hrnd sat).1 hc ?_ (rounds_place h hrnd hm hc ha)
  have h0 := (ha 0).1
  rw [Nat.cast_zero, zero_mul] at h0
  exact h0.mpr (by positivity)

/-- R99, R100: a negative one. -/
theorem floatFits_neg (h : Format t) (hrnd : rnd < 4) (hm : m ≠ 0) (sat : Bool) (hc : Cut le ge)
    (ha : Agrees (fun q => ge (-q)) (fun q => le (-q)) (m * (2 : Rat) ^ e) ((2 : Rat) ^ (t.quantum m e - 1))) :
    FloatFits t rnd sat true le ge (roundFloat t rnd sat (.fin true m e)) := by
  rw [roundFloat, roundDir_fin h hm]
  refine (floatFits_delivery h hrnd sat).2 hc ?_ (rounds_place h hrnd hm hc.mirror ha)
  have h0 := (ha 0).1
  simp only [Nat.cast_zero, zero_mul, neg_zero] at h0
  exact h0.mpr (by positivity)

/-- A rational whose magnitude compares with the multiples of u as a number does. -/
def Near (w x u : Rat) : Prop := ∀ j : Nat, (j * u ≤ w ↔ j * u ≤ x) ∧ (w ≤ j * u ↔ x ≤ j * u)

theorem Near.refl (x u : Rat) : Near x x u := fun _ => ⟨Iff.rfl, Iff.rfl⟩

/-- R99, R100: a rational with its sign, or one that compares alike, rounded once. -/
theorem floatFits_near (h : Format t) (hrnd : rnd < 4) (hm : m ≠ 0) (sat neg : Bool) {v w : Rat} (hv : v = signOf neg * w)
    (hn : Near w (m * (2 : Rat) ^ e) ((2 : Rat) ^ (t.quantum m e - 1))) :
    FloatFits t rnd sat neg (fun q => q ≤ v) (fun q => v ≤ q) (roundFloat t rnd sat (.fin neg m e)) := by
  cases neg with
  | false =>
    obtain rfl : v = w := hv.trans (one_mul w)
    exact floatFits_pos h hrnd hm sat (Cut.rat v) hn
  | true =>
    obtain rfl : v = -w := hv.trans (neg_one_mul w)
    refine floatFits_neg h hrnd hm sat (Cut.rat _) fun j => ?_
    simp only [neg_le_neg_iff]
    exact hn j

/-- R99: a zero with its sign. -/
theorem floatFits_zero (h : Format t) (hrnd : rnd < 4) (sat neg : Bool) (e : Int) :
    FloatFits t rnd sat neg (fun q => q ≤ 0) (fun q => 0 ≤ q) (roundFloat t rnd sat (.fin neg 0 e)) := by
  rw [roundFloat, roundDir_zero h]
  cases neg with
  | false => exact (floatFits_delivery h hrnd sat).1 (Cut.rat 0) le_rfl (rounds_zero (Cut.rat 0) le_rfl le_rfl)
  | true => exact (floatFits_delivery h hrnd sat).2 (Cut.rat 0) le_rfl (rounds_zero (Cut.rat 0).mirror (by simp) (by simp))

/-- R99, R100: a number rounded once. -/
theorem floatFits_roundFloat (h : Format t) (hrnd : rnd < 4) (sat neg : Bool) (m : Nat) (e : Int) :
    FloatFits t rnd sat neg (fun q => q ≤ ratOf (.fin neg m e)) (fun q => ratOf (.fin neg m e) ≤ q) (roundFloat t rnd sat (.fin neg m e)) := by
  by_cases hm : m = 0
  · subst hm
    have hz : ratOf (.fin neg 0 e) = 0 := by rw [ratOf_fin]; simp
    rw [hz]
    exact floatFits_zero h hrnd sat neg e
  · exact floatFits_near h hrnd hm sat neg (ratOf_fin neg m e) (Near.refl _ _)

/-- Settles O4. -/
theorem floatRounding : Obligations.FloatRounding := fun _ rnd sat neg m e ht hrnd =>
  ⟨floatFits_roundFloat (format_of_five ht) hrnd sat neg m e, roundDir_inf (format_of_five ht) rnd rnd sat neg, rfl⟩

end Sys2Proof.Machine
end

/-! ## O60: `CVT` between `e8m0` views where a row of `mx.res` is read (R103, R109, R130) -/
section
namespace Sys2Proof.Machine
open Sys2Proof.Claims

/-- A firing in slot 0 of core 0 whose h0 is an `e8m0` element and whose saved array shows a row of type `e8m0` in `mx.res`, its first word 0x1FF.
No drain makes such a row: `MDR` takes rows of `f32` or `i32`. The statement speaks of every state. -/
def State.oddRow : State :=
  State.reset.setSlot 0 0 { Slot.reset with st := .running, views := [(0, mkDesc 14 0 1 0)],
                                            marr := some { MArr.reset with resTy := 14, res := [0x1FF] } }

/-- `CVT h0 ← mx.res`, an arithmetic form. -/
def oddForm : Claims.Form := ⟨false, 0, 0, [.hnd 51], semCvt false, { odd := .cvt }⟩

theorem form_oddRow : form .oddRow (.cvt 0 51 0) = some oddForm := rfl

theorem rule_oddRow : moveRule .oddRow (.cvt 0 51 0) = some (cvtRule false) := rfl

theorem ready_oddRow : FormReady .oddRow oddForm :=
  ⟨by decide +kernel, by decide, by decide +kernel, by decide +kernel, by decide +kernel, rfl, rfl, by decide, by
    have h : arithOuts oddForm.o oddForm.d oddForm.srcs oddForm.sem oddForm.x .oddRow = [.ok 511] := by decide +kernel
    rw [h]
    exact List.forall_mem_singleton.mpr ⟨_, rfl⟩⟩

theorem laneSrcs_oddRow : laneSrcs .oddRow oddForm 0 = [.raw .e8m0 511 .e8m0 511] := by decide +kernel

/-- R109: the number that the low byte stands for, 2^128, is limited to the greatest one of `e8m0`, code 254. -/
theorem asked_oddRow {rnd c : Nat} {sat : Bool} (h : cvtRule false .e8m0 rnd sat [.raw .e8m0 511 .e8m0 511] c) : c = 254 := by
  have hx : ratOf (Ty.e8m0.num 511) = (2 : Rat) ^ (128 : Int) := by
    rw [show Ty.e8m0.num 511 = .fin false 1 128 from rfl, ratOf_fin]
    simp [signOf]
  obtain ⟨-, -, hk⟩ := (h : Converts .e8m0 rnd sat (Ty.e8m0.num 511) c).2.2.2 rfl
  obtain ⟨-, hc⟩ := hk 128 hx.ge (by rw [hx]; norm_num)
  have hup : ¬ ((rnd = 2 ∧ ratOf (Ty.e8m0.num 511) ≠ (2 : Rat) ^ (128 : Int)) ∨ (rnd = 0 ∧ 3 / 2 * (2 : Rat) ^ (128 : Int) ≤ ratOf (Ty.e8m0.num 511))) := by
    rw [hx]
    norm_num
  have := hc hup
  norm_num at this
  exact_mod_cast this

/-- The model writes the low byte of the word as it stands, 255. -/
theorem written_oddRow : formResult .oddRow oddForm = (arithDst 0 0 [.hnd 51] .oddRow).putLanes .oddRow 8 [511] := by
  have h : arithOuts oddForm.o oddForm.d oddForm.srcs oddForm.sem oddForm.x .oddRow = [.ok 511] := by decide +kernel
  rw [show formResult .oddRow oddForm = formWritten .oddRow oddForm from rfl, formWritten, h]
  rfl

theorem bytes_oddRow : ((arithDst 0 0 [.hnd 51] .oddRow).putLanes .oddRow 8 [511]).mem ≠
    ((arithDst 0 0 [.hnd 51] .oddRow).putLanes .oddRow 8 [254]).mem := by decide +kernel

/-- Refutes O60: between two `e8m0` views `CVT` writes the bits as they stand (R109), and the rule asks for the code of the number. A row of
`mx.res` gives an element all 32 bits of its word, so that in `State.oddRow` (a state that no run reaches) the element is 0x1FF: no reserved code,
whose number, that of its low byte, is 2^128. The rule then asks for its code limited, 254, where the model writes the byte 0xFF. -/
theorem not_movesAndConversions : ¬ Obligations.MovesAndConversions := by
  intro h
  obtain ⟨v, ⟨hlen, hexec⟩, hrule⟩ := h .oddRow (.cvt 0 51 0) oddForm _ form_oddRow rule_oddRow ready_oddRow
  have hone : laneCount (State.oddRow.view oddForm.d) (arithTy oddForm.d oddForm.srcs .oddRow) = 1 := by decide +kernel
  have hty : arithTy oddForm.d oddForm.srcs .oddRow = .e8m0 := by decide +kernel
  obtain ⟨c, rfl⟩ := List.length_eq_one_iff.mp (hlen.trans hone)
  have hc := hrule 0 (by simp)
  rw [laneSrcs_oddRow, hty] at hc
  have h254 : c = 254 := asked_oddRow hc
  subst h254
  have hstate := Host.Outcome.next.inj ((exec_of_formReady ready_oddRow form_oddRow).symm.trans hexec)
  have hmem := congrArg State.mem hstate
  rw [State.retired_mem, State.retired_mem, written_oddRow, hty] at hmem
  exact bytes_oddRow hmem

end Sys2Proof.Machine
end

/-! ## The exact operations on numbers (R99, R101, R229) -/
section
namespace Sys2Proof.Machine
open Sys2Proof.Claims

variable {t : Ty} {rnd m n : Nat} {sat : Bool} {x y : XNum} {v : Signed} {e : Int}

/-- A number's value and sign. -/
def signedOf (x : XNum) : Signed := (ratOf x, sgn x)

/-- R99: a finite number of a value, which has the sign a zero has. -/
structure Exact (x : XNum) (v : Signed) : Prop where
  fin  : isFin x = true
  val  : ratOf x = v.1
  zero : v.1 = 0 → sgn x = v.2

theorem exact_self (hx : isFin x = true) : Exact x (signedOf x) := ⟨hx, rfl, fun _ => rfl⟩

theorem isFin_iff : isFin x = true ↔ ∃ neg m e, x = .fin neg m e := by
  cases x with
  | fin neg m e => exact ⟨fun _ => ⟨_, _, _, rfl⟩, fun _ => rfl⟩
  | inf | nan => exact ⟨nofun, nofun⟩

theorem ratOf_zero_iff {neg : Bool} : ratOf (.fin neg m e) = 0 ↔ m = 0 := by
  have h2 : (2 : Rat) ^ e ≠ 0 := (two_zpow_pos e).ne'
  rw [ratOf_fin]
  cases neg <;> simp [signOf, h2]

theorem ratOf_neg_iff {neg : Bool} (hm : m ≠ 0) : ratOf (.fin neg m e) < 0 ↔ neg = true := by
  have hpos : 0 < (m : Rat) * (2 : Rat) ^ e := mul_pos (by exact_mod_cast Nat.pos_of_ne_zero hm) (two_zpow_pos e)
  rw [ratOf_fin]
  cases neg <;> simp only [signOf, if_true, if_false, Bool.false_eq_true, iff_true, iff_false] <;> linarith

/-- R99, R100: what a number of an exact value is rounded to. -/
theorem Exact.fits (h : Exact x v) (ht : t ∈ fiveFloats) (hrnd : rnd < 4) (sat : Bool) :
    FloatFits t rnd sat (if v.1 = 0 then v.2 else decide (v.1 < 0)) (fun q => q ≤ v.1) (fun q => v.1 ≤ q) (roundFloat t rnd sat x) := by
  obtain ⟨neg, m, e, rfl⟩ := isFin_iff.mp h.fin
  have hneg : (if v.1 = 0 then v.2 else decide (v.1 < 0)) = neg := by
    rw [← h.val]
    split
    next h0 => exact (h.zero (h.val ▸ h0)).symm
    next h0 =>
      have := ratOf_neg_iff (neg := neg) (e := e) (mt ratOf_zero_iff.mpr h0)
      cases neg <;> simp_all
  rw [hneg, ← h.val]
  exact floatFits_roundFloat (format_of_five ht) hrnd sat neg m e

/-! ### Signs and products -/

theorem signOf_not (neg : Bool) : signOf (!neg) = -signOf neg := by cases neg <;> simp [signOf]

theorem signOf_bne (a b : Bool) : signOf (a != b) = signOf a * signOf b := by cases a <;> cases b <;> simp [signOf]

theorem abs_signOf_mul (neg : Bool) {w : Rat} (hw : 0 ≤ w) : |signOf neg * w| = w := by
  cases neg <;> simp [signOf, abs_of_nonneg hw]

theorem mag_nonneg (m : Nat) (e : Int) : 0 ≤ (m : Rat) * (2 : Rat) ^ e := mul_nonneg (Nat.cast_nonneg m) (two_zpow_pos e).le

theorem signedOf_neg (hx : isFin x = true) : signedOf x.neg = minus (signedOf x) := by
  obtain ⟨neg, m, e, rfl⟩ := isFin_iff.mp hx
  simp only [signedOf, minus, XNum.neg, ratOf_fin, signOf_not, neg_mul, sgn]

theorem isFin_neg : isFin x.neg = isFin x := by cases x <;> rfl

theorem signedOf_mul (hx : isFin x = true) (hy : isFin y = true) : signedOf (x.mul y) = times (signedOf x) (signedOf y) := by
  obtain ⟨a, m, e, rfl⟩ := isFin_iff.mp hx
  obtain ⟨b, n, f, rfl⟩ := isFin_iff.mp hy
  simp only [signedOf, times, XNum.mul, ratOf_fin, signOf_bne, two_zpow_add, sgn, Nat.cast_mul, Prod.mk.injEq, and_true]
  ring

theorem isFin_mul (hx : isFin x = true) (hy : isFin y = true) : isFin (x.mul y) = true := by
  obtain ⟨a, m, e, rfl⟩ := isFin_iff.mp hx
  obtain ⟨b, n, f, rfl⟩ := isFin_iff.mp hy
  rfl

theorem Exact.abs (h : Exact x v) : Exact x.abs (|v.1|, false) := by
  obtain ⟨neg, m, e, rfl⟩ := isFin_iff.mp h.fin
  refine ⟨rfl, ?_, fun _ => rfl⟩
  rw [← h.val, XNum.abs, ratOf_fin, ratOf_fin, abs_signOf_mul neg (mag_nonneg m e)]
  exact one_mul _

/-- R229: the half of a number. -/
theorem Exact.half (h : Exact x v) : Exact (x.scale (-1)) (v.1 / 2, v.2) := by
  obtain ⟨neg, m, e, rfl⟩ := isFin_iff.mp h.fin
  refine ⟨rfl, ?_, fun h0 => h.zero ?_⟩
  · rw [← h.val, XNum.scale, ratOf_fin, ratOf_fin, two_zpow_add]
    norm_num
    ring
  · simpa using h0

/-! ### Sums -/

/-- A number over a power of two that is at most its own. -/
theorem ratOf_signedAt {q : Int} (hx : isFin x = true) (hq : ∀ p, x.pow = some p → q ≤ p) : ratOf x = x.signedAt q * (2 : Rat) ^ q := by
  obtain ⟨neg, m, e, rfl⟩ := isFin_iff.mp hx
  by_cases hm : m = 0
  · subst hm
    rw [ratOf_zero_iff.mpr rfl]
    simp [XNum.signedAt]
  · obtain ⟨k, hk⟩ := Int.eq_ofNat_of_zero_le (show 0 ≤ e - q by have := hq e (if_neg hm); omega)
    rw [ratOf_fin, show e = k + q by omega, two_zpow_add, zpow_natCast]
    simp only [XNum.signedAt, add_sub_cancel_right, Int.toNat_natCast, signOf]
    cases neg <;> push_cast <;> simp <;> ring

theorem minPow_le : (∀ p, x.pow = some p → minPow [x, y] ≤ p) ∧ (∀ p, y.pow = some p → minPow [x, y] ≤ p) := by
  cases hx : x.pow <;> cases hy : y.pow <;> simp [minPow, hx, hy]

theorem ratOf_int (v q : Int) : ratOf (.fin (decide (v < 0)) v.natAbs q) = v * (2 : Rat) ^ q := by
  have habs : (v.natAbs : Rat) = |(v : Rat)| := by rw [Nat.cast_natAbs, Int.cast_abs]
  rw [ratOf_fin, habs, signOf]
  by_cases h : v < 0
  · rw [abs_of_neg (by exact_mod_cast h)]
    simp [h]
  · rw [abs_of_nonneg (by exact_mod_cast not_lt.mp h)]
    simp [h]

/-- R99: the sum of two finite terms. -/
theorem exact_sum (r : Nat) (hx : isFin x = true) (hy : isFin y = true) : Exact (sumNum r [x, y]) (plus r (signedOf x) (signedOf y)) := by
  have hval : ratOf x + ratOf y = ((x.signedAt (minPow [x, y]) + y.signedAt (minPow [x, y]) : Int) : Rat) * (2 : Rat) ^ minPow [x, y] := by
    rw [ratOf_signedAt hx minPow_le.1, ratOf_signedAt hy minPow_le.2]
    push_cast
    ring
  have hsum : sumNum r [x, y] =
      if x.signedAt (minPow [x, y]) + y.signedAt (minPow [x, y]) = 0 then
        if x.isZero true && y.isZero true then .fin true 0 0
        else if x.isZero false && y.isZero false then .fin false 0 0
        else .fin (r == 3) 0 0
      else .fin (decide (x.signedAt (minPow [x, y]) + y.signedAt (minPow [x, y]) < 0))
        (x.signedAt (minPow [x, y]) + y.signedAt (minPow [x, y])).natAbs (minPow [x, y]) := by
    obtain ⟨a, m, e, rfl⟩ := isFin_iff.mp hx
    obtain ⟨b, n, f, rfl⟩ := isFin_iff.mp hy
    simp [sumNum]
  generalize x.signedAt (minPow [x, y]) + y.signedAt (minPow [x, y]) = tot at *
  rw [hsum]
  by_cases h0 : tot = 0
  · have hz : ratOf x + ratOf y = 0 := by rw [hval, h0]; simp
    rw [if_pos h0]
    obtain ⟨a, m, e, rfl⟩ := isFin_iff.mp hx
    obtain ⟨b, n, f, rfl⟩ := isFin_iff.mp hy
    have hsame : a = b → m = 0 ∧ n = 0 := by
      rintro rfl
      rw [ratOf_fin, ratOf_fin, ← mul_add] at hz
      have hs : signOf a ≠ 0 := by cases a <;> simp [signOf]
      have := (mul_eq_zero.mp hz).resolve_left hs
      have h1 := mag_nonneg m e
      have h2 := mag_nonneg n f
      have hp (e : Int) := (two_zpow_pos e).ne'
      constructor
      · have : (m : Rat) * (2 : Rat) ^ e = 0 := by linarith
        simpa [hp] using this
      · have : (n : Rat) * (2 : Rat) ^ f = 0 := by linarith
        simpa [hp] using this
    have hv : (plus r (signedOf (.fin a m e)) (signedOf (.fin b n f))).1 = 0 := hz
    suffices h : ∃ neg, (if (XNum.fin a m e).isZero true && (XNum.fin b n f).isZero true then XNum.fin true 0 0
        else if (XNum.fin a m e).isZero false && (XNum.fin b n f).isZero false then .fin false 0 0 else .fin (r == 3) 0 0) = .fin neg 0 0 ∧
        neg = if a = b then a else r == 3 by
      obtain ⟨neg, heq, hneg⟩ := h
      rw [heq]
      exact ⟨rfl, (ratOf_zero_iff.mpr rfl).trans hv.symm, fun _ => hneg⟩
    cases a <;> cases b
    · obtain ⟨rfl, rfl⟩ := hsame rfl
      exact ⟨_, rfl, rfl⟩
    · exact ⟨r == 3, by simp [XNum.isZero], rfl⟩
    · exact ⟨r == 3, by simp [XNum.isZero], rfl⟩
    · obtain ⟨rfl, rfl⟩ := hsame rfl
      exact ⟨_, rfl, rfl⟩
  · rw [if_neg h0]
    have hv : (plus r (signedOf x) (signedOf y)).1 = tot * (2 : Rat) ^ minPow [x, y] := hval
    refine ⟨rfl, (ratOf_int tot _).trans hv.symm, fun hz => absurd (hv.symm.trans hz) ?_⟩
    exact mul_ne_zero (by exact_mod_cast h0) (two_zpow_pos _).ne'

/-! ### Remainders -/

theorem truncOf_neg (q : Rat) : truncOf (-q) = -truncOf q := by
  unfold truncOf
  rcases lt_trichotomy q 0 with h | rfl | h
  · rw [if_pos (by linarith), if_neg (by linarith), neg_neg]
  · rw [neg_zero, if_pos le_rfl]
    decide
  · rw [if_neg (by linarith), if_pos h.le, neg_neg]

theorem truncOf_signOf (neg : Bool) (q : Rat) : (truncOf (signOf neg * q) : Rat) = signOf neg * truncOf q := by
  cases neg with
  | false => simp [signOf]
  | true => simp [signOf, truncOf_neg]

theorem truncOf_div (i j : Nat) : truncOf ((i : Rat) / j) = (i / j : Nat) := by
  rw [truncOf, if_pos (by positivity)]
  exact (Rat.floor_natCast_div_natCast i j).trans (Int.natCast_ediv i j).symm

/-- R229: the remainder of two finite numbers. -/
theorem exact_rem (hx : isFin x = true) {b : Bool} {f : Int} (hn : n ≠ 0) : Exact (x.rem (.fin b n f))
    (ratOf x - truncOf (ratOf x / ratOf (.fin b n f)) * ratOf (.fin b n f), sgn x) := by
  obtain ⟨a, m, e, rfl⟩ := isFin_iff.mp hx
  obtain ⟨k, hk⟩ := Int.eq_ofNat_of_zero_le (show 0 ≤ e - min e f by omega)
  obtain ⟨l, hl⟩ := Int.eq_ofNat_of_zero_le (show 0 ≤ f - min e f by omega)
  have hx : ratOf (.fin a m e) = signOf a * ((m * 2 ^ k : Nat) * (2 : Rat) ^ min e f) := by
    rw [ratOf_fin, show (2 : Rat) ^ e = (2 : Rat) ^ (k + min e f) by congr 1; omega, two_zpow_add, zpow_natCast]
    push_cast
    ring
  have hy : ratOf (.fin b n f) = signOf b * ((n * 2 ^ l : Nat) * (2 : Rat) ^ min e f) := by
    rw [ratOf_fin, show (2 : Rat) ^ f = (2 : Rat) ^ (l + min e f) by congr 1; omega, two_zpow_add, zpow_natCast]
    push_cast
    ring
  have hrem : (XNum.fin a m e).rem (.fin b n f) = .fin a ((m * 2 ^ k) % (n * 2 ^ l)) (min e f) := by
    simp only [XNum.rem, if_neg hn, hk, hl, Int.toNat_natCast]
  have hj : n * 2 ^ l ≠ 0 := mul_ne_zero hn (Nat.two_pow_pos l).ne'
  generalize m * 2 ^ k = i at *
  generalize n * 2 ^ l = j at *
  have h2 := (two_zpow_pos (min e f)).ne'
  have hj' : (j : Rat) ≠ 0 := by exact_mod_cast hj
  have hb : signOf b * signOf b = 1 := by cases b <;> simp [signOf]
  have hb0 : signOf b ≠ 0 := by cases b <;> simp [signOf]
  have hq : ratOf (.fin a m e) / ratOf (.fin b n f) = signOf a * (signOf b * ((i : Rat) / j)) := by
    rw [hx, hy]
    field_simp
    linear_combination (-(signOf a * (i : Rat))) * hb
  refine ⟨by rw [hrem]; rfl, ?_, fun _ => by rw [hrem]; rfl⟩
  rw [hq, truncOf_signOf, truncOf_signOf, truncOf_div, hrem, ratOf_fin, hx, hy]
  have hdm : ((i % j : Nat) : Rat) = i - (i / j : Nat) * j := by
    have : ((i / j * j + i % j : Nat) : Rat) = i := by rw [Nat.div_add_mod']
    rw [Nat.cast_add, Nat.cast_mul] at this
    linarith
  rw [hdm, Int.cast_natCast]
  linear_combination (signOf a * ((i / j : Nat) : Rat) * (j : Rat) * (2 : Rat) ^ min e f) * hb

end Sys2Proof.Machine
end

/-! ## Infinities, NaNs and the order of numbers (R98 to R102, R231) -/
section
namespace Sys2Proof.Machine
open Sys2Proof.Claims

variable {t : Ty} {rnd m n : Nat} {sat : Bool} {x y z : XNum} {e : Int}

/-! ### Sums, differences and means -/

/-- A source as it stands, or negated. -/
def turn (neg : Bool) (x : XNum) : XNum := if neg then x.neg else x

theorem turn_inf (k a : Bool) : turn k (.inf a) = .inf (a != k) := by cases k <;> cases a <;> rfl

theorem turn_nan (k : Bool) : turn k .nan = .nan := by cases k <;> rfl

theorem isFin_turn (k : Bool) : isFin (turn k x) = isFin x := by cases k <;> [rfl; exact isFin_neg]

theorem signedOf_turn (k : Bool) (hx : isFin x = true) : signedOf (turn k x) = if k then minus (signedOf x) else signedOf x := by
  cases k <;> [rfl; exact signedOf_neg hx]

theorem sumNum_nan (r : Nat) {l : List XNum} (h : XNum.nan ∈ l) : sumNum r l = .nan :=
  if_pos (List.any_eq_true.mpr ⟨_, h, rfl⟩)

theorem sumNum_inf_inf (r : Nat) (a b : Bool) : sumNum r [.inf a, .inf b] = if a = b then .inf a else .nan := by
  cases a <;> cases b <;> rfl

theorem sumNum_inf_fin (r : Nat) (a : Bool) (hy : isFin y = true) : sumNum r [.inf a, y] = .inf a := by
  obtain ⟨b, n, f, rfl⟩ := isFin_iff.mp hy
  cases a <;> rfl

theorem sumNum_fin_inf (r : Nat) (b : Bool) (hx : isFin x = true) : sumNum r [x, .inf b] = .inf b := by
  obtain ⟨a, m, e, rfl⟩ := isFin_iff.mp hx
  cases b <;> rfl

theorem roundFloat_inf (ht : t ∈ fiveFloats) (rnd : Nat) (sat a : Bool) : roundFloat t rnd sat (.inf a) = infCode t sat a :=
  roundDir_inf (format_of_five ht) rnd rnd sat a

/-- IEEE 754: the infinite sums. -/
theorem infSum_sum (ht : t ∈ fiveFloats) (k0 k1 : Bool) (x y : XNum) :
    infSum k0 k1 t rnd sat [x, y] (roundFloat t rnd sat (sumNum rnd [turn k0 x, turn k1 y])) := by
  cases x with
  | nan => trivial
  | fin a m e =>
    cases y with
    | inf b =>
      rw [turn_inf, sumNum_fin_inf rnd _ ((isFin_turn k0).trans rfl)]
      exact roundFloat_inf ht rnd sat _
    | nan | fin => trivial
  | inf a =>
    cases y with
    | nan => trivial
    | inf b =>
      rw [turn_inf, turn_inf, sumNum_inf_inf]
      simp only [infSum]
      by_cases hab : (a != k0) = (b != k1)
      · rw [if_pos hab, if_pos hab]
        exact roundFloat_inf ht rnd sat _
      · rw [if_neg hab, if_neg hab]
        rfl
    | fin b n f =>
      rw [turn_inf, sumNum_inf_fin rnd _ ((isFin_turn k1).trans rfl)]
      exact roundFloat_inf ht rnd sat _

theorem turn_nan_mem (k0 k1 : Bool) (h : XNum.nan ∈ [x, y]) : XNum.nan ∈ [turn k0 x, turn k1 y] := by
  simp only [List.mem_cons, List.not_mem_nil, or_false] at h ⊢
  rcases h with rfl | rfl
  · exact .inl (turn_nan k0).symm
  · exact .inr (turn_nan k1).symm

/-- Two finite sources. -/
theorem isFin_two (h : [x, y].all isFin = true) : isFin x = true ∧ isFin y = true := by
  simpa using h

theorem sum_rule (ht : t ∈ fiveFloats) (hrnd : rnd < 4) (k0 k1 : Bool) (x y : XNum) :
    sumRule k0 k1 t rnd sat [x, y] (roundFloat t rnd sat (sumNum rnd [turn k0 x, turn k1 y])) := by
  refine List.forall_mem_cons.mpr ⟨fun hn => ?_, List.forall_mem_cons.mpr ⟨infSum_sum ht k0 k1 x y, List.forall_mem_singleton.mpr fun hall => ?_⟩⟩
  · rw [sumNum_nan rnd (turn_nan_mem k0 k1 hn)]
    rfl
  · obtain ⟨hx, hy⟩ := isFin_two hall
    have h := exact_sum rnd ((isFin_turn k0).trans hx) ((isFin_turn k1).trans hy)
    rw [signedOf_turn k0 hx, signedOf_turn k1 hy] at h
    exact h.fits ht hrnd sat

/-- R229: the mean. -/
theorem avg_rule (ht : t ∈ fiveFloats) (hrnd : rnd < 4) (x y : XNum) :
    allRules [nanRule, infSum false false, exactly fun r l => let p := plus r (src l 0) (src l 1); (p.1 / 2, p.2)] t rnd sat [x, y]
      (roundFloat t rnd sat ((sumNum rnd [x, y]).scale (-1))) := by
  refine List.forall_mem_cons.mpr ⟨fun hn => ?_, List.forall_mem_cons.mpr ⟨?_, List.forall_mem_singleton.mpr fun hall => ?_⟩⟩
  · rw [sumNum_nan rnd hn]
    rfl
  · have h := infSum_sum (rnd := rnd) (sat := sat) ht false false x y
    cases x with
    | nan => trivial
    | fin a m e =>
      cases y with
      | nan | fin => trivial
      | inf b =>
        rw [sumNum_fin_inf rnd b rfl]
        exact (roundFloat_inf ht rnd sat b).trans (by simp)
    | inf a =>
      cases y with
      | nan => trivial
      | fin b n f =>
        rw [sumNum_inf_fin rnd a rfl]
        exact (roundFloat_inf ht rnd sat a).trans (by simp)
      | inf b =>
        rw [sumNum_inf_inf]
        rw [turn_inf, turn_inf, sumNum_inf_inf] at h
        cases a <;> cases b <;> exact h
  · obtain ⟨hx, hy⟩ := isFin_two hall
    exact (exact_sum rnd hx hy).half.fits ht hrnd sat

/-- R229: the distance. -/
theorem abd_rule (ht : t ∈ fiveFloats) (hrnd : rnd < 4) (x y : XNum) :
    allRules [nanRule, infDistance, exactly fun _ l => (|(src l 0).1 - (src l 1).1|, false)] t rnd sat [x, y]
      (roundFloat t rnd sat (x.sub rnd y).abs) := by
  have hsub : x.sub rnd y = sumNum rnd [turn false x, turn true y] := rfl
  rw [hsub]
  refine List.forall_mem_cons.mpr ⟨fun hn => ?_, List.forall_mem_cons.mpr ⟨?_, List.forall_mem_singleton.mpr fun hall => ?_⟩⟩
  · rw [sumNum_nan rnd (turn_nan_mem false true hn)]
    rfl
  · cases x with
    | nan => trivial
    | fin a m e =>
      cases y with
      | nan | fin => trivial
      | inf b =>
        rw [turn_inf, sumNum_fin_inf rnd _ ((isFin_turn false).trans rfl)]
        exact roundFloat_inf ht rnd sat false
    | inf a =>
      cases y with
      | nan => trivial
      | fin b n f =>
        rw [turn_inf, sumNum_inf_fin rnd _ ((isFin_turn true).trans rfl)]
        exact roundFloat_inf ht rnd sat false
      | inf b =>
        rw [turn_inf, turn_inf, sumNum_inf_inf]
        have h := roundFloat_inf ht rnd sat false
        cases a <;> cases b <;> first | exact h | rfl
  · obtain ⟨hx, hy⟩ := isFin_two hall
    have h := exact_sum rnd ((isFin_turn false).trans hx) ((isFin_turn true).trans hy)
    rw [signedOf_turn false hx, signedOf_turn true hy, if_pos rfl, if_neg Bool.false_ne_true] at h
    have hd : (plus rnd (signedOf x) (minus (signedOf y))).1 = ratOf x - ratOf y := (sub_eq_add_neg _ _).symm
    have ha := h.abs.fits ht hrnd sat
    rw [hd] at ha
    exact ha

/-! ### Products and fused operations -/

theorem mul_nan (h : XNum.nan ∈ [x, y]) : x.mul y = .nan := by
  cases x <;> cases y <;> first | rfl | simp at h

theorem mul_inf_inf (a b : Bool) : (XNum.inf a).mul (.inf b) = .inf (a != b) := rfl

theorem mul_inf_fin (a b : Bool) (n : Nat) (f : Int) : (XNum.inf a).mul (.fin b n f) = if n = 0 then .nan else .inf (a != b) := rfl

theorem mul_fin_inf (a b : Bool) (m : Nat) (e : Int) : (XNum.fin a m e).mul (.inf b) = if m = 0 then .nan else .inf (a != b) := rfl

theorem mul_rule (ht : t ∈ fiveFloats) (hrnd : rnd < 4) (x y : XNum) :
    allRules [nanRule, infProduct, exactly fun _ l => times (src l 0) (src l 1)] t rnd sat [x, y] (roundFloat t rnd sat (x.mul y)) := by
  have hinf (a b : Bool) (k : Nat) : roundFloat t rnd sat (if k = 0 then .nan else .inf (a != b)) = if k = 0 then t.qnan else infCode t sat (a != b) := by
    split
    · rfl
    · exact roundFloat_inf ht rnd sat _
  refine List.forall_mem_cons.mpr ⟨fun hn => ?_, List.forall_mem_cons.mpr ⟨?_, List.forall_mem_singleton.mpr fun hall => ?_⟩⟩
  · rw [mul_nan hn]
    rfl
  · cases x with
    | nan => cases y <;> trivial
    | inf a =>
      cases y with
      | nan => trivial
      | inf b => exact roundFloat_inf ht rnd sat (a != b)
      | fin b n f => exact hinf a b n
    | fin a m e =>
      cases y with
      | nan | fin => trivial
      | inf b => exact hinf a b m
  · obtain ⟨hx, hy⟩ := isFin_two hall
    have h := (exact_self (isFin_mul hx hy)).fits ht hrnd sat
    rw [signedOf_mul hx hy] at h
    exact h

theorem infFused_sum (ht : t ∈ fiveFloats) (kp kc : Bool) (x y z : XNum) :
    infFused kp kc t rnd sat [x, y, z] (roundFloat t rnd sat (sumNum rnd [turn kp (x.mul y), turn kc z])) := by
  have hnan {z : XNum} : sumNum rnd [turn kp .nan, z] = .nan := by
    rw [turn_nan]
    exact sumNum_nan rnd (by simp)
  cases x with
  | nan => cases y <;> cases z <;> trivial
  | fin a m e =>
    cases y with
    | nan => cases m <;> cases z <;> trivial
    | fin b n f =>
      cases z with
      | nan | fin => trivial
      | inf c =>
        rw [turn_inf, sumNum_fin_inf rnd _ ((isFin_turn kp).trans rfl)]
        exact roundFloat_inf ht rnd sat _
    | inf b =>
      cases m with
      | zero =>
        rw [mul_fin_inf, if_pos rfl, hnan]
        cases z <;> rfl
      | succ m =>
        have h := infSum_sum (rnd := rnd) (sat := sat) ht kp kc (.inf (a != b)) z
        cases z <;> exact h
  | inf a =>
    cases y with
    | nan => cases z <;> trivial
    | inf b =>
      have h := infSum_sum (rnd := rnd) (sat := sat) ht kp kc (.inf (a != b)) z
      cases z <;> exact h
    | fin b n f =>
      cases n with
      | zero =>
        rw [mul_inf_fin, if_pos rfl, hnan]
        cases z <;> rfl
      | succ n =>
        have h := infSum_sum (rnd := rnd) (sat := sat) ht kp kc (.inf (a != b)) z
        cases z <;> exact h

theorem fused_rule (ht : t ∈ fiveFloats) (hrnd : rnd < 4) (kp kc : Bool) (x y z : XNum) :
    fusedRule kp kc t rnd sat [x, y, z] (roundFloat t rnd sat (sumNum rnd [turn kp (x.mul y), turn kc z])) := by
  refine List.forall_mem_cons.mpr ⟨fun hn => ?_, List.forall_mem_cons.mpr ⟨infFused_sum ht kp kc x y z, List.forall_mem_singleton.mpr fun hall => ?_⟩⟩
  · have h : XNum.nan ∈ [x.mul y, z] := by
      have hor : XNum.nan ∈ [x, y] ∨ XNum.nan = z := by simpa [or_assoc] using hn
      rcases hor with h | rfl
      · rw [mul_nan h]
        exact List.mem_cons_self
      · simp
    rw [sumNum_nan rnd (turn_nan_mem kp kc h)]
    rfl
  · have hf : isFin x = true ∧ isFin y = true ∧ isFin z = true := by simpa using hall
    obtain ⟨hx, hy, hz⟩ := hf
    have hp := isFin_mul hx hy
    have h := exact_sum rnd ((isFin_turn kp).trans hp) ((isFin_turn kc).trans hz)
    rw [signedOf_turn kp hp, signedOf_turn kc hz, signedOf_mul hx hy] at h
    exact h.fits ht hrnd sat

/-! ### Signs -/

theorem abs_rule (ht : t ∈ fiveFloats) (hrnd : rnd < 4) (x : XNum) :
    allRules [nanRule, infUnary fun _ => false, exactly fun _ l => (|(src l 0).1|, false)] t rnd sat [x] (roundFloat t rnd sat x.abs) := by
  refine List.forall_mem_cons.mpr ⟨fun hn => ?_, List.forall_mem_cons.mpr ⟨?_, List.forall_mem_singleton.mpr fun hall => ?_⟩⟩
  · rw [← List.mem_singleton.mp hn]
    rfl
  · cases x with
    | inf a => exact roundFloat_inf ht rnd sat false
    | nan | fin => trivial
  · exact (exact_self (List.all_eq_true.mp hall x List.mem_cons_self)).abs.fits ht hrnd sat

theorem neg_rule (ht : t ∈ fiveFloats) (hrnd : rnd < 4) (x : XNum) :
    allRules [nanRule, infUnary not, exactly fun _ l => minus (src l 0)] t rnd sat [x] (roundFloat t rnd sat x.neg) := by
  refine List.forall_mem_cons.mpr ⟨fun hn => ?_, List.forall_mem_cons.mpr ⟨?_, List.forall_mem_singleton.mpr fun hall => ?_⟩⟩
  · rw [← List.mem_singleton.mp hn]
    rfl
  · cases x with
    | inf a => exact roundFloat_inf ht rnd sat (!a)
    | nan | fin => trivial
  · have hx := List.all_eq_true.mp hall x List.mem_cons_self
    have h := (exact_self (isFin_neg.trans hx)).fits ht hrnd sat
    rw [signedOf_neg hx] at h
    exact h

/-! ### Order (R101) -/

theorem lt_fin_iff {a b : Bool} {f : Int} : (XNum.fin a m e).lt (.fin b n f) = true ↔ ratOf (.fin a m e) < ratOf (.fin b n f) := by
  have hpow {k : Bool} {i : Nat} {g p : Int} (h : (XNum.fin k i g).pow = some p) : g = p := by
    simp only [XNum.pow] at h
    split at h
    · cases h
    · exact Option.some.inj h
  have hx := ratOf_signedAt (x := .fin a m e) (q := min e f) rfl fun p hp => by have := hpow hp; omega
  have hy := ratOf_signedAt (x := .fin b n f) (q := min e f) rfl fun p hp => by have := hpow hp; omega
  rw [hx, hy, mul_lt_mul_iff_left₀ (two_zpow_pos _), Int.cast_lt]
  simp only [XNum.lt, decide_eq_true_eq]

theorem zeros_iff {a b : Bool} {f : Int} : m = 0 ∧ a = true ∧ n = 0 ∧ b = false ↔
    ratOf (.fin a m e) = ratOf (.fin b n f) ∧ a = true ∧ b = false := by
  constructor
  · rintro ⟨rfl, ha, rfl, hb⟩
    exact ⟨(ratOf_zero_iff.mpr rfl).trans (ratOf_zero_iff.mpr rfl).symm, ha, hb⟩
  · rintro ⟨hv, rfl, rfl⟩
    rw [ratOf_fin, ratOf_fin] at hv
    have h1 := mag_nonneg m e
    have h2 := mag_nonneg n f
    simp only [signOf, if_true, Bool.false_eq_true, if_false, one_mul, neg_mul] at hv
    have hm : (m : Rat) * (2 : Rat) ^ e = 0 := by linarith
    have hn : (n : Rat) * (2 : Rat) ^ f = 0 := by linarith
    have hp (e : Int) := (two_zpow_pos e).ne'
    exact ⟨by simpa [hp] using hm, rfl, by simpa [hp] using hn, rfl⟩

/-- R101: the order of the model is the statement's. -/
theorem ltZ_iff (hx : x ≠ .nan) (hy : y ≠ .nan) : x.ltZ y = true ↔ below x y := by
  cases x with
  | nan => exact absurd rfl hx
  | inf a =>
    cases y with
    | nan => exact absurd rfl hy
    | inf b => cases a <;> cases b <;> simp [XNum.ltZ, XNum.lt, XNum.isZero, below]
    | fin b n f => cases a <;> simp [XNum.ltZ, XNum.lt, XNum.isZero, below]
  | fin a m e =>
    cases y with
    | nan => exact absurd rfl hy
    | inf b => cases b <;> simp [XNum.ltZ, XNum.lt, XNum.isZero, below]
    | fin b n f =>
      have hz : ((XNum.fin a m e).isZero true && (XNum.fin b n f).isZero false) = true ↔ m = 0 ∧ a = true ∧ n = 0 ∧ b = false := by
        simp [XNum.isZero, and_assoc]
      rw [XNum.ltZ, Bool.or_eq_true, lt_fin_iff, hz, zeros_iff]
      rfl

theorem not_below_of_below (h : below x y) : ¬ below y x := by
  cases x <;> cases y <;> simp only [below] at h ⊢ <;> grind

/-- R101: what `MIN` and `MAX` return. -/
theorem picks_pick (greater : Bool) (x y : XNum) : Picks greater x y (XNum.pick greater x y) := by
  by_cases hx : x = .nan
  · subst hx
    exact ⟨fun _ => by cases y <;> rfl, fun h => by rw [h]; rfl, fun h => absurd rfl h⟩
  by_cases hy : y = .nan
  · subst hy
    exact ⟨fun h => absurd h hx, fun _ => by cases x <;> rfl, fun _ h => absurd rfl h⟩
  refine ⟨fun h => absurd h hx, fun h => absurd h hy, fun _ _ => ?_⟩
  have hp : XNum.pick greater x y = if greater then (if x.ltZ y then y else x) else (if y.ltZ x then y else x) := by
    cases x <;> cases y <;> first | rfl | exact absurd rfl hx | exact absurd rfl hy
  have h1 := ltZ_iff hx hy
  have h2 := ltZ_iff hy hx
  rw [hp]
  cases greater
  · refine ⟨fun h => if_neg (mt h2.mp (not_below_of_below h)), fun h => if_pos (h2.mpr h), ?_⟩
    by_cases h : y.ltZ x = true
    · exact .inr (if_pos h)
    · exact .inl (if_neg h)
  · refine ⟨fun h => if_pos (h1.mpr h), fun h => if_neg (mt h1.mp (not_below_of_below h)), ?_⟩
    by_cases h : x.ltZ y = true
    · exact .inr (if_pos h)
    · exact .inl (if_neg h)

/-- R98 to R100: a source delivered. -/
theorem delivered_rule (ht : t ∈ fiveFloats) (hrnd : rnd < 4) (z : XNum) : delivered t rnd sat [z] (roundFloat t rnd sat z) := by
  cases z with
  | nan => rfl
  | inf a => exact roundFloat_inf ht rnd sat a
  | fin a m e => exact fun _ => (exact_self rfl).fits ht hrnd sat

theorem pick_rule (ht : t ∈ fiveFloats) (hrnd : rnd < 4) (greater : Bool) (x y : XNum) :
    pickRule greater t rnd sat [x, y] (roundFloat t rnd sat (XNum.pick greater x y)) :=
  ⟨_, picks_pick greater x y, delivered_rule ht hrnd _⟩

theorem clamp_rule (ht : t ∈ fiveFloats) (hrnd : rnd < 4) (x y z : XNum) :
    clampRule t rnd sat [x, y, z] (roundFloat t rnd sat (XNum.pick false (XNum.pick true x y) z)) :=
  ⟨_, _, picks_pick true x y, picks_pick false _ z, delivered_rule ht hrnd _⟩

/-! ### Remainders -/

theorem rem_rule (ht : t ∈ fiveFloats) (hrnd : rnd < 4) (x y : XNum) :
    allRules [nanRule, remRule] t rnd sat [x, y] (roundFloat t rnd sat (x.rem y)) := by
  refine List.forall_mem_cons.mpr ⟨fun hn => ?_, List.forall_mem_singleton.mpr ?_⟩
  · have : x.rem y = .nan := by cases x <;> cases y <;> first | rfl | simp at hn
    rw [this]
    rfl
  · cases x with
    | nan => cases y <;> exact fun hall => nomatch hall
    | inf a => cases y <;> first | rfl | exact fun hall => nomatch hall
    | fin a m e =>
      cases y with
      | nan => exact fun hall => nomatch hall
      | inf b => exact fun _ => (exact_self (x := .fin a m e) rfl).fits ht hrnd sat
      | fin b n f =>
        cases n with
        | zero => rfl
        | succ n => exact fun _ => (exact_rem (x := .fin a m e) rfl n.succ_ne_zero).fits ht hrnd sat

end Sys2Proof.Machine
end

/-! ## Quotients, roots and faithful results (R102) -/
section
namespace Sys2Proof.Machine
open Sys2Proof.Claims

variable {t : Ty} {rnd dir m n q r : Nat} {sat : Bool} {x y : XNum} {e f E : Int} {L G : Rat → Prop}

/-! ### A value with its rest jammed into the last bit -/

theorem mant_le (ht : t ∈ fiveFloats) : t.fmt.mb ≤ 23 := by
  simp only [fiveFloats, List.mem_cons, List.not_mem_nil, or_false] at ht
  rcases ht with rfl | rfl | rfl | rfl | rfl <;> decide

/-- A cut that lies at q units, or between q and q + 1. -/
def Jams (L G : Rat → Prop) (q : Nat) (whole : Bool) (u : Rat) : Prop :=
  ∀ c : Nat, (L (c * u) ↔ c ≤ q) ∧ (G (c * u) ↔ if whole then q ≤ c else q < c)

/-- R102: one rounding of the jammed value is the rounding of the exact one. -/
theorem agrees_jam (ht : t ∈ fiveFloats) {whole : Bool} (hq : 2 ^ 24 ≤ q) (hj : Jams L G q whole ((2 : Rat) ^ (E + 1))) :
    Agrees L G ((2 * q + (if whole then 0 else 1) : Nat) * (2 : Rat) ^ E) ((2 : Rat) ^ (t.quantum (2 * q + (if whole then 0 else 1)) E - 1)) := by
  have hlog : 25 ≤ (2 * q + (if whole then 0 else 1)).log2 := by
    rw [Nat.le_log2 (by omega)]
    omega
  have hquant : E + 1 ≤ t.quantum (2 * q + (if whole then 0 else 1)) E - 1 := by
    have := mant_le ht
    unfold Ty.quantum
    omega
  obtain ⟨s, hs⟩ := Int.eq_ofNat_of_zero_le (sub_nonneg.mpr hquant)
  have hu : (2 : Rat) ^ (t.quantum (2 * q + (if whole then 0 else 1)) E - 1) = (2 ^ s : Nat) * (2 : Rat) ^ (E + 1) := by
    rw [show t.quantum (2 * q + (if whole then 0 else 1)) E - 1 = s + (E + 1) by omega, two_zpow_add, zpow_natCast]
    push_cast
    rfl
  intro j
  have hju : (j : Rat) * (2 : Rat) ^ (t.quantum (2 * q + (if whole then 0 else 1)) E - 1) = (j * 2 ^ s : Nat) * (2 : Rat) ^ (E + 1) := by
    rw [hu]
    push_cast
    ring
  have h2 (c : Nat) : (c : Rat) * (2 : Rat) ^ (E + 1) = (2 * c : Nat) * (2 : Rat) ^ E := by
    rw [two_zpow_add, zpow_one]
    push_cast
    ring
  obtain ⟨hL, hG⟩ := hj (j * 2 ^ s)
  rw [hju, hL, hG, h2, mul_le_mul_iff_left₀ (two_zpow_pos E), mul_le_mul_iff_left₀ (two_zpow_pos E), Nat.cast_le, Nat.cast_le]
  cases whole
  · simp only [Bool.false_eq_true, if_false]
    omega
  · simp only [if_true]
    omega

/-! ### Quotients -/

theorem le_quot (hm : m ≠ 0) (hn : n ≠ 0) : 2 ^ 24 ≤ m * 2 ^ (80 + n.log2) / n := by
  rw [Nat.le_div_iff_mul_le (Nat.pos_of_ne_zero hn)]
  have h1 : n < 2 ^ (n.log2 + 1) := Nat.lt_log2_self
  calc 2 ^ 24 * n ≤ 2 ^ 24 * 2 ^ (n.log2 + 1) := Nat.mul_le_mul_left _ h1.le
    _ = 2 ^ (25 + n.log2) := by rw [← pow_add]; congr 1; omega
    _ ≤ 1 * 2 ^ (80 + n.log2) := by rw [Nat.one_mul]; exact Nat.pow_le_pow_right (by decide) (by omega)
    _ ≤ m * 2 ^ (80 + n.log2) := Nat.mul_le_mul_right _ (Nat.pos_of_ne_zero hm)

theorem quot_fst (m n : Nat) (e : Int) : (quot m n e).1 =
    2 * (m * 2 ^ (80 + n.log2) / n) + (if decide (m * 2 ^ (80 + n.log2) % n = 0) then 0 else 1) := by
  simp [quot]

theorem jams_quot (hn : n ≠ 0) (e : Int) (k : Nat) : Jams (fun q => q ≤ (m : Rat) / n * (2 : Rat) ^ e) (fun q => (m : Rat) / n * (2 : Rat) ^ e ≤ q)
    (m * 2 ^ k / n) (decide (m * 2 ^ k % n = 0)) ((2 : Rat) ^ (e - k)) := by
  intro c
  have hn0 : 0 < (n : Rat) := by exact_mod_cast Nat.pos_of_ne_zero hn
  have he : (m : Rat) / n * (2 : Rat) ^ e = ((m * 2 ^ k : Nat) : Rat) / n * (2 : Rat) ^ (e - k) := by
    rw [show e = k + (e - k) by ring, two_zpow_add, zpow_natCast, add_sub_cancel_left]
    push_cast
    ring
  have hdm := Nat.div_add_mod' (m * 2 ^ k) n
  have hlt := Nat.mod_lt (m * 2 ^ k) (Nat.pos_of_ne_zero hn)
  simp only [he, mul_le_mul_iff_left₀ (two_zpow_pos (e - k)), le_div_iff₀ hn0, div_le_iff₀ hn0]
  generalize m * 2 ^ k = M at *
  refine ⟨?_, ?_⟩
  · rw [Nat.le_div_iff_mul_le (Nat.pos_of_ne_zero hn)]
    exact_mod_cast Iff.rfl
  · have hc : (M : Rat) ≤ c * n ↔ M ≤ c * n := by exact_mod_cast Iff.rfl
    rw [hc]
    by_cases h0 : M % n = 0
    · rw [if_pos (decide_eq_true h0)]
      refine ⟨fun h => Nat.div_le_of_le_mul (Nat.mul_comm n c ▸ h), fun h => ?_⟩
      have := Nat.mul_le_mul_right n h
      omega
    · rw [if_neg (by simpa using h0)]
      constructor
      · intro h
        by_contra hle
        have := Nat.mul_le_mul_right n (not_lt.mp hle)
        omega
      · intro h
        have := Nat.mul_le_mul_right n (Nat.succ_le_of_lt h)
        rw [Nat.succ_mul] at this
        omega

theorem ratOf_div {a b : Bool} : ratOf (.fin a m e) / ratOf (.fin b n f) = signOf (a != b) * ((m : Rat) / n * (2 : Rat) ^ (e - f)) := by
  have hb : signOf b * signOf b = 1 := by cases b <;> simp [signOf]
  have hinv : (signOf b)⁻¹ = signOf b := by cases b <;> norm_num [signOf]
  rw [ratOf_fin, ratOf_fin, signOf_bne, zpow_sub₀ (by norm_num), div_eq_mul_inv, mul_inv, mul_inv, hinv]
  ring

/-- R99: a zero of a sign. -/
theorem zero_eq (ht : t ∈ fiveFloats) (rnd : Nat) (sat neg : Bool) (e : Int) : roundFloat t rnd sat (.fin neg 0 e) = signed t neg 0 :=
  (roundDir_zero (format_of_five ht) rnd rnd sat neg e).trans (if_pos (Nat.zero_le _))

/-- R102: the quotient of two finite numbers. -/
theorem fits_quot (ht : t ∈ fiveFloats) (hrnd : rnd < 4) (a b : Bool) (hn : n ≠ 0) :
    exactly (fun _ l => ((src l 0).1 / (src l 1).1, (src l 0).2 != (src l 1).2)) t rnd sat [.fin a m e, .fin b n f]
      (roundFloat t rnd sat ((XNum.fin a m e).div (.fin b n f))) := by
  intro _
  change FloatFits t rnd sat (if ratOf (.fin a m e) / ratOf (.fin b n f) = 0 then a != b else decide (ratOf (.fin a m e) / ratOf (.fin b n f) < 0))
    (fun q => q ≤ ratOf (.fin a m e) / ratOf (.fin b n f)) (fun q => ratOf (.fin a m e) / ratOf (.fin b n f) ≤ q) _
  have hdiv : (XNum.fin a m e).div (.fin b n f) = .fin (a != b) (quot m n (e - f)).1 (quot m n (e - f)).2 := if_neg hn
  by_cases hm : m = 0
  · subst hm
    have hz : (quot 0 n (e - f)).1 = 0 := by simp [quot]
    rw [hdiv, hz, ratOf_zero_iff.mpr rfl, zero_div, if_pos rfl]
    exact floatFits_zero (format_of_five ht) hrnd sat _ _
  · have hw : 0 < (m : Rat) / n * (2 : Rat) ^ (e - f) :=
      mul_pos (div_pos (by exact_mod_cast Nat.pos_of_ne_zero hm) (by exact_mod_cast Nat.pos_of_ne_zero hn)) (two_zpow_pos _)
    have hsign : (if ratOf (.fin a m e) / ratOf (.fin b n f) = 0 then a != b else decide (ratOf (.fin a m e) / ratOf (.fin b n f) < 0)) = (a != b) := by
      rw [ratOf_div]
      cases a != b
      · simp only [signOf, Bool.false_eq_true, if_false, one_mul, ite_self, decide_eq_false hw.not_gt]
      · simp only [signOf, if_true, neg_one_mul, neg_lt_zero, decide_eq_true hw, ite_self]
    rw [hsign, hdiv]
    have hq := le_quot hm hn
    have hne : (quot m n (e - f)).1 ≠ 0 := by rw [quot_fst]; omega
    refine floatFits_near (format_of_five ht) hrnd hne sat _ ratOf_div ?_
    have hj := jams_quot (m := m) hn (e - f) (80 + n.log2)
    rw [show e - f - ((80 + n.log2 : Nat) : Int) = (quot m n (e - f)).2 + 1 by simp [quot]] at hj
    have ha := agrees_jam ht hq hj
    rw [← quot_fst m n (e - f)] at ha
    exact ha

theorem quot_rule (ht : t ∈ fiveFloats) (hrnd : rnd < 4) (hx : x ≠ .nan) (hy : y ≠ .nan) :
    quotRule t rnd sat [x, y] (roundFloat t rnd sat (x.div y)) := by
  cases x with
  | nan => exact absurd rfl hx
  | inf a =>
    cases y with
    | nan => exact absurd rfl hy
    | inf b => rfl
    | fin b n f => exact roundFloat_inf ht rnd sat (a != b)
  | fin a m e =>
    cases y with
    | nan => exact absurd rfl hy
    | inf b => exact zero_eq ht rnd sat (a != b) 0
    | fin b n f =>
      cases n with
      | zero =>
        change roundFloat t rnd sat (if m = 0 then .nan else .inf (a != b)) = if m = 0 then t.qnan else infCode t sat (a != b)
        split
        · rfl
        · exact roundFloat_inf ht rnd sat (a != b)
      | succ n => exact fits_quot ht hrnd a b n.succ_ne_zero

theorem div_nan (h : XNum.nan ∈ [x, y]) : x.div y = .nan := by
  cases x <;> cases y <;> first | rfl | simp at h

/-- R102: with a NaN the quotient's rule says nothing more. -/
theorem quotRule_nan (h : XNum.nan ∈ [x, y]) (c : Nat) : quotRule t rnd sat [x, y] c := by
  cases x with
  | nan => cases y <;> exact fun hall => nomatch hall
  | inf => cases y with
    | nan => exact fun hall => nomatch hall
    | inf | fin => simp at h
  | fin => cases y with
    | nan => exact fun hall => nomatch hall
    | inf | fin => simp at h

theorem quotRule_div (ht : t ∈ fiveFloats) (hrnd : rnd < 4) (x y : XNum) : quotRule t rnd sat [x, y] (roundFloat t rnd sat (x.div y)) := by
  by_cases h : XNum.nan ∈ [x, y]
  · exact quotRule_nan h _
  · simp only [List.mem_cons, List.not_mem_nil, or_false, not_or] at h
    exact quot_rule ht hrnd (Ne.symm h.1) (Ne.symm h.2)

theorem div_rule (ht : t ∈ fiveFloats) (hrnd : rnd < 4) (x y : XNum) :
    allRules [nanRule, quotRule] t rnd sat [x, y] (roundFloat t rnd sat (x.div y)) := by
  refine List.forall_mem_cons.mpr ⟨fun hn => ?_, List.forall_mem_singleton.mpr (quotRule_div ht hrnd x y)⟩
  rw [div_nan hn]
  rfl

theorem rcp_rule (ht : t ∈ fiveFloats) (hrnd : rnd < 4) (x : XNum) :
    allRules [nanRule, fun t rnd sat l c => quotRule t rnd sat (.fin false 1 0 :: l) c] t rnd sat [x]
      (roundFloat t rnd sat ((XNum.fin false 1 0).div x)) := by
  refine List.forall_mem_cons.mpr ⟨fun hn => ?_, List.forall_mem_singleton.mpr (quotRule_div ht hrnd _ x)⟩
  rw [div_nan (List.mem_cons_of_mem _ hn)]
  rfl

/-! ### Square roots -/

theorem isqrt_spec (k n acc : Nat) (hlo : acc * acc ≤ n) (hhi : n < (acc + 2 ^ k) * (acc + 2 ^ k)) :
    isqrt k n acc * isqrt k n acc ≤ n ∧ n < (isqrt k n acc + 1) * (isqrt k n acc + 1) := by
  induction k generalizing acc with
  | zero => exact ⟨hlo, hhi⟩
  | succ k ih =>
    rw [pow_succ] at hhi
    unfold isqrt
    dsimp only
    split
    next h => exact ih _ h (by rwa [Nat.add_assoc, ← Nat.mul_two])
    next h => exact ih _ hlo (not_le.mp h)

/-- The root of a number, rounded down. -/
def rootDown (n : Nat) : Nat := isqrt (n.log2 / 2 + 1) n 0

theorem rootDown_spec (n : Nat) : rootDown n * rootDown n ≤ n ∧ n < (rootDown n + 1) * (rootDown n + 1) := by
  refine isqrt_spec _ n 0 (Nat.zero_le n) ?_
  have h1 : n < 2 ^ (n.log2 + 1) := Nat.lt_log2_self
  rw [Nat.zero_add, ← pow_add]
  exact h1.trans_le (Nat.pow_le_pow_right (by decide) (by omega))

theorem le_rootDown {c : Nat} : c ≤ rootDown n ↔ c * c ≤ n := by
  obtain ⟨hlo, hhi⟩ := rootDown_spec n
  constructor
  · intro h
    exact (Nat.mul_le_mul h h).trans hlo
  · intro h
    exact Nat.lt_succ_iff.mp (Nat.mul_self_lt_mul_self_iff.mp (h.trans_lt hhi))

/-- The cut of a square root. -/
theorem cut_root {X : Rat} : Cut (fun q => q < 0 ∨ q * q ≤ X) (fun q => 0 ≤ q ∧ X ≤ q * q) := by
  refine ⟨fun {a b} hab h => ?_, fun {a b} hab h => ?_, fun {a b} hg hl => ?_, fun a => ?_⟩
  · rcases lt_or_ge a 0 with ha | ha
    · exact .inl ha
    · exact .inr ((mul_self_le_mul_self ha hab).trans (h.resolve_left (not_lt.mpr (ha.trans hab))))
  · exact ⟨h.1.trans hab, h.2.trans (mul_self_le_mul_self h.1 hab)⟩
  · rcases hl with hb | hb
    · exact hb.le.trans hg.1
    · exact le_of_not_gt fun hlt => absurd (mul_self_lt_mul_self hg.1 hlt) (not_lt.mpr (hb.trans hg.2))
  · rcases lt_or_ge a 0 with ha | ha
    · exact .inl (.inl ha)
    · exact (le_total (a * a) X).imp .inr fun h => ⟨ha, h⟩

/-- The root of N / p units squared, by the root of the whole part. -/
theorem jams_root {N p : Nat} (hp : p ≠ 0) {u : Rat} (hu : 0 < u) {X : Rat} (hX : X = (N : Rat) / p * (u * u)) :
    Jams (fun q => q < 0 ∨ q * q ≤ X) (fun q => 0 ≤ q ∧ X ≤ q * q) (rootDown (N / p))
      (N % p == 0 && rootDown (N / p) * rootDown (N / p) == N / p) u := by
  intro c
  have hp0 : 0 < (p : Rat) := by exact_mod_cast Nat.pos_of_ne_zero hp
  have hc0 : 0 ≤ (c : Rat) * u := mul_nonneg (Nat.cast_nonneg c) hu.le
  have hsq : (c : Rat) * u * (c * u) = ((c * c : Nat) : Rat) * (u * u) := by push_cast; ring
  have hdm := Nat.div_add_mod' N p
  have hmod := Nat.mod_lt N (Nat.pos_of_ne_zero hp)
  subst hX
  simp only [hsq, hc0, hc0.not_gt, false_or, true_and, mul_le_mul_iff_left₀ (mul_pos hu hu), le_div_iff₀ hp0, div_le_iff₀ hp0]
  have h1 : ((c * c : Nat) : Rat) * p ≤ N ↔ c * c ≤ N / p := by
    rw [Nat.le_div_iff_mul_le (Nat.pos_of_ne_zero hp)]
    exact_mod_cast Iff.rfl
  have h2 : (N : Rat) ≤ ((c * c : Nat) : Rat) * p ↔ N ≤ c * c * p := by exact_mod_cast Iff.rfl
  refine ⟨by rw [h1, le_rootDown], ?_⟩
  rw [h2]
  generalize hd : N / p = d at *
  obtain ⟨hlo, hhi⟩ := rootDown_spec d
  have hup (h : rootDown d < c) : N ≤ c * c * p := by
    have h3 := Nat.mul_le_mul (Nat.succ_le_of_lt h) (Nat.succ_le_of_lt h)
    have h4 := Nat.mul_le_mul_right p (hhi.trans_le h3)
    rw [Nat.succ_mul] at h4
    omega
  have hdown (h : c ≤ rootDown d) : c * c * p ≤ rootDown d * rootDown d * p ∧ rootDown d * rootDown d * p ≤ d * p :=
    ⟨Nat.mul_le_mul_right p (Nat.mul_le_mul h h), Nat.mul_le_mul_right p hlo⟩
  by_cases hw : N % p = 0 ∧ rootDown d * rootDown d = d
  · rw [if_pos (by simpa using hw)]
    refine ⟨fun h => ?_, fun h => ?_⟩
    · by_contra hlt
      have hlt' := not_le.mp hlt
      have h5 := Nat.mul_lt_mul_of_pos_right (Nat.mul_self_lt_mul_self_iff.mpr hlt') (Nat.pos_of_ne_zero hp)
      rw [hw.2] at h5
      omega
    · have := Nat.mul_le_mul_right p (Nat.mul_le_mul h h)
      rw [hw.2] at this
      omega
  · rw [if_neg (by simpa using hw)]
    refine ⟨fun h => ?_, hup⟩
    by_contra hle
    obtain ⟨h6, h7⟩ := hdown (not_lt.mp hle)
    refine hw ⟨by omega, Nat.eq_of_mul_eq_mul_right (Nat.pos_of_ne_zero hp) (by omega)⟩

/-- A magnitude over an even power of two. -/
def evenPow (m : Nat) (e : Int) : Nat × Int := if e % 2 = 0 then (m, e) else (2 * m, e - 1)

theorem evenPow_spec (hm : m ≠ 0) (e : Int) : (evenPow m e).1 ≠ 0 ∧ (evenPow m e).2 % 2 = 0 ∧
    (m : Rat) * (2 : Rat) ^ e = (evenPow m e).1 * (2 : Rat) ^ (evenPow m e).2 := by
  unfold evenPow
  split
  next h => exact ⟨hm, h, rfl⟩
  next h =>
    refine ⟨by simpa using hm, by omega, ?_⟩
    rw [show e = 1 + (e - 1) by ring, two_zpow_add, zpow_one, add_sub_cancel_left]
    push_cast
    ring

theorem two_zpow_half {k : Int} (hk : k % 2 = 0) : (2 : Rat) ^ k = (2 : Rat) ^ (k / 2) * (2 : Rat) ^ (k / 2) := by
  rw [← two_zpow_add]
  congr 1
  omega

theorem le_rootDown_of (h : 2 ^ 48 ≤ n) : 2 ^ 24 ≤ rootDown n := le_rootDown.mpr (by rw [← pow_add]; exact h)

theorem sqrt_fin (hm : m ≠ 0) (e : Int) : XNum.sqrt (.fin false m e) = .fin false
    (2 * rootDown ((evenPow m e).1 * 2 ^ 128) +
      (if rootDown ((evenPow m e).1 * 2 ^ 128) * rootDown ((evenPow m e).1 * 2 ^ 128) = (evenPow m e).1 * 2 ^ 128 then 0 else 1))
    (((evenPow m e).2 - 128) / 2 - 1) := by
  rw [XNum.sqrt, if_neg hm]
  rfl

/-- R102: the square root. -/
theorem sqrt_rule (ht : t ∈ fiveFloats) (hrnd : rnd < 4) (x : XNum) :
    allRules [nanRule, sqrtRule] t rnd sat [x] (roundFloat t rnd sat x.sqrt) := by
  refine List.forall_mem_cons.mpr ⟨fun hn => ?_, List.forall_mem_singleton.mpr ?_⟩
  · rw [← List.mem_singleton.mp hn]
    rfl
  cases x with
  | nan => trivial
  | inf neg => cases neg <;> [exact roundFloat_inf ht rnd sat false; rfl]
  | fin neg m e =>
    cases m with
    | zero => cases neg <;> exact zero_eq ht rnd sat _ 0
    | succ m =>
      cases neg with
      | true => rfl
      | false =>
        obtain ⟨hp, heven, hval⟩ := evenPow_spec m.succ_ne_zero e
        generalize hpe : evenPow (m + 1) e = p at *
        have hsqrt : XNum.sqrt (.fin false (m + 1) e) = .fin false
            (2 * rootDown (p.1 * 2 ^ 128 / 1) + (if p.1 * 2 ^ 128 % 1 == 0 && rootDown (p.1 * 2 ^ 128 / 1) * rootDown (p.1 * 2 ^ 128 / 1) == p.1 * 2 ^ 128 / 1
              then 0 else 1)) ((p.2 - 128) / 2 - 1) := by
          rw [sqrt_fin m.succ_ne_zero, hpe]
          simp only [Nat.div_one, Nat.mod_one, beq_self_eq_true, Bool.true_and, beq_iff_eq]
        have hX : ratOf (.fin false (m + 1) e) = ((p.1 * 2 ^ 128 : Nat) : Rat) / (1 : Nat) * ((2 : Rat) ^ ((p.2 - 128) / 2) * (2 : Rat) ^ ((p.2 - 128) / 2)) := by
          rw [← two_zpow_half (by omega), ratOf_fin, hval, show signOf false = 1 from rfl, show p.2 = (128 : Nat) + (p.2 - 128) by push_cast; ring,
            two_zpow_add, zpow_natCast, Nat.cast_mul, Nat.cast_pow, Nat.cast_one, div_one, one_mul, mul_assoc]
          norm_num
        have hj := jams_root Nat.one_ne_zero (two_zpow_pos ((p.2 - 128) / 2)) hX
        have hbig : 2 ^ 48 ≤ p.1 * 2 ^ 128 / 1 := by
          rw [Nat.div_one]
          have := Nat.mul_le_mul_right (2 ^ 128) (Nat.pos_of_ne_zero hp)
          omega
        rw [show (p.2 - 128) / 2 = (p.2 - 128) / 2 - 1 + 1 by ring] at hj
        rw [hsqrt]
        refine floatFits_pos (format_of_five ht) hrnd (fun h0 => ?_) sat cut_root (agrees_jam ht (le_rootDown_of hbig) hj)
        have := le_rootDown_of hbig
        omega

/-! ### Faithful results -/

theorem codeVal_maxFin (h : Format t) : codeVal t t.maxFin = t.ordVal t.maxFin :=
  ((floatOf_signed h false le_rfl).2.1).trans (one_mul _)

/-- R102: rounding down or up gives one of the two values that bracket a positive value. -/
theorem faithful_place (h : Format t) (hdir : dir = 1 ∨ dir = 2) (rnd : Nat) (sat : Bool) (hc : Cut L G) (h0 : L 0) (hr : Rounds t dir false L G r) :
    Faithful t rnd sat L G (delivery t rnd sat false r) := by
  have hmono := t.ordVal_strictMono
  have hfl (h1 : dir = 1) := hr.floor (.inl h1)
  have hcl (h2 : dir = 2) := hr.ceil (.inl ⟨h2, rfl⟩)
  refine ⟨fun hge => ?_, fun hge => ?_⟩
  · rw [codeVal_maxFin h] at hge
    have hle : r ≤ t.maxFin := by
      rcases hdir with h1 | h2
      · exact hmono.le_iff_le.mp (hc.apart hge (hfl h1).1)
      · exact not_lt.mp fun hlt => (hcl h2).2 _ hlt hge
    rw [delivery, if_pos hle]
    have hval := (floatOf_signed h false hle).2.1.trans (one_mul _)
    refine ⟨finCode_signed h false hle, ?_, ?_⟩
    · rw [h.bits, Nat.add_sub_cancel]
      exact hle.trans_lt h.maxFin_lt
    · rw [hval]
      have hfits {d : Nat} (hd : finCode t d) : Fits t dir false L G r (codeVal t d) := by
        obtain ⟨neg, j, hj, rfl⟩ := exists_signed h hd
        rw [(floatOf_signed h neg hj).2.1]
        cases neg with
        | false => exact (one_mul (t.ordVal j)).symm ▸ hr.fits_pos hc j
        | true => exact (neg_one_mul (t.ordVal j)).symm ▸ hr.fits_neg hc h0 (neg_nonpos.mpr (t.ordVal_nonneg j))
      rcases hdir with h1 | h2
      · exact .inl ⟨(hfl h1).1, fun d hd => ((hfits hd).floor (.inl h1)).2⟩
      · exact .inr ⟨(hcl h2).1, fun d hd => ((hfits hd).ceil (.inl ⟨h2, rfl⟩)).2⟩
  · rw [codeVal_maxFin h] at hge
    have hle : t.maxFin ≤ r := by
      rcases hdir with h1 | h2
      · exact not_lt.mp fun hlt => hge (hc.up (hmono.monotone hlt) ((hc.total _).resolve_left (hfl h1).2))
      · exact not_lt.mp fun hlt => hge (hc.up (hmono.monotone hlt.le) (hcl h2).1)
    unfold delivery
    split
    next h' => exact .inl (le_antisymm h' hle)
    next h' =>
      split
      next hd => exact .inr ⟨hd.imp_right fun hd => hd.elim And.left (fun h => nomatch h.2), rfl⟩
      next => exact .inl rfl

theorem faithful_round (ht : t ∈ fiveFloats) (hm : m ≠ 0) (rnd : Nat) (sat away : Bool) (hc : Cut L G)
    (ha : Agrees L G (m * (2 : Rat) ^ e) ((2 : Rat) ^ (t.quantum m e - 1))) :
    Faithful t rnd sat L G (faithfulRound t rnd sat away (.fin false m e)) := by
  have hdir : (if away then 2 else 1) = 1 ∨ (if away then 2 else 1) = 2 := by cases away <;> simp
  have h0 := (ha 0).1
  rw [Nat.cast_zero, zero_mul] at h0
  have hf := faithful_place (format_of_five ht) hdir rnd sat hc (h0.mpr (mag_nonneg m e))
    (rounds_place (format_of_five ht) (by cases away <;> simp) hm hc ha)
  rwa [← roundDir_fin (format_of_five ht) hm] at hf

theorem faithfulRound_inf (ht : t ∈ fiveFloats) (rnd : Nat) (sat away neg : Bool) : faithfulRound t rnd sat away (.inf neg) = infCode t sat neg := by
  unfold faithfulRound
  exact roundDir_inf (format_of_five ht) _ rnd sat neg

theorem rsq_fin (hm : m ≠ 0) (e : Int) {p : Nat × Int} (hp : evenPow m e = p) {k : Nat} (hk : 80 + p.1.log2 / 2 = k) :
    XNum.rsq (.fin false m e) = .fin false
      (2 * rootDown (2 ^ (2 * k) / p.1) +
        (if 2 ^ (2 * k) % p.1 == 0 && rootDown (2 ^ (2 * k) / p.1) * rootDown (2 ^ (2 * k) / p.1) == 2 ^ (2 * k) / p.1 then 0 else 1))
      (-(p.2 / 2) - k - 1) := by
  have hk2 : 160 + 2 * (p.1.log2 / 2) = 2 * k := by omega
  have hhalf : ((2 * k / 2 : Nat) : Int) = k := by omega
  rw [← hhalf, ← hk2, ← hp, XNum.rsq, if_neg hm]
  rfl

/-- R102: the reciprocal square root. -/
theorem rsq_rule (ht : t ∈ fiveFloats) (away : Bool) (x : XNum) :
    allRules [nanRule, rsqRule] t rnd sat [x] (faithfulRound t rnd sat away x.rsq) := by
  refine List.forall_mem_cons.mpr ⟨fun hn => ?_, List.forall_mem_singleton.mpr ?_⟩
  · rw [← List.mem_singleton.mp hn]
    rfl
  cases x with
  | nan => trivial
  | inf neg => cases neg <;> rfl
  | fin neg m e =>
    cases m with
    | zero => exact faithfulRound_inf ht rnd sat away neg
    | succ m =>
      cases neg with
      | true => rfl
      | false =>
        obtain ⟨hp, heven, hval⟩ := evenPow_spec m.succ_ne_zero e
        generalize hpe : evenPow (m + 1) e = p at *
        generalize hk : 80 + p.1.log2 / 2 = k
        have hrsq : XNum.rsq (.fin false (m + 1) e) = .fin false
            (2 * rootDown (2 ^ (2 * k) / p.1) + (if 2 ^ (2 * k) % p.1 == 0 && rootDown (2 ^ (2 * k) / p.1) * rootDown (2 ^ (2 * k) / p.1) == 2 ^ (2 * k) / p.1
              then 0 else 1)) (-(p.2 / 2) - k - 1) := rsq_fin m.succ_ne_zero e hpe hk
        have hp0 : (p.1 : Rat) ≠ 0 := by exact_mod_cast hp
        have hX : 1 / ratOf (.fin false (m + 1) e) = ((2 ^ (2 * k) : Nat) : Rat) / p.1 * ((2 : Rat) ^ (-(p.2 / 2) - k) * (2 : Rat) ^ (-(p.2 / 2) - k)) := by
          rw [ratOf_fin, hval, show signOf false = 1 from rfl, one_mul, ← two_zpow_add,
            show -(p.2 / 2) - (k : Int) + (-(p.2 / 2) - k) = -p.2 + -((2 * k : Nat) : Int) by push_cast; omega, two_zpow_add, zpow_neg, zpow_neg, zpow_natCast]
          push_cast
          field_simp
        have hj := jams_root hp (two_zpow_pos (-(p.2 / 2) - k)) hX
        have hbig : 2 ^ 48 ≤ 2 ^ (2 * k) / p.1 := by
          rw [Nat.le_div_iff_mul_le (Nat.pos_of_ne_zero hp)]
          have h1 : p.1 < 2 ^ (p.1.log2 + 1) := Nat.lt_log2_self
          calc 2 ^ 48 * p.1 ≤ 2 ^ 48 * 2 ^ (p.1.log2 + 1) := Nat.mul_le_mul_left _ h1.le
            _ = 2 ^ (49 + p.1.log2) := by rw [← pow_add]; congr 1; omega
            _ ≤ 2 ^ (2 * k) := Nat.pow_le_pow_right (by decide) (by omega)
        rw [show -(p.2 / 2) - (k : Int) = -(p.2 / 2) - k - 1 + 1 by ring] at hj
        have hf := faithful_round (rnd := rnd) (sat := sat) (away := away) ht (fun h0 => by have := le_rootDown_of hbig; omega) cut_root
          (agrees_jam ht (le_rootDown_of hbig) hj)
        have hpos : 0 < ratOf (.fin false (m + 1) e) := by
          rw [ratOf_fin, show signOf false = 1 from rfl, one_mul]
          exact mul_pos (by exact_mod_cast m.succ_pos) (two_zpow_pos e)
        simp only [le_div_iff₀ hpos, div_le_iff₀ hpos] at hf
        rw [hrsq]
        exact hf

end Sys2Proof.Machine
end

/-! ## Powers, logarithms and integral values (R102, R227) -/
section
namespace Sys2Proof.Machine
open Sys2Proof.Claims

variable {t : Ty} {rnd dir m n j r : Nat} {sat away neg : Bool} {x : XNum} {e k : Int} {L G : Rat → Prop}

/-! ### Values that the type has -/

/-- R99: in a directed mode a value of the type rounds to itself. -/
theorem rounds_exact (hdir : dir = 1 ∨ dir = 2 ∨ dir = 3) (hr : Rounds t dir neg (fun q => q ≤ t.ordVal j) (fun q => t.ordVal j ≤ q) r) : r = j := by
  have hmono := t.ordVal_strictMono
  have hcases : (dir = 1 ∨ dir = 2 ∧ neg = true ∨ dir = 3 ∧ neg = false) ∨ (dir = 2 ∧ neg = false ∨ dir = 3 ∧ neg = true) := by
    cases neg <;> simp <;> omega
  rcases hcases with h | h
  · obtain ⟨hl, hu⟩ := hr.floor h
    exact le_antisymm (hmono.le_iff_le.mp hl) (Nat.lt_succ_iff.mp (hmono.lt_iff_lt.mp (not_le.mp hu)))
  · obtain ⟨hg, hmin⟩ := hr.ceil h
    exact le_antisymm (not_lt.mp fun hlt => hmin j hlt le_rfl) (hmono.le_iff_le.mp hg)

/-- R99: a magnitude of the type is delivered as its code. -/
theorem roundDir_exact (ht : t ∈ fiveFloats) (hdir : dir = 1 ∨ dir = 2 ∨ dir = 3) (hm : m ≠ 0) (hj : j ≤ t.maxFin)
    (hv : t.ordVal j = m * (2 : Rat) ^ e) : roundDir t dir rnd sat (.fin neg m e) = signed t neg j := by
  have hr := rounds_place (neg := neg) (format_of_five ht) (show dir < 4 by omega) hm (Cut.rat (m * (2 : Rat) ^ e)) (Near.refl _ _)
  rw [← hv] at hr
  rw [roundDir_fin (format_of_five ht) hm, rounds_exact hdir hr, delivery, if_pos hj]

/-- The magnitude of a code's value. -/
theorem exists_mag (ht : t ∈ fiveFloats) {d : Nat} (hd : finCode t d) : ∃ b j, j ≤ t.maxFin ∧ d = signed t b j ∧ codeVal t d = signOf b * t.ordVal j := by
  obtain ⟨b, j, hj, rfl⟩ := exists_signed (format_of_five ht) hd
  exact ⟨b, j, hj, rfl, (floatOf_signed (format_of_five ht) b hj).2.1⟩

theorem codeVal_le (ht : t ∈ fiveFloats) {d : Nat} (hd : finCode t d) : codeVal t d ≤ t.ordVal t.maxFin := by
  obtain ⟨b, j, hj, -, hv⟩ := exists_mag ht hd
  have h1 := t.ordVal_nonneg j
  have h2 := t.ordVal_strictMono.monotone hj
  rw [hv]
  cases b <;> simp only [signOf, if_true, Bool.false_eq_true, if_false] <;> linarith

/-- A magnitude is that of one value only. -/
theorem mag_unique {a b : Bool} {v w : Rat} (hv : 0 ≤ v) (hw : 0 ≤ w) (h : signOf a * v = signOf b * w) : v = w := by
  rw [← abs_signOf_mul a hv, h, abs_signOf_mul b hw]

/-! ### Powers of two -/

/-- R97: every power of two from 1 on stands among the places. -/
theorem exists_pow (ht : t ∈ fiveFloats) (n : Nat) : ∃ j, t.ordVal j = (2 : Rat) ^ (n : Int) := by
  have hb : 1 ≤ t.fmt.bias := by
    simp only [fiveFloats, List.mem_cons, List.not_mem_nil, or_false] at ht
    rcases ht with rfl | rfl | rfl | rfl | rfl <;> decide
  refine ⟨(n + t.fmt.bias - 1) * 2 ^ t.fmt.mb + 2 ^ t.fmt.mb, ?_⟩
  rw [t.ordVal_eq (.inr le_rfl) (Nat.pow_le_pow_right (by decide) (Nat.le_succ _)), Nat.cast_pow, ← zpow_natCast, Nat.cast_ofNat, ← two_zpow_add]
  congr 1
  rw [Ty.emin]
  omega

theorem maxFin_small (ht : t ∈ fiveFloats) : t.ordVal t.maxFin < (2 : Rat) ^ ((5000 : Nat) : Int) := by
  have hsmall : t.ordVal t.maxFin < (2 : Rat) ^ (128 : Int) := by
    simp only [fiveFloats, List.mem_cons, List.not_mem_nil, or_false] at ht
    rcases ht with rfl | rfl | rfl | rfl | rfl <;> norm_num [Ty.ordVal, Ty.maxFin, Ty.fmt, Ty.emin, zpow_neg]
  exact hsmall.trans_le (zpow_le_zpow_right₀ (by norm_num) (by norm_num))

/-- R100: a power of two beyond the type overflows whichever of the two values is taken. -/
theorem faithful_overflow (ht : t ∈ fiveFloats) (hn : t.ordVal t.maxFin < (2 : Rat) ^ (n : Int)) :
    faithfulRound t rnd sat away (.fin false 1 n) = if rnd = 0 ∨ rnd = 2 then infCode t sat false else t.maxFin := by
  have hmono := t.ordVal_strictMono
  obtain ⟨j, hj⟩ := exists_pow ht n
  have hr := rounds_place (neg := false) (dir := if away then 2 else 1) (e := n) (format_of_five ht) (by cases away <;> simp) Nat.one_ne_zero
    (Cut.rat _) (Near.refl _ _)
  rw [Nat.cast_one, one_mul, ← hj] at hr
  rw [← hj, hmono.lt_iff_lt] at hn
  have hplace := rounds_exact (by cases away <;> simp) hr
  have hround : faithfulRound t rnd sat away (.fin false 1 n) = delivery t rnd sat false j :=
    (roundDir_fin (format_of_five ht) Nat.one_ne_zero _ rnd sat false n).trans (congrArg (delivery t rnd sat false) hplace)
  rw [hround, delivery, if_neg (not_le.mpr hn)]
  simp only [and_true, Bool.false_eq_true, and_false, or_false]
  rfl

/-- A whole power of two: the model's value is exact, but for one far beyond every type. -/
theorem exp2_whole (hk : ratOf (.fin neg m e) = k) : (XNum.fin neg m e).exp2 = .fin false 1 k ∨
    (5000 ≤ k ∧ (XNum.fin neg m e).exp2 = .fin false 1 5000) ∨ (k ≤ -5000 ∧ (XNum.fin neg m e).exp2 = .fin false 1 (-5000)) := by
  by_cases hm : m = 0
  · subst hm
    rw [ratOf_zero_iff.mpr rfl] at hk
    obtain rfl : k = 0 := by exact_mod_cast hk.symm
    exact .inl rfl
  by_cases hbig : 20 < (m.log2 : Int) + e
  · have hge : (5000 : Rat) ≤ m * (2 : Rat) ^ e := by
      refine le_trans ?_ (two_pow_log2_le hm)
      have h20 : (2 : Rat) ^ (20 : Int) ≤ (2 : Rat) ^ ((m.log2 : Int) + e) := zpow_le_zpow_right₀ (by norm_num) hbig.le
      norm_num at h20
      linarith
    have hexp : (XNum.fin neg m e).exp2 = if neg then .fin false 1 (-5000) else .fin false 1 5000 := by rw [XNum.exp2, if_neg hm, if_pos hbig]
    rw [ratOf_fin] at hk
    cases neg with
    | false =>
      rw [show signOf false = 1 from rfl, one_mul] at hk
      exact .inr (.inl ⟨by exact_mod_cast hk ▸ hge, hexp⟩)
    | true =>
      rw [show signOf true = -1 from rfl, neg_one_mul] at hk
      refine .inr (.inr ⟨?_, hexp⟩)
      have : (k : Rat) ≤ -5000 := by linarith
      exact_mod_cast this
  · refine .inl ?_
    have hsv : ∀ s : Nat, (s : Rat) = m * (2 : Rat) ^ e → k = if neg then -(s : Int) else s := by
      intro s hs
      rw [ratOf_fin, ← hs] at hk
      cases neg <;> simp only [signOf, if_true, Bool.false_eq_true, if_false] at hk ⊢
      · have : ((s : Int) : Rat) = k := by push_cast; linarith
        exact_mod_cast this.symm
      · have : ((-(s : Int) : Int) : Rat) = k := by push_cast; linarith
        exact_mod_cast this.symm
    by_cases he : 0 ≤ e
    · obtain ⟨s, rfl⟩ := Int.eq_ofNat_of_zero_le he
      have hv := hsv (m * 2 ^ s) (by push_cast; rfl)
      rw [XNum.exp2, if_neg hm, if_neg hbig, if_pos he, hv]
      simp only [Int.toNat_natCast, if_neg (not_lt.mpr he)]
    · obtain ⟨s, hs⟩ := Int.eq_ofNat_of_zero_le (show 0 ≤ -e by omega)
      obtain rfl : e = -(s : Int) := by omega
      have hsv' : (if neg then -(m : Int) else m) = k * ((2 ^ s : Nat) : Int) := by
        have h2 : (2 : Rat) ^ s ≠ 0 := by positivity
        rw [ratOf_fin, zpow_neg, zpow_natCast] at hk
        have : (((if neg then -(m : Int) else m) : Int) : Rat) = k * (2 : Rat) ^ s := by
          rw [← hk]
          cases neg <;> simp [signOf, h2]
        exact_mod_cast this
      have hpos : ((2 ^ s : Nat) : Int) ≠ 0 := by positivity
      rw [XNum.exp2, if_neg hm, if_neg hbig]
      simp only [neg_neg, Int.toNat_natCast, hsv', Int.mul_ediv_cancel _ hpos, Int.mul_emod_left, Int.toNat_zero, if_true]
      rw [if_neg he]

/-- Below every value of the type but zero all powers of two compare alike. -/
theorem near_tiny (ht : t ∈ fiveFloats) (hn : 5000 ≤ n) : Near ((2 : Rat) ^ (-(n : Int))) ((1 : Nat) * (2 : Rat) ^ (-5000 : Int))
    ((2 : Rat) ^ (t.quantum 1 (-5000) - 1)) := by
  have hq : -4999 ≤ t.quantum 1 (-5000) - 1 := by
    refine le_trans ?_ (sub_le_sub_right (le_max_right _ _) 1)
    simp only [fiveFloats, List.mem_cons, List.not_mem_nil, or_false] at ht
    rcases ht with rfl | rfl | rfl | rfl | rfl <;> decide
  have hu : (2 : Rat) ^ (-5000 : Int) < (2 : Rat) ^ (t.quantum 1 (-5000) - 1) := zpow_lt_zpow_right₀ (by norm_num) (by omega)
  have hnu : (2 : Rat) ^ (-(n : Int)) ≤ (2 : Rat) ^ (-5000 : Int) := zpow_le_zpow_right₀ (by norm_num) (by omega)
  have hn0 := two_zpow_pos (-(n : Int))
  intro j
  rw [Nat.cast_one, one_mul]
  cases j with
  | zero =>
    rw [Nat.cast_zero, zero_mul]
    exact ⟨iff_of_true hn0.le (hn0.le.trans hnu), iff_of_false (not_le.mpr hn0) (not_le.mpr (hn0.trans_le hnu))⟩
  | succ j =>
    have hj : (2 : Rat) ^ (t.quantum 1 (-5000) - 1) ≤ ((j + 1 : Nat) : Rat) * (2 : Rat) ^ (t.quantum 1 (-5000) - 1) := by
      refine le_mul_of_one_le_left (two_zpow_pos _).le ?_
      push_cast
      linarith [(Nat.cast_nonneg j : (0 : Rat) ≤ j)]
    exact ⟨iff_of_false (by linarith) (by linarith), iff_of_true (by linarith) (by linarith)⟩

/-- R102: 2^a. -/
theorem exp2_rule (ht : t ∈ fiveFloats) (away : Bool) (x : XNum) :
    allRules [nanRule, exp2Rule] t rnd sat [x] (faithfulRound t rnd sat away x.exp2) := by
  refine List.forall_mem_cons.mpr ⟨fun hn => ?_, List.forall_mem_singleton.mpr ?_⟩
  · rw [← List.mem_singleton.mp hn]
    rfl
  cases x with
  | nan => trivial
  | inf neg => cases neg <;> [exact faithfulRound_inf ht rnd sat away false; rfl]
  | fin neg m e =>
    intro n
    have hcast : ((2 ^ n : Nat) : Rat) = (2 : Rat) ^ (n : Int) := by push_cast; rfl
    refine ⟨fun hk => ?_, fun hk => ?_⟩
    · rw [codeVal_maxFin (format_of_five ht), hcast]
      have hwhole := exp2_whole (k := (n : Int)) (by exact_mod_cast hk)
      rcases hwhole with h | ⟨hbig, h⟩ | ⟨hbig, -⟩
      · rw [h]
        refine ⟨fun hlt => faithful_overflow ht hlt, fun d hd hv => ?_⟩
        obtain ⟨b, j, hj, rfl, hv'⟩ := exists_mag ht hd
        have hb : b = false := by
          rcases b with _ | _
          · rfl
          · rw [hv', show signOf true = -1 from rfl, neg_one_mul] at hv
            linarith [two_zpow_pos (n : Int), t.ordVal_nonneg j]
        subst hb
        exact roundDir_exact ht (by cases away <;> simp) Nat.one_ne_zero hj (by rw [← hv, hv', Nat.cast_one, one_mul]; exact (one_mul _).symm)
      · have hpow : (2 : Rat) ^ ((5000 : Nat) : Int) ≤ (2 : Rat) ^ (n : Int) := zpow_le_zpow_right₀ (by norm_num) hbig
        rw [h]
        refine ⟨fun _ => faithful_overflow ht (n := 5000) (maxFin_small ht), fun d hd hv => ?_⟩
        linarith [codeVal_le ht hd, maxFin_small ht]
      · omega
    · have hle : (fun q : Rat => q * ((2 ^ n : Nat) : Rat) ≤ 1) = fun q => q ≤ (2 : Rat) ^ (-(n : Int)) := by
        funext q
        rw [hcast, zpow_neg, ← one_div, le_div_iff₀ (two_zpow_pos n)]
      have hge : (fun q : Rat => 1 ≤ q * ((2 ^ n : Nat) : Rat)) = fun q => (2 : Rat) ^ (-(n : Int)) ≤ q := by
        funext q
        rw [hcast, zpow_neg, ← one_div, div_le_iff₀ (two_zpow_pos n)]
      rw [hle, hge]
      have hwhole := exp2_whole (k := -(n : Int)) (by rw [hk]; push_cast; rfl)
      rcases hwhole with h | ⟨hbig, -⟩ | ⟨hbig, h⟩
      · rw [h]
        exact faithful_round ht Nat.one_ne_zero rnd sat away (Cut.rat _) (by rw [Nat.cast_one, one_mul]; exact Near.refl _ _)
      · omega
      · rw [h]
        exact faithful_round ht Nat.one_ne_zero rnd sat away (Cut.rat _) (near_tiny ht (by omega))

/-! ### Logarithms -/

/-- R102: a result that is an integer of the type is exact. -/
theorem faithful_int (ht : t ∈ fiveFloats) {d : Nat} (hd : finCode t d) (hv : codeVal t d = k) :
    finCode t (faithfulRound t rnd sat away (.ofInt k)) ∧ codeVal t (faithfulRound t rnd sat away (.ofInt k)) = k := by
  have h := format_of_five ht
  obtain ⟨b, j, hj, -, hv'⟩ := exists_mag ht hd
  have habs : ((k.natAbs : Nat) : Rat) * (2 : Rat) ^ (0 : Int) = t.ordVal j := by
    refine mag_unique (a := decide (k < 0)) (b := b) (mag_nonneg _ _) (t.ordVal_nonneg j) ?_
    rw [← ratOf_fin, ratOf_int, ← hv', hv, zpow_zero, mul_one]
  have hcode : faithfulRound t rnd sat away (.ofInt k) = signed t (decide (k < 0)) j := by
    by_cases h0 : k = 0
    · subst h0
      have hj0 : j = 0 := t.ordVal_strictMono.injective (by rw [← habs, t.ordVal_zero]; simp)
      subst hj0
      exact (roundDir_zero h (if away then 2 else 1) rnd sat false 0).trans (if_pos (Nat.zero_le _))
    · exact roundDir_exact ht (by cases away <;> cases decide (k < 0) <;> simp) (by simpa using h0) hj habs.symm
  obtain ⟨-, hval, -⟩ := floatOf_signed h (decide (k < 0)) hj
  rw [hcode]
  refine ⟨finCode_signed h _ hj, hval.trans ?_⟩
  rw [← habs, ← ratOf_fin, ratOf_int, zpow_zero, mul_one]

/-- R102: the logarithm of a power of two. -/
theorem log2_pow (hk : ratOf (.fin false m e) = (2 : Rat) ^ k) : XNum.log2 (.fin false m e) = .ofInt k := by
  have hm : m ≠ 0 := fun h0 => (two_zpow_pos k).ne' (hk.symm.trans (ratOf_zero_iff.mpr h0))
  rw [ratOf_fin, show signOf false = 1 from rfl, one_mul] at hk
  have hlo := two_pow_log2_le (e := e) hm
  have hhi := lt_two_pow_log2 (m := m) (e := e)
  rw [hk] at hlo hhi
  have h1 := (zpow_le_zpow_iff_right₀ (by norm_num : (1 : Rat) < 2)).mp hlo
  have h2 := (zpow_lt_zpow_iff_right₀ (by norm_num : (1 : Rat) < 2)).mp hhi
  obtain rfl : k = m.log2 + e := by omega
  have hpow : m = 2 ^ m.log2 := by
    rw [two_zpow_add, zpow_natCast] at hk
    exact_mod_cast mul_right_cancel₀ (two_zpow_pos e).ne' hk
  simp only [XNum.log2, if_neg hm, Bool.false_eq_true, if_false]
  exact if_pos hpow

/-- R102: log2 a. -/
theorem log2_rule (ht : t ∈ fiveFloats) (away : Bool) (x : XNum) :
    allRules [nanRule, log2Rule] t rnd sat [x] (faithfulRound t rnd sat away x.log2) := by
  refine List.forall_mem_cons.mpr ⟨fun hn => ?_, List.forall_mem_singleton.mpr ?_⟩
  · rw [← List.mem_singleton.mp hn]
    rfl
  cases x with
  | nan => trivial
  | inf neg => cases neg <;> [exact faithfulRound_inf ht rnd sat away false; rfl]
  | fin neg m e =>
    cases m with
    | zero => exact faithfulRound_inf ht rnd sat away true
    | succ m =>
      cases neg with
      | true => rfl
      | false =>
        intro n d hd
        refine ⟨fun hx hv => ?_, fun hx hv => ?_⟩
        · rw [log2_pow (k := n) (by rw [hx]; push_cast; rfl)]
          have := faithful_int (rnd := rnd) (sat := sat) (away := away) ht (k := n) hd (by exact_mod_cast hv)
          exact_mod_cast this
        · have hinv : ratOf (.fin false (m + 1) e) = (2 : Rat) ^ (-(n : Int)) := by
            rw [zpow_neg, zpow_natCast]
            exact eq_inv_of_mul_eq_one_left (by exact_mod_cast hx)
          rw [log2_pow hinv]
          have := faithful_int (rnd := rnd) (sat := sat) (away := away) ht (k := -(n : Int)) hd (by rw [hv]; push_cast; rfl)
          rw [this.2]
          exact ⟨this.1, by push_cast; rfl⟩

/-! ### Integral values -/

theorem floor_eq {q : Rat} (hlo : (k : Rat) ≤ q) (hhi : q < k + 1) : q.floor = k := Int.floor_eq_iff.mpr ⟨hlo, hhi⟩

theorem nearestInt_int (k : Int) : nearestInt k = k := by
  have hf : (k : Rat).floor = k := floor_eq le_rfl (by linarith)
  simp only [nearestInt, hf, sub_self]
  norm_num

/-- R102: between K and K + 1 the nearest integer. -/
theorem nearestInt_eq {K : Nat} {x : Rat} (hlo : (K : Rat) ≤ x) (hhi : x < K + 1) :
    nearestInt x = (if K + 1 / 2 < x ∨ x = K + 1 / 2 ∧ K % 2 = 1 then K + 1 else K : Nat) := by
  have hf : x.floor = (K : Int) := floor_eq (by exact_mod_cast hlo) (by exact_mod_cast hhi)
  simp only [nearestInt, hf, Int.cast_natCast]
  rcases lt_trichotomy x (K + 1 / 2) with h | h | h
  · rw [if_pos (by linarith), if_neg (by rintro (h' | ⟨h', -⟩) <;> linarith)]
  · rw [if_neg (by linarith), if_neg (by linarith)]
    by_cases hK : K % 2 = 1
    · rw [if_neg (by omega), if_pos (.inr ⟨h, hK⟩)]
      rfl
    · rw [if_pos (by omega), if_neg (by rintro (h' | ⟨-, h'⟩) <;> [linarith; exact hK h'])]
  · rw [if_neg (by linarith), if_pos (by linarith), if_pos (.inl h)]
    push_cast
    rfl

theorem nearestInt_neg_eq {K : Nat} {x : Rat} (hlo : (K : Rat) ≤ x) (hhi : x < K + 1) :
    nearestInt (-x) = -(if K + 1 / 2 < x ∨ x = K + 1 / 2 ∧ K % 2 = 1 then K + 1 else K : Nat) := by
  rcases hlo.eq_or_lt with rfl | hlt
  · rw [show (-(K : Rat)) = ((-(K : Int) : Int) : Rat) by push_cast; rfl, nearestInt_int, if_neg (by rintro (h' | ⟨h', -⟩) <;> linarith)]
  · have hf : (-x).floor = -(K : Int) - 1 := floor_eq (by push_cast; linarith) (by push_cast; linarith)
    simp only [nearestInt, hf]
    push_cast
    rcases lt_trichotomy x (K + 1 / 2) with h | h | h
    · rw [if_neg (by linarith), if_pos (by linarith), if_neg (by rintro (h' | ⟨h', -⟩) <;> linarith)]
      ring
    · rw [if_neg (by linarith), if_neg (by linarith)]
      by_cases hK : K % 2 = 1
      · rw [if_pos (by omega), if_pos (.inr ⟨h, hK⟩)]
        ring
      · rw [if_neg (by omega), if_neg (by rintro (h' | ⟨-, h'⟩) <;> [linarith; exact hK h'])]
        ring
    · rw [if_pos (by linarith), if_pos (.inl h)]
      ring

/-- R102: the integer that each mode of rounding takes. -/
def wholeOf (rnd : Nat) : Rat → Int := match rnd with | 3 => Rat.floor | 2 => Rat.ceil | _ => nearestInt

theorem wholeOf_int (rnd : Nat) (k : Int) : wholeOf rnd k = k := by
  unfold wholeOf
  split
  · exact floor_eq le_rfl (by linarith)
  · exact Rat.ceil_intCast k
  · exact nearestInt_int k

theorem ceil_eq {K : Nat} {x : Rat} (hlo : (K : Rat) ≤ x) (hhi : x < K + 1) : x.ceil = (if (K : Rat) < x then K + 1 else K : Nat) := by
  rw [Rat.ceil_eq_neg_floor_neg, neg_eq_iff_eq_neg]
  split
  next h => exact floor_eq (by push_cast; linarith) (by push_cast; linarith)
  next h => exact floor_eq (by push_cast; linarith) (by push_cast; linarith)

/-- R102: a magnitude over 1, rounded in a mode, is the integer that the mode takes. -/
theorem wholeOf_scaleTo (hrnd : rnd = 0 ∨ rnd = 2 ∨ rnd = 3) (neg : Bool) (m : Nat) (e : Int) :
    (wholeOf rnd (ratOf (.fin neg m e)) : Rat) = signOf neg * scaleTo rnd neg m e 0 := by
  obtain ⟨K, hlo, hhi, hup, hdn⟩ := scaleTo_spec (show rnd < 4 by omega) neg m e 0
  rw [zpow_zero, mul_one] at hlo hhi
  have hs {p : Prop} [Decidable p] (hp : GoesUp rnd neg K (m * (2 : Rat) ^ e) ((2 : Rat) ^ (0 : Int)) ↔ p) :
      scaleTo rnd neg m e 0 = if p then K + 1 else K := by
    split
    next h => exact hup (hp.mpr h)
    next h => exact hdn (mt hp.mp h)
  rw [ratOf_fin]
  generalize (m : Rat) * (2 : Rat) ^ e = x at *
  simp only [GoesUp, zpow_zero, mul_one] at hs
  have hneg (y : Rat) : signOf true * y = -y := neg_one_mul y
  have hpos (y : Rat) : signOf false * y = y := one_mul y
  have hfloorneg : (-x).floor = -x.ceil := by rw [Rat.ceil_eq_neg_floor_neg, neg_neg]
  have hceilneg : (-x).ceil = -x.floor := by rw [Rat.ceil_eq_neg_floor_neg, neg_neg]
  have hfloor : x.floor = (K : Int) := floor_eq (by exact_mod_cast hlo) (by exact_mod_cast hhi)
  have hnear (y : Rat) : wholeOf 0 y = nearestInt y := rfl
  rcases hrnd with rfl | rfl | rfl
  · rw [hs (p := K + 1 / 2 < x ∨ x = K + 1 / 2 ∧ K % 2 = 1) (by simp)]
    cases neg
    · rw [hpos, hpos, hnear, nearestInt_eq hlo hhi, Int.cast_natCast]
    · rw [hneg, hneg, hnear, nearestInt_neg_eq hlo hhi, Int.cast_neg, Int.cast_natCast]
  · cases neg
    · rw [hs (p := (K : Rat) < x) (by simp), hpos, hpos, wholeOf, ceil_eq hlo hhi, Int.cast_natCast]
    · rw [hs (p := False) (by simp), if_neg id, hneg, hneg, wholeOf, hceilneg, hfloor, Int.cast_neg, Int.cast_natCast]
  · cases neg
    · rw [hs (p := False) (by simp), if_neg id, hpos, hpos, wholeOf, hfloor, Int.cast_natCast]
    · rw [hs (p := (K : Rat) < x) (by simp), hneg, hneg, wholeOf, hfloorneg, ceil_eq hlo hhi, Int.cast_neg, Int.cast_natCast]

/-- R102: rounding to an integral value. -/
theorem exact_integral (hrnd : rnd = 0 ∨ rnd = 2 ∨ rnd = 3) (hx : isFin x = true) : Exact (x.integral rnd) ((wholeOf rnd (ratOf x) : Rat), sgn x) := by
  obtain ⟨neg, m, e, rfl⟩ := isFin_iff.mp hx
  by_cases he : 0 ≤ e
  · rw [XNum.integral, if_pos he]
    obtain ⟨s, rfl⟩ := Int.eq_ofNat_of_zero_le he
    have hint : ratOf (.fin neg m s) = (((if neg then -1 else 1) * (m * 2 ^ s : Nat) : Int) : Rat) := by
      rw [ratOf_fin, zpow_natCast, signOf]
      cases neg <;> simp
    refine ⟨rfl, ?_, fun _ => rfl⟩
    rw [hint, wholeOf_int]
  · rw [XNum.integral, if_neg he]
    refine ⟨rfl, ?_, fun _ => rfl⟩
    rw [ratOf_fin, zpow_zero, mul_one]
    exact (wholeOf_scaleTo hrnd neg m e).symm

theorem integral_rule {mode : Nat} (ht : t ∈ fiveFloats) (hrnd : rnd < 4) (hmode : mode = 0 ∨ mode = 2 ∨ mode = 3) (x : XNum) :
    wholeRule (wholeOf mode) t rnd sat [x] (roundFloat t rnd sat (x.integral mode)) := by
  refine List.forall_mem_cons.mpr ⟨fun hn => ?_, List.forall_mem_cons.mpr ⟨?_, List.forall_mem_singleton.mpr fun hall => ?_⟩⟩
  · rw [← List.mem_singleton.mp hn]
    rfl
  · cases x with
    | inf a => exact roundFloat_inf ht rnd sat a
    | nan | fin => trivial
  · exact (exact_integral hmode (List.all_eq_true.mp hall x List.mem_cons_self)).fits ht hrnd sat

end Sys2Proof.Machine
end

/-! ## O5: what each float form writes (R226, R227, R229, R231) -/
section
namespace Sys2Proof.Machine
open Sys2Proof.Claims

variable {s : State} {i : Instr} {f : Claims.Form} {t : Ty} {r : FRule} {rnd n : Nat} {sat : Bool} {l : List LVal}

/-! ### The type of a float form (R55, R97) -/

theorem mem_five (hf : t.isFloat = true) (h1 : t ≠ .i4x) (h2 : t ≠ .e8m0) : t ∈ fiveFloats := by
  cases t <;> first | exact absurd rfl h1 | exact absurd rfl h2 | decide | exact absurd hf (by decide)

theorem opType_cases (d : View) (srcs : List View) : opType d srcs = .n32 ∨ ∃ v ∈ d :: srcs, opType d srcs = v.ty := by
  unfold opType
  split
  next => exact .inr ⟨d, List.mem_cons_self, rfl⟩
  next =>
    cases hv : srcs.find? fun v => v.ty != .b with
    | none => exact .inl rfl
    | some v => exact .inr ⟨v, List.mem_cons_of_mem _ (List.mem_of_find?_eq_some hv), rfl⟩

/-- R55, R258: where no view mismatches no view of an instruction that admits no `i4x` or `e8m0` has such a type. -/
theorem ty_of_mismatch {cls : Cls} {op : Ty} {d v : View} {srcs : List View} (h : mismatch cls .none op d srcs = []) (hv : v ∈ d :: srcs) :
    v.ty ≠ .i4x ∧ v.ty ≠ .e8m0 := by
  obtain ⟨k, hk, hget⟩ := List.getElem_of_mem hv
  have hzip : (v, k) ∈ List.zip (d :: srcs) (List.range (srcs.length + 1)) := by
    refine List.mem_of_getElem (i := k) (h := by simpa using hk) ?_
    rw [List.getElem_zip, hget, List.getElem_range]
  by_contra hc
  have hbad : v.ty = .i4x ∨ v.ty = .e8m0 := by
    by_contra hn
    exact hc ⟨fun h => hn (.inl h), fun h => hn (.inr h)⟩
  unfold mismatch at h
  dsimp only at h
  split at h
  next hmap =>
    rw [List.map_eq_nil_iff, List.filter_eq_nil_iff] at hmap
    exact hmap _ hzip (by rcases hbad with hb | hb <;> simp [hb])
  next hl => exact hl h

/-- R97: the type of a float form that nothing stops is one of the five. -/
theorem five_of_ready (h : FormReady s f) (hodd : f.x.odd = .none) (hf : (arithTy f.d f.srcs s).isFloat = true) :
    arithTy f.d f.srcs s ∈ fiveFloats := by
  have hm : mismatch f.sem.cls f.x.odd (arithTy f.d f.srcs s) (s.view f.d) (srcViews f.srcs s) = [] := h.mism
  rw [hodd] at hm
  rcases opType_cases (s.view f.d) (srcViews f.srcs s) with h32 | ⟨v, hv, hty⟩
  · rw [show arithTy f.d f.srcs s = .n32 from h32] at hf
    cases hf
  · obtain ⟨h1, h2⟩ := ty_of_mismatch hm hv
    rw [← hty] at h1 h2
    exact mem_five hf h1 h2

/-! ### What each operation gives -/

/-- An operation that on the five types gives a lane of n sources what a rule says. -/
def Gives (m : Sem) (r : FRule) (n : Nat) : Prop :=
  ∀ t ∈ fiveFloats, ∀ rnd < 4, ∀ sat l, l.length = n → ∀ c, m.f t rnd sat l = .ok c → r t rnd sat (l.map LVal.num') c

theorem isFloat_of_five (ht : t ∈ fiveFloats) : t.isFloat = true := by
  simp only [fiveFloats, List.mem_cons, List.not_mem_nil, or_false] at ht
  rcases ht with rfl | rfl | rfl | rfl | rfl <;> rfl

/-- R99: an operation on exact numbers, rounded once. -/
theorem gives_of_float {m : Sem} {g : Nat → List XNum → XNum}
    (hm : ∀ t, t ∈ fiveFloats → ∀ rnd sat l, m.f t rnd sat l = .ok (roundFloat t rnd sat (g rnd (l.map LVal.num'))))
    (hr : ∀ t ∈ fiveFloats, ∀ rnd < 4, ∀ sat l, l.length = n → r t rnd sat l (roundFloat t rnd sat (g rnd l))) : Gives m r n := by
  intro t ht rnd hrnd sat l hl c hc
  rw [hm t ht] at hc
  obtain rfl := LOut.ok.inj hc
  exact hr t ht rnd hrnd sat _ ((List.length_map _).trans hl)

theorem anySem_float {gi : List Int → Int} {gf : Nat → List XNum → XNum} (ht : t ∈ fiveFloats) (rnd : Nat) (sat : Bool) (l : List LVal) :
    (anySem gi gf).f t rnd sat l = .ok (roundFloat t rnd sat (gf rnd (l.map LVal.num'))) := if_pos (isFloat_of_five ht)

theorem gives_any {gi : List Int → Int} {gf : Nat → List XNum → XNum}
    (hr : ∀ t ∈ fiveFloats, ∀ rnd < 4, ∀ sat l, l.length = n → r t rnd sat l (roundFloat t rnd sat (gf rnd l))) : Gives (anySem gi gf) r n :=
  gives_of_float (fun _ ht => anySem_float ht) hr

/-- An operation of one source, of two, of three. -/
theorem one_source {P : List XNum → Prop} (h : ∀ x, P [x]) (l : List XNum) (hl : l.length = 1) : P l := by
  obtain ⟨x, rfl⟩ := List.length_eq_one_iff.mp hl
  exact h x

theorem two_sources {P : List XNum → Prop} (h : ∀ x y, P [x, y]) (l : List XNum) (hl : l.length = 2) : P l := by
  obtain ⟨x, y, rfl⟩ := List.length_eq_two.mp hl
  exact h x y

theorem three_sources {P : List XNum → Prop} (h : ∀ x y z, P [x, y, z]) (l : List XNum) (hl : l.length = 3) : P l := by
  obtain ⟨x, y, z, rfl⟩ := List.length_eq_three.mp hl
  exact h x y z

theorem gives_add : Gives semAdd (sumRule false false) 2 :=
  gives_any fun _ ht _ hrnd _ => two_sources fun x y => sum_rule ht hrnd false false x y

theorem gives_sub : Gives semSub (sumRule false true) 2 :=
  gives_any fun _ ht _ hrnd _ => two_sources fun x y => sum_rule ht hrnd false true x y

theorem plus_comm (r : Nat) (v w : Signed) : plus r v w = plus r w v := by
  obtain ⟨v, a⟩ := v
  obtain ⟨w, b⟩ := w
  simp only [plus, add_comm v w, Prod.mk.injEq, true_and]
  cases a <;> cases b <;> rfl

/-- R99: a sum does not tell the order of its terms. -/
theorem sumRule_swap {k0 k1 : Bool} {x y : XNum} {c : Nat} (h : sumRule k1 k0 t rnd sat [y, x] c) : sumRule k0 k1 t rnd sat [x, y] c := by
  obtain ⟨hnan, hrest⟩ := List.forall_mem_cons.mp h
  obtain ⟨hinf, hrest⟩ := List.forall_mem_cons.mp hrest
  refine List.forall_mem_cons.mpr ⟨fun hn => hnan ?_, List.forall_mem_cons.mpr ⟨?_, List.forall_mem_singleton.mpr fun hall => ?_⟩⟩
  · simpa [or_comm] using hn
  · cases x with
    | nan => trivial
    | fin => cases y <;> trivial
    | inf a =>
      cases y with
      | nan => trivial
      | fin => exact hinf
      | inf b =>
        simp only [infSum] at hinf ⊢
        by_cases hab : (a != k0) = (b != k1)
        · rw [if_pos hab.symm] at hinf
          rw [if_pos hab, hab]
          exact hinf
        · rw [if_neg (Ne.symm hab)] at hinf
          rw [if_neg hab]
          exact hinf
  · obtain ⟨hx, hy⟩ := isFin_two hall
    have he := List.forall_mem_singleton.mp hrest (by simp [hx, hy])
    simp only [List.map_cons, List.map_nil, src, List.getD_cons_zero, List.getD_cons_succ] at he ⊢
    rw [plus_comm]
    exact he

theorem gives_rsub : Gives semRsub (sumRule true false) 2 :=
  gives_any fun _ ht _ hrnd _ => two_sources fun x y => sumRule_swap (sum_rule ht hrnd false true y x)

theorem gives_saturating {m : Sem} (h : Gives m r n) : Gives ⟨.any, fun op rnd _ l => m.f op rnd true l⟩ (saturating r) n :=
  fun t ht rnd hrnd _ l hl c hc => h t ht rnd hrnd true l hl c hc

theorem gives_mul : Gives semMul (allRules [nanRule, infProduct, exactly fun _ l => times (src l 0) (src l 1)]) 2 :=
  gives_any fun _ ht _ hrnd _ => two_sources fun x y => mul_rule ht hrnd x y

theorem gives_div : Gives semDiv (allRules [nanRule, quotRule]) 2 :=
  gives_of_float (g := fun _ l => (n1 l).div (n2 l)) (fun _ ht _ _ _ => if_pos (isFloat_of_five ht)) fun _ ht _ hrnd _ =>
    two_sources fun x y => div_rule ht hrnd x y

theorem gives_rem : Gives semRem (allRules [nanRule, remRule]) 2 :=
  gives_of_float (g := fun _ l => (n1 l).rem (n2 l)) (fun _ ht _ _ _ => if_pos (isFloat_of_five ht)) fun _ ht _ hrnd _ =>
    two_sources fun x y => rem_rule ht hrnd x y

theorem gives_min : Gives semMin (pickRule false) 2 :=
  gives_any fun _ ht _ hrnd _ => two_sources fun x y => pick_rule ht hrnd false x y

theorem gives_max : Gives semMax (pickRule true) 2 :=
  gives_any fun _ ht _ hrnd _ => two_sources fun x y => pick_rule ht hrnd true x y

theorem gives_clamp : Gives semClamp clampRule 3 :=
  gives_any fun _ ht _ hrnd _ => three_sources fun x y z => clamp_rule ht hrnd x y z

theorem gives_abs : Gives semAbs (allRules [nanRule, infUnary fun _ => false, exactly fun _ l => (|(src l 0).1|, false)]) 1 :=
  gives_any fun _ ht _ hrnd _ => one_source fun x => abs_rule ht hrnd x

theorem gives_neg : Gives semNeg (allRules [nanRule, infUnary not, exactly fun _ l => minus (src l 0)]) 1 :=
  gives_any fun _ ht _ hrnd _ => one_source fun x => neg_rule ht hrnd x

theorem gives_abd : Gives semAbd (allRules [nanRule, infDistance, exactly fun _ l => (|(src l 0).1 - (src l 1).1|, false)]) 2 :=
  gives_any fun _ ht _ hrnd _ => two_sources fun x y => abd_rule ht hrnd x y

theorem gives_avg : Gives semAvg (allRules [nanRule, infSum false false, exactly fun r l =>
    let p := plus r (src l 0) (src l 1); (p.1 / 2, p.2)]) 2 :=
  gives_any fun _ ht _ hrnd _ => two_sources fun x y => avg_rule ht hrnd x y

theorem gives_fused (kp kc : Bool) : Gives (semFused kp kc) (fusedRule kp kc) 3 :=
  gives_any fun _ ht _ hrnd _ => three_sources fun x y z => fused_rule ht hrnd kp kc x y z

/-- R227: an operation of the float class. -/
theorem gives_floatSem {g : XNum → XNum} (hr : ∀ t ∈ fiveFloats, ∀ rnd < 4, ∀ sat x, r t rnd sat [x] (roundFloat t rnd sat (g x))) :
    Gives (floatSem g) r 1 :=
  gives_of_float (g := fun _ l => g (n1 l)) (fun _ _ _ _ _ => rfl) fun t ht rnd hrnd sat => one_source fun x => hr t ht rnd hrnd sat x

/-- R102: a faithfully rounded operation. -/
theorem gives_faithful {code : Nat} {g : XNum → XNum}
    (hr : ∀ t ∈ fiveFloats, ∀ rnd sat away x, r t rnd sat [x] (faithfulRound t rnd sat away (g x))) : Gives (faithSem code g) r 1 := by
  intro t ht rnd _ sat l hl c hc
  obtain ⟨x, rfl⟩ := List.length_eq_one_iff.mp hl
  obtain rfl := LOut.ok.inj hc
  exact hr t ht rnd sat _ x.num'

/-! ### The forms -/

/-- R223: the lanes of a float form that nothing stops. -/
theorem float_form {g : Claims.Form} {q : FRule} (hf : form s i = some f) (hr : floatRule i = some r) (hg : form s i = some g) (hq : floatRule i = some q)
    (hfl : (arithTy f.d f.srcs s).isFloat = true) (h : FormReady s f) (hodd : g.x.odd = .none)
    (hgives : Gives g.sem q n) (hlen : ∀ k, (laneSrcs s g k).length = n) : ∃ v, Writes s i f v ∧ ∀ k, k < v.length →
      r (arithTy f.d f.srcs s) (s.view f.d).rnd (s.view f.d).sat ((laneSrcs s f k).map LVal.num') (v.getD k 0) := by
  obtain rfl := Option.some.inj (hg.symm.trans hf)
  obtain rfl := Option.some.inj (hq.symm.trans hr)
  exact exists_writes h hf fun k c hc => hgives _ (five_of_ready h hodd hfl) _ (Nat.mod_lt _ (by decide)) _ _ (hlen k) c hc

/-- Settles O5: each operation's rule, by the one rounding of its exact result. -/
theorem floatResultsAreRounded : Obligations.FloatResultsAreRounded := by
  intro s i f r hf hr hfl h
  cases i
  case addShort | add | addi => exact float_form hf hr rfl rfl hfl h rfl gives_add fun _ => rfl
  case subShort | sub => exact float_form hf hr rfl rfl hfl h rfl gives_sub fun _ => rfl
  case rsubShort | rsub => exact float_form hf hr rfl rfl hfl h rfl gives_rsub fun _ => rfl
  case adds => exact float_form hf hr rfl rfl hfl h rfl (gives_saturating gives_add) fun _ => rfl
  case subs => exact float_form hf hr rfl rfl hfl h rfl (gives_saturating gives_sub) fun _ => rfl
  case mulShort | mul => exact float_form hf hr rfl rfl hfl h rfl gives_mul fun _ => rfl
  case div => exact float_form hf hr rfl rfl hfl h rfl gives_div fun _ => rfl
  case rem => exact float_form hf hr rfl rfl hfl h rfl gives_rem fun _ => rfl
  case minShort | min => exact float_form hf hr rfl rfl hfl h rfl gives_min fun _ => rfl
  case maxShort | max => exact float_form hf hr rfl rfl hfl h rfl gives_max fun _ => rfl
  case clamp => exact float_form hf hr rfl rfl hfl h rfl gives_clamp fun _ => rfl
  case absShort | abs => exact float_form hf hr rfl rfl hfl h rfl gives_abs fun _ => rfl
  case negShort | neg => exact float_form hf hr rfl rfl hfl h rfl gives_neg fun _ => rfl
  case abd => exact float_form hf hr rfl rfl hfl h rfl gives_abd fun _ => rfl
  case avg => exact float_form hf hr rfl rfl hfl h rfl gives_avg fun _ => rfl
  case fma | fnma | fms | fnms => exact float_form hf hr rfl rfl hfl h rfl (gives_fused _ _) fun _ => rfl
  case rcp => exact float_form hf hr rfl rfl hfl h rfl (gives_floatSem fun _ ht _ hrnd _ x => rcp_rule ht hrnd x) fun _ => rfl
  case sqrt => exact float_form hf hr rfl rfl hfl h rfl (gives_floatSem fun _ ht _ hrnd _ x => sqrt_rule ht hrnd x) fun _ => rfl
  case rsq => exact float_form hf hr rfl rfl hfl h rfl (gives_faithful fun _ ht _ _ away x => rsq_rule ht away x) fun _ => rfl
  case exp2 => exact float_form hf hr rfl rfl hfl h rfl (gives_faithful fun _ ht _ _ away x => exp2_rule ht away x) fun _ => rfl
  case log2 => exact float_form hf hr rfl rfl hfl h rfl (gives_faithful fun _ ht _ _ away x => log2_rule ht away x) fun _ => rfl
  case floor => exact float_form hf hr rfl rfl hfl h rfl (gives_floatSem fun _ ht _ hrnd _ x => integral_rule (mode := 3) ht hrnd (by decide) x) fun _ => rfl
  case ceil => exact float_form hf hr rfl rfl hfl h rfl (gives_floatSem fun _ ht _ hrnd _ x => integral_rule (mode := 2) ht hrnd (by decide) x) fun _ => rfl
  case rndn => exact float_form hf hr rfl rfl hfl h rfl (gives_floatSem fun _ ht _ hrnd _ x => integral_rule (mode := 0) ht hrnd (by decide) x) fun _ => rfl
  all_goals cases hr

end Sys2Proof.Machine
end

/-! ## O36: a canonical memory, kept by every operation of the state -/
section
namespace Sys2Proof.Machine
open Sys2Proof.Claims

variable {s t : State}

/-- The memory of a state stands in its canonical form. -/
def Canon (s : State) : Prop := Memory.wf s.mem = true

/-- What an instruction comes to at issue keeps a canonical memory. -/
def VCanon (v : Verdict) : Prop :=
  match v with
  | .done s | .jump s _ | .stay s => Canon s
  | .trap _ | .wait _ _ _ => True

/-- What a request comes to keeps a canonical memory. -/
def SCanon (r : Sent) : Prop :=
  match r with
  | .ok s | .fail s _ => Canon s
  | .wait => True

/-- What an instruction or event ends in has a canonical memory. -/
def OCanon (o : Out) : Prop := ∀ t, o = .next t → Canon t

/-- A predicate of what an option holds. -/
def OnSome {α : Type} (P : α → Prop) (o : Option α) : Prop :=
  match o with
  | none => True
  | some a => P a

/-- A predicate of what a result that may be an error holds. -/
def OnOk {ε α : Type} (P : α → Prop) (r : Except ε α) : Prop :=
  match r with
  | .error _ => True
  | .ok a => P a

/-! ### Rules for the constructs of the model -/

theorem OnOk.of_eq {ε α : Type} {P : α → Prop} {r : Except ε α} {a : α} (h : OnOk P r) (ha : r = .ok a) : P a := by
  subst ha
  exact h

theorem Canon.of_mem (hm : t.mem = s.mem) (h : Canon s) : Canon t := by
  unfold Canon
  rwa [hm]

theorem Canon.put (h : Canon s) (a : Nat) (bs : List Byte) (hm : t.mem = memPuts s.mem a bs) : Canon t := by
  unfold Canon
  rw [hm]
  exact memPuts_wf h a bs

theorem Canon.put1 (h : Canon s) (a : Nat) (v : Byte) (hm : t.mem = memPut s.mem a v) : Canon t := by
  unfold Canon
  rw [hm]
  exact memPut_wf h a v

theorem memFilter_wf {m : List Host.Cell} (h : Memory.wf m = true) (f : Host.Cell → Bool) : Memory.wf (m.filter f) = true := by
  induction m with
  | nil => exact h
  | cons p m ih =>
    obtain ⟨hne, hlt, hm⟩ := Memory.wf_cons.mp h
    by_cases hp : f p = true
    · rw [List.filter_cons_of_pos hp]
      exact Memory.wf_cons.mpr ⟨hne, fun q hq => hlt q (List.mem_of_mem_filter hq), ih hm⟩
    · rw [List.filter_cons_of_neg hp]
      exact ih hm

theorem Canon.filter (h : Canon s) (f : Host.Cell → Bool) (hm : t.mem = s.mem.filter f) : Canon t := by
  unfold Canon
  rw [hm]
  exact memFilter_wf h f

theorem Canon.withHomes {l : SMap (List ObjReq)} (h : Canon s) : Canon { s with homes := l } := h

theorem OCanon.next (h : Canon s) : OCanon (.next s) := by
  rintro t ⟨⟩
  exact h

theorem on_ite {α : Sort _} {P : α → Prop} {c : Prop} [Decidable c] {a b : α} (ha : P a) (hb : P b) : P (if c then a else b) := by
  split
  · exact ha
  · exact hb

theorem OnSome.getD {α : Type} {P : α → Prop} {o : Option α} {a : α} (ho : OnSome P o) (h : P a) : P (o.getD a) := by
  cases o with
  | none => exact h
  | some t => exact ho

theorem OnSome.bind {α β : Type} {P : β → Prop} {o : Option α} {f : α → Option β} (h : ∀ a, o = some a → OnSome P (f a)) :
    OnSome P (o.bind f) := by
  cases o with
  | none => trivial
  | some a => exact h a rfl

theorem OnSome.map {α β : Type} {P : β → Prop} {o : Option α} {f : α → β} (h : ∀ a, o = some a → P (f a)) : OnSome P (o.map f) := by
  cases o with
  | none => trivial
  | some a => exact h a rfl

/-- What a function makes of an option that has a predicate. -/
theorem OnSome.chain {α β : Type} {P : β → Prop} {Q : α → Prop} {o : Option α} {f : α → Option β} (ho : OnSome Q o)
    (h : ∀ a, Q a → OnSome P (f a)) : OnSome P (o.bind f) := by
  cases o with
  | none => trivial
  | some a => exact h a ho

theorem OnSome.image {α β : Type} {P : β → Prop} {Q : α → Prop} {o : Option α} {f : α → β} (ho : OnSome Q o)
    (h : ∀ a, Q a → P (f a)) :
    OnSome P (o.map f) := by
  cases o with
  | none => trivial
  | some a => exact h a ho

theorem OnSome.orElse {α : Type} {P : α → Prop} {o : Option α} {f : Unit → Option α} (ho : OnSome P o) (hf : OnSome P (f ())) :
    OnSome P (o.orElse f) := by
  cases o with
  | none => exact hf
  | some a => exact ho

theorem OnSome.of_eq {α : Type} {P : α → Prop} {o : Option α} {a : α} (h : OnSome P o) (ha : o = some a) : P a := by
  subst ha
  exact h

theorem Canon.of_pair {α : Type} {p : α × State} {a : α} (h : Canon p.2) (hp : p = (a, t)) : Canon t := by
  subst hp
  exact h

theorem VCanon.of_eq {v w : Verdict} (h : VCanon v) (hv : v = w) : VCanon w := hv ▸ h

theorem SCanon.of_eq {r q : Sent} (h : SCanon r) (hr : r = q) : SCanon q := hr ▸ h

theorem Canon.foldl {α : Type} {f : State → α → State} (h : Canon s) (hf : ∀ t a, Canon t → Canon (f t a)) (l : List α) :
    Canon (l.foldl f s) := by
  induction l generalizing s with
  | nil => exact h
  | cons a l ih => exact ih (hf s a h)

/-- A request made of parts, each sent once the ones before it have gone. -/
theorem SCanon.foldParts {α : Type} {f : State → α → Sent} (hf : ∀ t a, Canon t → SCanon (f t a)) (l : List α) {r : Sent} (hr : SCanon r) :
    SCanon (l.foldl (fun r a => match r with | .ok t => f t a | r => r) r) := by
  induction l generalizing r with
  | nil => exact hr
  | cons a l ih =>
    refine ih ?_
    cases r with
    | ok t => exact hf t a hr
    | wait => trivial
    | fail t v => exact hr

end Sys2Proof.Machine
end

/-! ## O36: a canonical memory kept: what every instruction shares -/
section
namespace Sys2Proof.Machine
open Sys2Proof.Claims

variable {s t : State}

theorem Canon.updCtx {c f} (h : Canon s) : Canon (s.updCtx c f) :=
  .of_mem rfl h

theorem Canon.setCore {c x} (h : Canon s) : Canon (s.setCore c x) :=
  .of_mem rfl h

theorem Canon.updCore {c f} (h : Canon s) : Canon (s.updCore c f) :=
  h.setCore

theorem Canon.refill {c hi k} (h : Canon s) : Canon (s.refill c hi k) := by
  induction k generalizing s with
  | zero => exact h
  | succ k ih =>
    unfold State.refill
    split
    · exact h
    · split
      · exact h
      · exact ih h.updCtx.updCore

theorem Canon.fenceCtx {ctx} (h : Canon s) : Canon (s.fenceCtx ctx) := by
  unfold State.fenceCtx
  extract_lets _ r s1
  have hr : Canon r := h.updCtx
  have hs1 : Canon s1 := .of_mem rfl hr
  exact hs1.foldl (fun _ _ ht => ht.refill.refill) _

theorem Canon.logError {r} (h : Canon s) : Canon (s.logError r) := by
  refine .of_mem (s := s) ?_ h
  rw [State.logError]

theorem Canon.updDie {d f} (h : Canon s) : Canon (s.updDie d f) :=
  .of_mem rfl h

theorem Canon.violation {ctx a} (h : Canon s) : Canon (s.violation ctx a) :=
  h.updDie.logError.fenceCtx

theorem Canon.setBytes {a bs} (h : Canon s) : Canon (s.setBytes a bs) :=
  h.put _ _ rfl

theorem Canon.putFar {ctx va bs} (h : Canon s) : OnSome Canon (s.putFar ctx va bs) :=
  OnSome.map (fun _ _ => h.setBytes.setBytes)

theorem Canon.loseEntry {ctx} (h : Canon s) : Canon (s.loseEntry ctx) := by
  unfold State.loseEntry
  extract_lets s1 _
  have hs1 : Canon s1 := h.updCtx
  split
  · exact hs1
  · exact OnSome.getD hs1.putFar hs1

theorem Canon.mboxUnreachable {e} (h : Canon s) : Canon (s.mboxUnreachable e) :=
  on_ite h.loseEntry h.loseEntry.updCtx.logError

theorem Canon.writeEntry {ctx bs} (h : Canon s) : OnSome Canon (s.writeEntry ctx bs) :=
  OnSome.bind (fun _ _ => OnSome.chain h.putFar (fun _ ht => ht.putFar))

theorem Canon.setSlot {c k x} (h : Canon s) : Canon (s.setSlot c k x) :=
  h.setCore

theorem Canon.updSlot {c k f} (h : Canon s) : Canon (s.updSlot c k f) :=
  h.setSlot

theorem Canon.signalOn {c p} (h : Canon s) : Canon (s.signalOn c p) :=
  .of_mem rfl (h.foldl (fun _ _ ht => on_ite ht.updSlot ht) _)

theorem Canon.wakeSup {ctx} (h : Canon s) : Canon (s.wakeSup ctx) :=
  h.signalOn

theorem Canon.post {e} (h : Canon s) : Canon (s.post e) := by
  unfold State.post
  extract_lets _ loss
  have hloss : OnSome Canon loss := on_ite h (OnSome.image h.writeEntry (fun _ ht => ht.updCtx))
  split
  · exact h
  · split
    · exact h.loseEntry.violation
    · split
      · exact h.mboxUnreachable
      · exact h.loseEntry
      · clear_value loss
        revert hloss
        split
        · intro hd
          exact h.mboxUnreachable
        · intro hd
          extract_lets t
          have ht : Canon t := hd.mboxUnreachable
          split
          · exact hd.loseEntry.wakeSup
          · split
            · exact on_ite ht.wakeSup ht
            · rename_i ht1
              have hd1 := OnSome.of_eq hd.writeEntry ht1
              exact hd1.wakeSup

theorem Canon.reportTo {ctx r} (h : Canon s) : Canon (s.reportTo ctx r) :=
  h.post

theorem Canon.record {r} (h : Canon s) : Canon (s.record r) := by
  unfold State.record
  extract_lets _ s1
  have hs1 : Canon s1 := by
    unfold s1
    split
    · exact h
    · exact h.reportTo
  exact hs1.logError

theorem Canon.updEngine {e f} (h : Canon s) : Canon (s.updEngine e f) :=
  .of_mem rfl h

theorem Canon.haltEngine {e} (h : Canon s) : Canon (s.haltEngine e) := by
  unfold State.haltEngine
  extract_lets _ _ _ _ _ _ _ _ s1 s2
  have hs1 : Canon s1 := h.updSlot.updEngine
  have hs2 : Canon s2 := hs1.updCtx
  exact on_ite h (on_ite h.record.fenceCtx (Canon.post (.of_mem rfl hs2)))

theorem Canon.winPut {p bs} (h : Canon s) : Canon (s.winPut p bs) := by
  induction bs generalizing s p with
  | nil => exact h
  | cons v rest ih => exact ih (h.put1 _ _ rfl)

theorem Canon.wakeBank {a} (h : Canon s) : Canon (s.wakeBank a) :=
  on_ite h.updCore h

theorem Canon.wakeBanks {cs as} (h : Canon s) : Canon (s.wakeBanks cs as) :=
  on_ite h (h.foldl (fun _ _ ht => ht.wakeBank) _)

theorem Canon.moveWindow {c f} (h : Canon s) (hf : ∀ t, Canon t → Canon (f t)) : Canon (s.moveWindow c f) := by
  unfold State.moveWindow
  extract_lets n was t is_ cs u v
  have hu : Canon u := (hf s h).winPut
  have hv : Canon v := by
    unfold v
    split
    · exact hu
    · exact hu
  exact Canon.wakeBanks (hv.foldl (fun _ _ ht => on_ite ht ht.updCore) _)

theorem Canon.dissolve {c} (h : Canon s) : Canon (s.dissolve c) := by
  unfold State.dissolve
  split
  · exact h
  · exact h.updSlot.foldl (fun _ _ ht => on_ite ht ht.updSlot) _

theorem Canon.handback {c} (h : Canon s) : Canon (s.handback c) := by
  unfold State.handback
  split
  · exact h
  · exact h.moveWindow (fun _ ht => ht.dissolve)

theorem Canon.loseTrace {ctx} (h : Canon s) : Canon (s.loseTrace ctx) := by
  unfold State.loseTrace
  extract_lets s1 _
  have hs1 : Canon s1 := h.updCtx
  split
  · exact hs1
  · exact OnSome.getD hs1.putFar hs1

theorem Canon.putTrace {ctx rec} (h : Canon s) : OnSome Canon (s.putTrace ctx rec) :=
  OnSome.bind (fun _ _ => OnSome.chain h.putFar (fun _ ht => ht.putFar))

theorem Canon.trace {ctx type lcore slot pc pay} (h : Canon s) : Canon (s.trace ctx type lcore slot pc pay) := by
  have put {t : State} (ht : Canon t) (rec : Nat) : Canon ((t.putTrace ctx rec).getD (t.loseTrace ctx)) := OnSome.getD ht.putTrace ht.loseTrace
  unfold State.trace
  dsimp only
  split
  · exact h.loseTrace.violation
  · split
    · exact h.loseTrace
    · split
      · exact put h _
      · generalize hp : s.putTrace ctx _ = p
        have hd : OnSome Canon p := hp ▸ h.putTrace
        split
        · exact h.loseTrace
        · have hc {f} := Canon.updCtx (c := ctx) (f := f) (show Canon _ from hd)
          exact on_ite hc.loseTrace (put hc _)

theorem Canon.traceBranch {c k target kind} (h : Canon s) : Canon (s.traceBranch c k target kind) :=
  on_ite h.trace h

theorem Canon.clearParity {as} (h : Canon s) : Canon (s.clearParity as) :=
  on_ite h (.of_mem rfl h)

theorem Canon.landWrite {p bs} (h : Canon s) : Canon (s.landWrite p bs) :=
  h.winPut.clearParity.updCore.foldl (fun _ _ ht => ht.wakeBank) _

theorem Canon.recordHalt {c k cause reached okind} (h : Canon s) : Canon (s.recordHalt c k cause reached okind) := by
  unfold State.recordHalt
  extract_lets _ _ _ _ _ s1 s2
  have hs1 : Canon s1 := h.updSlot.updCtx
  have hs2 : Canon s2 := .of_mem rfl hs1
  exact on_ite h.record.fenceCtx hs2.post

theorem Canon.haltSlot {c k cause} (h : Canon s) : Canon (s.haltSlot c k cause) :=
  h.recordHalt

theorem Canon.push {p} (h : Canon s) : Canon (s.push p) :=
  .of_mem rfl h

theorem Canon.sendTrap {c k t} (h : Canon s) : Canon (s.sendTrap c k t) :=
  h.push

theorem Canon.takeTrap {c k t} (h : Canon s) : Canon (s.takeTrap c k t) := by
  unfold State.takeTrap
  extract_lets _ s1
  have hs1 : Canon s1 := on_ite h.handback h
  split
  · exact hs1.landWrite.traceBranch.updSlot
  · exact hs1.sendTrap.updSlot.haltSlot

theorem Canon.trapCur {t} (h : Canon s) : Canon (s.trapCur t) :=
  on_ite h.haltEngine h.takeTrap

theorem Canon.updCur {f} (h : Canon s) : Canon (s.updCur f) :=
  h.updSlot

theorem Canon.keeperTrap {b} (h : Canon s) : Canon (s.keeperTrap b) :=
  h.updCur.trapCur

theorem Canon.tick {dt} (h : Canon s) : Canon (s.tick dt) :=
  on_ite h (.of_mem rfl h)

theorem Canon.count {c ev} (h : Canon s) : Canon (s.count c ev) :=
  on_ite h h.updCore

theorem Canon.setStatusHid {fn i hid} (h : Canon s) : Canon (s.setStatusHid fn i hid) :=
  .of_mem rfl h

theorem Canon.setStatus {fn i st code hid rpl} (h : Canon s) : Canon (s.setStatus fn i st code hid rpl) :=
  .of_mem rfl h

theorem Canon.raise {fn i} (h : Canon s) : Canon (s.raise fn i) :=
  .of_mem rfl h

theorem Canon.syncLaunch {l} (h : Canon s) : Canon (s.syncLaunch l) := by
  unfold State.syncLaunch
  extract_lets _ _ _
  split
  · exact h
  · exact on_ite (on_ite h h.setStatusHid) (on_ite h.setStatus.raise h.setStatus)

theorem Canon.updLaunch {id f} (h : Canon s) : Canon (s.updLaunch id f) := by
  unfold State.updLaunch
  extract_lets s1
  have hs1 : Canon s1 := .of_mem rfl h
  split
  · exact hs1
  · exact hs1.syncLaunch

theorem Canon.publish {c entry write n} (h : Canon s) : Canon (s.publish c entry write n) := by
  unfold State.publish
  extract_lets s0 s1
  have hs0 : Canon s0 := h.updCore
  have hs1 : Canon s1 := .of_mem rfl hs0
  exact hs1.signalOn

theorem Canon.release {c k e} (h : Canon s) : Canon (s.release c k e) := by
  unfold State.release
  split
  · exact Canon.updCore (on_ite h.updLaunch h)
  · exact h.push
  · exact h.push
  · exact h.push
  · exact h.push.updSlot
  · exact h.push
  · exact h.publish
  · exact h.push
  · exact h.push

theorem Canon.commit {c k} (h : Canon s) : Canon (s.commit c k) :=
  Canon.foldl (Canon.updSlot (on_ite h.count.tick h)) (fun _ _ ht => ht.release) _

theorem Canon.consumerHalt {c k} (h : Canon s) : Canon (s.consumerHalt c k) := by
  unfold State.consumerHalt
  extract_lets _ _
  split
  · exact h
  · exact h.updSlot.recordHalt

theorem Canon.waitCur {w on commits} (h : Canon s) : Canon (s.waitCur w on commits) :=
  Canon.consumerHalt (Canon.updCur (on_ite h.commit h))

theorem Canon.retire {len} (h : Canon s) : Canon (s.retire len) := by
  unfold State.retire
  extract_lets _ _ _ _
  split
  · exact on_ite h.updCur h.updCur
  · exact h.updCur

theorem Canon.noteIssue {p} (h : Canon s) (_hp : Canon p) : Canon (s.noteIssue p) :=
  h.updCore

theorem Canon.retireTo {pc} (h : Canon s) : Canon (s.retireTo pc) :=
  h.updCur

theorem Canon.conclude {i v} (h : Canon s) (hv : VCanon v) : Canon (s.conclude i v) := by
  unfold State.conclude
  revert hv
  split
  · intro hd
    exact h.trapCur
  · intro hd
    exact h.waitCur
  · intro hd
    exact Canon.retire (Canon.count (hd.noteIssue h))
  · intro hd
    exact Canon.retireTo (Canon.count (hd.noteIssue h))
  · intro hd
    exact hd

theorem Canon.issueAs {i engineOk coreOk v} (h : Canon s) (hv : ∀ t0, Canon t0 → VCanon (v t0)) : Canon (s.issueAs i engineOk coreOk v) :=
  on_ite (on_ite (h.conclude (hv _ h)) h.trapCur) h

theorem Canon.issueAny {i v} (h : Canon s) (hv : ∀ t0, Canon t0 → VCanon (v t0)) : Canon (s.issueAny i v) :=
  h.issueAs hv

theorem VCanon.ringWait {accs} (_h : Canon s) : OnSome VCanon (s.ringWait accs) := by
  unfold State.ringWait
  extract_lets _
  split
  · exact trivial
  · clear_value *
    split
    · exact trivial
    · exact trivial

theorem VCanon.commitFirst (h : Canon s) : VCanon s.commitFirst :=
  on_ite h.commit trivial

theorem Canon.repair {c as} (h : Canon s) : OnSome Canon (s.repair c as) := by
  unfold State.repair
  split
  · extract_lets cells s1
    have hs1 : Canon s1 := memCells_wf h cells
    exact hs1.clearParity.updCore
  · trivial

theorem Canon.microPoison {e} (h : Canon s) : Canon (s.microPoison e) :=
  h.record.haltEngine

theorem Canon.scoreEnd {c k} (h : Canon s) : Canon (s.scoreEnd c k) := by
  unfold State.scoreEnd
  extract_lets _
  split
  · exact h
  · extract_lets _ _ _ _ s1
    have hs1 : Canon s1 := h.updCore
    split
    · clear_value *
      split
      · exact on_ite hs1.trace hs1
      · exact hs1
    · exact h

theorem Canon.kill {c k cause} (h : Canon s) : Canon (s.kill c k cause) :=
  Canon.haltSlot (Canon.updSlot (Canon.updCore (Canon.scoreEnd (on_ite h.handback h))))

theorem Canon.consume {c k r0} (h : Canon s) : Canon (s.consume c k r0) :=
  on_ite h.microPoison (on_ite h.record.updSlot h.record.kill)

theorem Canon.parityError {as} (h : Canon s) : Canon (s.parityError as) :=
  OnSome.getD h.repair h.consume

theorem VCanon.gateWith {accs mism opnd late pend} (h : Canon s) (hpend : OnSome VCanon pend) : OnSome VCanon
  (s.gateWith accs mism opnd late pend) := by
  unfold State.gateWith
  extract_lets _
  split
  · exact trivial
  · split
    · exact trivial
    · split
      · exact trivial
      · revert hpend
        split
        · intro hd
          exact hd
        · intro hd
          split
          · rename_i ht
            have hd1 := OnSome.of_eq (VCanon.ringWait h) ht
            exact hd1
          · split
            · exact on_ite (VCanon.commitFirst h) trivial
            · exact h.parityError

theorem VCanon.pendWait {accs} (_h : Canon s) : OnSome VCanon (s.pendWait accs) := by
  unfold State.pendWait
  extract_lets _
  split
  · exact trivial
  · exact trivial

theorem VCanon.gate {accs mism opnd late} (h : Canon s) : OnSome VCanon (s.gate accs mism opnd late) :=
  VCanon.gateWith h (VCanon.pendWait h)

theorem VCanon.gated {accs mism opnd late k} (h : Canon s) (hk : VCanon (k ())) : VCanon (s.gated accs mism opnd late k) := by
  have hg : OnSome VCanon (s.gate accs mism opnd late) := VCanon.gate h
  unfold State.gated
  split
  · exact hk
  · split
    · split <;> trivial
    · trivial
  next hv => exact hg.of_eq hv

theorem Canon.wrote {q} (h : Canon s) : Canon (Acc.wrote q s) :=
  on_ite h h.updCur

theorem Canon.regPuts {core slot ws} (h : Canon s) : Canon (s.regPuts core slot ws) := by
  unfold State.regPuts
  extract_lets cells s1
  have hs1 : Canon s1 := memCells_wf h cells
  exact hs1.clearParity.updCore

theorem Canon.putLanes {q w raws} (h : Canon s) : Canon (Acc.putLanes s q w raws) :=
  on_ite h (on_ite h.updCur h.regPuts.wrote)

theorem Canon.finishLanes {dst site w outs} (h : Canon s) : OnOk Canon (finishLanes s dst site w outs) := by
  unfold Machine.finishLanes
  split
  · exact trivial
  · split
    · exact trivial
    · exact h.putLanes

theorem Canon.hold {e} (h : Canon s) : Canon (s.hold e) :=
  on_ite (on_ite h.updCur h.commit.release) h.release

theorem Canon.advance {v write n} (h : Canon s) : Canon (s.advance v write n) := by
  unfold State.advance
  split
  · exact h.updCur.hold
  · exact h.updCur

theorem Canon.advanceRead {v n} (h : Canon s) : Canon (s.advanceRead v n) := by
  unfold State.advanceRead
  split
  · exact h.updCur
  · exact h.updCur
  · exact on_ite h.updCore h.updCur
  · exact h.updCore
  · exact h.advance

end Sys2Proof.Machine
end

/-! ## O36: a canonical memory kept: the arithmetic -/
section
namespace Sys2Proof.Machine
open Sys2Proof.Claims

variable {s t : State}

theorem VCanon.arith {o d srcs sem x} (h : Canon s) (hx : OnSome VCanon x.hold := by trivial) : VCanon (arith o d srcs sem x s) := by
  refine VCanon.gated h (on_ite (OnSome.getD hx trivial) (on_ite trivial ?_))
  split
  · trivial
  · next hs =>
    have hd := OnOk.of_eq h.finishLanes hs
    split
    · exact hd.advanceRead
    · exact hd

theorem VCanon.arithS1 {a r d sem odd} (h : Canon s) : VCanon (arithS1 a r d sem odd s) :=
  VCanon.arith h

theorem OCanon.execMovShort {a r d} (h : Canon s) : OCanon (execMovShort a r d s) :=
  .next (h.issueAny (fun _ ht => VCanon.arithS1 ht))

theorem VCanon.arithS2 {a r d sem} (h : Canon s) : VCanon (arithS2 a r d sem s) :=
  VCanon.arith h

theorem OCanon.execAddShort {a r d} (h : Canon s) : OCanon (execAddShort a r d s) :=
  .next (h.issueAny (fun _ ht => VCanon.arithS2 ht))

theorem OCanon.execSubShort {a r d} (h : Canon s) : OCanon (execSubShort a r d s) :=
  .next (h.issueAny (fun _ ht => VCanon.arithS2 ht))

theorem OCanon.execRsubShort {a r d} (h : Canon s) : OCanon (execRsubShort a r d s) :=
  .next (h.issueAny (fun _ ht => VCanon.arithS2 ht))

theorem OCanon.execMulShort {a r d} (h : Canon s) : OCanon (execMulShort a r d s) :=
  .next (h.issueAny (fun _ ht => VCanon.arithS2 ht))

theorem OCanon.execMinShort {a r d} (h : Canon s) : OCanon (execMinShort a r d s) :=
  .next (h.issueAny (fun _ ht => VCanon.arithS2 ht))

theorem OCanon.execMaxShort {a r d} (h : Canon s) : OCanon (execMaxShort a r d s) :=
  .next (h.issueAny (fun _ ht => VCanon.arithS2 ht))

theorem OCanon.execAndShort {a r d} (h : Canon s) : OCanon (execAndShort a r d s) :=
  .next (h.issueAny (fun _ ht => VCanon.arithS2 ht))

theorem OCanon.execOrShort {a r d} (h : Canon s) : OCanon (execOrShort a r d s) :=
  .next (h.issueAny (fun _ ht => VCanon.arithS2 ht))

theorem OCanon.execXorShort {a r d} (h : Canon s) : OCanon (execXorShort a r d s) :=
  .next (h.issueAny (fun _ ht => VCanon.arithS2 ht))

theorem OCanon.execAndnShort {a r d} (h : Canon s) : OCanon (execAndnShort a r d s) :=
  .next (h.issueAny (fun _ ht => VCanon.arithS2 ht))

theorem OCanon.execShlShort {a r d} (h : Canon s) : OCanon (execShlShort a r d s) :=
  .next (h.issueAny (fun _ ht => VCanon.arithS2 ht))

theorem OCanon.execShrShort {a r d} (h : Canon s) : OCanon (execShrShort a r d s) :=
  .next (h.issueAny (fun _ ht => VCanon.arithS2 ht))

theorem OCanon.execSarShort {a r d} (h : Canon s) : OCanon (execSarShort a r d s) :=
  .next (h.issueAny (fun _ ht => VCanon.arithS2 ht))

theorem OCanon.execNegShort {a r d} (h : Canon s) : OCanon (execNegShort a r d s) :=
  .next (h.issueAny (fun _ ht => VCanon.arithS1 ht))

theorem OCanon.execAbsShort {a r d} (h : Canon s) : OCanon (execAbsShort a r d s) :=
  .next (h.issueAny (fun _ ht => VCanon.arithS1 ht))

theorem OCanon.execMov {o a d} (h : Canon s) : OCanon (execMov o a d s) :=
  .next (h.issueAny (fun _ ht => VCanon.arith ht))

theorem VCanon.arithT {o d srcs sem} (h : Canon s) : VCanon (arithT o d srcs sem s) :=
  VCanon.arith h

theorem OCanon.execAdd {o b a d} (h : Canon s) : OCanon (execAdd o b a d s) :=
  .next (h.issueAny (fun _ ht => VCanon.arithT ht))

theorem OCanon.execSub {o b a d} (h : Canon s) : OCanon (execSub o b a d s) :=
  .next (h.issueAny (fun _ ht => VCanon.arithT ht))

theorem OCanon.execRsub {o b a d} (h : Canon s) : OCanon (execRsub o b a d s) :=
  .next (h.issueAny (fun _ ht => VCanon.arithT ht))

theorem OCanon.execMul {o b a d} (h : Canon s) : OCanon (execMul o b a d s) :=
  .next (h.issueAny (fun _ ht => VCanon.arithT ht))

theorem OCanon.execMulh {o b a d} (h : Canon s) : OCanon (execMulh o b a d s) :=
  .next (h.issueAny (fun _ ht => VCanon.arithT ht))

theorem OCanon.execDiv {o b a d} (h : Canon s) : OCanon (execDiv o b a d s) :=
  .next (h.issueAny (fun _ ht => VCanon.arithT ht))

theorem OCanon.execRem {o b a d} (h : Canon s) : OCanon (execRem o b a d s) :=
  .next (h.issueAny (fun _ ht => VCanon.arithT ht))

theorem OCanon.execMin {o b a d} (h : Canon s) : OCanon (execMin o b a d s) :=
  .next (h.issueAny (fun _ ht => VCanon.arithT ht))

theorem OCanon.execMax {o b a d} (h : Canon s) : OCanon (execMax o b a d s) :=
  .next (h.issueAny (fun _ ht => VCanon.arithT ht))

theorem OCanon.execAbs {o a d} (h : Canon s) : OCanon (execAbs o a d s) :=
  .next (h.issueAny (fun _ ht => VCanon.arithT ht))

theorem OCanon.execNeg {o a d} (h : Canon s) : OCanon (execNeg o a d s) :=
  .next (h.issueAny (fun _ ht => VCanon.arithT ht))

theorem OCanon.execClamp {o b a d} (h : Canon s) : OCanon (execClamp o b a d s) :=
  .next (h.issueAny (fun _ ht => VCanon.arith ht))

theorem OCanon.execAbd {o b a d} (h : Canon s) : OCanon (execAbd o b a d s) :=
  .next (h.issueAny (fun _ ht => VCanon.arithT ht))

theorem OCanon.execAvg {o b a d} (h : Canon s) : OCanon (execAvg o b a d s) :=
  .next (h.issueAny (fun _ ht => VCanon.arithT ht))

theorem OCanon.execAdds {o b a d} (h : Canon s) : OCanon (execAdds o b a d s) :=
  .next (h.issueAny (fun _ ht => VCanon.arithT ht))

theorem OCanon.execSubs {o b a d} (h : Canon s) : OCanon (execSubs o b a d s) :=
  .next (h.issueAny (fun _ ht => VCanon.arithT ht))

theorem OCanon.execAnd {o b a d} (h : Canon s) : OCanon (execAnd o b a d s) :=
  .next (h.issueAny (fun _ ht => VCanon.arithT ht))

theorem OCanon.execOr {o b a d} (h : Canon s) : OCanon (execOr o b a d s) :=
  .next (h.issueAny (fun _ ht => VCanon.arithT ht))

theorem OCanon.execXor {o b a d} (h : Canon s) : OCanon (execXor o b a d s) :=
  .next (h.issueAny (fun _ ht => VCanon.arithT ht))

theorem OCanon.execAndn {o b a d} (h : Canon s) : OCanon (execAndn o b a d s) :=
  .next (h.issueAny (fun _ ht => VCanon.arithT ht))

theorem OCanon.execNot {o a d} (h : Canon s) : OCanon (execNot o a d s) :=
  .next (h.issueAny (fun _ ht => VCanon.arithT ht))

theorem OCanon.execShl {o b a d} (h : Canon s) : OCanon (execShl o b a d s) :=
  .next (h.issueAny (fun _ ht => VCanon.arithT ht))

theorem OCanon.execShr {o b a d} (h : Canon s) : OCanon (execShr o b a d s) :=
  .next (h.issueAny (fun _ ht => VCanon.arithT ht))

theorem OCanon.execSar {o b a d} (h : Canon s) : OCanon (execSar o b a d s) :=
  .next (h.issueAny (fun _ ht => VCanon.arithT ht))

theorem OCanon.execRol {o b a d} (h : Canon s) : OCanon (execRol o b a d s) :=
  .next (h.issueAny (fun _ ht => VCanon.arithT ht))

theorem OCanon.execRor {o b a d} (h : Canon s) : OCanon (execRor o b a d s) :=
  .next (h.issueAny (fun _ ht => VCanon.arithT ht))

theorem OCanon.execClz {o a d} (h : Canon s) : OCanon (execClz o a d s) :=
  .next (h.issueAny (fun _ ht => VCanon.arithT ht))

theorem OCanon.execCtz {o a d} (h : Canon s) : OCanon (execCtz o a d s) :=
  .next (h.issueAny (fun _ ht => VCanon.arithT ht))

theorem OCanon.execPopc {o a d} (h : Canon s) : OCanon (execPopc o a d s) :=
  .next (h.issueAny (fun _ ht => VCanon.arithT ht))

theorem OCanon.execBrev {o a d} (h : Canon s) : OCanon (execBrev o a d s) :=
  .next (h.issueAny (fun _ ht => VCanon.arithT ht))

theorem OCanon.execBfx {o b a d} (h : Canon s) : OCanon (execBfx o b a d s) :=
  .next (h.issueAny (fun _ ht => VCanon.arithT ht))

theorem OCanon.execBfi {o b a d} (h : Canon s) : OCanon (execBfi o b a d s) :=
  .next (h.issueAny (fun _ ht => VCanon.arithT ht))

theorem OCanon.execSxt {o b a d} (h : Canon s) : OCanon (execSxt o b a d s) :=
  .next (h.issueAny (fun _ ht => VCanon.arithT ht))

theorem OCanon.execZxt {o b a d} (h : Canon s) : OCanon (execZxt o b a d s) :=
  .next (h.issueAny (fun _ ht => VCanon.arithT ht))

theorem VCanon.cvtVerdict {o a d} (h : Canon s) : VCanon (cvtVerdict o a d s) :=
  on_ite (VCanon.arith h) (VCanon.arith h)

theorem OCanon.execCvt {o a d} (h : Canon s) : OCanon (execCvt o a d s) :=
  .next (h.issueAny (fun _ ht => VCanon.cvtVerdict ht))

theorem OCanon.execCvts {o b a d} (h : Canon s) : OCanon (execCvts o b a d s) :=
  .next (h.issueAny (fun _ ht => VCanon.arith ht))

theorem OCanon.execRcp {o a d} (h : Canon s) : OCanon (execRcp o a d s) :=
  .next (h.issueAny (fun _ ht => VCanon.arithT ht))

theorem OCanon.execRsq {o a d} (h : Canon s) : OCanon (execRsq o a d s) :=
  .next (h.issueAny (fun _ ht => VCanon.arithT ht))

theorem OCanon.execSqrt {o a d} (h : Canon s) : OCanon (execSqrt o a d s) :=
  .next (h.issueAny (fun _ ht => VCanon.arithT ht))

theorem OCanon.execExp2 {o a d} (h : Canon s) : OCanon (execExp2 o a d s) :=
  .next (h.issueAny (fun _ ht => VCanon.arithT ht))

theorem OCanon.execLog2 {o a d} (h : Canon s) : OCanon (execLog2 o a d s) :=
  .next (h.issueAny (fun _ ht => VCanon.arithT ht))

theorem OCanon.execFloor {o a d} (h : Canon s) : OCanon (execFloor o a d s) :=
  .next (h.issueAny (fun _ ht => VCanon.arithT ht))

theorem OCanon.execCeil {o a d} (h : Canon s) : OCanon (execCeil o a d s) :=
  .next (h.issueAny (fun _ ht => VCanon.arithT ht))

theorem OCanon.execRndn {o a d} (h : Canon s) : OCanon (execRndn o a d s) :=
  .next (h.issueAny (fun _ ht => VCanon.arithT ht))

theorem Canon.issue {i v} (h : Canon s) (hv : ∀ t0, Canon t0 → VCanon (v t0)) : Canon (s.issue i v) :=
  h.issueAs hv

theorem OCanon.execFma {c b a d} (h : Canon s) : OCanon (execFma c b a d s) :=
  .next (h.issue (fun _ ht => VCanon.arithT ht))

theorem OCanon.execFnma {c b a d} (h : Canon s) : OCanon (execFnma c b a d s) :=
  .next (h.issue (fun _ ht => VCanon.arithT ht))

theorem OCanon.execFms {c b a d} (h : Canon s) : OCanon (execFms c b a d s) :=
  .next (h.issue (fun _ ht => VCanon.arithT ht))

theorem OCanon.execFnms {c b a d} (h : Canon s) : OCanon (execFnms c b a d s) :=
  .next (h.issue (fun _ ht => VCanon.arithT ht))

theorem VCanon.arithI {i a d sem} (h : Canon s) : VCanon (arithI i a d sem s) :=
  VCanon.arith h

theorem OCanon.execAddi {i a d} (h : Canon s) : OCanon (execAddi i a d s) :=
  .next (h.issueAny (fun _ ht => VCanon.arithI ht))

theorem OCanon.execAndi {i a d} (h : Canon s) : OCanon (execAndi i a d s) :=
  .next (h.issueAny (fun _ ht => VCanon.arithI ht))

theorem OCanon.execOri {i a d} (h : Canon s) : OCanon (execOri i a d s) :=
  .next (h.issueAny (fun _ ht => VCanon.arithI ht))

theorem OCanon.execXori {i a d} (h : Canon s) : OCanon (execXori i a d s) :=
  .next (h.issueAny (fun _ ht => VCanon.arithI ht))

theorem OCanon.execShli {i a d} (h : Canon s) : OCanon (execShli i a d s) :=
  .next (h.issueAny (fun _ ht => VCanon.arithI ht))

theorem OCanon.execShri {i a d} (h : Canon s) : OCanon (execShri i a d s) :=
  .next (h.issueAny (fun _ ht => VCanon.arithI ht))

theorem OCanon.execSari {i a d} (h : Canon s) : OCanon (execSari i a d s) :=
  .next (h.issueAny (fun _ ht => VCanon.arithI ht))

theorem OCanon.execMovi {i d} (h : Canon s) : OCanon (execMovi i d s) :=
  .next (h.issueAny (fun _ ht => VCanon.arith ht))

theorem OCanon.execLi {d lit} (h : Canon s) : OCanon (execLi d lit s) :=
  .next (h.issueAny (fun _ ht => VCanon.arith ht))

theorem VCanon.nearVerdict {d lit} (h : Canon s) : VCanon (nearVerdict d lit s) :=
  VCanon.arith h

theorem OCanon.execNear {d lit} (h : Canon s) : OCanon (execNear d lit s) :=
  .next (h.issueAny (fun _ ht => VCanon.nearVerdict ht))

theorem VCanon.rawGate {off n} (h : Canon s) : OnSome VCanon (s.rawGate off n) := by
  unfold State.rawGate
  extract_lets _
  split
  · exact trivial
  · split
    · exact trivial
    · split
      · exact trivial
      · split
        · rename_i ht
          have hd := OnSome.of_eq (VCanon.pendWait h) ht
          exact hd
        · split
          · exact trivial
          · exact h.parityError

theorem VCanon.blocking {f} (h : Canon s) (hf : ∀ t0, Canon t0 → VCanon (f t0)) : VCanon (s.blocking f) := by
  unfold State.blocking
  extract_lets t
  have ht : Canon t := h.commit
  split
  · split
    · split
      · rename_i ht1
        have hd := VCanon.of_eq (hf _ ht) ht1
        exact ht.waitCur
      · rename_i ht1
        have hd := VCanon.of_eq (hf _ ht) ht1
        exact ht.trapCur
      · exact hf _ ht
    · exact trivial
  · exact hf _ h

theorem VCanon.sendFull (h : Canon s) : OnSome VCanon s.sendFull :=
  on_ite trivial (on_ite trivial (on_ite (VCanon.blocking h (fun _ _ => trivial)) h.count.trapCur.tick))

theorem Canon.reserveSend (h : Canon s) : Canon s.reserveSend :=
  on_ite h h.updCore

theorem VCanon.waitSend {w commits} (h : Canon s) : VCanon (s.waitSend w commits) :=
  h.reserveSend.waitCur

theorem Canon.sendHeld {m core ret rq} (h : Canon s) : Canon (s.sendHeld m core ret rq) :=
  h.reserveSend.hold

theorem VCanon.spwnVerdict {b a d lit} (h : Canon s) : VCanon (Machine.spwnVerdict b a d lit s) := by
  unfold Machine.spwnVerdict
  extract_lets
  refine VCanon.gated h ?_
  refine on_ite trivial (on_ite trivial ?_)
  split
  next hv => exact ((VCanon.rawGate h).orElse (VCanon.sendFull h)).of_eq hv
  next => exact on_ite (VCanon.waitSend h) h.sendHeld

theorem OCanon.execSpwn {b a d lit} (h : Canon s) : OCanon (execSpwn b a d lit s) :=
  .next (h.issue (fun _ ht => VCanon.spwnVerdict ht))

theorem OCanon.execLea {o b a d} (h : Canon s) : OCanon (execLea o b a d s) :=
  .next (h.issueAny (fun _ ht => VCanon.arithT ht))

theorem OCanon.execAdda {o b a d} (h : Canon s) : OCanon (execAdda o b a d s) :=
  .next (h.issueAny (fun _ ht => VCanon.arithT ht))

theorem OCanon.execLcore {o a d} (h : Canon s) : OCanon (execLcore o a d s) :=
  .next (h.issueAny (fun _ ht => VCanon.arithT ht))

end Sys2Proof.Machine
end

/-! ## O36: a canonical memory kept: guards, stores, atomics and engine commands -/
section
namespace Sys2Proof.Machine
open Sys2Proof.Claims

variable {s t : State}

theorem VCanon.guardBusy {g} (_h : Canon s) : OnSome VCanon (s.guardBusy g) :=
  on_ite trivial trivial

theorem VCanon.readsHeld {accs f} (h : Canon s) (hf : ∀ t0, Canon t0 → VCanon (f t0)) : VCanon (s.readsHeld accs f) :=
  on_ite (VCanon.blocking h hf) (hf _ h)

theorem Canon.fixGuards {g} (h : Canon s) : Canon (s.fixGuards g) := by
  unfold State.fixGuards
  extract_lets _ _ r s1
  have hr : Canon r := h.updCur
  have hs1 : Canon s1 := .of_mem rfl hr
  exact on_ite hs1 hs1.updEngine

theorem Canon.setGuard {g c} (h : Canon s) : Canon (s.setGuard g c) :=
  h.fixGuards.updCur

theorem VCanon.cmpVerdict {cond mask o b a g} (h : Canon s) : VCanon (cmpVerdict cond mask o b a g s) := by
  unfold Machine.cmpVerdict
  extract_lets _ _ _ _ _ _ _ _ _ _
  split
  · rename_i ht
    have hd := OnSome.of_eq (VCanon.gateWith h (VCanon.guardBusy h)) ht
    exact hd
  · exact VCanon.readsHeld h (fun _ ht => ht.setGuard)

theorem OCanon.execCmp {c o b a d} (h : Canon s) : OCanon (execCmp c o b a d s) :=
  .next (h.issueAny (fun _ ht => VCanon.cmpVerdict ht))

theorem OCanon.execCmpm {c o b a d} (h : Canon s) : OCanon (execCmpm c o b a d s) :=
  .next (h.issueAny (fun _ ht => VCanon.cmpVerdict ht))

theorem VCanon.guardVerdict {d c} (h : Canon s) : VCanon (guardVerdict d c s) := by
  unfold Machine.guardVerdict
  split
  · rename_i ht
    have hd := OnSome.of_eq (VCanon.guardBusy h) ht
    exact hd
  · exact h.setGuard

theorem OCanon.execGand {b a d} (h : Canon s) : OCanon (execGand b a d s) :=
  .next (h.issueAny (fun _ ht => VCanon.guardVerdict ht))

theorem OCanon.execGor {b a d} (h : Canon s) : OCanon (execGor b a d s) :=
  .next (h.issueAny (fun _ ht => VCanon.guardVerdict ht))

theorem OCanon.execGxor {b a d} (h : Canon s) : OCanon (execGxor b a d s) :=
  .next (h.issueAny (fun _ ht => VCanon.guardVerdict ht))

theorem OCanon.execGnot {a d} (h : Canon s) : OCanon (execGnot a d s) :=
  .next (h.issueAny (fun _ ht => VCanon.guardVerdict ht))

theorem VCanon.gmovVerdict {o a d} (h : Canon s) : VCanon (gmovVerdict o a d s) := by
  unfold Machine.gmovVerdict
  extract_lets _ _ _ _
  split
  · rename_i ht
    have hd := OnSome.of_eq (VCanon.gateWith h (VCanon.guardBusy h)) ht
    exact hd
  · exact VCanon.readsHeld h (fun _ ht => ht.setGuard)

theorem OCanon.execGmov {o a d} (h : Canon s) : OCanon (execGmov o a d s) :=
  .next (h.issueAny (fun _ ht => VCanon.gmovVerdict ht))

theorem VCanon.guardWait {g} (_h : Canon s) : VCanon (s.guardWait g) :=
  trivial

theorem VCanon.guarded {n g accs v} (h : Canon s) (hv : ∀ t0, Canon t0 → VCanon (v t0)) : VCanon (s.guarded n g accs v) := by
  unfold State.guarded
  split
  · exact VCanon.guardWait h
  · split
    · exact hv _ h
    · split
      · rename_i ht
        have hd := OnSome.of_eq (VCanon.pendWait h) ht
        exact hd
      · exact h

theorem Canon.watchReports {a n hits} (h : Canon s) : Canon (s.watchReports a n hits) :=
  on_ite h (h.foldl (fun _ _ ht => ht.trace) _)

theorem VCanon.storeDone {a n} (h : Canon s) : VCanon (s.storeDone a n) :=
  on_ite h (on_ite (Canon.haltSlot (Canon.retire (Canon.count (h.watchReports.noteIssue h)))) h.watchReports)

theorem Canon.journal {es} (h : Canon s) : Canon (s.journal es) :=
  on_ite (on_ite h.updCur h.commit) h

theorem Canon.faultMsg {w code addr} (h : Canon s) : Canon (s.faultMsg w code addr) :=
  h.push

theorem Canon.flushRa {a n} (h : Canon s) : Canon (s.flushRa a n) :=
  .of_mem rfl h

theorem Canon.clearPoison {a n} (h : Canon s) : Canon (s.clearPoison a n) :=
  .of_mem rfl h

theorem Canon.storeNear {w a bs} (h : Canon s) : Canon (s.storeNear w a bs) :=
  on_ite h.faultMsg h.setBytes.clearPoison.flushRa

theorem Canon.storeOwn {ws} (h : Canon s) : Canon (s.storeOwn ws) :=
  h.journal.foldl (fun _ _ ht => ht.storeNear) _

theorem VCanon.store {a bs} (h : Canon s) : VCanon (s.store a bs) :=
  on_ite (on_ite trivial (VCanon.storeDone h.storeOwn)) (on_ite trivial (VCanon.storeDone h.updCur.push))

theorem VCanon.stOn {size aq bq f} (h : Canon s) : VCanon (stOn size aq bq f s) := by
  unfold Machine.stOn
  refine VCanon.gated h ?_
  split
  · exact trivial
  · exact VCanon.store h

theorem VCanon.stVerdict {sz b a f n g} (h : Canon s) : VCanon (stVerdict sz b a f n g s) :=
  VCanon.guarded h (fun _ ht => VCanon.stOn ht)

theorem OCanon.execSt {sz b a f n g} (h : Canon s) : OCanon (execSt sz b a f n g s) :=
  .next (h.issueAny (fun _ ht => VCanon.stVerdict ht))

theorem VCanon.storesDone {cells n} (h : Canon s) : VCanon (s.storesDone cells n) :=
  on_ite (Canon.haltSlot (Canon.retire (Canon.count (Canon.noteIssue (h.foldl (fun _ _ ht => on_ite ht ht.watchReports) _) h)))) (h.foldl
    (fun _ _ ht => on_ite ht ht.watchReports) _)

theorem VCanon.stsOn {m aq bq f} (h : Canon s) : VCanon (stsOn m aq bq f s) := by
  unfold Machine.stsOn
  refine VCanon.gated h ?_
  split
  · exact trivial
  · exact on_ite trivial (on_ite trivial (VCanon.storesDone h.storeOwn))

theorem VCanon.stsVerdict {m b a f n g} (h : Canon s) : VCanon (stsVerdict m b a f n g s) :=
  VCanon.guarded h (fun _ ht => VCanon.stsOn ht)

theorem OCanon.execSts {m b a f n g} (h : Canon s) : OCanon (execSts m b a f n g s) :=
  .next (h.issue (fun _ ht => VCanon.stsVerdict ht))

theorem VCanon.selVerdict {mask b a d n g} (h : Canon s) : VCanon (selVerdict mask b a d n g s) := by
  have hg : VCanon (s.guardWait g) := VCanon.guardWait h
  exact VCanon.arith h (on_ite (P := OnSome VCanon) hg trivial)

theorem OCanon.execSel {b a d n g} (h : Canon s) : OCanon (execSel b a d n g s) :=
  .next (h.issueAny (fun _ ht => VCanon.selVerdict ht))

theorem OCanon.execSelm {b a d n g} (h : Canon s) : OCanon (execSelm b a d n g s) :=
  .next (h.issueAny (fun _ ht => VCanon.selVerdict ht))

theorem VCanon.fenceFirst (h : Canon s) : VCanon s.fenceFirst :=
  on_ite (VCanon.commitFirst h) trivial

theorem Canon.atomAt {w op ty a b0 b1} (h : Canon s) : Canon (s.atomAt w op ty a b0 b1).2 :=
  h.storeNear

theorem Canon.putRaw {q raw} (h : Canon s) : Canon (Acc.putRaw s q raw) :=
  h.putLanes

theorem Canon.newId (h : Canon s) : Canon s.newId.2 :=
  .of_mem rfl h

theorem Canon.mark {q len held near eng} (h : Canon s) : Canon (s.mark q len held near eng).2 :=
  h.newId.updCur.wrote

theorem VCanon.atomic {op dq bq a} (h : Canon s) : VCanon (s.atomic op dq bq a) :=
  on_ite (on_ite (VCanon.fenceFirst h) (on_ite trivial (on_ite h.consume (VCanon.storeDone (Canon.putRaw (Canon.atomAt
    (on_ite h h.journal))))))) (on_ite trivial (on_ite (VCanon.storeDone h.updCur.hold) (on_ite trivial (VCanon.storeDone h.mark.updCur.hold))))

theorem VCanon.atomOn {op dq aq bq} (h : Canon s) : VCanon (atomOn op dq aq bq s) := by
  unfold Machine.atomOn
  refine VCanon.gated h ?_
  split
  · exact trivial
  · split
    · exact trivial
    · exact VCanon.atomic h

theorem VCanon.atomVerdict {op b a d n g} (h : Canon s) : VCanon (atomVerdict op b a d n g s) :=
  VCanon.guarded h (fun _ ht => VCanon.atomOn ht)

theorem OCanon.execAadd {b a d n g} (h : Canon s) : OCanon (execAadd b a d n g s) :=
  .next (h.issueAny (fun _ ht => VCanon.atomVerdict ht))

theorem OCanon.execAmin {b a d n g} (h : Canon s) : OCanon (execAmin b a d n g s) :=
  .next (h.issueAny (fun _ ht => VCanon.atomVerdict ht))

theorem OCanon.execAmax {b a d n g} (h : Canon s) : OCanon (execAmax b a d n g s) :=
  .next (h.issueAny (fun _ ht => VCanon.atomVerdict ht))

theorem OCanon.execAand {b a d n g} (h : Canon s) : OCanon (execAand b a d n g s) :=
  .next (h.issueAny (fun _ ht => VCanon.atomVerdict ht))

theorem OCanon.execAor {b a d n g} (h : Canon s) : OCanon (execAor b a d n g s) :=
  .next (h.issueAny (fun _ ht => VCanon.atomVerdict ht))

theorem OCanon.execAxor {b a d n g} (h : Canon s) : OCanon (execAxor b a d n g s) :=
  .next (h.issueAny (fun _ ht => VCanon.atomVerdict ht))

theorem OCanon.execAswp {b a d n g} (h : Canon s) : OCanon (execAswp b a d n g s) :=
  .next (h.issueAny (fun _ ht => VCanon.atomVerdict ht))

theorem OCanon.execAcas {b a d n g} (h : Canon s) : OCanon (execAcas b a d n g s) :=
  .next (h.issueAny (fun _ ht => VCanon.atomVerdict ht))

theorem OCanon.execAinc {b a d n g} (h : Canon s) : OCanon (execAinc b a d n g s) :=
  .next (h.issueAny (fun _ ht => VCanon.atomVerdict ht))

theorem Canon.free (h : Canon s) : Canon s.free.2 :=
  .of_mem rfl h

theorem Canon.padWords {k} (h : Canon s) : Canon (s.padWords k).2 := by
  induction k generalizing s with
  | zero => exact h
  | succ k ih => exact ih h.free

theorem Canon.closeMsg (h : Canon s) : Canon s.closeMsg.2 :=
  h.padWords.updCur

theorem Canon.updFiring {c k fid f} (h : Canon s) : Canon (s.updFiring c k fid f) :=
  on_ite h.updSlot (.of_mem rfl h)

theorem Canon.feed {c k fid key} (h : Canon s) : Canon (s.feed c k fid key) :=
  on_ite h (Canon.updFiring (.of_mem rfl h))

theorem Canon.enqueueCmd {q} (h : Canon s) : Canon (s.enqueueCmd q) :=
  on_ite h.updEngine h.updEngine.push

theorem Canon.watchEngine {e q a n far} (h : Canon s) : Canon (s.watchEngine e q a n far) :=
  on_ite h (h.foldl (fun _ _ ht => ht.free.trace) _)

theorem Canon.watchAgent {c a n} (h : Canon s) : Canon (s.watchAgent c a n) := by
  unfold State.watchAgent
  split
  · split
    · exact h.watchEngine
    · exact h
  · exact h

theorem Canon.storeBy {c k fid a bs} (h : Canon s) : Canon (s.storeBy c k fid a bs) :=
  on_ite h.storeNear h.storeNear.watchAgent

theorem Canon.drainStores {c k} (h : Canon s) : Canon (s.drainStores c k) := by
  unfold State.drainStores
  extract_lets _ _
  refine Canon.foldl ?_ (fun _ _ ht => ?_) _
  · exact .of_mem rfl h
  · split
    · exact ht.storeBy
    · exact ht

theorem Canon.sendCmd {code op dq a b c e n g} (h : Canon s) : Canon (s.sendCmd code op dq a b c e n g) := by
  unfold State.sendCmd
  extract_lets _ _ m w _ t
  have hm : Canon m.2 := h.mark
  have hw : Canon w.2 := by
    unfold w
    split
    · exact hm.closeMsg
    · exact hm
  have ht : Canon t := by
    unfold t
    split
    · exact hw.feed
    · exact hw
  exact on_ite ht.hold ht.drainStores.enqueueCmd

theorem VCanon.cmdVerdict {code op opBad d a b c e n g} (h : Canon s) : VCanon (cmdVerdict code op opBad d a b c e n g s) :=
  on_ite trivial (on_ite (VCanon.gated h (on_ite trivial (on_ite trivial (on_ite trivial (on_ite trivial h.sendCmd))))) (VCanon.guarded h
    (fun _ ht => VCanon.gated ht (on_ite trivial (on_ite trivial (on_ite trivial (on_ite trivial ht.sendCmd)))))))

theorem OCanon.execCpy {c b a d n g op} (h : Canon s) : OCanon (execCpy c b a d n g op s) :=
  .next (h.issue (fun _ ht => VCanon.cmdVerdict ht))

theorem OCanon.execCpys {c b a d n g op} (h : Canon s) : OCanon (execCpys c b a d n g op s) :=
  .next (h.issue (fun _ ht => VCanon.cmdVerdict ht))

theorem OCanon.execGath {e c b a d n g} (h : Canon s) : OCanon (execGath e c b a d n g s) :=
  .next (h.issue (fun _ ht => VCanon.cmdVerdict ht))

theorem OCanon.execScat {e c b a d n g} (h : Canon s) : OCanon (execScat e c b a d n g s) :=
  .next (h.issue (fun _ ht => VCanon.cmdVerdict ht))

theorem OCanon.execFill {c b a d n g op} (h : Canon s) : OCanon (execFill c b a d n g op s) :=
  .next (h.issue (fun _ ht => VCanon.cmdVerdict ht))

theorem OCanon.execRed {c b a d n g op} (h : Canon s) : OCanon (execRed c b a d n g op s) :=
  .next (h.issue (fun _ ht => VCanon.cmdVerdict ht))

theorem OCanon.execRatm {e c b a d n g op} (h : Canon s) : OCanon (execRatm e c b a d n g op s) :=
  .next (h.issue (fun _ ht => VCanon.cmdVerdict ht))

theorem OCanon.execBsig {a d n g} (h : Canon s) : OCanon (execBsig a d n g s) :=
  .next (h.issue (fun _ ht => VCanon.cmdVerdict ht))

theorem OCanon.execRinv {b a d n g} (h : Canon s) : OCanon (execRinv b a d n g s) :=
  .next (h.issue (fun _ ht => VCanon.cmdVerdict ht))

theorem OCanon.execWqryQuery {b a d n g} (h : Canon s) : OCanon (execWqryQuery b a d n g s) :=
  .next (h.issue (fun _ ht => VCanon.cmdVerdict ht))

theorem OCanon.execWqryExtend {b a d n g} (h : Canon s) : OCanon (execWqryExtend b a d n g s) :=
  .next (h.issue (fun _ ht => VCanon.cmdVerdict ht))

end Sys2Proof.Machine
end

/-! ## O36: a canonical memory kept: control, lanes, views and repetitions -/
section
namespace Sys2Proof.Machine
open Sys2Proof.Claims

variable {s t : State}

theorem VCanon.transfer {target kind after} (h : Canon s) (hafter : ∀ t0, Canon t0 → Canon (after t0)) : VCanon (s.transfer target kind after) :=
  on_ite trivial (on_ite trivial (Canon.traceBranch (hafter _ h)))

theorem Canon.branchDone {likely} (h : Canon s) : Canon (s.branchDone likely) :=
  Canon.updCur (on_ite h h.count)

theorem Canon.link (h : Canon s) : Canon s.link :=
  h.updCur

theorem VCanon.brVerdict {f k n g link} (h : Canon s) : VCanon (brVerdict f k n g link s) :=
  on_ite (VCanon.guardWait h) (on_ite (VCanon.transfer h (fun _ ht => Canon.branchDone (on_ite ht.link ht))) h.branchDone)

theorem OCanon.execBr {f k n g} (h : Canon s) : OCanon (execBr f k n g s) :=
  .next (h.issueAny (fun _ ht => VCanon.brVerdict ht))

theorem OCanon.execBrl {f k n g} (h : Canon s) : OCanon (execBrl f k n g s) :=
  .next (h.issueAny (fun _ ht => VCanon.brVerdict ht))

theorem VCanon.loopVerdict {i d} (h : Canon s) : VCanon (loopVerdict i d s) := by
  unfold Machine.loopVerdict
  extract_lets _ _ _ _ _
  split
  · rename_i ht
    have hd := OnSome.of_eq (VCanon.gate h) ht
    exact hd
  · exact on_ite h.putRaw.branchDone (VCanon.transfer h (fun _ ht => ht.putRaw.branchDone))

theorem OCanon.execLoop {i d} (h : Canon s) : OCanon (execLoop i d s) :=
  .next (h.issueAny (fun _ ht => VCanon.loopVerdict ht))

theorem OCanon.execNop (h : Canon s) : OCanon (execNop s) :=
  .next (h.issueAny (fun _ ht => ht))

theorem Canon.dropLocks {c k} (h : Canon s) : Canon (s.dropLocks c k) :=
  .of_mem rfl h

theorem Canon.settle {c k} (h : Canon s) : Canon (s.settle c k) :=
  h.foldl (fun _ _ ht => ht.publish) _

theorem Canon.freeClaim {c k fid} (h : Canon s) : Canon (s.freeClaim c k fid) :=
  h.updCore.refill.refill

theorem Canon.putPitch {q v} (h : Canon s) : Canon (s.putPitch q v) :=
  on_ite h.storeNear h.storeNear.watchEngine

theorem Canon.servePitch {key k} (h : Canon s) : Canon (s.servePitch key k) := by
  induction k generalizing s with
  | zero => exact h
  | succ k ih =>
    unfold State.servePitch
    dsimp only
    split
    · exact h
    · refine on_ite h (on_ite (ih ?_) h)
      exact Canon.push (Canon.putPitch (.of_mem rfl h))

theorem Canon.unfeed {keys} (h : Canon s) : Canon (s.unfeed keys) := by
  unfold State.unfeed
  refine Canon.foldl ?_ (fun _ _ ht => ?_) _
  · exact h
  · exact Canon.servePitch (.of_mem rfl ht)

theorem Canon.countTrig {id} (h : Canon s) : Canon (s.countTrig id) :=
  h.updLaunch

theorem Canon.endTrig {c k} (h : Canon s) : Canon (s.endTrig c k) :=
  on_ite h.countTrig h

theorem Canon.dropFences {c k} (h : Canon s) : Canon (s.dropFences c k) :=
  on_ite (.of_mem rfl h) h

theorem Canon.checkLaunch {id} (h : Canon s) : Canon (s.checkLaunch id) := by
  unfold State.checkLaunch
  extract_lets s1
  have hs1 : Canon s1 := h.updLaunch
  split
  · exact h
  · split
    · split
      · exact hs1
      · exact hs1.push
    · exact h

theorem Canon.countEnd {id child} (h : Canon s) : Canon (s.countEnd id child) :=
  on_ite h h.updLaunch.checkLaunch

theorem Canon.releaseArray {c k} (h : Canon s) : Canon (s.releaseArray c k) := by
  unfold State.releaseArray
  split
  · exact on_ite h.updCore h
  · exact h

theorem Canon.finish {c k} (h : Canon s) : Canon (s.finish c k) :=
  h.settle.scoreEnd.dropLocks.endTrig.unfeed.freeClaim.releaseArray.updSlot.countEnd.updCore.dropFences

theorem VCanon.endLast {p} (h : Canon p) (hs : Canon s) : VCanon (endLast p s) :=
  on_ite (Canon.finish (Canon.count (hs.noteIssue h))) hs.updCur

theorem VCanon.endVerdict (h : Canon s) : VCanon (endVerdict s) := by
  unfold Machine.endVerdict
  extract_lets _ t
  have ht : Canon t := h.updCur
  split
  · exact VCanon.endLast h h
  · split
    · exact trivial
    · split
      · exact trivial
      · exact on_ite (VCanon.endLast h (Canon.commit (on_ite ht.handback ht))) ht.waitCur

theorem OCanon.execEndFiring (h : Canon s) : OCanon (execEndFiring s) :=
  .next (h.issue (fun _ ht => VCanon.endVerdict ht))

theorem VCanon.trigVerdict (h : Canon s) : VCanon (trigVerdict s) :=
  on_ite (on_ite trivial h.hold) h

theorem OCanon.execTrig (h : Canon s) : OCanon (execTrig s) :=
  .next (h.issue (fun _ ht => VCanon.trigVerdict ht))

theorem VCanon.haltVerdict (h : Canon s) : VCanon (haltVerdict s) :=
  on_ite (Canon.haltEngine (Canon.retire (Canon.count (h.noteIssue h)))) (Canon.haltSlot (Canon.retire (Canon.count (h.noteIssue h))))

theorem OCanon.execHalt (h : Canon s) : OCanon (execHalt s) :=
  .next (h.issueAny (fun _ ht => VCanon.haltVerdict ht))

theorem VCanon.yldVerdict (h : Canon s) : VCanon (yldVerdict s) :=
  h.updCore

theorem OCanon.execYld (h : Canon s) : OCanon (execYld s) :=
  .next (h.issue (fun _ ht => VCanon.yldVerdict ht))

theorem VCanon.wfeVerdict (h : Canon s) : VCanon (wfeVerdict s) :=
  VCanon.blocking h (fun _ ht => on_ite ht.updCur trivial)

theorem OCanon.execWfe (h : Canon s) : OCanon (execWfe s) :=
  .next (h.issue (fun _ ht => VCanon.wfeVerdict ht))

theorem Canon.sev {c ctx} (h : Canon s) : Canon (s.sev c ctx) :=
  h.foldl (fun _ _ ht => ht.signalOn) _

theorem OCanon.execSev (h : Canon s) : OCanon (execSev s) :=
  .next (h.issue (fun _ ht => ht.sev))

theorem OCanon.execEvclr (h : Canon s) : OCanon (execEvclr s) :=
  .next (h.issue (fun _ ht => ht.updCur))

theorem Canon.letGo (h : Canon s) : Canon s.letGo :=
  h.foldl (fun _ _ ht => ht.foldl (fun _ _ hu => on_ite hu.updSlot hu) _) _

theorem VCanon.algnVerdict (h : Canon s) : VCanon (algnVerdict s) := by
  unfold Machine.algnVerdict
  extract_lets _ _ _
  split
  · exact h
  · split
    · exact h
    · exact on_ite h.letGo trivial
    · exact on_ite h.letGo trivial

theorem OCanon.execAlgn (h : Canon s) : OCanon (execAlgn s) :=
  .next (h.issue (fun _ ht => VCanon.algnVerdict ht))

theorem VCanon.jrVerdict {o a link} (h : Canon s) : VCanon (jrVerdict o a link s) := by
  unfold Machine.jrVerdict
  exact VCanon.gated h (VCanon.transfer h (fun _ ht => on_ite ht.link ht))

theorem OCanon.execJr {o a} (h : Canon s) : OCanon (execJr o a s) :=
  .next (h.issueAny (fun _ ht => VCanon.jrVerdict ht))

theorem OCanon.execJrl {o a} (h : Canon s) : OCanon (execJrl o a s) :=
  .next (h.issueAny (fun _ ht => VCanon.jrVerdict ht))

theorem OCanon.execRet (h : Canon s) : OCanon (execRet s) :=
  .next (h.issueAny (fun _ ht => VCanon.transfer ht (fun _ hu => hu)))

theorem VCanon.moveLanes {o b a d m} (h : Canon s) : VCanon (moveLanes o b a d m s) := by
  unfold Machine.moveLanes
  refine VCanon.gated h ?_
  split
  · exact trivial
  · split
    · exact trivial
    · rename_i ht
      have hd := OnOk.of_eq h.finishLanes ht
      exact hd

theorem OCanon.execBcst {o a d} (h : Canon s) : OCanon (execBcst o a d s) :=
  .next (h.issue (fun _ ht => VCanon.moveLanes ht))

theorem OCanon.execPerm {o b a d} (h : Canon s) : OCanon (execPerm o b a d s) :=
  .next (h.issue (fun _ ht => VCanon.moveLanes ht))

theorem OCanon.execShfl {o b a d} (h : Canon s) : OCanon (execShfl o b a d s) :=
  .next (h.issue (fun _ ht => VCanon.moveLanes ht))

theorem OCanon.execSlide {o b a d} (h : Canon s) : OCanon (execSlide o b a d s) :=
  .next (h.issue (fun _ ht => VCanon.moveLanes ht))

theorem OCanon.execZip {o b a d} (h : Canon s) : OCanon (execZip o b a d s) :=
  .next (h.issue (fun _ ht => VCanon.moveLanes ht))

theorem OCanon.execUnzp {o b a d} (h : Canon s) : OCanon (execUnzp o b a d s) :=
  .next (h.issue (fun _ ht => VCanon.moveLanes ht))

theorem OCanon.execCmpr {o a d} (h : Canon s) : OCanon (execCmpr o a d s) :=
  .next (h.issue (fun _ ht => VCanon.moveLanes ht))

theorem OCanon.execExpd {o a d} (h : Canon s) : OCanon (execExpd o a d s) :=
  .next (h.issue (fun _ ht => VCanon.moveLanes ht))

theorem VCanon.reduceLanes {o b a d m} (h : Canon s) : VCanon (reduceLanes o b a d m s) :=
  VCanon.gated h h.putLanes

theorem OCanon.execRedadd {o a d} (h : Canon s) : OCanon (execRedadd o a d s) :=
  .next (h.issue (fun _ ht => VCanon.reduceLanes ht))

theorem OCanon.execRedmax {o a d} (h : Canon s) : OCanon (execRedmax o a d s) :=
  .next (h.issue (fun _ ht => VCanon.reduceLanes ht))

theorem OCanon.execRedmin {o a d} (h : Canon s) : OCanon (execRedmin o a d s) :=
  .next (h.issue (fun _ ht => VCanon.reduceLanes ht))

theorem OCanon.execScan {o a d} (h : Canon s) : OCanon (execScan o a d s) :=
  .next (h.issue (fun _ ht => VCanon.reduceLanes ht))

theorem OCanon.execDot4 {o b a d} (h : Canon s) : OCanon (execDot4 o b a d s) :=
  .next (h.issue (fun _ ht => VCanon.reduceLanes ht))

theorem OCanon.execDot2 {o b a d} (h : Canon s) : OCanon (execDot2 o b a d s) :=
  .next (h.issue (fun _ ht => VCanon.reduceLanes ht))

theorem Canon.putDesc {h1 d} (h : Canon s) : Canon (s.putDesc h1 d) :=
  h.updCur

theorem VCanon.viewVerdict {o b a d} (h : Canon s) : VCanon (viewVerdict o b a d s) := by
  unfold Machine.viewVerdict
  exact VCanon.gated h (on_ite trivial (on_ite trivial h.putDesc))

theorem OCanon.execView {o b a d} (h : Canon s) : OCanon (execView o b a d s) :=
  .next (h.issue (fun _ ht => VCanon.viewVerdict ht))

theorem Canon.putBytes {q bs} (h : Canon s) : Canon (Acc.putBytes s q bs) :=
  on_ite h h.regPuts.wrote

theorem VCanon.vgetVerdict {o a d} (h : Canon s) : VCanon (vgetVerdict o a d s) := by
  unfold Machine.vgetVerdict
  exact VCanon.gated h h.putBytes

theorem OCanon.execVget {o a d} (h : Canon s) : OCanon (execVget o a d s) :=
  .next (h.issue (fun _ ht => VCanon.vgetVerdict ht))

theorem VCanon.vsetVerdict {o a d} (h : Canon s) : VCanon (vsetVerdict o a d s) := by
  unfold Machine.vsetVerdict
  exact VCanon.gated h (on_ite trivial h.putDesc)

theorem OCanon.execVset {o a d} (h : Canon s) : OCanon (execVset o a d s) :=
  .next (h.issue (fun _ ht => VCanon.vsetVerdict ht))

theorem VCanon.rfilVerdict {o a d} (h : Canon s) : VCanon (rfilVerdict o a d s) := by
  unfold Machine.rfilVerdict
  extract_lets _ _ _ inv _
  have hinv : OnSome VCanon inv := on_ite trivial trivial
  split
  · rename_i ht
    have hd := OnSome.of_eq (VCanon.gate h) ht
    split
    · exact trivial
    · refine OnSome.getD ?_ ?_
      · exact hinv
      · exact trivial
  · rename_i ht
    have hd := OnSome.of_eq (VCanon.gate h) ht
    refine OnSome.getD ?_ ?_
    · exact hinv
    · exact hd
  · refine OnSome.getD ?_ ?_
    · exact hinv
    · exact h.putRaw

theorem OCanon.execRfil {o a d} (h : Canon s) : OCanon (execRfil o a d s) :=
  .next (h.issue (fun _ ht => VCanon.rfilVerdict ht))

theorem VCanon.repxVerdict (h : Canon s) : VCanon (repxVerdict s) := by
  unfold Machine.repxVerdict
  split
  · exact trivial
  · exact Canon.updCur (Canon.count (h.noteIssue h))

theorem OCanon.execRepx (h : Canon s) : OCanon (execRepx s) :=
  .next (h.issue (fun _ ht => VCanon.repxVerdict ht))

theorem VCanon.advMsg {v n left there} (h : Canon s) : VCanon (advMsg v n left there s) :=
  on_ite (on_ite trivial h.advanceRead) (on_ite trivial h.advanceRead)

theorem VCanon.advVerdict {n d write} (h : Canon s) : VCanon (advVerdict n d write s) := by
  unfold Machine.advVerdict
  extract_lets _ _ _ _ _
  split
  · exact trivial
  · exact on_ite (VCanon.advMsg h) (on_ite (on_ite trivial trivial) (on_ite trivial (on_ite h.advance h.advanceRead)))

theorem OCanon.execAdvr {n d} (h : Canon s) : OCanon (execAdvr n d s) :=
  .next (h.issue (fun _ ht => VCanon.advVerdict ht))

theorem OCanon.execAdvw {n d} (h : Canon s) : OCanon (execAdvw n d s) :=
  .next (h.issue (fun _ ht => VCanon.advVerdict ht))

theorem VCanon.repbVerdict {stag c n} (h : Canon s) : VCanon (repbVerdict stag c n s) := by
  unfold Machine.repbVerdict
  extract_lets _ _ _
  split
  · exact h.updCur.trapCur
  · exact trivial
  · exact Canon.updCur (Canon.count (h.noteIssue h))

theorem OCanon.execRepb {stag c n} (h : Canon s) : OCanon (execRepb stag c n s) :=
  .next (h.issue (fun _ ht => VCanon.repbVerdict ht))

end Sys2Proof.Machine
end

/-! ## O36: a canonical memory kept: loads, objects, messages and far accesses -/
section
namespace Sys2Proof.Machine
open Sys2Proof.Claims

variable {s t : State}

theorem Canon.putLoad {q bs} (h : Canon s) : Canon (Acc.putLoad q s bs) :=
  on_ite h.putLanes h.putBytes

theorem VCanon.load {dq a size} (h : Canon s) : VCanon (s.load dq a size) := by
  unfold State.load
  extract_lets r r1
  have hr : Canon r.2 := h.mark
  have hr1 : Canon r1.2 := h.mark
  split
  · exact h.putLoad.count.updCur
  · exact on_ite (on_ite (VCanon.fenceFirst h) (on_ite trivial (on_ite h.consume h.putLoad.updCur))) (on_ite h (on_ite trivial (on_ite
    (on_ite trivial hr.updCur.hold) hr1.updCur.push)))

theorem VCanon.ldVerdict {sz o f a d} (h : Canon s) : VCanon (ldVerdict sz o f a d s) := by
  unfold Machine.ldVerdict
  extract_lets _ _ _ _ _ _
  refine VCanon.gated h ?_
  split
  · exact trivial
  · exact VCanon.load h

theorem OCanon.execLd {sz o f a d} (h : Canon s) : OCanon (execLd sz o f a d s) :=
  .next (h.issueAny (fun _ ht => VCanon.ldVerdict ht))

theorem VCanon.ldsVerdict {m o f a d} (h : Canon s) : VCanon (ldsVerdict m o f a d s) := by
  unfold Machine.ldsVerdict
  extract_lets _ _ _ _ _
  refine VCanon.gated h ?_
  split
  · exact trivial
  · split
    · exact trivial
    · split
      · exact VCanon.fenceFirst h
      · split
        · exact trivial
        · split
          · exact h.consume
          · exact h.putBytes

theorem OCanon.execLds {m o f a d} (h : Canon s) : OCanon (execLds m o f a d s) :=
  .next (h.issue (fun _ ht => VCanon.ldsVerdict ht))

theorem VCanon.fenceVerdict {sc} (h : Canon s) : VCanon (fenceVerdict sc s) :=
  on_ite trivial h.updCur

theorem OCanon.execFenceC (h : Canon s) : OCanon (execFenceC s) :=
  .next (h.issueAny (fun _ ht => VCanon.fenceVerdict ht))

theorem OCanon.execFenceD (h : Canon s) : OCanon (execFenceD s) :=
  .next (h.issueAny (fun _ ht => VCanon.fenceVerdict ht))

theorem OCanon.execFenceP (h : Canon s) : OCanon (execFenceP s) :=
  .next (h.issueAny (fun _ ht => VCanon.fenceVerdict ht))

theorem OCanon.execFenceF (h : Canon s) : OCanon (execFenceF s) :=
  .next (h.issueAny (fun _ ht => VCanon.fenceVerdict ht))

theorem VCanon.objWait {h1 first fin} (h : Canon s) (hfirst : ∀ t0, Canon t0 → VCanon (first t0)) (hfin : ∀ x0 t1, Canon t1 → VCanon
  (fin x0 t1)) : VCanon (s.objWait h1 first fin) := by
  unfold State.objWait
  split
  · exact trivial
  · exact hfin _ _ h
  · exact trivial
  · exact hfirst _ h

theorem VCanon.bindVerdict {unbind o b a} (h : Canon s) : VCanon (bindVerdict unbind o b a s) := by
  unfold Machine.bindVerdict
  extract_lets _ _ _
  refine VCanon.objWait h (fun _ ht => ?_) (fun _ _ ht => ht)
  extract_lets _
  refine VCanon.gated ht ?_
  split
  · exact trivial
  · exact VCanon.blocking ht (fun _ hu => trivial)

theorem OCanon.execBind {o b a} (h : Canon s) : OCanon (execBind o b a s) :=
  .next (h.issue (fun _ ht => VCanon.bindVerdict ht))

theorem OCanon.execUnbd {o b a} (h : Canon s) : OCanon (execUnbd o b a s) :=
  .next (h.issue (fun _ ht => VCanon.bindVerdict ht))

theorem VCanon.sendObj {op ref arg on timed} (h : Canon s) : VCanon (s.sendObj op ref arg on timed) :=
  h.push.updCur.waitCur

theorem VCanon.objVerdict {op o a} (h : Canon s) : VCanon (objVerdict op o a s) := by
  unfold Machine.objVerdict
  extract_lets _ _ _
  refine VCanon.objWait h (fun _ ht => ?_) (fun _ _ ht => ht.updCur)
  extract_lets _
  refine VCanon.gated ht ?_
  split
  · exact trivial
  · exact on_ite trivial (VCanon.blocking ht (fun _ hu => VCanon.sendObj hu))

theorem OCanon.execAcq {o a} (h : Canon s) : OCanon (execAcq o a s) :=
  .next (h.issue (fun _ ht => VCanon.objVerdict ht))

theorem Canon.releaseObj {op r arg} (h : Canon s) : Canon (s.releaseObj op r arg) :=
  h.updCur.hold

theorem VCanon.heldVerdict {op o a} (h : Canon s) : VCanon (heldVerdict op o a s) := by
  unfold Machine.heldVerdict
  extract_lets _ _ _ _ _
  refine VCanon.gated h ?_
  split
  · exact trivial
  · exact on_ite trivial h.releaseObj

theorem OCanon.execRel {o a} (h : Canon s) : OCanon (execRel o a s) :=
  .next (h.issue (fun _ ht => VCanon.heldVerdict ht))

theorem VCanon.tryaVerdict {o a d} (h : Canon s) : VCanon (tryaVerdict o a d s) := by
  unfold Machine.tryaVerdict
  extract_lets _ _ _ _ _
  refine VCanon.objWait h (fun _ ht => ?_) (fun _ _ ht => ht.putRaw.updCur)
  extract_lets _
  refine VCanon.gated ht ?_
  split
  · exact trivial
  · exact on_ite trivial (VCanon.blocking ht (fun _ hu => VCanon.sendObj hu))

theorem OCanon.execTrya {o a d} (h : Canon s) : OCanon (execTrya o a d s) :=
  .next (h.issue (fun _ ht => VCanon.tryaVerdict ht))

theorem OCanon.execBar {o a} (h : Canon s) : OCanon (execBar o a s) :=
  .next (h.issue (fun _ ht => VCanon.objVerdict ht))

theorem OCanon.execBara {o a} (h : Canon s) : OCanon (execBara o a s) :=
  .next (h.issue (fun _ ht => VCanon.heldVerdict ht))

theorem OCanon.execBarw {o a} (h : Canon s) : OCanon (execBarw o a s) :=
  .next (h.issue (fun _ ht => VCanon.objVerdict ht))

theorem VCanon.sempVerdict {o b a} (h : Canon s) : VCanon (sempVerdict o b a s) := by
  unfold Machine.sempVerdict
  extract_lets _ _ _ _ _ _
  refine VCanon.gated h ?_
  split
  · exact trivial
  · exact on_ite trivial h.releaseObj

theorem OCanon.execSemp {o b a} (h : Canon s) : OCanon (execSemp o b a s) :=
  .next (h.issue (fun _ ht => VCanon.sempVerdict ht))

theorem VCanon.semwVerdict {o b a} (h : Canon s) : VCanon (semwVerdict o b a s) := by
  unfold Machine.semwVerdict
  extract_lets _ _ _ _ _
  refine VCanon.objWait h (fun _ ht => ?_) (fun _ _ ht => ht.updCur)
  extract_lets _
  refine VCanon.gated ht ?_
  split
  · exact trivial
  · exact VCanon.blocking ht (fun _ hu => VCanon.sendObj hu)

theorem OCanon.execSemw {o b a} (h : Canon s) : OCanon (execSemw o b a s) :=
  .next (h.issue (fun _ ht => VCanon.semwVerdict ht))

theorem VCanon.objqVerdict {o a d} (h : Canon s) : VCanon (objqVerdict o a d s) := by
  unfold Machine.objqVerdict
  extract_lets _ _ _ _ _
  refine VCanon.objWait h (fun _ ht => ?_) (fun _ _ ht => ht.putBytes)
  extract_lets _
  refine VCanon.gated ht ?_
  split
  · exact trivial
  · exact VCanon.sendObj ht

theorem OCanon.execObjq {o a d} (h : Canon s) : OCanon (execObjq o a d s) :=
  .next (h.issue (fun _ ht => VCanon.objqVerdict ht))

theorem Canon.sendMsg {dq ctl tgt} (h : Canon s) : Canon (s.sendMsg dq ctl tgt) :=
  h.closeMsg.updCur.mark.sendHeld

theorem VCanon.sendVerdict {invoke o b a d} (h : Canon s) : VCanon (sendVerdict invoke o b a d s) := by
  unfold Machine.sendVerdict
  extract_lets _ _ _ _ _ _ _ _ _
  refine VCanon.gated h ?_
  split
  · exact trivial
  · split
    · rename_i ht
      have hd := OnSome.of_eq (VCanon.sendFull h) ht
      exact hd
    · exact on_ite (VCanon.waitSend h) (on_ite (VCanon.waitSend h) (on_ite (VCanon.waitSend h) h.sendMsg))

theorem OCanon.execSend {o b a d} (h : Canon s) : OCanon (execSend o b a d s) :=
  .next (h.issue (fun _ ht => VCanon.sendVerdict ht))

theorem OCanon.execSendi {o b a d} (h : Canon s) : OCanon (execSendi o b a d s) :=
  .next (h.issue (fun _ ht => VCanon.sendVerdict ht))

theorem VCanon.countVerdict {o a d f} (h : Canon s) : VCanon (countVerdict o a d f s) := by
  unfold Machine.countVerdict
  extract_lets _ _ _ _ _
  refine VCanon.gated h ?_
  split
  · exact trivial
  · exact h.putRaw

theorem OCanon.execMsgq {o a d} (h : Canon s) : OCanon (execMsgq o a d s) :=
  .next (h.issue (fun _ ht => VCanon.countVerdict ht))

theorem OCanon.execCeq {o a d} (h : Canon s) : OCanon (execCeq o a d s) :=
  .next (h.issue (fun _ ht => VCanon.countVerdict ht))

theorem VCanon.withCmd {f} (h : Canon s) (hf : ∀ x0, VCanon (f x0)) : VCanon (s.withCmd f) := by
  unfold State.withCmd
  split
  · exact h.haltEngine
  · exact hf _

theorem Canon.endCmd {e} (h : Canon s) : Canon (s.endCmd e) := by
  unfold State.endCmd
  extract_lets _ _
  split
  · exact h
  · exact on_ite h.updEngine.push h

theorem Canon.failCmd {e v} (h : Canon s) : Canon (s.failCmd e v) :=
  h.updEngine.endCmd

theorem VCanon.farEnd {v} (h : Canon s) : VCanon (s.farEnd v) :=
  h.drainStores.updCur.failCmd

theorem Canon.cacheFrame {e ctx f} (h : Canon s) : Canon (s.cacheFrame e ctx f) :=
  h.updEngine

theorem Canon.walkFault {core slot ctx va reason} (h : Canon s) : Canon (s.walkFault core slot ctx va reason) :=
  h.push

theorem Canon.integrity {ctx a} (h : Canon s) : Canon (s.integrity ctx a) :=
  h.updDie.record.fenceCtx

theorem Canon.xlat {e q va write} (h : Canon s) : Canon (s.xlat e q va write).2 := by
  unfold State.xlat
  split
  · exact h
  · split
    · exact h
    · split
      · exact h.cacheFrame
      · exact h.walkFault
      · exact h
      · exact h.integrity

theorem VCanon.then {r f} (hr : SCanon r) (hf : ∀ t, Canon t → VCanon (f t)) : VCanon (Sent.then r f) := by
  cases r with
  | ok t => exact hf t hr
  | wait => trivial
  | fail t v => exact VCanon.farEnd hr

theorem SCanon.sendReq {e ctx peer r} (h : Canon s) : SCanon (s.sendReq e ctx peer r) := by
  unfold State.sendReq
  extract_lets _ _ _ _
  split
  · exact h
  · split
    · exact h
    · split
      · exact h
      · split
        · exact trivial
        · split
          · exact trivial
          · extract_lets _ _ s1
            have hs1 : Canon s1 := h.updEngine
            exact .of_mem rfl hs1

theorem VCanon.fldAt {q dq va n} (h : Canon s) : VCanon (s.fldAt q dq va n) := by
  unfold State.fldAt
  split
  · rename_i ht
    have hd := Canon.of_pair h.xlat ht
    exact VCanon.farEnd hd
  · rename_i ht
    have hd := Canon.of_pair h.xlat ht
    extract_lets m
    have hm : Canon m.2 := by
      unfold m
      split
      · exact hd
      · exact hd.mark
    split
    · exact on_ite (VCanon.farEnd hd.integrity) (on_ite (VCanon.farEnd hd) hd.putLoad)
    · exact on_ite trivial (VCanon.then (SCanon.sendReq hm) (fun _ hu => hu))

theorem Canon.farBytes {q ps} (h : Canon s) :
    (∀ p, s.farBytes q ps = .ok p → Canon p.2) ∧ ∀ p, s.farBytes q ps = .error p → Canon p.2 := by
  induction ps generalizing s with
  | nil =>
    refine ⟨?_, nofun⟩
    rintro p ⟨⟩
    exact h
  | cons p rest ih =>
    have hx {r} (hr : s.xlat s.curEngine q p.2.1 false = r) : Canon r.2 := hr ▸ h.xlat
    have herr {v} {u : State} (hu : Canon u) {r : Except (Option Nat × State) (List Byte × State)} (hr : r = .error (v, u)) :
        (∀ p, r = .ok p → Canon p.2) ∧ ∀ p, r = .error p → Canon p.2 := by
      subst hr
      refine ⟨nofun, ?_⟩
      rintro p ⟨⟩
      exact hu
    unfold State.farBytes
    split
    next hr => exact herr (hx hr) rfl
    next f u hr =>
      have hu : Canon u := hx hr
      split
      · exact herr hu rfl
      · split
        · exact herr hu.integrity rfl
        · split
          · exact herr hu rfl
          · obtain ⟨hok, her⟩ := ih hu
            split
            next bs v ho =>
              have hv : Canon v := hok (bs, v) ho
              refine ⟨?_, nofun⟩
              rintro p ⟨⟩
              exact hv
            next e he => exact herr (her e he) rfl

theorem Canon.markPart {q o n} (h : Canon s) : Canon (s.markPart q o n).2 :=
  h.mark.updCur

theorem SCanon.fldPart {q dq o va n len} (h : Canon s) : SCanon (s.fldPart q dq o va n len) := by
  unfold State.fldPart
  split
  · rename_i ht
    have hd := Canon.of_pair h.xlat ht
    exact hd
  · rename_i ht
    have hd := Canon.of_pair h.xlat ht
    extract_lets m
    have hm : Canon m.2 := by
      unfold m
      split
      · exact hd
      · exact hd.markPart
    split
    · exact on_ite hd.integrity (on_ite hd (on_ite hd hd.regPuts.wrote))
    · exact SCanon.sendReq hm

theorem VCanon.fldPieces {q dq va n} (h : Canon s) : VCanon (s.fldPieces q dq va n) := by
  unfold State.fldPieces
  obtain ⟨hok, her⟩ := Canon.farBytes (q := q) (ps := cuts n n 0 va false true) h
  dsimp only
  split
  next ho => exact Canon.putLoad (hok _ ho)
  next he => exact VCanon.farEnd (her _ he)
  next =>
    split
    · trivial
    · split
      · trivial
      · exact VCanon.then (SCanon.foldParts (fun _ _ ht => SCanon.fldPart ht) _ h) fun _ ht => ht

theorem VCanon.fldVerdict {sz o f a d} (h : Canon s) : VCanon (fldVerdict sz o f a d s) := by
  unfold Machine.fldVerdict
  exact VCanon.gated h (VCanon.withCmd h (fun _ => on_ite (VCanon.farEnd h) (on_ite trivial (on_ite (VCanon.fldAt h) (VCanon.fldPieces h)))))

theorem OCanon.execFld {sz o f a d} (h : Canon s) : OCanon (execFld sz o f a d s) :=
  .next (h.issueAs (fun _ ht => VCanon.fldVerdict ht))

theorem SCanon.watched {r e q va n} (hr : SCanon r) : SCanon (Sent.watched r e q va n) := by
  unfold Machine.Sent.watched
  revert hr
  split
  · intro hd
    exact hd.watchEngine
  · intro hd
    exact hd

theorem Canon.addPoison {a n} (h : Canon s) : Canon (s.addPoison a n) :=
  .of_mem rfl h

theorem Canon.putPoison {a bs psn} (h : Canon s) : Canon (s.putPoison a bs psn) :=
  on_ite h.setBytes.addPoison h.setBytes.clearPoison

theorem SCanon.poisonStop {q va} (h : Canon s) : SCanon (s.poisonStop q va) :=
  h.faultMsg

theorem SCanon.sendData {e q peer r} (h : Canon s) : SCanon (s.sendData e q peer r) :=
  on_ite (SCanon.poisonStop h) (SCanon.sendReq h)

theorem SCanon.pageFar {e q va bs psn} (h : Canon s) : SCanon (s.pageFar e q va bs psn) := by
  unfold State.pageFar
  split
  · rename_i ht
    have hd := Canon.of_pair h.xlat ht
    exact hd
  · rename_i ht
    have hd := Canon.of_pair h.xlat ht
    extract_lets _
    refine SCanon.watched ?_
    split
    · exact on_ite hd.integrity hd.putPoison
    · exact on_ite (SCanon.poisonStop hd) hd.putPoison
    · exact SCanon.sendData hd

theorem SCanon.engineFar {e q va bs psn} (h : Canon s) : SCanon (s.engineFar e q va bs psn) :=
  on_ite (SCanon.pageFar h) (SCanon.foldParts (fun _ _ ht => SCanon.pageFar ht) _ h)

theorem VCanon.fstVerdict {sz o b a f} (h : Canon s) : VCanon (fstVerdict sz o b a f s) := by
  unfold Machine.fstVerdict
  exact VCanon.gated h (VCanon.withCmd h (fun _ => on_ite (VCanon.farEnd h) (VCanon.then (SCanon.engineFar h) (fun _ ht => ht))))

theorem OCanon.execFst {sz o b a f} (h : Canon s) : OCanon (execFst sz o b a f s) :=
  .next (h.issueAs (fun _ ht => VCanon.fstVerdict ht))

theorem Canon.atomFar {a op ty b0 b1} (h : Canon s) : Canon (s.atomFar a op ty b0 b1).2 :=
  h.putPoison

theorem VCanon.fatmAt {q op dq bq va} (h : Canon s) : VCanon (s.fatmAt q op dq bq va) := by
  unfold State.fatmAt
  extract_lets _ _ _ _
  split
  · rename_i ht
    have hd := Canon.of_pair h.xlat ht
    exact VCanon.farEnd hd
  · rename_i ht
    have hd := Canon.of_pair h.xlat ht
    extract_lets m
    have hm : Canon m.2 := by
      unfold m
      split
      · exact hd
      · exact hd.mark
    split
    · exact on_ite (VCanon.farEnd hd.integrity) (on_ite (VCanon.farEnd hd) hd.atomFar.watchEngine.putRaw)
    · exact on_ite trivial (VCanon.then (SCanon.watched (SCanon.sendReq hm)) (fun _ hu => hu.waitCur))

theorem VCanon.fatmVerdict {op o b a d} (h : Canon s) : VCanon (fatmVerdict op o b a d s) :=
  on_ite (on_ite h trivial) (VCanon.gated h (VCanon.withCmd h (fun _ => on_ite (VCanon.farEnd h) (on_ite trivial (on_ite trivial
    (VCanon.fatmAt h))))))

theorem OCanon.execFatmAdd {o b a d} (h : Canon s) : OCanon (execFatmAdd o b a d s) :=
  .next (h.issueAs (fun _ ht => VCanon.fatmVerdict ht))

theorem OCanon.execFatmMin {o b a d} (h : Canon s) : OCanon (execFatmMin o b a d s) :=
  .next (h.issueAs (fun _ ht => VCanon.fatmVerdict ht))

theorem OCanon.execFatmMax {o b a d} (h : Canon s) : OCanon (execFatmMax o b a d s) :=
  .next (h.issueAs (fun _ ht => VCanon.fatmVerdict ht))

theorem OCanon.execFatmAnd {o b a d} (h : Canon s) : OCanon (execFatmAnd o b a d s) :=
  .next (h.issueAs (fun _ ht => VCanon.fatmVerdict ht))

theorem OCanon.execFatmOr {o b a d} (h : Canon s) : OCanon (execFatmOr o b a d s) :=
  .next (h.issueAs (fun _ ht => VCanon.fatmVerdict ht))

theorem OCanon.execFatmXor {o b a d} (h : Canon s) : OCanon (execFatmXor o b a d s) :=
  .next (h.issueAs (fun _ ht => VCanon.fatmVerdict ht))

theorem OCanon.execFatmSwp {o b a d} (h : Canon s) : OCanon (execFatmSwp o b a d s) :=
  .next (h.issueAs (fun _ ht => VCanon.fatmVerdict ht))

theorem OCanon.execFatmCas {o b a d} (h : Canon s) : OCanon (execFatmCas o b a d s) :=
  .next (h.issueAs (fun _ ht => VCanon.fatmVerdict ht))

theorem OCanon.execFatmInc {o b a d} (h : Canon s) : OCanon (execFatmInc o b a d s) :=
  .next (h.issueAs (fun _ ht => VCanon.fatmVerdict ht))

theorem Canon.relist {e peer} (h : Canon s) : Canon (s.relist e peer) :=
  h.updEngine

theorem SCanon.sendRelease {e ctx peer m r} (h : Canon s) : SCanon (s.sendRelease e ctx peer m r) := by
  unfold State.sendRelease
  split
  · rename_i ht
    have hd : Canon _ := SCanon.of_eq (SCanon.sendReq h.relist) ht
    exact hd.updEngine
  · exact SCanon.sendReq h.relist

theorem SCanon.sendImage {q peer core img psn ret} (h : Canon s) : SCanon (s.sendImage q peer core img psn ret) := by
  unfold State.sendImage
  extract_lets _ _ _ _
  split
  · exact SCanon.poisonStop h
  · split
    · exact SCanon.sendReq h
    · exact SCanon.sendRelease h

theorem VCanon.fxmVerdict {o b a d} (h : Canon s) : VCanon (fxmVerdict o b a d s) := by
  unfold Machine.fxmVerdict
  extract_lets _ _ _ _ _ _ _ _ _ m
  have hm : Canon m.2 := h.mark
  refine VCanon.gated h ?_
  refine VCanon.withCmd h (fun _ => ?_)
  split
  · exact trivial
  · exact on_ite trivial (on_ite trivial (on_ite trivial (VCanon.then (SCanon.sendImage hm) (fun _ ht => ht))))

theorem OCanon.execFxm {o b a d} (h : Canon s) : OCanon (execFxm o b a d s) :=
  .next (h.issueAs (fun _ ht => VCanon.fxmVerdict ht))

theorem Canon.sendMarkers {e ctx peer seq} (h : Canon s) : Canon (s.sendMarkers e ctx peer seq) :=
  Canon.updEngine (.of_mem rfl h)

theorem VCanon.fmrkVerdict {o a} (h : Canon s) : VCanon (fmrkVerdict o a s) := by
  unfold Machine.fmrkVerdict
  exact VCanon.gated h (VCanon.withCmd h (fun _ => on_ite trivial h.sendMarkers))

theorem OCanon.execFmrk {o a} (h : Canon s) : OCanon (execFmrk o a s) :=
  .next (h.issueAs (fun _ ht => VCanon.fmrkVerdict ht))

theorem VCanon.cendVerdict {o a} (h : Canon s) : VCanon (cendVerdict o a s) := by
  unfold Machine.cendVerdict
  exact VCanon.gated h (VCanon.withCmd h (fun _ => on_ite trivial h.push.updEngine.updCur))

theorem OCanon.execCend {o a} (h : Canon s) : OCanon (execCend o a s) :=
  .next (h.issueAs (fun _ ht => VCanon.cendVerdict ht))

end Sys2Proof.Machine
end

/-! ## O36: a canonical memory kept: matrix work and composed cores -/
section
namespace Sys2Proof.Machine
open Sys2Proof.Claims

variable {s t : State}

theorem Canon.takeArray (h : Canon s) : Canon s.takeArray :=
  h.updCore.updCur

theorem Canon.scramble {a n} (h : Canon s) : Canon (s.scramble a n) := by
  induction n generalizing s a with
  | zero => exact h
  | succ n ih => exact ih h.free.setBytes

theorem Canon.scrambleArea {a n} (h : Canon s) : Canon (s.scrambleArea a n) :=
  h.scramble.flushRa

theorem Canon.evictArray {k fid} (h : Canon s) : Canon (s.evictArray k fid) :=
  Canon.scrambleArea (.of_mem rfl h.updFiring)

theorem Canon.claimArray (h : Canon s) : OnSome Canon s.claimArray := by
  unfold State.claimArray
  split
  · exact h.takeArray
  · exact on_ite h (on_ite trivial (on_ite trivial h.evictArray.takeArray))

theorem VCanon.matrix {f} (h : Canon s) (hf : ∀ t0, Canon t0 → VCanon (f t0)) : VCanon (s.matrix f) := by
  unfold State.matrix
  split
  · exact trivial
  · rename_i ht
    have hd := OnSome.of_eq h.claimArray ht
    split
    · rename_i ht1
      have hd1 := VCanon.of_eq (hf _ hd) ht1
      exact hd.updCore.trapCur
    · rename_i ht1
      have hd1 := VCanon.of_eq (hf _ hd) ht1
      exact hd.waitCur
    · exact hf _ hd

theorem Canon.postTile {t} (h : Canon s) : Canon (s.postTile t) :=
  on_ite h.updCore.push h.updCore

theorem Canon.latch {t} (h : Canon s) : Canon (s.latch t) :=
  h.postTile.updCore

theorem VCanon.fillShadow {wv sv} (h : Canon s) : VCanon (s.fillShadow wv sv) := by
  unfold State.fillShadow
  extract_lets _ _
  split
  · exact h.updCore.waitCur
  · split
    · exact trivial
    · exact h.updCore.latch

theorem VCanon.mlwVerdict {cl o b a} (h : Canon s) : VCanon (mlwVerdict cl o b a s) := by
  unfold Machine.mlwVerdict
  extract_lets _ _ _ _ _ _
  split
  · exact trivial
  · refine VCanon.gated h ?_
    split
    · exact VCanon.blocking h (fun _ ht => VCanon.fillShadow ht)
    · split
      · exact trivial
      · exact h.latch

theorem OCanon.execMlw {o b a} (h : Canon s) : OCanon (execMlw o b a s) :=
  .next (h.issue (fun _ ht => VCanon.matrix ht (fun _ hu => VCanon.mlwVerdict hu)))

theorem OCanon.execMlwC {o b a} (h : Canon s) : OCanon (execMlwC o b a s) :=
  .next (h.issue (fun _ ht => VCanon.matrix ht (fun _ hu => VCanon.mlwVerdict hu)))

theorem VCanon.mfmtVerdict {o a} (h : Canon s) : VCanon (mfmtVerdict o a s) := by
  unfold Machine.mfmtVerdict
  exact VCanon.gated h (on_ite h.updCore trivial)

theorem OCanon.execMfmt {o a} (h : Canon s) : OCanon (execMfmt o a s) :=
  .next (h.issue (fun _ ht => VCanon.matrix ht (fun _ hu => VCanon.mfmtVerdict hu)))

theorem VCanon.rowsWait {w v} (h : Canon s) (hv : VCanon v) : VCanon (s.rowsWait w v) := by
  unfold State.rowsWait
  have hwait (x : Wait) (on : List Obj) (c : Bool) :
      VCanon (if s.mmaCommits w then s.blocking fun _ => .wait x on false else .wait x on c) := on_ite (VCanon.blocking h fun _ _ => trivial) trivial
  dsimp only
  split
  · exact on_ite (hwait _ _ _) trivial
  · split
    · exact hwait _ _ _
    · trivial
  · exact hv

theorem Canon.mmaWords {opens outs} (h : Canon s) : Canon (s.mmaWords opens outs).2 := by
  unfold State.mmaWords
  extract_lets f
  have hf : Canon f.2 := h.padWords
  split
  · exact hf
  · exact h

theorem Canon.putAcc {q ws} (h : Canon s) : Canon (Acc.putAcc q s ws) :=
  h.regPuts.wrote

theorem Canon.mmaFinish {t dq hv outs} (h : Canon s) : Canon (s.mmaFinish t dq hv outs) :=
  h.mmaWords.putAcc.updCore.updCore.advanceRead

theorem VCanon.mmaRun {t dq hv} (h : Canon s) : VCanon (s.mmaRun t dq hv) := by
  unfold State.mmaRun
  extract_lets _ _ _ _
  split
  · exact trivial
  · split
    · exact trivial
    · split
      · exact trivial
      · exact on_ite trivial h.mmaFinish

theorem VCanon.mmaVerdict {o a d} (h : Canon s) : VCanon (mmaVerdict o a d s) := by
  unfold Machine.mmaVerdict
  dsimp only
  split
  · trivial
  · exact VCanon.rowsWait h (VCanon.gated h (on_ite (VCanon.blocking h fun _ ht => VCanon.mmaRun ht) (VCanon.mmaRun h)))

theorem OCanon.execMma {o a d} (h : Canon s) : OCanon (execMma o a d s) :=
  .next (h.issue (fun _ ht => VCanon.matrix ht (fun _ hu => VCanon.mmaVerdict hu)))

theorem Canon.sendRow {mask row} (h : Canon s) : Canon (s.sendRow mask row) :=
  .of_mem rfl h.newId

theorem VCanon.multicast {mask sq} (h : Canon s) : VCanon (s.multicast mask sq) :=
  VCanon.blocking h (fun _ ht => Canon.waitCur (ht.foldl (fun _ _ hu => hu.sendRow) _))

theorem VCanon.mscVerdict {o b a} (h : Canon s) : VCanon (mscVerdict o b a s) := by
  unfold Machine.mscVerdict
  extract_lets _ _ _ _ _
  split
  · exact on_ite trivial h
  · exact VCanon.gated h (on_ite trivial (on_ite trivial (VCanon.multicast h)))

theorem OCanon.execMsc {o b a} (h : Canon s) : OCanon (execMsc o b a s) :=
  .next (h.issue (fun _ ht => VCanon.matrix ht (fun _ hu => VCanon.mscVerdict hu)))

theorem Canon.clear {q} (h : Canon s) : Canon (Acc.clear q s) :=
  h.regPuts.wrote

theorem VCanon.mdrVerdict {z o a} (h : Canon s) : VCanon (mdrVerdict z o a s) := by
  unfold Machine.mdrVerdict
  exact VCanon.gated h (on_ite h.updCore.clear h.updCore)

theorem OCanon.execMdr {o a} (h : Canon s) : OCanon (execMdr o a s) :=
  .next (h.issue (fun _ ht => VCanon.matrix ht (fun _ hu => VCanon.mdrVerdict hu)))

theorem OCanon.execMdrZ {o a} (h : Canon s) : OCanon (execMdrZ o a s) :=
  .next (h.issue (fun _ ht => VCanon.matrix ht (fun _ hu => VCanon.mdrVerdict hu)))

theorem VCanon.mdrpVerdict {o b a d} (h : Canon s) : VCanon (mdrpVerdict o b a d s) := by
  unfold Machine.mdrpVerdict
  exact VCanon.gated h (on_ite trivial (on_ite trivial (on_ite trivial h.mark.hold)))

theorem OCanon.execMdrp {o b a d} (h : Canon s) : OCanon (execMdrp o b a d s) :=
  .next (h.issue (fun _ ht => VCanon.matrix ht (fun _ hu => VCanon.mdrpVerdict hu)))

theorem VCanon.mclrVerdict {o d} (h : Canon s) : VCanon (mclrVerdict o d s) := by
  unfold Machine.mclrVerdict
  exact VCanon.gated h h.clear

theorem OCanon.execMclr {o d} (h : Canon s) : OCanon (execMclr o d s) :=
  .next (h.issue (fun _ ht => VCanon.matrix ht (fun _ hu => VCanon.mclrVerdict hu)))

theorem VCanon.mstaVerdict {o d} (h : Canon s) : VCanon (mstaVerdict o d s) := by
  unfold Machine.mstaVerdict
  exact VCanon.gated h h.putRaw.updCore

theorem OCanon.execMsta {o d} (h : Canon s) : OCanon (execMsta o d s) :=
  .next (h.issue (fun _ ht => VCanon.matrix ht (fun _ hu => VCanon.mstaVerdict hu)))

theorem Canon.compose {c k} (h : Canon s) : Canon (s.compose c k) := by
  unfold State.compose
  exact h.moveWindow (fun _ ht => Canon.updSlot (ht.foldl (fun _ _ hu => hu.updSlot) _))

theorem VCanon.composeWait {k} (h : Canon s) : VCanon (s.composeWait k) :=
  h.updCur.waitCur

theorem VCanon.cmpsVerdict {kk} (h : Canon s) : VCanon (cmpsVerdict kk s) :=
  on_ite trivial (on_ite trivial (on_ite trivial (on_ite h (on_ite h.compose (VCanon.composeWait h)))))

theorem OCanon.execCmps {k} (h : Canon s) : OCanon (execCmps k s) :=
  .next (h.issue (fun _ ht => VCanon.cmpsVerdict ht))

theorem VCanon.dcmpVerdict (h : Canon s) : VCanon (dcmpVerdict s) :=
  on_ite h (on_ite trivial h.handback)

theorem OCanon.execDcmp (h : Canon s) : OCanon (execDcmp s) :=
  .next (h.issue (fun _ ht => VCanon.dcmpVerdict ht))

theorem VCanon.cmpqVerdict {o d} (h : Canon s) : VCanon (cmpqVerdict o d s) := by
  unfold Machine.cmpqVerdict
  exact VCanon.gated h h.putRaw

theorem OCanon.execCmpq {o d} (h : Canon s) : OCanon (execCmpq o d s) :=
  .next (h.issue (fun _ ht => VCanon.cmpqVerdict ht))

end Sys2Proof.Machine
end

/-! ## O36: a canonical memory kept: traps, saves and special registers -/
section
namespace Sys2Proof.Machine
open Sys2Proof.Claims

variable {s t : State}

theorem VCanon.trapVerdict {o a} (h : Canon s) : VCanon (trapVerdict o a s) := by
  unfold Machine.trapVerdict
  exact VCanon.gated h trivial

theorem OCanon.execTrap {o a} (h : Canon s) : OCanon (execTrap o a s) :=
  .next (h.issue (fun _ ht => VCanon.trapVerdict ht))

theorem Canon.sysBack {q vals} (h : Canon s) : Canon (s.sysBack q vals) :=
  h.regPuts.wrote.wakeBanks

theorem VCanon.sysVerdict {o a} (h : Canon s) : VCanon (sysVerdict o a s) := by
  unfold Machine.sysVerdict
  exact VCanon.objWait h (fun _ ht => VCanon.gated ht (VCanon.blocking ht (fun _ hu => hu.push.updCur.waitCur))) (fun _ _ ht => ht.sysBack)

theorem OCanon.execSys {o a} (h : Canon s) : OCanon (execSys o a s) :=
  .next (h.issue (fun _ ht => VCanon.sysVerdict ht))

theorem Canon.trapReturn {c k} (h : Canon s) : Canon (s.trapReturn c k) :=
  h.updSlot

theorem VCanon.eretVerdict (h : Canon s) : VCanon (eretVerdict s) := by
  unfold Machine.eretVerdict
  extract_lets _
  split
  · exact trivial
  · split
    · rename_i ht
      have hd := OnSome.of_eq (VCanon.rawGate h) ht
      exact hd
    · exact on_ite trivial (on_ite trivial (Canon.trapReturn (Canon.count (h.noteIssue h))))

theorem OCanon.execEret (h : Canon s) : OCanon (execEret s) :=
  .next (h.issue (fun _ ht => VCanon.eretVerdict ht))

theorem VCanon.areaVerdict {o a bad f} (hf : ∀ x0 x1 t2, Canon t2 → VCanon (f x0 x1 t2)) (h : Canon s) : VCanon (areaVerdict o a bad f s) := by
  unfold Machine.areaVerdict
  extract_lets _ _ _ _ _
  split
  · exact trivial
  · refine VCanon.gated h ?_
    split
    · exact trivial
    · exact on_ite trivial (hf _ _ _ h)

theorem Canon.putArea {a bs} (h : Canon s) : Canon (s.putArea a bs) :=
  h.setBytes.clearPoison.flushRa

theorem Canon.savePoison {v} (h : Canon s) : Canon (s.savePoison v) :=
  on_ite h (h.foldl (fun _ _ ht => ht.addPoison) _)

theorem Canon.saveArea {v} (h : Canon s) : Canon (s.saveArea v) :=
  h.scrambleArea.putArea.putArea.putArea.scrambleArea.scrambleArea.putArea.savePoison.wakeBanks

theorem VCanon.svsDo {addr w} (h : Canon s) : VCanon (Machine.svsDo addr w s) := by
  unfold Machine.svsDo
  extract_lets v s1
  have hs1 : Canon s1 := h.saveArea
  clear_value s1
  exact Canon.of_mem rfl hs1

theorem OCanon.execSvs {o a} (h : Canon s) : OCanon (execSvs o a s) :=
  .next (h.issue (fun _ ht => VCanon.areaVerdict (fun _ _ _ hu => VCanon.svsDo hu) ht))

theorem Canon.thawHalted (h : Canon s) : Canon s.thawHalted :=
  h.foldl (fun _ _ ht => on_ite ht.updSlot ht) _

theorem Canon.fileMsg {c m} (h : Canon s) : Canon (s.fileMsg c m).2 := by
  unfold State.fileMsg
  extract_lets _
  split
  · exact h.updCore
  · split
    · exact h.updCtx.tick
    · exact h.tick

theorem Canon.refile {c m} (h : Canon s) : Canon (s.refile c m) :=
  on_ite h.updCtx h.fileMsg

theorem Canon.returnClaim {c k} (h : Canon s) : Canon (s.returnClaim c k) := by
  unfold State.returnClaim
  extract_lets _ t
  have ht : Canon t := by
    unfold t
    split
    · exact on_ite h.refile h
    · exact h
  split
  · exact ht.updCore
  · exact h

theorem Canon.rehome {m} (h : Canon s) : Canon (s.rehome m) := by
  unfold State.rehome
  extract_lets r
  have hr : Canon r := h.updSlot.updCore
  exact .of_mem rfl hr

theorem Canon.loadArea {v a k} (h : Canon s) : Canon (s.loadArea v a k) := by
  unfold State.loadArea
  extract_lets _ _ _ s0 s1 s2
  have hs0 : Canon s0 := h.updSlot
  have hs1 : Canon s1 := on_ite hs0 hs0.rehome
  have hs2 : Canon s2 := hs1.landWrite.foldl (fun _ _ ht => ht.landWrite) _
  split
  · exact hs2.consume
  · exact hs2

theorem Canon.bringBack {v a k} (h : Canon s) : Canon (s.bringBack v a k) :=
  Canon.returnClaim (Canon.updSlot (Canon.loadArea (.of_mem rfl h)))

theorem VCanon.rssDo {addr w} (h : Canon s) : VCanon (rssDo addr w s) := by
  unfold Machine.rssDo
  split
  · exact h.bringBack.thawHalted
  · exact h.loadArea.thawHalted
  · exact h

theorem OCanon.execRss {o a} (h : Canon s) : OCanon (execRss o a s) :=
  .next (h.issue (fun _ ht => VCanon.areaVerdict (fun _ _ _ hu => VCanon.rssDo hu) ht))

theorem Canon.putReg {q v} (h : Canon s) : Canon (Acc.putReg q s v) :=
  on_ite h.putBytes (on_ite h.putLanes h.putRaw)

theorem VCanon.tsVerdict {o d} (h : Canon s) : VCanon (tsVerdict o d s) := by
  unfold Machine.tsVerdict
  exact VCanon.gated h h.putReg

theorem OCanon.execTs {o d} (h : Canon s) : OCanon (execTs o d s) :=
  .next (h.issue (fun _ ht => VCanon.tsVerdict ht))

theorem VCanon.pmcVerdict {o a d} (h : Canon s) : VCanon (pmcVerdict o a d s) := by
  unfold Machine.pmcVerdict
  exact VCanon.gated h (on_ite trivial (on_ite h.putLanes.updCore h.putLanes))

theorem OCanon.execPmc {o a d} (h : Canon s) : OCanon (execPmc o a d s) :=
  .next (h.issue (fun _ ht => VCanon.pmcVerdict ht))

theorem Canon.clearMark {r ev} (h : Canon s) : Canon (s.clearMark r ev) :=
  .of_mem rfl (on_ite h.updSlot h)

theorem Canon.landImage {r bs v} (h : Canon s) : Canon (s.landImage r bs v) :=
  on_ite (h.foldl (fun _ _ ht => Canon.flushRa (ht.put _ _ rfl)) _) h

theorem Canon.landImages {r bs} (h : Canon s) : Canon (s.landImages r bs) :=
  .of_mem rfl (h.foldl (fun _ _ ht => ht.landImage) _)

theorem Canon.shows {v} (h : Canon s) : Canon (s.shows v) :=
  h.winPut

theorem Canon.applyDbg {c k} (h : Canon s) : Canon (s.applyDbg c k) :=
  on_ite h (Canon.updSlot (h.foldl (fun _ _ ht => ht.landWrite) _))

theorem Canon.landGuards {view r} (h : Canon s) (_hview : Canon view) : Canon (s.landGuards view r) := by
  unfold State.landGuards
  extract_lets _ _ r1
  have hr1 : Canon r1 := h.updCore
  exact .of_mem rfl hr1

theorem Canon.land {r bs} (h : Canon s) : Canon (s.land r bs) := by
  unfold State.land
  extract_lets v live images s1 s2 view s3
  have h1 : Canon s1 := on_ite h.landWrite h
  have h2 : Canon s2 := h1.landImages.clearMark
  have h3 : Canon s3 := by
    unfold s3
    clear_value s2
    exact .of_mem rfl h2
  have hview : Canon view := by
    unfold view
    clear_value s2 images
    split
    · exact h2
    · split
      · exact h2.shows
      · exact h2
  clear_value s3 view
  exact on_ite h (h3.landGuards hview).applyDbg

theorem Canon.landToken {r v} (h : Canon s) : Canon (s.landToken r v) :=
  h.land.updFiring

theorem Canon.startBist {dq test inst} (h : Canon s) : Canon (s.startBist dq test inst) := by
  unfold State.startBist
  extract_lets r
  have hr : Canon r.2 := h.mark
  split
  · exact hr.updCore
  · exact hr.landToken.updCore

theorem VCanon.bistVerdict {o a d} (h : Canon s) : VCanon (bistVerdict o a d s) :=
  on_ite trivial (VCanon.gated h (on_ite trivial (VCanon.blocking h (fun _ ht => ht.startBist))))

theorem OCanon.execBist {o a d} (h : Canon s) : OCanon (execBist o a d s) :=
  .next (h.issue (fun _ ht => VCanon.bistVerdict ht))

theorem VCanon.sigqVerdict {o a d} (h : Canon s) : VCanon (sigqVerdict o a d s) := by
  unfold Machine.sigqVerdict
  exact VCanon.gated h (on_ite trivial h.putReg)

theorem OCanon.execSigq {o a d} (h : Canon s) : OCanon (execSigq o a d s) :=
  .next (h.issue (fun _ ht => VCanon.sigqVerdict ht))

theorem VCanon.ckptVerdict (h : Canon s) : VCanon (ckptVerdict s) :=
  VCanon.blocking h (fun _ ht => ht)

theorem OCanon.execCkpt (h : Canon s) : OCanon (execCkpt s) :=
  .next (h.issue (fun _ ht => VCanon.ckptVerdict ht))

theorem OCanon.execIdle (h : Canon s) : OCanon (execIdle s) :=
  .next (h.issue (fun _ ht => VCanon.wfeVerdict ht))

theorem VCanon.rdsVerdict {r d} (h : Canon s) : VCanon (rdsVerdict r d s) :=
  on_ite trivial (on_ite trivial (VCanon.gated h h.putReg))

theorem OCanon.execRds {r d} (h : Canon s) : OCanon (execRds r d s) :=
  .next (h.issueAny (fun _ ht => VCanon.rdsVerdict ht))

theorem Canon.writeTeam {c v} (h : Canon s) : Canon (s.writeTeam c v) :=
  h.updCore

theorem Canon.writeBank {c b v} (h : Canon s) : Canon (s.writeBank c b v) :=
  on_ite h (on_ite (h.updCore.filter _ rfl) h.updCore)

theorem Canon.writePwr {c v} (h : Canon s) : Canon (s.writePwr c v) :=
  h.foldl (fun _ _ ht => ht.writeBank) _

theorem Canon.writeRot {c v} (h : Canon s) : Canon (s.writeRot c v) :=
  h.updCore

theorem Canon.writeMargin {die rail v} (h : Canon s) : Canon (s.writeMargin die rail v) :=
  h.updDie

theorem Canon.writeSr {c k n v} (h : Canon s) : Canon (s.writeSr c k n v) := by
  unfold State.writeSr
  split
  · exact h.updSlot
  · exact h.updSlot
  · exact h.writePwr
  · exact h.updCore
  · exact h.writeTeam
  · exact h.writeRot
  · exact h.updSlot
  · exact on_ite h.updCore (on_ite h.updCore (on_ite h.writeMargin h))

theorem VCanon.wrsVerdict {r a} (h : Canon s) : VCanon (wrsVerdict r a s) :=
  on_ite trivial (on_ite trivial (VCanon.gated h (on_ite (on_ite trivial (on_ite trivial h.writeTeam)) h.writeSr)))

theorem OCanon.execWrs {r a} (h : Canon s) : OCanon (execWrs r a s) :=
  .next (h.issueAny (fun _ ht => VCanon.wrsVerdict ht))

theorem OCanon.execNopH {h1 x} (h : Canon s) : OCanon (execNopH h1 x s) :=
  .next (h.issueAny (fun _ ht => ht))

theorem OCanon.execRsPwrWrite {core v} (h : Canon s) : OCanon (execRsPwrWrite core v s) :=
  .next (on_ite h.writePwr h)

theorem OCanon.execMxTeamWrite {core slot v} (h : Canon s) : OCanon (execMxTeamWrite core slot v s) :=
  .next (on_ite h.writeTeam h)

theorem OCanon.execMgVWrite {core rail v} (h : Canon s) : OCanon (execMgVWrite core rail v s) :=
  .next (on_ite h.writeMargin h)

theorem Canon.writePort {core entry v} (h : Canon s) : Canon (s.writePort core entry v) :=
  h.updCore

theorem OCanon.execRegisterWrite {core slot t v} (h : Canon s) : OCanon (execRegisterWrite core slot t v s) := by
  unfold Machine.execRegisterWrite
  refine .next ?_
  split
  · split
    · exact on_ite h.writeSr h
    · exact h.updCore
    · exact on_ite h.writePort h
  · exact h

end Sys2Proof.Machine
end

/-! ## O36: a canonical memory kept: messages, objects and the operand networks -/
section
namespace Sys2Proof.Machine
open Sys2Proof.Claims

variable {s t : State}

theorem Canon.begin {core k f} (h : Canon s) : Canon (s.begin core k f) := by
  unfold State.begin
  extract_lets r
  have hr : Canon r := h.updSlot.updCore
  exact .of_mem rfl hr

theorem Canon.putData {core k a} (h : Canon s) : Canon (s.putData core k a) :=
  h.foldl (fun _ _ ht => ht.landWrite) _

theorem Canon.msgFault {ctx lcore code hdr} (h : Canon s) : Canon (s.msgFault ctx lcore code hdr) :=
  h.post

theorem Canon.rejectSpawn {core k q fid} (h : Canon s) : Canon (s.rejectSpawn core k q fid) :=
  h.updCore.freeClaim.msgFault.countEnd

theorem Canon.setPitch {l core} (h : Canon s) : Canon (s.setPitch l core) := by
  unfold State.setPitch
  split
  · exact h
  · exact on_ite h (Canon.servePitch (.of_mem rfl h))

theorem Canon.fire {core k c} (h : Canon s) : Canon (s.fire core k c) := by
  unfold State.fire
  extract_lets _ n _ _ _
  have hn : Canon n.2 := h.newId
  split
  · exact hn.updCore.begin.putData
  · exact on_ite hn.rejectSpawn hn.updCore.begin.putData.landWrite
  · exact hn.begin.putData.setPitch.updLaunch
  · exact hn.begin.putData

theorem OCanon.execDispatch {core pick} (h : Canon s) : OCanon (execDispatch core pick s) := by
  unfold Machine.execDispatch
  refine .next ?_
  split
  · split
    · exact h.fire
    · exact h
  · exact h

theorem Canon.hostReply {m} (h : Canon s) : Canon (s.hostReply m).2 := by
  unfold State.hostReply
  extract_lets _ _ _ _ _
  split
  · split
    · exact h.msgFault
    · exact .of_mem rfl h
  · split
    · exact h.setStatus
    · exact h.msgFault

theorem Canon.taken {k} (h : Canon s) : Canon (s.taken k) :=
  .of_mem rfl h

theorem Canon.tokenTo {r v} (h : Canon s) : Canon (s.tokenTo r v) := by
  unfold State.tokenTo
  split
  · exact h
  · exact h.push

theorem Canon.peerReply {m tgt r} (h : Canon s) : OnSome Canon (s.peerReply m tgt r) := by
  unfold State.peerReply
  extract_lets _ _ _ _ _
  split
  · rename_i ht
    have hd : Canon _ := SCanon.of_eq (SCanon.sendReq h) ht
    exact hd
  · rename_i ht
    have hd := SCanon.of_eq (SCanon.sendReq h) ht
    exact trivial
  · rename_i ht
    have hd : Canon _ := SCanon.of_eq (SCanon.sendReq h) ht
    exact hd.tokenTo

theorem Canon.unborn {m r} (hr : Canon r.2) : Canon (State.unborn m r).2 := by
  unfold State.unborn
  split
  · exact hr.countEnd
  · exact hr

theorem Canon.freshBlock {home kind parm} (h : Canon s) : Canon (s.freshBlock home kind parm) := by
  unfold State.freshBlock
  split
  · exact h
  · have hb : Canon ((s.setBytes home (toLe 4 kind ++ toLe 4 parm ++ toLe 56 0)).flushRa home 64) := h.setBytes.flushRa
    exact hb.withHomes

theorem Canon.buildLaunch {ctx h1 m status} (h : Canon s) : Canon (s.buildLaunch ctx h1 m status) := by
  unfold State.buildLaunch
  extract_lets _ _ s1 _ s2 n _ r
  have hs1 : Canon s1 := h.foldl (fun _ _ ht => ht.foldl (fun _ _ hu => hu.freshBlock) _) _
  have hs2 : Canon s2 := by
    unfold s2
    clear_value *
    split
    · exact hs1.freshBlock
    · exact hs1
  have hn : Canon n.2 := hs2.newId
  have hr : Canon r := hn
  exact Canon.syncLaunch (.of_mem rfl hr)

theorem Canon.startLaunch {m status} (h : Canon s) : Canon (s.startLaunch m status).2 := by
  unfold State.startLaunch
  extract_lets _
  split
  · exact h.buildLaunch
  · exact h
  · exact h

theorem Canon.landReply {c m} (h : Canon s) : Canon (s.landReply c m).2 := by
  unfold State.landReply
  extract_lets _ _ _ _ _
  split
  · exact h.updSlot
  · split
    · exact .of_mem rfl h
    · exact h.msgFault

theorem Canon.arrive {c m0} (h : Canon s) : Canon (s.arrive c m0).2 := by
  unfold State.arrive
  extract_lets _ _
  split
  · exact h.unborn
  · split
    · exact h.msgFault.unborn
    · split
      · exact h.startLaunch.unborn
      · split
        · exact h.unborn
        · split
          · split
            · exact h.fileMsg.unborn
            · exact h.msgFault.unborn
          · split
            · exact h.landReply.unborn
            · split
              · exact h.fileMsg.unborn
              · exact h.msgFault.unborn

theorem OCanon.execMessageArrival {k} (h : Canon s) : OCanon (execMessageArrival k s) := by
  unfold Machine.execMessageArrival
  refine .next ?_
  split
  · exact on_ite h (on_ite h.taken.hostReply.tokenTo (on_ite (OnSome.getD h.taken.peerReply h) (on_ite h h.taken.arrive.tokenTo)))
  · exact h

theorem OCanon.execTokenLanding {k} (h : Canon s) : OCanon (execTokenLanding k s) := by
  unfold Machine.execTokenLanding
  refine .next ?_
  split
  · exact on_ite h h.taken.landToken
  · exact h

theorem Canon.consumeAt {c k fid r} (h : Canon s) : Canon (s.consumeAt c k fid r) :=
  on_ite h.consume (on_ite h.record.updFiring h)

theorem OCanon.execRemoteLoadReply {k} (h : Canon s) : OCanon (execRemoteLoadReply k s) := by
  unfold Machine.execRemoteLoadReply
  refine .next ?_
  split
  · extract_lets s1
    have hs1 : Canon s1 := h.taken.land
    split
    · exact h
    · split
      · exact hs1
      · exact on_ite hs1.microPoison hs1.consumeAt
  · exact h

theorem OCanon.execNearRequest {k} (h : Canon s) : OCanon (execNearRequest k s) := by
  unfold Machine.execNearRequest
  refine .next ?_
  split
  · exact on_ite h h.taken.updFiring.push
  · exact on_ite h h.taken.storeBy
  · exact h

theorem OCanon.execRemoteAtomic {k} (h : Canon s) : OCanon (execRemoteAtomic k s) := by
  unfold Machine.execRemoteAtomic
  refine .next ?_
  split
  · exact on_ite h (on_ite h.taken.push (on_ite (on_ite h.taken.atomAt h.taken.atomAt.watchAgent) (Canon.push
    (on_ite h.taken.atomAt h.taken.atomAt.watchAgent))))
  · exact h

theorem SCanon.farRelease {e ctx peer r} (h : Canon s) : SCanon (s.farRelease e ctx peer r).1 := by
  unfold State.farRelease
  dsimp only
  split
  next hr =>
    have hd : Canon _ := (SCanon.sendRelease h.sendMarkers).of_eq hr
    exact hd
  next => trivial
  next => exact h

theorem Canon.fabReply {op ctx peer tag gen psn size body} (h : Canon s) : Canon (s.fabReply op ctx peer tag gen psn size body) := by
  unfold State.fabReply
  extract_lets _
  split
  · exact h
  · exact .of_mem rfl h

theorem Canon.peerAnswer {o p code vals} (h : Canon s) : Canon (s.peerAnswer o p code vals) :=
  h.fabReply

theorem Canon.reportObj {o code} (h : Canon s) : Canon (s.reportObj o code) := by
  unfold State.reportObj
  split
  · exact h.peerAnswer
  · exact h.faultMsg

theorem Canon.answerTrap {o code} (h : Canon s) : Canon (s.answerTrap o code) := by
  unfold State.answerTrap
  split
  · exact h.peerAnswer
  · exact h.updFiring

theorem Canon.peerObj {o} (h : Canon s) : OnSome Canon (s.peerObj o) := by
  unfold State.peerObj
  extract_lets _ _ _ _ _ sent
  have hsent : SCanon sent := on_ite (SCanon.farRelease h) (SCanon.sendReq h)
  clear_value sent
  revert hsent
  split
  · intro hd
    exact hd
  · intro hd
    exact trivial
  · intro hd
    exact on_ite hd.reportObj hd.answerTrap

theorem Canon.syncHome {h1} (h : Canon s) : Canon (s.syncHome h1) :=
  on_ite h.setBytes.setBytes.flushRa h

theorem Canon.makeLive {h1} (h : Canon s) : Canon (s.makeLive h1) := by
  unfold State.makeLive
  dsimp only
  split
  · exact h
  · refine Canon.syncHome ?_
    have hb := (h.setBytes (a := h1 + 8) (bs := toLe 8 (if s.objKind h1 = 3 then s.objParm h1 else 0) ++ toLe 48 holdFree)).flushRa
      (a := h1 + 8) (n := 56)
    exact hb.withHomes

theorem Canon.setHold {h1 hold} (h : Canon s) : Canon (s.setHold h1 hold) :=
  h.setBytes.flushRa

theorem Canon.answer {o vals} (h : Canon s) : Canon (s.answer o vals) := by
  unfold State.answer
  split
  · exact h.peerAnswer
  · exact h.updFiring

theorem Canon.lockGiven {key o} (h : Canon s) : Canon (s.lockGiven key o) :=
  on_ite h.updFiring.push h.updFiring

theorem Canon.grant {h1 o} (h : Canon s) : Canon (s.grant h1 o) :=
  Canon.answer (on_ite h.setHold.lockGiven h.setHold)

theorem Canon.queueAt {h1 o} (h : Canon s) : Canon (s.queueAt h1 o) :=
  on_ite (Canon.consumerHalt (.of_mem rfl h)) (.of_mem rfl h)

theorem Canon.applied {o vals} (h : Canon s) : Canon (s.applied o vals) :=
  on_ite h.answer h

theorem Canon.serveLock {h1} (h : Canon s) : Canon (s.serveLock h1) := by
  unfold State.serveLock
  split
  · exact h
  · exact Canon.grant (.of_mem rfl h)

theorem Canon.setObj {h1 cnt phase hold} (h : Canon s) : Canon (s.setObj h1 cnt phase hold) :=
  h.setBytes.setBytes.flushRa

theorem Canon.arriveBar {h1} (h : Canon s) : Canon (s.arriveBar h1) := by
  unfold State.arriveBar
  extract_lets p p' s2 ws done
  have hs2 : Canon s2 := h.setObj
  clear_value s2
  exact on_ite (Canon.foldl hs2.withHomes (fun _ _ ht => ht.answer) _) h.setObj

theorem Canon.notePhase {h1 o} (h : Canon s) : Canon (s.notePhase h1 o) :=
  on_ite h.updFiring h

theorem Canon.lateNotices {h1 o} (h : Canon s) : Canon (s.lateNotices h1 o) :=
  on_ite h (Canon.syncHome (.of_mem rfl h))

theorem Canon.waitPhase {h1 o p} (h : Canon s) : Canon (s.waitPhase h1 o p) :=
  on_ite h.queueAt h.answer

theorem Canon.waitBar {h1 o} (h : Canon s) : Canon (s.waitBar h1 o) :=
  h.waitPhase

theorem Canon.postSem {h1 o} (h : Canon s) : Canon (s.postSem h1 o) := by
  unfold State.postSem
  extract_lets sum s1 r
  have hs1 : Canon s1 := on_ite h.reportObj h.applied
  have hs2 : Canon (s1.setObj h1 r.2.2 0 holdFree) := hs1.setObj
  exact Canon.foldl hs2.withHomes (fun _ _ ht => ht.answer) _

theorem Canon.applyObj {o} (h : Canon s) : Canon (s.applyObj o) := by
  unfold State.applyObj
  extract_lets _ s1
  have hs1 : Canon s1 := h.makeLive
  split
  · split
    · exact h.reportObj
    · exact h.reportObj
    · exact h.reportObj
    · exact h.answerTrap
  · split
    · exact on_ite hs1.grant hs1.queueAt
    · exact on_ite hs1.grant.tick hs1.answer.tick
    · exact Canon.applied (on_ite hs1.setHold.serveLock hs1)
    · exact hs1.lateNotices.notePhase.arriveBar.applied
    · exact hs1.lateNotices.waitBar
    · exact hs1.lateNotices.notePhase.arriveBar.waitPhase
    · exact hs1.postSem
    · exact on_ite hs1.setObj.answer hs1.queueAt
    · exact hs1.answer

theorem OCanon.execObjectOperation {k} (h : Canon s) : OCanon (execObjectOperation k s) := by
  unfold Machine.execObjectOperation
  refine .next ?_
  split
  · exact on_ite h (on_ite (OnSome.getD h.taken.peerObj h) (on_ite h h.taken.applyObj))
  · exact on_ite h h.taken.countTrig
  · exact h

theorem Canon.freezeHalted (h : Canon s) : Canon s.freezeHalted :=
  h.foldl (fun _ _ ht => on_ite ht.updSlot ht) _

theorem Canon.reachHalt {c k} (h : Canon s) : Canon (s.reachHalt c k) :=
  on_ite h.updSlot.consumerHalt h

theorem Canon.reachHalts (h : Canon s) : Canon s.reachHalts :=
  h.foldl (fun _ _ ht => ht.reachHalt) _

theorem Canon.syncStatus (h : Canon s) : Canon s.syncStatus :=
  h.foldl (fun _ _ ht => on_ite ht ht.syncLaunch) _

theorem Canon.showMarks {o} (h : Canon s) : Canon (s.showMarks o) := by
  unfold State.showMarks
  split
  · exact h.syncHome.syncStatus
  · exact h.syncStatus

theorem OCanon.execWithholdNotice {k} (h : Canon s) : OCanon (execWithholdNotice k s) := by
  unfold Machine.execWithholdNotice
  extract_lets t
  have ht : Canon t := h.taken
  refine .next ?_
  split
  · exact on_ite h (on_ite (Canon.freezeHalted (Canon.reachHalts (Canon.showMarks (.of_mem rfl ht)))) ht)
  · exact h

theorem OCanon.execKeeperPost {k} (h : Canon s) : OCanon (execKeeperPost k s) := by
  unfold Machine.execKeeperPost
  refine .next ?_
  split
  · exact on_ite h h.taken.updCore
  · exact h

theorem Canon.keeperFault {c b} (h : Canon s) : Canon (s.keeperFault c b) := by
  unfold State.keeperFault
  extract_lets s1 _
  have hs1 : Canon s1 := h.updCore
  split
  · exact on_ite hs1.takeTrap hs1.updFiring
  · exact hs1.push
  · exact hs1

theorem OCanon.execKeeperSumRow {core} (h : Canon s) : OCanon (execKeeperSumRow core s) := by
  unfold Machine.execKeeperSumRow
  extract_lets _ _ _
  refine .next ?_
  split
  · exact h
  · extract_lets _ s1
    have hs1 : Canon s1 := h.updCore
    split
    · exact h
    · split
      · exact h.keeperFault
      · exact on_ite h (on_ite h (hs1.foldl (fun _ _ ht => ht.updCore) _))

theorem Canon.keeperRow {c row} (h : Canon s) : Canon (s.keeperRow c row) := by
  unfold State.keeperRow
  extract_lets r
  have hr : Canon r.2 := h.free
  split
  · split
    · exact h.updCore
    · exact hr.updCore
  · exact h

theorem Canon.deliverRow {id row} (h : Canon s) : Canon (s.deliverRow id row) := by
  unfold State.deliverRow
  extract_lets _
  refine Canon.foldl ?_ (fun _ _ ht => ?_) _
  · exact .of_mem rfl h
  · exact ht.updCore.keeperRow

theorem OCanon.execClOpRow {k} (h : Canon s) : OCanon (execClOpRow k s) := by
  unfold Machine.execClOpRow
  refine .next ?_
  split
  · exact on_ite h (on_ite h.deliverRow h)
  · exact h

theorem Canon.spreadParity {as} (h : Canon s) : Canon (s.spreadParity as) :=
  on_ite h (.of_mem rfl h)

theorem Canon.addRowAt {c off ty row} (h : Canon s) : Canon (s.addRowAt c off ty row) :=
  h.setBytes.spreadParity.updCore.updCore.wakeBank

theorem Canon.readTarget {r} (h : Canon s) : Canon (s.readTarget r) := by
  unfold State.readTarget
  extract_lets _
  split
  · exact h
  · split
    · exact h
    · exact OnSome.getD h.repair h.consumeAt

theorem OCanon.execMdrpAdd {k} (h : Canon s) : OCanon (execMdrpAdd k s) := by
  unfold Machine.execMdrpAdd
  refine .next ?_
  split
  · exact on_ite h (on_ite (Canon.push (h.taken.readTarget.foldl (fun _ _ ht => ht.addRowAt) _)) h.taken.push)
  · exact h

end Sys2Proof.Machine
end

/-! ## O36: a canonical memory kept: copy engines and the fabric -/
section
namespace Sys2Proof.Machine
open Sys2Proof.Claims

variable {s t : State}

theorem Canon.takeKicks {e k} (h : Canon s) : Canon (s.takeKicks e k) := by
  induction k generalizing s with
  | zero => exact h
  | succ k ih =>
    unfold State.takeKicks
    split
    · exact h
    · split
      · exact ih h.taken.enqueueCmd
      · exact h

theorem Canon.engineNear {e q a bs psn} (h : Canon s) : Canon (s.engineNear e q a bs psn) :=
  on_ite h.storeNear (Canon.watchEngine (on_ite h.storeNear.addPoison h.storeNear))

theorem Canon.copyNear {e q src dst n} (h : Canon s) : Canon (s.copyNear e q src dst n) :=
  on_ite h.engineNear (h.engineNear.foldl (fun _ _ ht => ht.addPoison) _)

theorem SCanon.copyPiece {e q src dst n} (h : Canon s) : SCanon (s.copyPiece e q src dst n) := by
  unfold State.copyPiece
  split
  · split
    · exact h.copyNear
    · exact SCanon.engineFar h
  · split
    · rename_i ht
      have hd := Canon.of_pair h.xlat ht
      exact hd
    · rename_i ht
      have hd := Canon.of_pair h.xlat ht
      split
      · split
        · exact hd.integrity
        · split
          · exact hd.copyNear
          · exact SCanon.engineFar hd
      · exact SCanon.sendReq hd

theorem SCanon.endPut {e q d bs psn} (h : Canon s) : SCanon (s.endPut e q d bs psn) := by
  unfold State.endPut
  split
  · exact h.engineNear
  · exact SCanon.engineFar h

theorem Canon.xlatParts {e q ps} (h : Canon s) : Canon (s.xlatParts e q ps).2 := by
  induction ps generalizing s with
  | nil => exact h
  | cons p rest ih =>
    unfold State.xlatParts
    split
    next hr => exact h.xlat.of_pair hr
    next u hr =>
      have hu := ih (h.xlat.of_pair hr)
      split
      next hv => exact hu.of_pair hv
      next => exact hu

theorem Canon.putParts {ps bs psn} (h : Canon s) : Canon (s.putParts ps bs psn) := by
  induction ps generalizing s bs with
  | nil => exact h
  | cons p rest ih => exact ih h.putPoison

theorem SCanon.alter {e q va ps host psn new} (h : Canon s) : SCanon (s.alter e q va ps host psn new) := by
  unfold State.alter
  extract_lets _ _
  split
  · exact h.integrity
  · exact on_ite (SCanon.poisonStop h) h.putParts.watchEngine

theorem SCanon.addFar {e q va tc src} (h : Canon s) : SCanon (s.addFar e q va tc src) := by
  unfold State.addFar
  extract_lets _ _ _
  split
  · rename_i ht
    have hd := Canon.of_pair h.xlatParts ht
    exact hd
  · rename_i ht
    have hd := Canon.of_pair h.xlatParts ht
    split
    · exact SCanon.alter hd
    · exact SCanon.watched (SCanon.sendData hd)

theorem SCanon.micro {e q m} (h : Canon s) : SCanon (s.micro e q m) := by
  unfold State.micro
  split
  · exact SCanon.copyPiece h
  · exact SCanon.endPut h
  · extract_lets _ _
    split
    · exact h.engineNear
    · exact SCanon.addFar h
  · extract_lets _ _
    split
    · rename_i ht
      have hd := Canon.of_pair h.xlat ht
      exact hd
    · rename_i ht
      have hd := Canon.of_pair h.xlat ht
      split
      · split
        · rename_i ht1
          have hd1 : Canon _ := SCanon.of_eq (SCanon.alter hd) ht1
          exact hd1.engineNear
        · exact SCanon.alter hd
      · exact SCanon.watched (SCanon.sendReq hd)

theorem Canon.runTodo {e k} (h : Canon s) : Canon (s.runTodo e k) := by
  induction k generalizing s with
  | zero => exact h.endCmd
  | succ k ih =>
    unfold State.runTodo
    split
    next q m rest hq ht =>
      have hm := SCanon.micro (e := e) (q := q) (m := m) h
      refine on_ite h ?_
      split
      next hr =>
        have hd : Canon _ := hm.of_eq hr
        exact ih hd.updEngine
      next => exact h
      next hr =>
        have hd : Canon _ := hm.of_eq hr
        exact hd.failCmd
    next => exact h.endCmd

theorem Canon.noteSignal {h1 q} (h : Canon s) : Canon (s.noteSignal h1 q) :=
  h.updFiring

theorem Canon.signal {e q} (h : Canon s) : Canon (s.signal e q) := by
  unfold State.signal
  extract_lets r hm o req
  have hf := SCanon.farRelease (e := e) (ctx := q.ctx) (peer := bits r 31 5) (r := req) h
  refine on_ite h.failCmd (on_ite ?_ (on_ite h.updEngine (on_ite h.failCmd h.makeLive.lateNotices.noteSignal.arriveBar.endCmd)))
  split
  next hr =>
    rw [hr] at hf
    have hd : Canon _ := hf
    exact on_ite hd.updFiring.updEngine hd.updFiring
  next => exact h.updEngine
  next hr =>
    rw [hr] at hf
    have hd : Canon _ := hf
    exact hd.failCmd

theorem Canon.invoke {e q} (h : Canon s) : Canon (s.invoke e q) := by
  unfold State.invoke
  extract_lets _ _ _ _ _
  split
  · exact h.failCmd
  · split
    · rename_i ht
      have hd : Canon _ := SCanon.of_eq (SCanon.sendReq h) ht
      exact hd.updEngine
    · rename_i ht
      have hd := SCanon.of_eq (SCanon.sendReq h) ht
      exact h.updEngine
    · rename_i ht
      have hd : Canon _ := SCanon.of_eq (SCanon.sendReq h) ht
      exact hd.failCmd

theorem Canon.wqry {e q} (h : Canon s) : Canon (s.wqry e q) :=
  on_ite h.failCmd (on_ite (on_ite h.failCmd (Canon.endCmd (Canon.servePitch (.of_mem rfl h)))) (on_ite h.failCmd (Canon.servePitch
    (Canon.updEngine (.of_mem rfl h)))))

theorem Canon.runCmd {e q} (h : Canon s) : Canon (s.runCmd e q) := by
  unfold State.runCmd
  extract_lets s1
  have hs1 : Canon s1 := h.updEngine
  split
  · exact hs1.failCmd
  · split
    · exact hs1.signal
    · exact hs1.invoke
    · exact hs1.wqry
    · split
      · exact hs1.microPoison
      · split
        · exact hs1.failCmd
        · exact hs1.updEngine.runTodo

theorem Canon.unmark {r} (h : Canon s) : Canon (s.unmark r) := by
  unfold State.unmark
  extract_lets s1 s2
  have hs1 : Canon s1 := h.landImages.clearMark
  have hs2 : Canon s2 := by
    unfold s2
    clear_value s1
    exact .of_mem rfl hs1
  clear_value s2
  exact (hs2.landGuards hs2).applyDbg

theorem Canon.handCmd {e q} (h : Canon s) : Canon (s.handCmd e q) :=
  h.updEngine.setBytes.updSlot

theorem Canon.takeCmd {e} (h : Canon s) : Canon (s.takeCmd e) := by
  unfold State.takeCmd
  extract_lets _
  split
  · exact h.updEngine.runCmd
  · split
    · exact h
    · extract_lets s1 s2
      have hs1 : Canon s1 := h.updEngine
      have hs2 : Canon s2 := by
        unfold s2
        split
        · exact hs1.feed
        · exact hs1
      split
      · exact h
      · exact h.updEngine.unmark
      · exact on_ite h (on_ite hs2.handCmd (on_ite hs2.updEngine hs2.runCmd))

theorem OCanon.execEngineCommandStart {cluster s₀} (h : Canon s₀) : OCanon (execEngineCommandStart cluster s₀) := by
  unfold Machine.execEngineCommandStart
  extract_lets s _
  have hs : Canon s := h.takeKicks
  refine .next ?_
  split
  · exact hs
  · split
    · exact on_ite hs hs.runTodo
    · exact hs.takeCmd

theorem OCanon.execTranslationWalk {cluster ctx va write} (h : Canon s) : OCanon (execTranslationWalk cluster ctx va write s) := by
  unfold Machine.execTranslationWalk
  extract_lets _
  refine .next ?_
  split
  · split
    · split
      · rename_i ht
        have hd := Canon.of_pair h.xlat ht
        exact hd
      · rename_i ht
        have hd := Canon.of_pair h.xlat ht
        exact hd.failCmd
    · exact h
  · exact h

theorem Canon.settledRel {r} (h : Canon s) : Canon (s.settledRel r) :=
  .of_mem rfl h

theorem Canon.answerPeer {h1 code} (h : Canon s) : Canon (s.answerPeer h1 code) :=
  h.fabReply

theorem Canon.takeImage {e h1 img lost} (h : Canon s) : Canon (s.takeImage e h1 img lost) := by
  unfold State.takeImage
  refine on_ite ?_ h.arrive.answerPeer
  dsimp only
  split
  · exact h.answerPeer
  · exact on_ite h.answerPeer h.applyObj

theorem Canon.applyRel {e r} (h : Canon s) : Canon (s.applyRel e r) :=
  on_ite h.updEngine.settledRel (on_ite h.updEngine.settledRel.answerPeer h.updEngine.settledRel.takeImage)

theorem Canon.applyRels {k} (h : Canon s) : Canon (s.applyRels k) := by
  induction k generalizing s with
  | zero => exact h
  | succ k ih =>
    unfold State.applyRels
    split
    · exact h
    · exact ih h.applyRel

theorem Canon.applyHeld (h : Canon s) : Canon s.applyHeld :=
  h.applyRels

theorem Canon.marker {e src sdev plane cls seq} (h : Canon s) : Canon (s.marker e src sdev plane cls seq) :=
  h.updEngine.applyHeld

theorem OCanon.execFlushMarker {cluster src plane cls seq} (h : Canon s) : OCanon (execFlushMarker cluster src plane cls seq s) :=
  .next (on_ite h.marker h)

theorem Canon.drop {n} (h : Canon s) : Canon (s.drop n) :=
  .of_mem rfl h

theorem Canon.holdRelease {e h1 payload} (h : Canon s) : Canon (s.holdRelease e h1 payload) :=
  h.updEngine.applyHeld

theorem Canon.servePlace {e ctx va write} (h : Canon s) : Canon (s.servePlace e ctx va write).2 := by
  unfold State.servePlace
  extract_lets _
  split
  · exact h
  · split
    · exact h.cacheFrame
    · exact h
    · exact h
    · exact h.integrity

theorem Canon.serveParts {e ctx write ps} (h : Canon s) : Canon (s.serveParts e ctx write ps).2 := by
  induction ps generalizing s with
  | nil => exact h
  | cons p rest ih =>
    unfold State.serveParts
    split
    next hr => exact h.servePlace.of_pair hr
    next u hr =>
      have hu := ih (h.servePlace.of_pair hr)
      split
      next hv => exact hu.of_pair hv
      next => exact hu

theorem Canon.refusePoison {e h1 ctx} (h : Canon s) : Canon (s.refusePoison e h1 ctx) :=
  h.faultMsg.answerPeer

theorem Canon.replyBytes {h1 op bs psn} (h : Canon s) : Canon (s.replyBytes h1 op bs psn) :=
  on_ite h.answerPeer h.fabReply

theorem Canon.serve {e h1 payload} (h : Canon s) : Canon (s.serve e h1 payload) := by
  unfold State.serve
  extract_lets _ _ _ _ _ _ _ _
  split
  · rename_i ht
    have hd := Canon.of_pair h.serveParts ht
    exact hd.answerPeer
  · rename_i ht
    have hd := Canon.of_pair h.serveParts ht
    extract_lets _ _
    split
    · exact hd.integrity.answerPeer
    · split
      · exact hd.refusePoison
      · clear_value *
        split
        · exact hd.replyBytes
        · exact hd.putParts.replyBytes
        · exact hd.putParts.replyBytes

theorem OCanon.execFabricRequest {cluster plane hdr payload} (h : Canon s) : OCanon (execFabricRequest cluster plane hdr payload s) :=
  .next (on_ite h (on_ite h.drop (on_ite h.marker (on_ite (Canon.holdRelease (on_ite h h.drop)) (on_ite h.drop (on_ite h.answerPeer
    (on_ite h.serve (on_ite h h.takeImage))))))))

theorem Canon.countStale {e ctx} (h : Canon s) : Canon (s.countStale e ctx) :=
  h.updCtx

theorem Canon.objReply {o code vals} (h : Canon s) : Canon (s.objReply o code vals) := by
  unfold State.objReply
  extract_lets _ _ _ _
  split
  · exact on_ite h.reportObj h.answerTrap
  · split
    · exact h
    · exact h
    · exact h.updFiring
    · exact h.updFiring.answer
    · exact on_ite h.answer (on_ite h.lockGiven.answer h.push)
    · exact on_ite h.answer (on_ite h.lockGiven.answer h.push)
    · exact on_ite h.answer h.push
    · exact h.answer

theorem Canon.answered {e} (h : Canon s) : Canon (s.answered e) :=
  on_ite h.updEngine.endCmd h.updEngine.runTodo

theorem Canon.endMicrocode {e v} (h : Canon s) : Canon (s.endMicrocode e v) :=
  h.updSlot.failCmd

theorem Canon.failed {e v} (h : Canon s) : Canon (s.failed e v) :=
  on_ite h.updEngine.endMicrocode h.updEngine.failCmd

theorem Canon.putLater {e dst bs psn} (h : Canon s) : Canon (s.putLater e dst bs psn) :=
  h.updEngine

theorem Canon.takeReply {e t code bs psn} (h : Canon s) : Canon (s.takeReply e t code bs psn) := by
  unfold State.takeReply
  split
  · exact h.tokenTo
  · exact h.objReply
  · exact on_ite h.land.answered (on_ite h.failed (on_ite h.failed h.land.answered))
  · exact h.land.answered
  · exact h.updEngine.answered
  · exact on_ite h.answered h.failed
  · split
    · exact h
    · exact on_ite h.failed (on_ite h.putLater h.engineNear.answered)
  · split
    · exact h
    · split
      · exact h.failed
      · split
        · rename_i ht
          have hd : Canon _ := SCanon.of_eq (SCanon.engineFar h) ht
          exact hd.answered
        · rename_i ht
          have hd := SCanon.of_eq (SCanon.engineFar h) ht
          exact h.putLater
        · rename_i ht
          have hd : Canon _ := SCanon.of_eq (SCanon.engineFar h) ht
          exact hd.failed

theorem OCanon.execFabricReply {cluster hdr payload} (h : Canon s) : OCanon (execFabricReply cluster hdr payload s) :=
  .next (on_ite h (on_ite h.drop (on_ite h.countStale h.updEngine.takeReply)))

theorem OCanon.execLossNotice {cluster sdev plane} (h : Canon s) : OCanon (execLossNotice cluster sdev plane s) :=
  .next (on_ite h h.updEngine.updEngine.applyHeld)

theorem Canon.expire {e c} (h : Canon s) : Canon (s.expire e c) := by
  unfold State.expire
  split
  · exact h.tokenTo
  · exact h.objReply
  · exact h.failed

theorem OCanon.execRequesterTimeOut {cluster tag} (h : Canon s) : OCanon (execRequesterTimeOut cluster tag s) :=
  .next (on_ite h.updEngine.expire h)

theorem OCanon.execTagHoldExpiry {cluster tag} (h : Canon s) : OCanon (execTagHoldExpiry cluster tag s) :=
  .next (on_ite h.updEngine h)

theorem OCanon.execFlitDiscard {n} (h : Canon s) : OCanon (execFlitDiscard n s) :=
  .next h.drop

theorem Canon.updPlane {p f} (h : Canon s) : Canon (s.updPlane p f) :=
  .of_mem rfl h

theorem Canon.mboxAnswer {fn code data} (h : Canon s) : Canon (s.mboxAnswer fn code data) :=
  .of_mem rfl h

theorem OCanon.execLinkErrorRateChange {plane peer q} (h : Canon s) : OCanon (execLinkErrorRateChange plane peer q s) :=
  .next (on_ite h (on_ite h.updPlane.free.mboxAnswer h.updPlane))

theorem Canon.meets (h : Canon s) : Canon s.meets.2 :=
  .of_mem rfl h

theorem Canon.faultRecord {m} (h : Canon s) : Canon (s.faultRecord m) :=
  h.post

theorem Canon.serveBackstop {row} (h : Canon s) : Canon (s.serveBackstop row) := by
  unfold State.serveBackstop
  refine Canon.foldl ?_ (fun _ _ ht => ?_) _
  · exact .of_mem rfl h
  · exact ht.faultRecord

theorem Canon.backstopTakes {m} (h : Canon s) : OnSome Canon (s.backstopTakes m) := by
  unfold State.backstopTakes
  extract_lets _
  split
  · exact trivial
  · extract_lets w
    have hw : Canon w.2 := Canon.meets (.of_mem rfl h)
    exact on_ite hw hw.serveBackstop

theorem OCanon.execTrapMessage {k} (h : Canon s) : OCanon (execTrapMessage k s) := by
  unfold Machine.execTrapMessage
  extract_lets t w r
  have ht : Canon t := h.taken
  have hw : Canon w.2 := ht.meets
  have hr : Canon r := hw
  refine .next ?_
  split
  · split
    · exact on_ite (.of_mem rfl hr) (OnSome.getD hw.backstopTakes h)
    · exact OnSome.getD ht.backstopTakes h
  · exact h.foldl (fun _ _ hu => hu.serveBackstop) _

end Sys2Proof.Machine
end

/-! ## O36: a canonical memory kept: slots, cores and dies -/
section
namespace Sys2Proof.Machine
open Sys2Proof.Claims

variable {s t : State}

theorem OCanon.execDependentLaunchStart {l} (h : Canon s) : OCanon (execDependentLaunchStart l s) := by
  unfold Machine.execDependentLaunchStart
  refine .next ?_
  split
  · exact on_ite h.updLaunch h
  · exact h

theorem OCanon.execComposeGrant {core} (h : Canon s) : OCanon (Machine.execComposeGrant core s) := by
  unfold Machine.execComposeGrant
  extract_lets k t u
  have ht : Canon t := h
  have hu : Canon u := (ht.compose.noteIssue ht).count.retire
  clear_value u
  exact .next (on_ite hu h)

theorem Canon.preempt {c k due} (h : Canon s) : Canon (s.preempt c k due) := by
  unfold State.preempt
  extract_lets s1 x v s2 s3
  have hs1 : Canon s1 := on_ite h.handback h
  have hs2 : Canon s2 := hs1.saveArea
  have hs3 : Canon s3 := by
    unfold s3
    clear_value s2
    exact Canon.freeClaim (.of_mem rfl hs2)
  clear_value s3
  exact hs3.updSlot.updCore

theorem Canon.preemptSeat {c k due} (h : Canon s) : Canon (s.preemptSeat c k due) :=
  on_ite h.preempt.updCore h

theorem Canon.preemptAsked {c k} (h : Canon s) : Canon (s.preemptAsked c k) :=
  on_ite h.preemptSeat h.updCore

theorem OCanon.execPreemption {core slot} (h : Canon s) : OCanon (execPreemption core slot s) :=
  .next (on_ite (on_ite h.preemptAsked (on_ite h.preemptSeat h)) h)

theorem OCanon.execResume {core slot} (h : Canon s) : OCanon (execResume core slot s) := by
  unfold Machine.execResume
  extract_lets _
  refine .next ?_
  split
  · exact h
  · extract_lets t
    have ht : Canon t := h.bringBack.updCore
    exact on_ite (Canon.reachHalt (Canon.thawHalted (.of_mem rfl ht))) h

theorem Canon.undoJournal {j} (h : Canon s) : Canon (s.undoJournal j) :=
  h.foldl (fun _ _ ht => ht.setBytes.flushRa) _

theorem Canon.discardArray {c k fid} (h : Canon s) : Canon (s.discardArray c k fid) := by
  unfold State.discardArray
  extract_lets _
  split
  · exact on_ite h.updCore h
  · exact h

theorem Canon.relaunch {x} (h : Canon s) : Canon (s.relaunch x) :=
  on_ite h.countEnd (on_ite h h.updLaunch)

theorem Canon.undo {c k} (h : Canon s) : Canon (s.undo c k) :=
  Canon.count (Canon.relaunch (Canon.applyDbg (Canon.updSlot (Canon.updCore (Canon.unfeed (Canon.discardArray
    (on_ite h.undoJournal.dissolve h.undoJournal)))))))

theorem Canon.killDoomed {c k cause} (h : Canon s) : Canon (s.killDoomed c k cause) :=
  Canon.haltSlot (Canon.updSlot (on_ite h.handback h))

theorem Canon.dropWaits {c k fid} (h : Canon s) : Canon (s.dropWaits c k fid) :=
  .of_mem rfl h

theorem Canon.returnReplies {v} (h : Canon s) : Canon (s.returnReplies v) :=
  on_ite h.updSlot h

theorem Canon.freedMessage {c x} (h : Canon s) : Canon (s.freedMessage c x) := by
  unfold State.freedMessage
  split
  · exact on_ite h.msgFault h
  · exact h

theorem Canon.scoreSaved {v} (h : Canon s) : Canon (s.scoreSaved v) :=
  h.updSlot.scoreEnd.setSlot

theorem Canon.abandonSaved {v killed} (h : Canon s) : Canon (s.abandonSaved v killed) := by
  unfold State.abandonSaved
  extract_lets _ t r s1 s2 s3 s4 _ s21
  have ht : Canon t := h.dropWaits
  have hr : Canon r := h.dropWaits.discardArray
  have hs1 : Canon s1 := Canon.returnReplies (.of_mem rfl hr)
  have hs2 : Canon s2 := hs1.undoJournal.unfeed.relaunch
  have hs3 : Canon s3 := hs2.updCore
  have hs4 : Canon s4 := hs3.count
  have hs21 : Canon s21 := Canon.freedMessage (on_ite hs1 hs1.scoreSaved)
  split
  · exact .of_mem rfl ht
  · split
    · split
      · exact on_ite (on_ite hs4.updCtx hs4.fileMsg) hs4
      · exact hs4
    · exact Canon.countEnd (Canon.unfeed (.of_mem rfl hs21))

theorem Canon.rollSaved {core slot} (h : Canon s) : Canon (s.rollSaved core slot) := by
  unfold State.rollSaved
  split
  · exact h.abandonSaved
  · exact h

theorem OCanon.execRollback {core slot} (h : Canon s) : OCanon (execRollback core slot s) :=
  .next (on_ite (on_ite (on_ite h.undo h) (on_ite h.killDoomed h.kill)) h.rollSaved)

theorem OCanon.execTimeSliceExpiry {core slot} (h : Canon s) : OCanon (execTimeSliceExpiry core slot s) :=
  .next (on_ite (on_ite h.preemptSeat h.updSlot) h)

theorem OCanon.execWaitTimeOut {core slot} (h : Canon s) : OCanon (execWaitTimeOut core slot s) := by
  unfold Machine.execWaitTimeOut
  extract_lets _
  refine .next ?_
  split
  · exact on_ite h.dropWaits.updSlot h
  · exact h

theorem OCanon.execComposeWaitBound {core} (h : Canon s) : OCanon (execComposeWaitBound core s) :=
  .next (on_ite h.takeTrap h)

theorem OCanon.execAlgnHoldExpiry {core slot} (h : Canon s) : OCanon (execAlgnHoldExpiry core slot s) := by
  unfold Machine.execAlgnHoldExpiry
  extract_lets _
  refine .next ?_
  split
  · exact on_ite h.updSlot h
  · exact h

theorem Canon.postMiss {core slot x saved} (h : Canon s) : Canon (s.postMiss core slot x saved) :=
  h.post

theorem OCanon.execDeadlineMiss {core slot} (h : Canon s) : OCanon (execDeadlineMiss core slot s) := by
  unfold Machine.execDeadlineMiss
  extract_lets _
  refine .next ?_
  split
  · exact h.postMiss.updSlot
  · split
    · exact .of_mem rfl h.postMiss
    · exact h

theorem Canon.fenceRecords {c code src spare} (h : Canon s) : Canon (s.fenceRecords c code src spare) :=
  h.logError.foldl (fun _ _ ht => ht.reportTo) _

theorem Canon.pruneHalts (h : Canon s) : Canon s.pruneHalts :=
  .of_mem rfl h

theorem Canon.clearMarks {h1} (h : Canon s) : Canon (s.clearMarks h1) :=
  .of_mem rfl h

theorem Canon.runOn {h1} (h : Canon s) : Canon (s.runOn h1) :=
  on_ite h.updSlot (.of_mem rfl h)

theorem Canon.tryResume {h1} (h : Canon s) : Canon (s.tryResume h1) := by
  unfold State.tryResume
  split
  · exact h
  · split
    · exact h
    · extract_lets _
      split
      · exact h.runOn.clearMarks
      · exact on_ite h (.of_mem rfl h)

theorem Canon.resumeAll {k} (h : Canon s) : Canon (s.resumeAll k) := by
  induction k generalizing s with
  | zero => exact h
  | succ k ih => exact ih (h.foldl (fun _ _ ht => ht.tryResume) _)

theorem Canon.afterClear (h : Canon s) : Canon s.afterClear :=
  Canon.freezeHalted (Canon.thawHalted (Canon.pruneHalts (Canon.syncStatus (Canon.resumeAll (h.foldl (fun _ _ ht => ht.syncHome) _)))))

theorem Canon.rollBack {c k} (h : Canon s) : Canon (s.rollBack c k) :=
  on_ite h.undo h.updSlot

theorem Canon.undoHalted {c k} (h : Canon s) : Canon (s.undoHalted c k) := by
  unfold State.undoHalted
  extract_lets _
  split
  · exact h.dropWaits.rollBack.clearMarks.afterClear
  · exact h

theorem Canon.doomHalted {c k cause} (h : Canon s) : Canon (s.doomHalted c k cause) :=
  on_ite h (Canon.updCore (Canon.updSlot (Canon.scoreEnd (on_ite h.handback h))))

theorem Canon.fenceFiring {c k cause spare} (h : Canon s) : Canon (s.fenceFiring c k cause spare) := by
  unfold State.fenceFiring
  extract_lets _
  split
  · exact on_ite h (on_ite h.updSlot h.kill)
  · exact on_ite h.undoHalted h.doomHalted
  · exact h

theorem Canon.dumpScores {c} (h : Canon s) : Canon (s.dumpScores c) :=
  h.foldl (fun _ _ ht => on_ite ht.trace ht) _

theorem Canon.fenceCore {c cause} (h : Canon s) : Canon (s.fenceCore c cause) := by
  unfold State.fenceCore
  extract_lets _ s1 s2 s3
  have hs1 : Canon s1 := h.fenceRecords
  have hs2 : Canon s2 := by
    unfold s2
    split
    · exact hs1.fenceFiring
    · exact hs1
  have hs3 : Canon s3 := hs2.foldl (fun _ _ ht => ht.fenceFiring) _
  exact on_ite h hs3.dumpScores.updCore

theorem OCanon.execWatchdogTrip {core} (h : Canon s) : OCanon (execWatchdogTrip core s) :=
  .next (on_ite h.fenceCore h)

theorem Canon.copyParity {core} (h : Canon s) : Canon (s.copyParity core) :=
  on_ite h h.spreadParity

theorem OCanon.execBenchRemap {core} (h : Canon s) : OCanon (execBenchRemap core s) :=
  .next (on_ite h.copyParity.updDie.updCore.applyHeld h)

theorem Canon.zeroWindow {core slot} (h : Canon s) : Canon (s.zeroWindow core slot) :=
  Canon.wakeBanks (Canon.updCore (h.filter _ rfl))

theorem OCanon.execWindowZeroed {core slot} (h : Canon s) : OCanon (execWindowZeroed core slot s) :=
  .next (on_ite h.zeroWindow.updSlot h)

theorem OCanon.execBankReady {core bank} (h : Canon s) : OCanon (execBankReady core bank s) := by
  unfold Machine.execBankReady
  refine .next ?_
  split
  · exact on_ite h.updCore h
  · exact h

theorem OCanon.execRetentionWake {core bank} (h : Canon s) : OCanon (execRetentionWake core bank s) :=
  .next (on_ite h.updCore h)

theorem Canon.unbindRelease {ref} (h : Canon s) : Canon (s.unbindRelease ref) :=
  on_ite (on_ite h.updCur.push h.updCur.applyObj) h

theorem Canon.bindDone {unbind q} (h : Canon s) : Canon (s.bindDone unbind q) := by
  unfold State.bindDone
  extract_lets s1
  have hs1 : Canon s1 := on_ite h.unbindRelease h
  split
  · exact h
  · split
    · exact hs1.updCtx.updCur
    · exact hs1.updCur

theorem OCanon.execBindComplete {core slot} (h : Canon s) : OCanon (execBindComplete core slot s) := by
  unfold Machine.execBindComplete
  extract_lets t u
  have ht : Canon t := .of_mem rfl h
  have hu : Canon u := by
    unfold u
    split
    · exact ht.bindDone
    · exact ht.bindDone
    · exact ht
  exact .next (on_ite (.of_mem rfl hu) h)

theorem Canon.noteRetry {c k x n} (h : Canon s) : Canon (s.noteRetry c k x n) :=
  on_ite h.updFiring.updLaunch h.updFiring.updCore

theorem Canon.killSaved {v cause} (h : Canon s) : Canon (s.killSaved v cause) := by
  unfold State.killSaved
  extract_lets t u
  have ht : Canon t := h.setSlot.kill
  have hu : Canon u := by
    unfold u
    clear_value t
    exact Canon.setSlot (.of_mem rfl ht)
  clear_value u
  exact on_ite hu.fenceCtx hu

theorem Canon.stopSaved {v cause} (h : Canon s) : Canon (s.stopSaved v cause) := by
  unfold State.stopSaved
  extract_lets _ t
  have ht : Canon t := h.abandonSaved
  split
  · split
    · exact ht.clearMarks.afterClear
    · exact ht
  · exact on_ite h.killSaved (on_ite h h.scoreSaved.updFiring.updCore)

theorem Canon.endUnsettled {c k killed} (h : Canon s) : Canon (s.endUnsettled c k killed) :=
  Canon.countEnd (Canon.updSlot (Canon.freeClaim (Canon.discardArray (Canon.unfeed (Canon.dropLocks (Canon.freedMessage (on_ite
    (on_ite h.handback h) (Canon.scoreEnd (on_ite h.handback h)))))))))

theorem Canon.abandon {c k killed} (h : Canon s) : Canon (s.abandon c k killed) :=
  on_ite (Canon.rollBack (on_ite h.dropWaits.handback h.dropWaits)) h.dropWaits.endUnsettled

theorem Canon.stopFiring {c k fid cause} (h : Canon s) : Canon (s.stopFiring c k fid cause) := by
  unfold State.stopFiring
  extract_lets _
  split
  · exact h.stopSaved
  · split
    · split
      · split
        · exact h.abandon.clearMarks.afterClear
        · exact h
      · exact h.doomHalted
    · exact on_ite h.rollBack h.kill

theorem Canon.mismatch {c k x q dsig ssig} (h : Canon s) : Canon (s.mismatch c k x q dsig ssig) :=
  on_ite (Canon.fenceCore (Canon.stopFiring (on_ite (Canon.freeClaim (on_ite h.updCore.record.noteRetry h.updCore.record))
    (on_ite h.updCore.record.noteRetry h.updCore.record)))) (Canon.stopFiring (on_ite (Canon.freeClaim
      (on_ite h.updCore.record.noteRetry h.updCore.record)) (on_ite h.updCore.record.noteRetry h.updCore.record)))

theorem OCanon.execUmpireCheck {core slot dsig ssig} (h : Canon s) : OCanon (execUmpireCheck core slot dsig ssig s) := by
  unfold Machine.execUmpireCheck
  extract_lets _
  refine .next ?_
  split
  · exact on_ite h.updSlot h.updSlot.mismatch
  · split
    · exact h
    · extract_lets _
      split
      · exact h
      · exact on_ite (.of_mem rfl h) (Canon.mismatch (.of_mem rfl h))

theorem Canon.servePitches (h : Canon s) : Canon s.servePitches :=
  h.foldl (fun _ _ ht => ht.servePitch) _

theorem Canon.afterTest {c test inst} (h : Canon s) : Canon (s.afterTest c test inst) := by
  unfold State.afterTest
  extract_lets _ _
  split
  · exact Canon.updCore (h.filter _ rfl)
  · exact h.updCore
  · exact h

theorem OCanon.execBistComplete {core fail first} (h : Canon s) : OCanon (execBistComplete core fail first s) := by
  unfold Machine.execBistComplete
  refine .next ?_
  split
  · exact h
  · exact on_ite h.afterTest.updCore.landToken.servePitches.record h.afterTest.updCore.landToken.servePitches

theorem OCanon.execRailSettled {die rail} (h : Canon s) : OCanon (execRailSettled die rail s) :=
  .next (on_ite h.updDie h)

theorem OCanon.execSetRotation {core} (h : Canon s) : OCanon (execSetRotation core s) :=
  .next (on_ite h.updCore h)

theorem Canon.sample {ctx c} (h : Canon s) : Canon (s.sample ctx c) := by
  unfold State.sample
  split
  · exact on_ite h.trace h
  · exact h

theorem OCanon.execPcSample {ctx cores} (h : Canon s) : OCanon (execPcSample ctx cores s) :=
  .next (on_ite (Canon.updCtx (h.foldl (fun _ _ ht => ht.sample) _)) h)

theorem OCanon.execTemperatureUpdate {die temp} (h : Canon s) : OCanon (execTemperatureUpdate die temp s) :=
  .next (on_ite h.updDie h)

theorem OCanon.execSnapshotTrigger (h : Canon s) : OCanon (execSnapshotTrigger s) := by
  unfold Machine.execSnapshotTrigger
  refine .next ?_
  split
  · exact h
  · exact on_ite (.of_mem rfl h) h

theorem OCanon.execLoopbackStart {plane len} (h : Canon s) : OCanon (execLoopbackStart plane len s) :=
  .next (on_ite h.updPlane h)

theorem OCanon.execPlaneOut {plane out} (h : Canon s) : OCanon (execPlaneOut plane out s) :=
  .next (on_ite h.updPlane h)

theorem OCanon.execLoopbackDone {plane errs} (h : Canon s) : OCanon (execLoopbackDone plane errs s) :=
  .next (on_ite h.updPlane h)

theorem Canon.putBind {core k rec} (h : Canon s) : Canon (s.putBind core k rec) :=
  on_ite h.updSlot.updCore.zeroWindow h.updSlot.updCore

theorem OCanon.execBindRecordWrite {core slot rec} (h : Canon s) : OCanon (execBindRecordWrite core slot rec s) :=
  .next (on_ite (on_ite h (on_ite h.updCore h.putBind)) h)

theorem OCanon.execPreemptionRequest {core slot} (h : Canon s) : OCanon (execPreemptionRequest core slot s) :=
  .next (on_ite h.updCore h)

theorem OCanon.execFenceWrite {core} (h : Canon s) : OCanon (execFenceWrite core s) :=
  .next (on_ite h.fenceCore h)

end Sys2Proof.Machine
end

/-! ## O36: a canonical memory kept: the host and the mailbox -/
section
namespace Sys2Proof.Machine
open Sys2Proof.Claims

variable {s t : State}

theorem Canon.unsupported (h : Canon s) : Canon s.unsupported :=
  .of_mem rfl h

theorem Canon.filed {fn slot code} (h : Canon s) : Canon (s.filed fn slot code) := by
  unfold State.filed
  split
  · exact h.setStatus
  · exact h.setStatus
  · exact h.setStatus

theorem Canon.submit {fn h1 words} (h : Canon s) : Canon (s.submit fn h1 words) :=
  on_ite h.setStatus (on_ite (on_ite h.startLaunch (on_ite h.startLaunch.setStatus.raise h.startLaunch.setStatus)) h.arrive.filed)

theorem OCanon.execInboxWrite {fn off bytes} (h : Canon s) : OCanon (execInboxWrite fn off bytes s) :=
  .next (on_ite h (on_ite h.unsupported (on_ite h h.submit)))

theorem OCanon.execStatusFree {fn slot} (h : Canon s) : OCanon (execStatusFree fn slot s) :=
  .next (on_ite h (on_ite (.of_mem rfl h) (Canon.setStatus (.of_mem rfl h))))

theorem Canon.mailbox {fn refusal f} (h : Canon s) (hf : ∀ t0, Canon t0 → Canon (f t0)) : Canon (mailbox fn refusal s f) := by
  unfold Machine.mailbox
  split
  · exact h
  · split
    · exact h.mboxAnswer
    · split
      · exact h.mboxAnswer
      · exact hf _ h

theorem Canon.clearTraceHeader {ctx} (h : Canon s) : Canon (s.clearTraceHeader ctx) := by
  unfold State.clearTraceHeader
  split
  · exact h
  · split
    · exact h.integrity
    · exact OnSome.getD h.putFar h

theorem OCanon.execCreate {fn ctx debuggable poisonFwd sup mbase msize root obase osize tbase tsize} (h : Canon s) : OCanon
  (execCreate fn ctx debuggable poisonFwd sup mbase msize root obase osize tbase tsize s) :=
  .next (h.mailbox (fun _ ht => on_ite ht.mboxAnswer ht.newId.updCtx.clearTraceHeader.mboxAnswer))

theorem Canon.loadSlice {core off bs} (h : Canon s) : Canon (s.loadSlice core off bs) :=
  Canon.flushRa (Canon.clearPoison (Canon.setBytes (.of_mem rfl h)))

theorem Canon.retag {a n} (h : Canon s) : Canon (s.retag a n) :=
  on_ite h (.of_mem rfl h)

theorem Canon.scatter {l bs} (h : Canon s) : Canon (s.scatter l bs) := by
  induction l generalizing s bs with
  | nil => exact h
  | cons p rest ih => exact ih h.retag.putPoison

theorem Canon.applyRec {ctx cores r} (h : Canon s) : OnSome Canon (s.applyRec ctx cores r) := by
  unfold State.applyRec
  split
  · exact h.foldl (fun _ _ ht => on_ite ht.loadSlice ht) _
  · exact OnSome.map (fun _ _ => h.scatter)
  · exact h

theorem Canon.applyRecs {ctx cores l} (h : Canon s) : OnSome Canon (s.applyRecs ctx cores l) := by
  induction l generalizing s with
  | nil => exact h
  | cons r rest ih =>
    unfold State.applyRecs
    split
    next ht => exact ih (h.applyRec.of_eq ht)
    next => trivial

theorem Canon.loadImage {ctx img cores} (h : Canon s) : OnSome Canon (s.loadImage ctx img cores) := by
  unfold State.loadImage
  split
  · exact trivial
  · exact on_ite trivial h.setBytes.updCtx.applyRecs

theorem OCanon.execLoadImage {fn ctx va len cores} (h : Canon s) : OCanon (execLoadImage fn ctx va len cores s) := by
  unfold Machine.execLoadImage
  refine .next ?_
  refine Canon.mailbox h (fun _ ht => ?_)
  split
  · exact ht.integrity.mboxAnswer
  · split
    · exact ht
    · split
      · exact ht.mboxAnswer
      · split
        · exact ht.mboxAnswer
        · split
          · rename_i ht1
            have hd := OnSome.of_eq ht.loadImage ht1
            exact hd.mboxAnswer
          · exact ht.mboxAnswer

theorem OCanon.execReport {fn ctx nonce va} (h : Canon s) : OCanon (execReport fn ctx nonce va s) := by
  unfold Machine.execReport
  refine .next ?_
  refine Canon.mailbox h (fun _ ht => ?_)
  split
  · exact ht.mboxAnswer
  · split
    · exact ht.integrity.mboxAnswer
    · exact ht.mboxAnswer
    · exact Canon.mboxAnswer (.of_mem rfl ht.scatter)

theorem OCanon.execDestroy {fn ctx} (h : Canon s) : OCanon (execDestroy fn ctx s) :=
  .next (h.mailbox (fun _ ht => on_ite ht.mboxAnswer (Canon.mboxAnswer (Canon.applyHeld (.of_mem rfl ht.fenceCtx)))))

theorem OCanon.execInvalidate {fn ctx va len} (h : Canon s) : OCanon (execInvalidate fn ctx va len s) :=
  .next (h.mailbox (fun _ ht => on_ite ht.mboxAnswer (on_ite (.of_mem rfl ht) (Canon.mboxAnswer (.of_mem rfl ht)))))

theorem OCanon.execFabricRegisterRead {fn off} (h : Canon s) : OCanon (execFabricRegisterRead fn off s) :=
  .next (h.mailbox (fun _ ht => ht.mboxAnswer))

theorem Canon.setFabReg {off v} (h : Canon s) : Canon (s.setFabReg off v) :=
  on_ite (.of_mem rfl h) (on_ite h.updPlane h)

theorem OCanon.execFabricRegisterWrite {fn off v} (h : Canon s) : OCanon (execFabricRegisterWrite fn off v s) :=
  .next (h.mailbox (fun _ ht => ht.setFabReg.mboxAnswer))

theorem OCanon.execPeerTableWrite {fn ctx i v pctx} (h : Canon s) : OCanon (execPeerTableWrite fn ctx i v pctx s) :=
  .next (h.mailbox (fun _ ht => on_ite ht.mboxAnswer ht.updCtx.applyHeld.mboxAnswer))

theorem OCanon.execDebugHalt {fn ctx core slot} (h : Canon s) : OCanon (Machine.execDebugHalt fn ctx core slot s) := by
  refine .next (h.mailbox fun t ht => ?_)
  dsimp only
  split
  · split
    · exact on_ite ht ht.haltSlot.mboxAnswer
    · exact ht.mboxAnswer
    · exact ht.mboxAnswer
  · exact ht.mboxAnswer

theorem Canon.abandonEngine {e} (h : Canon s) : Canon (s.abandonEngine e) :=
  h.updEngine.updSlot.foldl (fun _ _ ht => ht.push) _

theorem Canon.releaseHalt {ctx hid act} (h : Canon s) : Canon (s.releaseHalt ctx hid act).2 := by
  unfold State.releaseHalt
  split
  · exact h
  · extract_lets e eng t
    have ht : Canon t := by
      refine on_ite h.runOn (on_ite h.abandonEngine (on_ite h.abandon ?_))
      split
      · exact h.abandonSaved
      · exact h
    clear_value t
    exact on_ite (P := fun p : Nat × State => Canon p.2) h (on_ite (P := fun p : Nat × State => Canon p.2) h
      (on_ite (P := fun p : Nat × State => Canon p.2) h ht.clearMarks.afterClear))

theorem OCanon.execDebugRelease {fn ctx hid act} (h : Canon s) : OCanon (execDebugRelease fn ctx hid act s) :=
  .next (h.mailbox (fun _ ht => on_ite ht.mboxAnswer ht.releaseHalt.mboxAnswer))

theorem Canon.itemWakes {c k i} (h : Canon s) : Canon (s.itemWakes c k i) := by
  unfold State.itemWakes
  split
  · exact h.wakeBanks
  · exact h

theorem OCanon.execReadState {fn ctx core slot item} (h : Canon s) : OCanon (execReadState fn ctx core slot item s) :=
  .next (h.mailbox (fun _ ht => on_ite ht.itemWakes.mboxAnswer ht.mboxAnswer))

theorem Canon.putItem {c k i bs} (h : Canon s) : Canon (s.putItem c k i bs) := by
  unfold State.putItem
  extract_lets _
  split
  · exact h.landWrite
  · split
    · exact h.updCore
    · exact h.updSlot
  · exact h.updSlot
  · exact h.writeSr

theorem OCanon.execWriteState {fn ctx core slot item bytes} (h : Canon s) : OCanon (execWriteState fn ctx core slot item bytes s) := by
  unfold Machine.execWriteState
  refine .next ?_
  refine Canon.mailbox h (fun _ ht => ?_)
  extract_lets _
  split
  · split
    · exact on_ite ht.updSlot.mboxAnswer ht.putItem.mboxAnswer
    · exact ht.putItem.mboxAnswer
  · exact ht.mboxAnswer

theorem OCanon.execTraceControl {fn ctx word} (h : Canon s) : OCanon (execTraceControl fn ctx word s) :=
  .next (h.mailbox (fun _ ht => ht.updCtx.mboxAnswer))

theorem OCanon.execWatchpoint {fn ctx idx far addr mask action} (h : Canon s) : OCanon (execWatchpoint fn ctx idx far addr mask action s) :=
  .next (h.mailbox (fun _ ht => on_ite ht.mboxAnswer ht.updCtx.mboxAnswer))

theorem OCanon.execSnapshotArm {fn t} (h : Canon s) : OCanon (execSnapshotArm fn t s) :=
  .next (h.mailbox (fun _ ht => on_ite ht.mboxAnswer (Canon.mboxAnswer (.of_mem rfl ht))))

theorem OCanon.execSnapshotRead {fn block off} (h : Canon s) : OCanon (execSnapshotRead fn block off s) :=
  .next (h.mailbox (fun _ ht => on_ite ht.mboxAnswer ht.mboxAnswer))

theorem OCanon.execErrorLogRead {fn i} (h : Canon s) : OCanon (execErrorLogRead fn i s) := by
  unfold Machine.execErrorLogRead
  refine .next ?_
  refine Canon.mailbox h (fun _ ht => ?_)
  split
  · exact ht.mboxAnswer
  · exact ht.mboxAnswer

theorem OCanon.execDefectMapRead {fn} (h : Canon s) : OCanon (execDefectMapRead fn s) :=
  .next (h.mailbox (fun _ ht => ht.mboxAnswer))

theorem OCanon.execReliabilityRegisterRead {fn core num} (h : Canon s) : OCanon (execReliabilityRegisterRead fn core num s) :=
  .next (h.mailbox (fun _ ht => on_ite ht.mboxAnswer ht.mboxAnswer))

theorem OCanon.execReliabilityRegisterWrite {fn core num v} (h : Canon s) : OCanon (execReliabilityRegisterWrite fn core num v s) :=
  .next (h.mailbox (fun _ ht => on_ite ht.writeSr.mboxAnswer ht.mboxAnswer))

theorem Canon.sysAnswer {core slot fid status} (h : Canon s) : Canon (s.sysAnswer core slot fid status) :=
  h.updFiring

theorem OCanon.execSysRelease {k} (h : Canon s) : OCanon (execSysRelease k s) := by
  unfold Machine.execSysRelease
  extract_lets t
  have ht : Canon t := h.taken
  refine .next ?_
  split
  · extract_lets r
    have hr : Canon r.2 := by
      unfold r
      split
      · exact ht
      · exact ht.releaseHalt
    exact on_ite h (on_ite ht.sysAnswer (on_ite ht.sysAnswer hr.sysAnswer))
  · exact h

theorem OCanon.execSysPost {k} (h : Canon s) : OCanon (execSysPost k s) := by
  unfold Machine.execSysPost
  refine .next ?_
  split
  · exact on_ite h (on_ite h.taken.post.sysAnswer h.taken.sysAnswer)
  · exact h

theorem Canon.complete {fn bs kind} (h : Canon s) : Canon (s.complete fn bs kind) :=
  on_ite (Canon.unsupported (.of_mem rfl h)) (.of_mem rfl h)

theorem Canon.bar0Read {fn off n} (h : Canon s) : Canon (s.bar0Read fn off n).2 := by
  induction n generalizing s off with
  | zero => exact h
  | succ n ih =>
    refine ih ?_
    split
    · exact h.free
    · exact h

theorem Canon.hostMiss {fn va write} (h : Canon s) : Canon (s.hostMiss fn va write) := by
  unfold State.hostMiss
  split
  · exact h
  · split
    · exact h.integrity
    · exact h

theorem OCanon.execHostMemoryRead {fn src n} (h : Canon s) : OCanon (execHostMemoryRead fn src n s) := by
  unfold Machine.execHostMemoryRead
  refine .next ?_
  split
  · exact h
  · split
    · exact on_ite h.complete h.bar0Read.complete
    · split
      · exact h.hostMiss.complete
      · exact on_ite h.integrity.complete (on_ite h.complete (on_ite h.complete h.complete))

theorem Canon.hostWrite {fn a bs poisoned} (h : Canon s) : Canon (s.hostWrite fn a bs poisoned) :=
  on_ite h.retag.putPoison (on_ite h.integrity h.putPoison)

theorem OCanon.execHostMemoryWrite {fn va bytes poisoned} (h : Canon s) : OCanon (execHostMemoryWrite fn va bytes poisoned s) := by
  unfold Machine.execHostMemoryWrite
  refine .next ?_
  split
  · exact h
  · split
    · exact h.hostMiss.unsupported
    · exact h.hostWrite

theorem OCanon.execCxlViral (h : Canon s) : OCanon (execCxlViral s) :=
  .next (h.free.free.logError.foldl (fun _ _ ht => ht.fenceCtx) _)

theorem OCanon.execPowerCap {on} (h : Canon s) : OCanon (execPowerCap on s) :=
  .next (.of_mem rfl h)

theorem OCanon.execReset (h : Canon s) : OCanon (Machine.execReset s) := by
  unfold Machine.execReset
  extract_lets _ _ t
  have ht : Canon t := by
    refine h.filter (fun p => decide (2 ^ 53 ≤ p.1 ∧ p.1 < 2 ^ 54)) ?_
    rfl
  clear_value t
  exact .next (on_ite ht ht.mboxAnswer)

theorem Canon.injectEntry {core e} (h : Canon s) : Canon (s.injectEntry core e) := by
  unfold State.injectEntry
  split
  · exact h
  · exact h.updCore.push

theorem Canon.inject {core} (h : Canon s) : Canon (s.inject core) := by
  unfold State.inject
  extract_lets w
  have hw : Canon w.2 := h.meets
  split
  · exact h
  · exact h.injectEntry
  · exact h.injectEntry
  · exact hw.injectEntry

theorem OCanon.execMessageInjection {core} (h : Canon s) : OCanon (execMessageInjection core s) :=
  .next h.inject

theorem OCanon.execClearingNotice {k} (h : Canon s) : OCanon (execClearingNotice k s) := by
  unfold Machine.execClearingNotice
  extract_lets t
  have ht : Canon t := h.taken
  refine .next ?_
  split
  · extract_lets _
    split
    · exact h
    · refine Canon.afterClear ?_
      clear_value *
      split
      · exact .of_mem rfl ht
      · exact ht
  · exact h

theorem OCanon.execPeerTableHandshake {pos answers ctx pf} (h : Canon s) : OCanon (execPeerTableHandshake pos answers ctx pf s) :=
  .next (on_ite h (on_ite (Canon.updCtx (.of_mem rfl h)) (.of_mem rfl h)))

end Sys2Proof.Machine
end

/-! ## O36: a canonical memory kept: every instruction, event and step -/
section
namespace Sys2Proof.Machine
open Sys2Proof.Claims

variable {s t : State}

theorem OCanon.exec {i} (h : Canon s) : OCanon (exec i s) := by
  unfold Machine.exec
  split
  · exact OCanon.execMovShort h
  · exact OCanon.execAddShort h
  · exact OCanon.execSubShort h
  · exact OCanon.execRsubShort h
  · exact OCanon.execMulShort h
  · exact OCanon.execMinShort h
  · exact OCanon.execMaxShort h
  · exact OCanon.execAndShort h
  · exact OCanon.execOrShort h
  · exact OCanon.execXorShort h
  · exact OCanon.execAndnShort h
  · exact OCanon.execShlShort h
  · exact OCanon.execShrShort h
  · exact OCanon.execSarShort h
  · exact OCanon.execNegShort h
  · exact OCanon.execAbsShort h
  · exact OCanon.execMov h
  · exact OCanon.execAdd h
  · exact OCanon.execSub h
  · exact OCanon.execRsub h
  · exact OCanon.execMul h
  · exact OCanon.execMulh h
  · exact OCanon.execDiv h
  · exact OCanon.execRem h
  · exact OCanon.execMin h
  · exact OCanon.execMax h
  · exact OCanon.execAbs h
  · exact OCanon.execNeg h
  · exact OCanon.execClamp h
  · exact OCanon.execAbd h
  · exact OCanon.execAvg h
  · exact OCanon.execAdds h
  · exact OCanon.execSubs h
  · exact OCanon.execAnd h
  · exact OCanon.execOr h
  · exact OCanon.execXor h
  · exact OCanon.execAndn h
  · exact OCanon.execNot h
  · exact OCanon.execShl h
  · exact OCanon.execShr h
  · exact OCanon.execSar h
  · exact OCanon.execRol h
  · exact OCanon.execRor h
  · exact OCanon.execClz h
  · exact OCanon.execCtz h
  · exact OCanon.execPopc h
  · exact OCanon.execBrev h
  · exact OCanon.execBfx h
  · exact OCanon.execBfi h
  · exact OCanon.execSxt h
  · exact OCanon.execZxt h
  · exact OCanon.execCvt h
  · exact OCanon.execCvts h
  · exact OCanon.execRcp h
  · exact OCanon.execRsq h
  · exact OCanon.execSqrt h
  · exact OCanon.execExp2 h
  · exact OCanon.execLog2 h
  · exact OCanon.execFloor h
  · exact OCanon.execCeil h
  · exact OCanon.execRndn h
  · exact OCanon.execFma h
  · exact OCanon.execFnma h
  · exact OCanon.execFms h
  · exact OCanon.execFnms h
  · exact OCanon.execAddi h
  · exact OCanon.execAndi h
  · exact OCanon.execOri h
  · exact OCanon.execXori h
  · exact OCanon.execShli h
  · exact OCanon.execShri h
  · exact OCanon.execSari h
  · exact OCanon.execMovi h
  · exact OCanon.execLi h
  · exact OCanon.execNear h
  · exact OCanon.execSpwn h
  · exact OCanon.execLea h
  · exact OCanon.execAdda h
  · exact OCanon.execLcore h
  · exact OCanon.execCmp h
  · exact OCanon.execCmpm h
  · exact OCanon.execGand h
  · exact OCanon.execGor h
  · exact OCanon.execGxor h
  · exact OCanon.execGnot h
  · exact OCanon.execGmov h
  · exact OCanon.execSt h
  · exact OCanon.execSts h
  · exact OCanon.execSel h
  · exact OCanon.execSelm h
  · exact OCanon.execAadd h
  · exact OCanon.execAmin h
  · exact OCanon.execAmax h
  · exact OCanon.execAand h
  · exact OCanon.execAor h
  · exact OCanon.execAxor h
  · exact OCanon.execAswp h
  · exact OCanon.execAcas h
  · exact OCanon.execAinc h
  · exact OCanon.execCpy h
  · exact OCanon.execCpys h
  · exact OCanon.execGath h
  · exact OCanon.execScat h
  · exact OCanon.execFill h
  · exact OCanon.execRed h
  · exact OCanon.execRatm h
  · exact OCanon.execBsig h
  · exact OCanon.execRinv h
  · exact OCanon.execWqryQuery h
  · exact OCanon.execWqryExtend h
  · exact OCanon.execBr h
  · exact OCanon.execBrl h
  · exact OCanon.execLoop h
  · exact OCanon.execNop h
  · exact OCanon.execEndFiring h
  · exact OCanon.execTrig h
  · exact OCanon.execHalt h
  · exact OCanon.execYld h
  · exact OCanon.execWfe h
  · exact OCanon.execSev h
  · exact OCanon.execEvclr h
  · exact OCanon.execAlgn h
  · exact OCanon.execJr h
  · exact OCanon.execJrl h
  · exact OCanon.execRet h
  · exact OCanon.execBcst h
  · exact OCanon.execPerm h
  · exact OCanon.execShfl h
  · exact OCanon.execSlide h
  · exact OCanon.execZip h
  · exact OCanon.execUnzp h
  · exact OCanon.execCmpr h
  · exact OCanon.execExpd h
  · exact OCanon.execRedadd h
  · exact OCanon.execRedmax h
  · exact OCanon.execRedmin h
  · exact OCanon.execScan h
  · exact OCanon.execDot4 h
  · exact OCanon.execDot2 h
  · exact OCanon.execView h
  · exact OCanon.execVget h
  · exact OCanon.execVset h
  · exact OCanon.execRfil h
  · exact OCanon.execRepx h
  · exact OCanon.execAdvr h
  · exact OCanon.execAdvw h
  · exact OCanon.execRepb h
  · exact OCanon.execLd h
  · exact OCanon.execLds h
  · exact OCanon.execFenceC h
  · exact OCanon.execFenceD h
  · exact OCanon.execFenceP h
  · exact OCanon.execFenceF h
  · exact OCanon.execBind h
  · exact OCanon.execUnbd h
  · exact OCanon.execAcq h
  · exact OCanon.execRel h
  · exact OCanon.execTrya h
  · exact OCanon.execBar h
  · exact OCanon.execBara h
  · exact OCanon.execBarw h
  · exact OCanon.execSemp h
  · exact OCanon.execSemw h
  · exact OCanon.execObjq h
  · exact OCanon.execSend h
  · exact OCanon.execSendi h
  · exact OCanon.execMsgq h
  · exact OCanon.execCeq h
  · exact OCanon.execFld h
  · exact OCanon.execFst h
  · exact OCanon.execFatmAdd h
  · exact OCanon.execFatmMin h
  · exact OCanon.execFatmMax h
  · exact OCanon.execFatmAnd h
  · exact OCanon.execFatmOr h
  · exact OCanon.execFatmXor h
  · exact OCanon.execFatmSwp h
  · exact OCanon.execFatmCas h
  · exact OCanon.execFatmInc h
  · exact OCanon.execFxm h
  · exact OCanon.execFmrk h
  · exact OCanon.execCend h
  · exact OCanon.execMlw h
  · exact OCanon.execMlwC h
  · exact OCanon.execMfmt h
  · exact OCanon.execMma h
  · exact OCanon.execMsc h
  · exact OCanon.execMdr h
  · exact OCanon.execMdrZ h
  · exact OCanon.execMdrp h
  · exact OCanon.execMclr h
  · exact OCanon.execMsta h
  · exact OCanon.execCmps h
  · exact OCanon.execDcmp h
  · exact OCanon.execCmpq h
  · exact OCanon.execTrap h
  · exact OCanon.execSys h
  · exact OCanon.execEret h
  · exact OCanon.execSvs h
  · exact OCanon.execRss h
  · exact OCanon.execTs h
  · exact OCanon.execPmc h
  · exact OCanon.execBist h
  · exact OCanon.execSigq h
  · exact OCanon.execCkpt h
  · exact OCanon.execIdle h
  · exact OCanon.execRds h
  · exact OCanon.execWrs h
  · exact OCanon.execNopH h
  · exact OCanon.execRsPwrWrite h
  · exact OCanon.execMxTeamWrite h
  · exact OCanon.execMgVWrite h
  · exact OCanon.execRegisterWrite h
  · exact OCanon.execDispatch h
  · exact OCanon.execMessageArrival h
  · exact OCanon.execTokenLanding h
  · exact OCanon.execRemoteLoadReply h
  · exact OCanon.execNearRequest h
  · exact OCanon.execRemoteAtomic h
  · exact OCanon.execObjectOperation h
  · exact OCanon.execWithholdNotice h
  · exact OCanon.execKeeperPost h
  · exact OCanon.execKeeperSumRow h
  · exact OCanon.execClOpRow h
  · exact OCanon.execMdrpAdd h
  · exact OCanon.execEngineCommandStart h
  · exact OCanon.execTranslationWalk h
  · exact OCanon.execFlushMarker h
  · exact OCanon.execFabricRequest h
  · exact OCanon.execFabricReply h
  · exact OCanon.execLossNotice h
  · exact OCanon.execRequesterTimeOut h
  · exact OCanon.execTagHoldExpiry h
  · exact OCanon.execFlitDiscard h
  · exact OCanon.execLinkErrorRateChange h
  · exact OCanon.execTrapMessage h
  · exact OCanon.execDependentLaunchStart h
  · exact OCanon.execComposeGrant h
  · exact OCanon.execPreemption h
  · exact OCanon.execResume h
  · exact OCanon.execRollback h
  · exact OCanon.execTimeSliceExpiry h
  · exact OCanon.execWaitTimeOut h
  · exact OCanon.execComposeWaitBound h
  · exact OCanon.execAlgnHoldExpiry h
  · exact OCanon.execDeadlineMiss h
  · exact OCanon.execWatchdogTrip h
  · exact OCanon.execBenchRemap h
  · exact OCanon.execWindowZeroed h
  · exact OCanon.execBankReady h
  · exact OCanon.execRetentionWake h
  · exact OCanon.execBindComplete h
  · exact OCanon.execUmpireCheck h
  · exact OCanon.execBistComplete h
  · exact OCanon.execRailSettled h
  · exact OCanon.execSetRotation h
  · exact OCanon.execPcSample h
  · exact OCanon.execTemperatureUpdate h
  · exact OCanon.execSnapshotTrigger h
  · exact OCanon.execLoopbackStart h
  · exact OCanon.execPlaneOut h
  · exact OCanon.execLoopbackDone h
  · exact OCanon.execBindRecordWrite h
  · exact OCanon.execPreemptionRequest h
  · exact OCanon.execFenceWrite h
  · exact OCanon.execInboxWrite h
  · exact OCanon.execStatusFree h
  · exact OCanon.execCreate h
  · exact OCanon.execLoadImage h
  · exact OCanon.execReport h
  · exact OCanon.execDestroy h
  · exact OCanon.execInvalidate h
  · exact OCanon.execFabricRegisterRead h
  · exact OCanon.execFabricRegisterWrite h
  · exact OCanon.execPeerTableWrite h
  · exact OCanon.execDebugHalt h
  · exact OCanon.execDebugRelease h
  · exact OCanon.execReadState h
  · exact OCanon.execWriteState h
  · exact OCanon.execTraceControl h
  · exact OCanon.execWatchpoint h
  · exact OCanon.execSnapshotArm h
  · exact OCanon.execSnapshotRead h
  · exact OCanon.execErrorLogRead h
  · exact OCanon.execDefectMapRead h
  · exact OCanon.execReliabilityRegisterRead h
  · exact OCanon.execReliabilityRegisterWrite h
  · exact OCanon.execSysRelease h
  · exact OCanon.execSysPost h
  · exact OCanon.execHostMemoryRead h
  · exact OCanon.execHostMemoryWrite h
  · exact OCanon.execCxlViral h
  · exact OCanon.execPowerCap h
  · exact OCanon.execReset h
  · exact OCanon.execMessageInjection h
  · exact OCanon.execClearingNotice h
  · exact OCanon.execPeerTableHandshake h

theorem OCanon.issueSlot {c k} (h : Canon s) : OCanon (s.issueSlot c k) := by
  unfold State.issueSlot
  extract_lets s1
  have hs1 : Canon s1 := .of_mem rfl h
  split
  · exact .next hs1.keeperTrap
  · exact OCanon.exec hs1
  · split
    · exact .next hs1.trapCur
    · split
      · exact OCanon.exec hs1
      · exact .next hs1.trapCur

theorem OCanon.issueList {c l} (h : Canon s) : OCanon (s.issueList c l) := by
  induction l generalizing s with
  | nil => exact .next h
  | cons k rest ih =>
    have hk : OCanon (s.issueSlot c k) := OCanon.issueSlot h
    unfold State.issueList
    split
    next ht => exact on_ite (ih (hk _ ht)) (.next (hk _ ht))
    next => exact hk

theorem OCanon.issueOn {c} (h : Canon s) : OCanon (s.issueOn c) :=
  OCanon.issueList h

theorem Canon.openGen {pc next r} (h : Canon s) (hr : s.openGen pc next = some r) : Canon r.1 := by
  unfold State.openGen at hr
  split at hr
  · cases hr
  · cases hr
    exact h.updCur

theorem Canon.reopen {young} (h : Canon s) : Canon (s.reopen young) :=
  h.updCur

theorem Canon.raBranch {pc f k n g gen open_ r} (h : Canon s) (hr : s.raBranch pc f k n g gen open_ = some r) : Canon r.1 := by
  unfold State.raBranch at hr
  extract_lets likely next at hr
  split at hr
  · split at hr
    · cases hr
      exact h
    · split at hr
      · exact h.reopen.openGen hr
      · cases hr
        exact h
  · split at hr
    · exact h.openGen hr
    · cases hr
      exact h

theorem Canon.raScan {k pc gen open_} (h : Canon s) : Canon (s.raScan k pc gen open_) := by
  induction k generalizing s pc gen open_ with
  | zero => exact h
  | succ k ih =>
    have hbr {f l m g r} (hr : s.raBranch pc f l m g gen open_ = some r) : Canon r.1 := h.raBranch hr
    unfold State.raScan
    split
    · exact h
    · refine on_ite h ?_
      split
      · refine ih ?_
        split
        · exact h.updCur
        · exact h
      · split
        · exact h
        next hr => exact ih (hbr hr)
      · split
        · exact h
        next hr => exact ih (hbr hr)
      · exact ih h
      · exact ih h

theorem Canon.runAhead {c k} (h : Canon s) : Canon (s.runAhead c k) :=
  on_ite (.of_mem rfl (Canon.raScan (.of_mem rfl h))) h

theorem Canon.upset {a n} (h : Canon s) : Canon (s.upset a n) := by
  unfold State.upset
  extract_lets _ s1 _
  have hs1 : Canon s1 := h.scramble
  split
  · exact h.addPoison.record
  · split
    · exact .of_mem rfl hs1
    · split
      · split
        · exact h
        · exact h.addPoison.updDie.record
      · exact h

theorem Canon.corrected {a} (h : Canon s) : Canon (s.corrected a) :=
  on_ite h.updCore (on_ite h.updDie h)

theorem Canon.tamper {a} (h : Canon s) : Canon (s.tamper a) :=
  on_ite (.of_mem rfl h) h

theorem Canon.line {p lit cor unc} (h : Canon s) : Canon (s.line p lit cor unc) :=
  on_ite (.of_mem rfl h) h

theorem Canon.merged {c n} (h : Canon s) : Canon (s.merged c n) :=
  on_ite h.updCore h

theorem Canon.spoiled {c i} (h : Canon s) : Canon (s.spoiled c i) :=
  on_ite h.updCore h

theorem Canon.giveUp {c k} (h : Canon s) : Canon (s.giveUp c k) := by
  unfold State.giveUp
  split
  · exact h.abandonSaved
  · exact h

theorem OCanon.act {a} (h : Canon s) : OCanon (s.act a) := by
  unfold State.act
  split
  · exact OCanon.issueOn h
  · exact on_ite (OCanon.exec h) (.next h)
  · exact .next h.runAhead
  · exact .next h.upset
  · exact .next h.corrected
  · exact .next h.tamper
  · exact .next h.line
  · exact .next h.merged
  · exact .next h.spoiled
  · exact .next h.giveUp

theorem OCanon.step (h : Canon s) : OCanon (step s) := by
  unfold Machine.step
  split
  · exact OCanon.issueOn h
  · exact OCanon.act (Canon.tick (.of_mem rfl h))

/-- Settles O36: every operation of the state keeps a canonical memory, and so do the instructions, the events, and the step. -/
theorem memoryStaysCanonical : Obligations.MemoryStaysCanonical := by
  unfold Obligations.MemoryStaysCanonical
  intro s t h hst
  exact OCanon.step h t hst

end Sys2Proof.Machine
end

/-! ## O30, `Destroy`: a context that is gone, and what leaves it so -/
section
namespace Sys2Proof.Machine
open Sys2Proof.Claims

variable {z : Nat} {s t : State}

/-- Context z does not exist, and no launch is of it. -/
def Gone (z : Nat) (s : State) : Prop := (s.ctx z).live = false ∧ ∀ l ∈ s.launches, l.ctx ≠ z

theorem Gone.same (hc : t.ctxs = s.ctxs) (hl : t.launches = s.launches) (h : Gone z s) : Gone z t := by
  obtain ⟨hlive, hnone⟩ := h
  refine ⟨?_, by rwa [hl]⟩
  unfold State.ctx
  rwa [hc]

theorem Gone.of_pair {α : Type} {p : α × State} {a : α} (h : Gone z p.2) (hp : p = (a, t)) : Gone z t := by
  subst hp
  exact h

/-- A table no longer lists a key taken out of it. -/
theorem mget_mdel_self {β : Type} (m : SMap β) (k : Nat) (d : β) : mget (mdel m k) k d = d := by
  induction m with
  | nil => rfl
  | cons p m ih =>
    unfold mdel
    by_cases hp : p.1 = k
    · rw [List.filter_cons_of_neg (by simp [hp])]
      exact ih
    · rw [List.filter_cons_of_pos (by simp [hp])]
      unfold mget
      rw [if_neg hp]
      exact ih

theorem Gone.foldl {α : Type} {f : State → α → State} (h : Gone z s) (hf : ∀ t a, Gone z t → Gone z (f t a)) (l : List α) :
    Gone z (l.foldl f s) := by
  induction l generalizing s with
  | nil => exact h
  | cons a l ih => exact ih (hf s a h)

/-- A change of a context's registers that leaves alone whether it exists. -/
theorem Gone.updCtx {k f} (h : Gone z s) (hf : ∀ x, (f x).live = x.live := by exact fun _ => rfl) : Gone z (s.updCtx k f) := by
  obtain ⟨hlive, hnone⟩ := h
  refine ⟨?_, hnone⟩
  unfold State.ctx State.updCtx
  by_cases hk : z = k
  · subst hk
    rw [mget_mput_self, hf]
    exact hlive
  · rw [mget_mput_ne _ _ _ hk]
    exact hlive

/-- A change of a launch that leaves it its context. -/
theorem Gone.mapLaunches {f : Launch → Launch} (h : Gone z s) (hf : ∀ l, (f l).ctx = l.ctx) : Gone z { s with launches := s.launches.map f } := by
  obtain ⟨hlive, hnone⟩ := h
  refine ⟨hlive, fun l hl => ?_⟩
  obtain ⟨l₀, hl₀, rfl⟩ := List.mem_map.mp hl
  rw [hf]
  exact hnone l₀ hl₀

/-- A new launch of another context. -/
theorem Gone.addLaunch {l : Launch} (h : Gone z s) (hc : l.ctx ≠ z) : Gone z { s with launches := s.launches ++ [l] } := by
  obtain ⟨hlive, hnone⟩ := h
  refine ⟨hlive, fun l' hl' => ?_⟩
  rcases List.mem_append.mp hl' with hold | hnew
  · exact hnone l' hold
  · rw [List.mem_singleton.mp hnew]
    exact hc

theorem Gone.withHomes {l : SMap (List ObjReq)} (h : Gone z s) : Gone z { s with homes := l } := h

theorem Gone.setCore {c x} (h : Gone z s) : Gone z (s.setCore c x) :=
  .same rfl rfl h

theorem Gone.updCore {c f} (h : Gone z s) : Gone z (s.updCore c f) :=
  h.setCore

theorem Gone.refill {c hi k} (h : Gone z s) : Gone z (s.refill c hi k) := by
  induction k generalizing s with
  | zero => exact h
  | succ k ih =>
    unfold State.refill
    split
    · exact h
    · split
      · exact h
      · exact ih h.updCtx.updCore

theorem Gone.fenceCtx {ctx} (h : Gone z s) : Gone z (s.fenceCtx ctx) := by
  unfold State.fenceCtx
  extract_lets _ r s1
  have hr : Gone z r := h.updCtx
  have hs1 : Gone z s1 := .same rfl rfl hr
  exact hs1.foldl (fun _ _ ht => ht.refill.refill) _

theorem Gone.logError {r} (h : Gone z s) : Gone z (s.logError r) := by
  refine .same (s := s) ?_ ?_ h
  · rw [State.logError]
  · rw [State.logError]

theorem Gone.updDie {d f} (h : Gone z s) : Gone z (s.updDie d f) :=
  .same rfl rfl h

theorem Gone.violation {ctx a} (h : Gone z s) : Gone z (s.violation ctx a) :=
  h.updDie.logError.fenceCtx

theorem Gone.setBytes {a bs} (h : Gone z s) : Gone z (s.setBytes a bs) :=
  .same rfl rfl h

theorem Gone.putFar {ctx va bs} (h : Gone z s) : OnSome (Gone z) (s.putFar ctx va bs) :=
  OnSome.map (fun _ _ => h.setBytes.setBytes)

theorem Gone.loseEntry {ctx} (h : Gone z s) : Gone z (s.loseEntry ctx) := by
  unfold State.loseEntry
  extract_lets s1 _
  have hs1 : Gone z s1 := h.updCtx
  split
  · exact hs1
  · exact OnSome.getD hs1.putFar hs1

theorem Gone.mboxUnreachable {e} (h : Gone z s) : Gone z (s.mboxUnreachable e) :=
  on_ite h.loseEntry h.loseEntry.updCtx.logError

theorem Gone.writeEntry {ctx bs} (h : Gone z s) : OnSome (Gone z) (s.writeEntry ctx bs) :=
  OnSome.bind (fun _ _ => OnSome.chain h.putFar (fun _ ht => ht.putFar))

theorem Gone.setSlot {c k x} (h : Gone z s) : Gone z (s.setSlot c k x) :=
  h.setCore

theorem Gone.updSlot {c k f} (h : Gone z s) : Gone z (s.updSlot c k f) :=
  h.setSlot

theorem Gone.signalOn {c p} (h : Gone z s) : Gone z (s.signalOn c p) :=
  .same rfl rfl (h.foldl (fun _ _ ht => on_ite ht.updSlot ht) _)

theorem Gone.wakeSup {ctx} (h : Gone z s) : Gone z (s.wakeSup ctx) :=
  h.signalOn

theorem Gone.post {e} (h : Gone z s) : Gone z (s.post e) := by
  unfold State.post
  extract_lets _ loss
  have hloss : OnSome (Gone z) loss := on_ite h (OnSome.image h.writeEntry (fun _ ht => ht.updCtx))
  split
  · exact h
  · split
    · exact h.loseEntry.violation
    · split
      · exact h.mboxUnreachable
      · exact h.loseEntry
      · clear_value loss
        revert hloss
        split
        · intro hd
          exact h.mboxUnreachable
        · intro hd
          extract_lets t
          have ht : Gone z t := hd.mboxUnreachable
          split
          · exact hd.loseEntry.wakeSup
          · split
            · exact on_ite ht.wakeSup ht
            · rename_i ht1
              have hd1 := OnSome.of_eq hd.writeEntry ht1
              exact hd1.wakeSup

theorem Gone.reportTo {ctx r} (h : Gone z s) : Gone z (s.reportTo ctx r) :=
  h.post

theorem Gone.record {r} (h : Gone z s) : Gone z (s.record r) := by
  unfold State.record
  extract_lets _ s1
  have hs1 : Gone z s1 := by
    unfold s1
    split
    · exact h
    · exact h.reportTo
  exact hs1.logError

theorem Gone.updEngine {e f} (h : Gone z s) : Gone z (s.updEngine e f) :=
  .same rfl rfl h

theorem Gone.recordHalt {c k cause reached okind} (h : Gone z s) : Gone z (s.recordHalt c k cause reached okind) := by
  unfold State.recordHalt
  extract_lets _ _ _ _ _ s1 s2
  have hs1 : Gone z s1 := h.updSlot.updCtx
  have hs2 : Gone z s2 := .same rfl rfl hs1
  exact on_ite h.record.fenceCtx hs2.post

theorem Gone.push {p} (h : Gone z s) : Gone z (s.push p) :=
  .same rfl rfl h

theorem Gone.tick {dt} (h : Gone z s) : Gone z (s.tick dt) := by
  refine on_ite h ?_
  obtain ⟨hlive, hnone⟩ := h
  refine ⟨?_, hnone⟩
  have hmap := mget_map (fun x : Ctx => if x.spills.isEmpty then x else { x with spills := x.spills.map (·.tick s dt) }) Ctx.reset rfl z s.ctxs
  refine (congrArg Ctx.live hmap).trans ?_
  split
  · exact hlive
  · exact hlive

theorem Gone.setStatusHid {fn i hid} (h : Gone z s) : Gone z (s.setStatusHid fn i hid) :=
  .same rfl rfl h

theorem Gone.setStatus {fn i st code hid rpl} (h : Gone z s) : Gone z (s.setStatus fn i st code hid rpl) :=
  .same rfl rfl h

theorem Gone.raise {fn i} (h : Gone z s) : Gone z (s.raise fn i) :=
  .same rfl rfl h

theorem Gone.syncLaunch {l} (h : Gone z s) : Gone z (s.syncLaunch l) := by
  unfold State.syncLaunch
  extract_lets _ _ _
  split
  · exact h
  · exact on_ite (on_ite h h.setStatusHid) (on_ite h.setStatus.raise h.setStatus)

theorem Gone.updLaunch {id f} (h : Gone z s) (hf : ∀ l, (f l).ctx = l.ctx := by exact fun _ => rfl) : Gone z (s.updLaunch id f) := by
  have hmap : Gone z { s with launches := s.launches.map fun l => if l.id = id then f l else l } := by
    refine h.mapLaunches fun l => ?_
    split
    · exact hf l
    · rfl
  unfold State.updLaunch
  dsimp only
  split
  · exact hmap
  · exact hmap.syncLaunch

theorem Gone.consumerHalt {c k} (h : Gone z s) : Gone z (s.consumerHalt c k) := by
  unfold State.consumerHalt
  extract_lets _ _
  split
  · exact h
  · exact h.updSlot.recordHalt

theorem Gone.faultMsg {w code addr} (h : Gone z s) : Gone z (s.faultMsg w code addr) :=
  h.push

theorem Gone.flushRa {a n} (h : Gone z s) : Gone z (s.flushRa a n) :=
  .same rfl rfl h

theorem Gone.newId (h : Gone z s) : Gone z s.newId.2 :=
  .same rfl rfl h

theorem Gone.updFiring {c k fid f} (h : Gone z s) : Gone z (s.updFiring c k fid f) :=
  on_ite h.updSlot (.same rfl rfl h)

theorem Gone.checkLaunch {id} (h : Gone z s) : Gone z (s.checkLaunch id) := by
  unfold State.checkLaunch
  extract_lets s1
  have hs1 : Gone z s1 := h.updLaunch
  split
  · exact h
  · split
    · split
      · exact hs1
      · exact hs1.push
    · exact h

theorem Gone.countEnd {id child} (h : Gone z s) : Gone z (s.countEnd id child) := by
  refine on_ite h (Gone.checkLaunch (h.updLaunch fun l => ?_))
  split <;> rfl

theorem Gone.fileMsg {c m} (h : Gone z s) : Gone z (s.fileMsg c m).2 := by
  unfold State.fileMsg
  extract_lets _
  split
  · exact h.updCore
  · split
    · exact h.updCtx.tick
    · exact h.tick

theorem Gone.msgFault {ctx lcore code hdr} (h : Gone z s) : Gone z (s.msgFault ctx lcore code hdr) :=
  h.post

theorem Gone.unborn {m r} (hr : Gone z r.2) : Gone z (State.unborn m r).2 := by
  unfold State.unborn
  split
  · exact hr.countEnd
  · exact hr

theorem Gone.freshBlock {home kind parm} (h : Gone z s) : Gone z (s.freshBlock home kind parm) := by
  unfold State.freshBlock
  split
  · exact h
  · have hb : Gone z ((s.setBytes home (toLe 4 kind ++ toLe 4 parm ++ toLe 56 0)).flushRa home 64) := h.setBytes.flushRa
    exact hb.withHomes

theorem Gone.buildLaunch {ctx hdr m status} (h : Gone z s) (hc : ctx ≠ z) : Gone z (s.buildLaunch ctx hdr m status) := by
  unfold State.buildLaunch
  extract_lets ls after s1 cobj s2 n l
  have h1 : Gone z s1 := h.foldl (fun _ _ ht => ht.foldl (fun _ _ hu => hu.freshBlock) _) _
  have h2 : Gone z s2 := by
    unfold s2
    clear_value s1 cobj
    split
    · exact h1.freshBlock
    · exact h1
  have hn : Gone z n.2 := h2.newId
  have hl : l.ctx ≠ z := hc
  clear_value n l
  exact (hn.addLaunch hl).syncLaunch

theorem Gone.startLaunch {m status} (h : Gone z s) (hc : m.ctx ≠ z) : Gone z (s.startLaunch m status).2 := by
  unfold State.startLaunch
  dsimp only
  split
  · exact h.buildLaunch hc
  · exact h
  · exact h

theorem Gone.landReply {c m} (h : Gone z s) : Gone z (s.landReply c m).2 := by
  unfold State.landReply
  extract_lets _ _ _ _ _
  split
  · exact h.updSlot
  · split
    · exact .same rfl rfl h
    · exact h.msgFault

theorem Gone.arrive {c m0} (h : Gone z s) : Gone z (s.arrive c m0).2 := by
  unfold State.arrive
  extract_lets m ctx
  refine Gone.unborn ?_
  split
  · exact h
  next hlive =>
    have hc : m.ctx ≠ z := by
      rintro rfl
      obtain ⟨hgone, -⟩ := h
      simp [ctx, hgone] at hlive
    split
    · exact h.msgFault
    · split
      · exact h.startLaunch hc
      · split
        · exact h
        · split
          · split
            · exact h.fileMsg
            · exact h.msgFault
          · split
            · exact h.landReply
            · split
              · exact h.fileMsg
              · exact h.msgFault

theorem Gone.fabReply {op ctx peer tag gen psn size body} (h : Gone z s) : Gone z (s.fabReply op ctx peer tag gen psn size body) := by
  unfold State.fabReply
  extract_lets _
  split
  · exact h
  · exact .same rfl rfl h

theorem Gone.peerAnswer {o p code vals} (h : Gone z s) : Gone z (s.peerAnswer o p code vals) :=
  h.fabReply

theorem Gone.reportObj {o code} (h : Gone z s) : Gone z (s.reportObj o code) := by
  unfold State.reportObj
  split
  · exact h.peerAnswer
  · exact h.faultMsg

theorem Gone.answerTrap {o code} (h : Gone z s) : Gone z (s.answerTrap o code) := by
  unfold State.answerTrap
  split
  · exact h.peerAnswer
  · exact h.updFiring

theorem Gone.syncHome {h1} (h : Gone z s) : Gone z (s.syncHome h1) :=
  on_ite h.setBytes.setBytes.flushRa h

theorem Gone.makeLive {h1} (h : Gone z s) : Gone z (s.makeLive h1) := by
  unfold State.makeLive
  dsimp only
  split
  · exact h
  · refine Gone.syncHome ?_
    have hb := (h.setBytes (a := h1 + 8) (bs := toLe 8 (if s.objKind h1 = 3 then s.objParm h1 else 0) ++ toLe 48 holdFree)).flushRa
      (a := h1 + 8) (n := 56)
    exact hb.withHomes

theorem Gone.setHold {h1 hold} (h : Gone z s) : Gone z (s.setHold h1 hold) :=
  h.setBytes.flushRa

theorem Gone.answer {o vals} (h : Gone z s) : Gone z (s.answer o vals) := by
  unfold State.answer
  split
  · exact h.peerAnswer
  · exact h.updFiring

theorem Gone.lockGiven {key o} (h : Gone z s) : Gone z (s.lockGiven key o) :=
  on_ite h.updFiring.push h.updFiring

theorem Gone.grant {h1 o} (h : Gone z s) : Gone z (s.grant h1 o) :=
  Gone.answer (on_ite h.setHold.lockGiven h.setHold)

theorem Gone.queueAt {h1 o} (h : Gone z s) : Gone z (s.queueAt h1 o) :=
  on_ite (Gone.consumerHalt (.same rfl rfl h)) (.same rfl rfl h)

theorem Gone.applied {o vals} (h : Gone z s) : Gone z (s.applied o vals) :=
  on_ite h.answer h

theorem Gone.serveLock {h1} (h : Gone z s) : Gone z (s.serveLock h1) := by
  unfold State.serveLock
  split
  · exact h
  · exact Gone.grant (.same rfl rfl h)

theorem Gone.setObj {h1 cnt phase hold} (h : Gone z s) : Gone z (s.setObj h1 cnt phase hold) :=
  h.setBytes.setBytes.flushRa

theorem Gone.arriveBar {h1} (h : Gone z s) : Gone z (s.arriveBar h1) := by
  unfold State.arriveBar
  extract_lets p p' s2 ws done
  have hs2 : Gone z s2 := h.setObj
  clear_value s2
  exact on_ite (Gone.foldl hs2.withHomes (fun _ _ ht => ht.answer) _) h.setObj

theorem Gone.notePhase {h1 o} (h : Gone z s) : Gone z (s.notePhase h1 o) :=
  on_ite h.updFiring h

theorem Gone.lateNotices {h1 o} (h : Gone z s) : Gone z (s.lateNotices h1 o) :=
  on_ite h (Gone.syncHome (.same rfl rfl h))

theorem Gone.waitPhase {h1 o p} (h : Gone z s) : Gone z (s.waitPhase h1 o p) :=
  on_ite h.queueAt h.answer

theorem Gone.waitBar {h1 o} (h : Gone z s) : Gone z (s.waitBar h1 o) :=
  h.waitPhase

theorem Gone.postSem {h1 o} (h : Gone z s) : Gone z (s.postSem h1 o) := by
  unfold State.postSem
  extract_lets sum s1 r
  have hs1 : Gone z s1 := on_ite h.reportObj h.applied
  have hs2 : Gone z (s1.setObj h1 r.2.2 0 holdFree) := hs1.setObj
  exact Gone.foldl hs2.withHomes (fun _ _ ht => ht.answer) _

theorem Gone.applyObj {o} (h : Gone z s) : Gone z (s.applyObj o) := by
  unfold State.applyObj
  extract_lets _ s1
  have hs1 : Gone z s1 := h.makeLive
  split
  · split
    · exact h.reportObj
    · exact h.reportObj
    · exact h.reportObj
    · exact h.answerTrap
  · split
    · exact on_ite hs1.grant hs1.queueAt
    · exact on_ite hs1.grant.tick hs1.answer.tick
    · exact Gone.applied (on_ite hs1.setHold.serveLock hs1)
    · exact hs1.lateNotices.notePhase.arriveBar.applied
    · exact hs1.lateNotices.waitBar
    · exact hs1.lateNotices.notePhase.arriveBar.waitPhase
    · exact hs1.postSem
    · exact on_ite hs1.setObj.answer hs1.queueAt
    · exact hs1.answer

theorem Gone.settledRel {r} (h : Gone z s) : Gone z (s.settledRel r) :=
  .same rfl rfl h

theorem Gone.answerPeer {h1 code} (h : Gone z s) : Gone z (s.answerPeer h1 code) :=
  h.fabReply

theorem Gone.takeImage {e h1 img lost} (h : Gone z s) : Gone z (s.takeImage e h1 img lost) := by
  unfold State.takeImage
  refine on_ite ?_ h.arrive.answerPeer
  dsimp only
  split
  · exact h.answerPeer
  · exact on_ite h.answerPeer h.applyObj

theorem Gone.applyRel {e r} (h : Gone z s) : Gone z (s.applyRel e r) :=
  on_ite h.updEngine.settledRel (on_ite h.updEngine.settledRel.answerPeer h.updEngine.settledRel.takeImage)

theorem Gone.applyRels {k} (h : Gone z s) : Gone z (s.applyRels k) := by
  induction k generalizing s with
  | zero => exact h
  | succ k ih =>
    unfold State.applyRels
    split
    · exact h
    · exact ih h.applyRel

theorem Gone.applyHeld (h : Gone z s) : Gone z s.applyHeld :=
  h.applyRels

theorem Gone.mboxAnswer {fn code data} (h : Gone z s) : Gone z (s.mboxAnswer fn code data) :=
  .same rfl rfl h

theorem Gone.withoutCtx (s : State) : Gone z (s.withoutCtx z) := by
  refine Gone.applyHeld ⟨?_, ?_⟩
  · show (mget (mdel (s.fenceCtx z).ctxs z) z Ctx.reset).live = false
    rw [mget_mdel_self]
    rfl
  · intro l hl
    simpa using (List.mem_filter.mp hl).2

end Sys2Proof.Machine
end

/-! ## O30: the commands of the management mailbox, together -/
section
namespace Sys2Proof.Machine
open Sys2Proof.Claims

variable {s : State} {ctx : Nat}

/-- R346: after `Destroy` its context does not exist, and no launch is of it: what was held for it is dropped where it is applied. -/
theorem exec_destroy_gone (ho : s.ouvaBad = false) (hl : (s.ctx ctx).live = true) :
    ∃ t, exec (.destroy 0 ctx) s = .next t ∧ (t.ctx ctx).live = false ∧ ∀ l ∈ t.launches, l.ctx ≠ ctx := by
  obtain ⟨hlive, hnone⟩ := (Gone.withoutCtx (z := ctx) s).mboxAnswer (fn := 0) (code := 0) (data := [])
  exact ⟨_, exec_destroy_live ho hl, hlive, hnone⟩

theorem exec_fabricRegister {n : Nat} (ho : s.ouvaBad = false) :
    exec (.fabricRegisterRead 0 n) s = .next (s.mboxAnswer 0 0 (toLe 4 (s.fabReg n).toNat)) ∧
      ∀ v, exec (.fabricRegisterWrite 0 n v) s = .next ((s.setFabReg n v.toNat).mboxAnswer 0 0) :=
  ⟨congrArg Host.Outcome.next (mailbox_pf ho), fun _ => congrArg Host.Outcome.next (mailbox_pf ho)⟩

theorem exec_defectMapRead (ho : s.ouvaBad = false) :
    exec (.defectMapRead 0) s = .next (s.mboxAnswer 0 0 (memGets s.fuses 0 512)) :=
  congrArg Host.Outcome.next (mailbox_pf ho)

/-- Settles O30, a command at a time; that of `Destroy` by the two facts that every operation on held releases keeps. -/
theorem mailboxCommandsComplete : Obligations.MailboxCommandsComplete := by
  unfold Obligations.MailboxCommandsComplete
  refine ⟨fun s fn ctx core slot n a b w h d x o p item bs ho hfn i hi => exec_command_ouvaBad ho hfn hi, ?_⟩
  intro s fn ctx core slot n ho
  refine ⟨?create, exec_destroy_gone ho, ?loadImage, ?report, ?invalidate, exec_fabricRegister ho, ?peerTable, exec_debugHalt ho,
    ?debugRelease, ?state, ?trace, ?watch, ?arm, exec_snapshotRead ho, ?errors, exec_defectMapRead ho, ?reliability, ?refused, ?gone⟩
  case create => intro dbg pfwd sup mbase msize root obase osize tbase tsize hl hok; exact exec_create ho hl hok
  case loadImage => intro va len cores l t hc htag htest hl hp ht; exact exec_loadImage ho hc htag htest hl hp ht
  case report => intro nonce va l hc hleaf htag hl; exact exec_report ho hc hleaf htag hl
  case invalidate => intro va len hc hva hlen t ht; exact exec_invalidate ho hc hva hlen ht
  case peerTable => intro v pctx hc hn; exact exec_peerTableWrite ho hc hn
  case debugRelease => intro hid act hd ha; exact exec_debugRelease ho hd ha
  case state =>
    intro item bs hd hn p hp
    exact ⟨exec_readState ho hd hn hp, fun hh ht => exec_writeState ho hd hn hp hh ht⟩
  case trace => intro word hd; exact exec_traceControl ho hd
  case watch => intro far addr mask action hd hn hal hlt ha; exact exec_watchpoint ho hd hn hal hlt ha
  case arm => intro t ht; exact exec_snapshotArm ho ht
  case errors => intro r hr; exact exec_errorLogRead ho hr
  case reliability =>
    intro hc hp ha
    have hr := relOk_of hc hp ha
    exact ⟨exec_reliabilityRegisterRead ho hr, fun v hl => exec_reliabilityRegisterWrite ho hr hl⟩
  case refused => intro h0 hfn i hi; exact exec_pfCommand_refused ho h0 hfn hi
  case gone => intro hg hname hfn i hi; exact exec_command_gone ho hg hname hfn hi

end Sys2Proof.Machine
end
